-- ==== Sys2Proof/Word.lean ====
section
/-! DEFINITION. Word types of the device and the plainest bit-field helpers over them. -/

namespace Sys2Proof

/-- One byte of memory. -/
abbrev Byte := BitVec 8
/-- A 16-bit instruction parcel (R7). -/
abbrev Parcel := BitVec 16
/-- A 32-bit lane, accumulator element or mailbox word. -/
abbrev Word32 := BitVec 32
/-- A 64-bit scalar register or queue entry. -/
abbrev Word64 := BitVec 64
/-- A 48-bit byte address (R14). -/
abbrev Addr := BitVec 48

/-- Field of `n` bits of the number `w` from bit `lo` upward. -/
def bits (w lo n : Nat) : Nat := w / 2 ^ lo % 2 ^ n

/-- The same field as a bit vector. -/
def bvAt (w lo n : Nat) : BitVec n := BitVec.ofNat n (w / 2 ^ lo)

/-- One bit of the number `w`. -/
def bitAt (w lo : Nat) : Bool := w / 2 ^ lo % 2 == 1

/-- A Boolean as the number 0 or 1. -/
def b2n (b : Bool) : Nat := if b then 1 else 0

end Sys2Proof
end

