-- ==== Sys2Proof/Config.lean ====
section
/-! DEFINITION. Fixed sizes of the device and the free values: constants without a body, which nothing can evaluate. -/

namespace Sys2Proof.Config

/-- The free value a counter of the state picks, for anything the spec leaves to the device: a delay beyond the least
cycle count (R108, R229, R252, R276, R134), or a key-dependent byte (R232). -/
opaque freeNat : Nat → Nat
/-- Which of two allowed outcomes occurs (R115, R241, R248, R266). -/
opaque choice : Nat → Bool
/-- A byte of LPDDR6 read under another key pair than it was written under (R232): the writer's and the reader's key, the address,
the plaintext of its line. The key pairs are random, so nothing gives the value. -/
opaque foreignByte : Nat → Nat → Nat → List Byte → Byte
/-- A line lies in an eighth of a row: die, row, eighth, line. The spec lays no rows out over addresses (R325). -/
opaque rowEighth : Nat → Nat → Nat → Nat → Bool
/-- The sequencer pins a superblock of a STABLE page for a task that starts: a number of the state's counter, the superblock. The spec does
not say which pages are weight pages (R231). -/
opaque weightPin : Nat → Nat → Bool
/-- The Dolkai root public key in the boot ROM mask: modulus and exponent (R363). -/
opaque rootKey : Nat × Nat
/-- Whether a die's helper data corrects the response of its physically unclonable function, as read at a boot (R365): die, boot
count, helper data. -/
opaque pufCorrects : Bool → Nat → List Byte → Bool
/-- A die's corrected response, the same at every boot (R365). -/
opaque pufResponse : Bool → List Byte
/-- The 64-byte seed that West derives from both dies' responses (R365). -/
opaque deviceSeed : List Byte → List Byte → List Byte
/-- The RSA-4096 key pair that the SHA-512 DRBG makes of a seed (R365): modulus, public and private exponent. -/
opaque deviceKey : List Byte → Nat × Nat × Nat

/-- Bytes of braid SRAM (R14). -/
def sramBytes : Nat := 0x00C00000
/-- First byte of the tile scratchpad (R208). -/
def scratchBase : Nat := 0x00600000
/-- First byte of the mailbox (R177). -/
def mailBase : Nat := 0x00B00000
/-- Window size of a state bank (R208). -/
def windowBytes : Nat := 0x00180000
/-- LPDDR6 bytes (R218). -/
def lpddrBytes : Nat := 0x7735940000
/-- First physical address of host memory (R218). -/
def hostBase : Nat := 0x200000000000
/-- First physical address beyond host memory. -/
def hostEnd : Nat := 0x400000000000
/-- Bytes of a save image (R313). -/
def saveBytes : Nat := 310272
/-- Arithmetic cycles for a number of nanoseconds at 2.3 GHz (R9), rounded up. -/
def nsCycles (ns : Nat) : Nat := (ns * 23 + 9) / 10

end Sys2Proof.Config
end

