-- ==== Sys2Proof/Machine/Formats.lean ====
section
/-! DEFINITION. Number formats and exact arithmetic (02: R29 to R60): decoding, exact sums and products, one rounding. -/

namespace Sys2Proof.Machine

/-- Bits of cr.FLAGS (R26): NV 0, OF 1, UF 2, NX 3, FADE 4. -/
abbrev FlagSet := BitVec 5
def flagNV : FlagSet := 1
def flagOF : FlagSet := 2
def flagUF : FlagSet := 4
def flagNX : FlagSet := 8
def flagFADE : FlagSet := 16

/-- A value while it is computed exactly (R41, R49): a NaN, an infinity, or ±m·2^e.
`made` says that the present operation created the NaN from operands that are not NaN (R33). -/
inductive Fp where
  | nan (made : Bool)
  | inf (neg : Bool)
  | fin (neg : Bool) (m : Nat) (e : Int)
  deriving DecidableEq, Repr

/-- Parameters of a binary floating-point format (R31): exponent bits, fraction bits, bias, E4M3's special encodings (R32). -/
structure BinFmt where
  ebits : Nat
  fbits : Nat
  bias : Nat
  e4m3 : Bool
  deriving DecidableEq, Repr

def fp32 : BinFmt := ⟨8, 23, 127, false⟩
def bf16 : BinFmt := ⟨8, 7, 127, false⟩
def fp16 : BinFmt := ⟨5, 10, 15, false⟩
def e4m3 : BinFmt := ⟨4, 3, 7, true⟩
def e5m2 : BinFmt := ⟨5, 2, 15, false⟩

/-- Width of an encoding in bits. -/
def BinFmt.width (f : BinFmt) : Nat := 1 + f.ebits + f.fbits

/-- The largest finite encoding without its sign (R31). -/
def BinFmt.maxFinite (f : BinFmt) : Nat :=
  if f.e4m3 then 0x7e else (2 ^ f.ebits - 1) * 2 ^ f.fbits - 1

/-- The encoding of infinity without its sign; E4M3 has none (R32). -/
def BinFmt.infinity (f : BinFmt) : Nat := (2 ^ f.ebits - 1) * 2 ^ f.fbits

/-- The canonical NaN (R32). -/
def BinFmt.canonicalNaN (f : BinFmt) : Nat :=
  if f.e4m3 then 0x7f else f.infinity + 2 ^ (f.fbits - 1)

/-- Put a sign on an encoding. -/
def BinFmt.signed (f : BinFmt) (neg : Bool) (mag : Nat) : Nat :=
  if neg then mag + 2 ^ (f.ebits + f.fbits) else mag

/-- The value of an encoding (R31, R32). -/
def BinFmt.decode (f : BinFmt) (w : Nat) : Fp :=
  let neg := bitAt w (f.ebits + f.fbits)
  let e := bits w f.fbits f.ebits
  let m := w % 2 ^ f.fbits
  if f.e4m3 then
    if e = 15 ∧ m = 7 then .nan false
    else if e = 0 then .fin neg m (1 - f.bias - f.fbits)
    else .fin neg (2 ^ f.fbits + m) (e - f.bias - f.fbits)
  else if e = 2 ^ f.ebits - 1 then
    if m = 0 then .inf neg else .nan false
  else if e = 0 then .fin neg m (1 - f.bias - f.fbits)
  else .fin neg (2 ^ f.fbits + m) (e - f.bias - f.fbits)

/-- The encoding is subnormal: exponent field 0, fraction not 0 (R31). -/
def BinFmt.subnormal (f : BinFmt) (w : Nat) : Bool :=
  bits w f.fbits f.ebits == 0 && w % 2 ^ f.fbits != 0

/-- Read an operand; under .fz a subnormal is a zero of its sign (R44). -/
def BinFmt.read (f : BinFmt) (fz : Bool) (w : Nat) : Fp :=
  if fz && f.subnormal w then .fin (bitAt w (f.ebits + f.fbits)) 0 0 else f.decode w

def Fp.isNaN : Fp → Bool
  | .nan _ => true
  | _ => false

def Fp.isInf : Fp → Bool
  | .inf _ => true
  | _ => false

def Fp.isFin : Fp → Bool
  | .fin _ _ _ => true
  | _ => false

/-- The value is a zero of either sign. -/
def Fp.isZero : Fp → Bool
  | .fin _ m _ => m == 0
  | _ => false

/-- The sign bit; false for a NaN. -/
def Fp.sign : Fp → Bool
  | .nan _ => false
  | .inf n => n
  | .fin n _ _ => n

def Fp.neg : Fp → Fp
  | .nan b => .nan b
  | .inf n => .inf (!n)
  | .fin n m e => .fin (!n) m e

def Fp.abs : Fp → Fp
  | .nan b => .nan b
  | .inf _ => .inf false
  | .fin _ m e => .fin false m e

/-- Exact product; 0 times infinity creates a NaN (R33, R45, R49). -/
def Fp.mul : Fp → Fp → Fp
  | .nan a, .nan b => .nan (a && b)
  | .nan a, _ => .nan a
  | _, .nan b => .nan b
  | .inf s, .inf t => .inf (s != t)
  | .inf s, .fin t m _ => if m = 0 then .nan true else .inf (s != t)
  | .fin s m _, .inf t => if m = 0 then .nan true else .inf (s != t)
  | .fin s m e, .fin t n f => .fin (s != t) (m * n) (e + f)

/-- The integer m with its sign. -/
def signedInt (neg : Bool) (m : Nat) : Int := if neg then -(m : Int) else m

/-- The exact value of an integer. -/
def Fp.ofInt (i : Int) : Fp := .fin (decide (i < 0)) i.natAbs 0

/-- Least exponent among the finite nonzero terms. -/
def Fp.minExp : List Fp → Option Int
  | [] => none
  | .fin _ m e :: ts =>
    match Fp.minExp ts with
    | none => if m = 0 then none else some e
    | some x => if m = 0 then some x else some (min e x)
  | _ :: ts => Fp.minExp ts

/-- Sum of the finite terms in units of 2^base, base no greater than any nonzero term's exponent. -/
def Fp.total (base : Int) : List Fp → Int
  | [] => 0
  | .fin n m e :: ts => signedInt n (m * 2 ^ (e - base).toNat) + Fp.total base ts
  | _ :: ts => Fp.total base ts

/-- The exact sum of terms with the special values of R51 and the zero signs of R45 (`rdn` is rounding down). -/
def Fp.sum (rdn : Bool) (ts : List Fp) : Fp :=
  if ts.any (fun t => decide (t = .nan false)) then .nan false
  else if ts.any Fp.isNaN then .nan true
  else
    let pos := ts.any (fun t => decide (t = .inf false))
    let negv := ts.any (fun t => decide (t = .inf true))
    if pos && negv then .nan true
    else if pos then .inf false
    else if negv then .inf true
    else
      match Fp.minExp ts with
      | none => .fin (rdn || ts.all Fp.sign) 0 0
      | some b =>
        let t := Fp.total b ts
        if t = 0 then .fin rdn 0 0 else .fin (decide (t < 0)) t.natAbs b

/-- Order of two numbers; false when either is a NaN. -/
def Fp.lt (a b : Fp) : Bool :=
  match a, b with
  | .nan _, _ => false
  | _, .nan _ => false
  | .inf s, .inf t => s && !t
  | .inf s, _ => s
  | _, .inf t => !t
  | x, y =>
    match Fp.sum false [y, x.neg] with
    | .fin n m _ => !n && m != 0
    | _ => false

/-- Equality of two numbers, +0 and -0 equal; false when either is a NaN. -/
def Fp.eqv (a b : Fp) : Bool :=
  !a.isNaN && !b.isNaN && !a.lt b && !b.lt a

/-- Rounding modes (R40). -/
inductive Rnd where
  | rne | rtz | rdn | rup | rsto
  deriving DecidableEq, Repr

/-- The rounding code of a field; codes 5 to 7 are illegal (R40). -/
def Rnd.ofCode : Nat → Option Rnd
  | 0 => some .rne
  | 1 => some .rtz
  | 2 => some .rdn
  | 3 => some .rup
  | 4 => some .rsto
  | _ => none

/-- The random value u of stochastic rounding from a seed and an element index (R42). -/
def stochastic (seed idx : Nat) : Nat :=
  let x := (seed % 65536 * 65536 + idx % 65536) % 2 ^ 32
  let x := x ^^^ (x >>> 16)
  let x := x * 0x7FEB352D % 2 ^ 32
  let x := x ^^^ (x >>> 15)
  let x := x * 0x846CA68B % 2 ^ 32
  let x := x ^^^ (x >>> 16)
  x >>> 16

/-- How a result is rounded and narrowed: mode, saturation code (R43), seed and element index (R42), flush (R44). -/
structure Rounding where
  mode : Rnd
  sat : Bool
  seed : Nat
  idx : Nat
  fz : Bool
  deriving DecidableEq, Repr

/-- Round to nearest even, IEEE overflow, no flush. -/
def Rounding.nearest : Rounding := ⟨.rne, false, 0, 0, false⟩
/-- Round to nearest even, IEEE overflow, with flush as given. -/
def Rounding.nearestFz (fz : Bool) : Rounding := ⟨.rne, false, 0, 0, fz⟩

/-- Whether the neighbour farther from zero is chosen (R40, R42): `sig` the nearer neighbour in units of the spacing,
`rem` of 2^sh what lies above it, not 0. -/
def roundAway (r : Rounding) (neg : Bool) (sig rem sh : Nat) : Bool :=
  match r.mode with
  | .rne => decide (2 ^ sh < 2 * rem) || (decide (2 * rem = 2 ^ sh) && sig % 2 == 1)
  | .rtz => false
  | .rdn => neg
  | .rup => !neg
  | .rsto => decide (stochastic r.seed r.idx < rem * 65536 / 2 ^ sh)

/-- The overflow outcome (R43). -/
def BinFmt.overflow (f : BinFmt) (r : Rounding) (neg : Bool) : Nat × FlagSet :=
  let ox := flagOF ||| flagNX
  let toInf := match r.mode with
    | .rne => true
    | .rsto => true
    | .rtz => false
    | .rdn => neg
    | .rup => !neg
  if r.sat || !toInf then (f.signed neg f.maxFinite, ox)
  else if f.e4m3 then (f.canonicalNaN, ox ||| flagNV)
  else (f.signed neg f.infinity, ox)

/-- Round an exact finite magnitude m·2^e, m not 0, by R41 and R43, without flush: magnitude bits before overflow, inexact. -/
def BinFmt.roundMag (f : BinFmt) (r : Rounding) (neg : Bool) (m : Nat) (e : Int) : Nat × Bool :=
  let qmin : Int := 1 - (f.bias : Int) - f.fbits
  let q := max ((Nat.log2 m : Int) + e - f.fbits) qmin
  let scale := (q - qmin).toNat * 2 ^ f.fbits
  if q ≤ e then (scale + m * 2 ^ (e - q).toNat, false)
  else
    let sh := (q - e).toNat
    let sig := m / 2 ^ sh
    let rem := m % 2 ^ sh
    if rem = 0 then (scale + sig, false)
    else if roundAway r neg sig rem sh then (scale + sig + 1, true)
    else (scale + sig, true)

/-- Round and narrow a value into a format: encoding and flags (R41 to R46). -/
def BinFmt.round (f : BinFmt) (r : Rounding) (v : Fp) : Nat × FlagSet :=
  match v with
  | .nan made => (f.canonicalNaN, if made then flagNV else 0)
  | .inf neg =>
    if r.sat then (f.signed neg f.maxFinite, 0)
    else if f.e4m3 then (f.canonicalNaN, flagNV)
    else (f.signed neg f.infinity, 0)
  | .fin neg m e =>
    if m = 0 then (f.signed neg 0, 0)
    else
      let (mag, inexact) := f.roundMag r neg m e
      if f.maxFinite < mag then f.overflow r neg
      else if mag < 2 ^ f.fbits then
        if r.fz then (f.signed neg 0, flagUF ||| flagNX)
        else (f.signed neg mag, if inexact then flagUF ||| flagNX else 0)
      else (f.signed neg mag, if inexact then flagNX else 0)

/-- Whether the rounded value is a flush of a tiny one (R44). -/
def BinFmt.flushed (f : BinFmt) (r : Rounding) (v : Fp) : Bool :=
  match v with
  | .fin neg m e => r.fz && m != 0 && decide ((f.roundMag r neg m e).1 < 2 ^ f.fbits)
  | _ => false

/-- FP32 result of an exact value: word and flags. -/
def roundW (r : Rounding) (v : Fp) : Word32 × FlagSet :=
  let (w, fl) := fp32.round r v
  (BitVec.ofNat 32 w, fl)

/-- FP32 nearest-even with the flush given. -/
def fl32 (fz : Bool) (v : Fp) : Word32 × FlagSet := roundW (.nearestFz fz) v

/-- The value of an FP32 word. -/
def valW (w : Word32) : Fp := fp32.decode w.toNat
/-- The value of an FP32 operand read under .fz (R44). -/
def readW (fz : Bool) (w : Word32) : Fp := fp32.read fz w.toNat

/-- Round a value to an integer by R40, R42 with spacing 1: the integer and whether it differs. -/
def Fp.toInt (r : Rounding) (neg : Bool) (m : Nat) (e : Int) : Int × Bool :=
  if 0 ≤ e then (signedInt neg (m * 2 ^ e.toNat), false)
  else
    let sh := (-e).toNat
    let sig := m / 2 ^ sh
    let rem := m % 2 ^ sh
    if rem = 0 then (signedInt neg sig, false)
    else if roundAway r neg sig rem sh then (signedInt neg (sig + 1), true)
    else (signedInt neg sig, true)

/-- Least and greatest value of an integer of n bits, unsigned under .z (R38). -/
def intRange (n : Nat) (z : Bool) : Int × Int :=
  if z then (0, 2 ^ n - 1) else (-(2 ^ (n - 1) : Nat), 2 ^ (n - 1) - 1)

/-- Conversion of a value to an integer of n bits (R47): the bits and the flags. -/
def fpToInt (n : Nat) (z : Bool) (r : Rounding) (v : Fp) : Nat × FlagSet :=
  let (lo, hi) := intRange n z
  let enc (i : Int) : Nat := (i % 2 ^ n).toNat
  match v with
  | .nan _ => (0, flagNV)
  | .inf neg => (enc (if neg then lo else hi), flagNV)
  | .fin neg m e =>
    let (i, inexact) := Fp.toInt r neg m e
    if hi < i then (enc hi, flagNV)
    else if i < lo then (enc lo, flagNV)
    else (enc i, if inexact then flagNX else 0)

/-- The element format codes (R29). -/
inductive Format where
  | fp32 | bf16 | fp16 | e4m3 | e5m2 | cb4 | e8m0 | int8 | int16 | int32 | int64 | cbf16 | cfp16 | cfp32
  deriving DecidableEq, Repr

/-- The format of a code; 14 and 15 are reserved (R29). -/
def Format.ofCode : Nat → Option Format
  | 0 => some .fp32
  | 1 => some .bf16
  | 2 => some .fp16
  | 3 => some .e4m3
  | 4 => some .e5m2
  | 5 => some .cb4
  | 6 => some .e8m0
  | 7 => some .int8
  | 8 => some .int16
  | 9 => some .int32
  | 10 => some .int64
  | 11 => some .cbf16
  | 12 => some .cfp16
  | 13 => some .cfp32
  | _ => none

/-- Bits per element (R29). -/
def Format.width : Format → Nat
  | .fp32 | .int32 | .cbf16 | .cfp16 => 32
  | .bf16 | .fp16 | .int16 => 16
  | .e4m3 | .e5m2 | .e8m0 | .int8 => 8
  | .cb4 => 4
  | .int64 | .cfp32 => 64

/-- Bytes per element of a format of whole bytes. -/
def Format.bytes (f : Format) : Nat := (f.width + 7) / 8

/-- The binary floating-point format of a code, for the five that are one (R31). -/
def Format.binary : Format → Option BinFmt
  | .fp32 => some Machine.fp32
  | .bf16 => some Machine.bf16
  | .fp16 => some Machine.fp16
  | .e4m3 => some Machine.e4m3
  | .e5m2 => some Machine.e5m2
  | _ => none

/-- The part format of a complex format (R39). -/
def Format.part : Format → Option BinFmt
  | .cbf16 => some Machine.bf16
  | .cfp16 => some Machine.fp16
  | .cfp32 => some Machine.fp32
  | _ => none

def Format.isComplex : Format → Bool
  | .cbf16 | .cfp16 | .cfp32 => true
  | _ => false

/-- Width of an integer format. -/
def Format.intWidth : Format → Option Nat
  | .int8 => some 8
  | .int16 => some 16
  | .int32 => some 32
  | .int64 => some 64
  | _ => none

/-- The value of an E8M0 scale (R35). -/
def scaleValue (c : Nat) : Fp :=
  if c % 256 = 255 then .nan false else .fin false 1 ((c % 256 : Nat) - 127)

/-- A decoded CB4 element: entry times scale, exact (R37). -/
def cb4Value (entry : BitVec 16) (scale : Fp) : Fp := (Machine.bf16.decode entry.toNat).mul scale

/-- The integer value of n bits, two's complement or unsigned (R38). -/
def intValue (n : Nat) (z : Bool) (w : Nat) : Int :=
  let u := w % 2 ^ n
  if !z && decide (2 ^ (n - 1) ≤ u) then (u : Int) - 2 ^ n else u

/-- An FP32 accumulator step: one rounding of the exact sum of the accumulator and the terms (R50, R51). -/
def accStep (fz : Bool) (acc : Word32) (terms : List Fp) : Word32 × FlagSet :=
  fl32 fz (Fp.sum false (readW fz acc :: terms))

/-- A compensated pair (R53). -/
structure Pair where
  hi : Word32
  lo : Word32
  deriving DecidableEq, Repr

/-- The rounding of hi: it sets NX only when it flushes (R54). -/
def roundHi (fz : Bool) (v : Fp) : Word32 × FlagSet :=
  let (s, fl) := fl32 fz v
  (s, if fp32.flushed (.nearestFz fz) v then fl else fl &&& ~~~flagNX)

/-- The word is a finite FP32 number. -/
def finiteW (w : Word32) : Bool := (valW w).isFin

/-- One compensated step with exact term sum E (R53, R54). -/
def compStep (fz : Bool) (p : Pair) (terms : List Fp) : Pair × FlagSet :=
  let v := Fp.sum false (readW fz p.hi :: terms)
  let (s, f1) := roundHi fz v
  if finiteW s then
    let err := Fp.sum false [v, (valW s).neg]
    let (lo, f2) := fl32 fz (Fp.sum false [readW fz p.lo, err])
    (⟨s, lo⟩, f1 ||| f2)
  else (⟨s, 0⟩, f1)

/-- Round an exact value into a pair (R56, R59). -/
def roundPair (fz : Bool) (v : Fp) : Pair × FlagSet :=
  let (s, f1) := roundHi fz v
  if finiteW s then
    let (lo, f2) := fl32 fz (Fp.sum false [v, (valW s).neg])
    (⟨s, lo⟩, f1 ||| f2)
  else (⟨s, 0⟩, f1)

/-- The exact value hi + lo of a pair (R53, R146), with the special values of R51: a compensated pair whose hi is not finite has
lo +0 (R54) and so reads as hi. -/
def pairSum (rdn : Bool) (p : Pair) : Fp := Fp.sum rdn [valW p.hi, valW p.lo]

/-- The pair as a single FP32, nearest even (R53). -/
def pairWord (p : Pair) : Word32 × FlagSet := roundW .nearest (pairSum false p)

end Sys2Proof.Machine
end

