-- ==== Sys2Proof/Machine/Sparse.lean ====
section
/-! DEFINITION. Sparse tables: lists of key and value pairs, keys rising, with what an unlisted key reads as. -/

namespace Sys2Proof.Machine

/-- A table by number: keys strictly rising. -/
abbrev Tab (α : Type) := List (Nat × α)

/-- The value at key `i`, `d` where it is not listed. -/
def tget {α : Type} (d : α) : Tab α → Nat → α
  | [], _ => d
  | (k, v) :: r, i => if i = k then v else tget d r i

/-- Whether a key is listed. -/
def thas {α : Type} : Tab α → Nat → Bool
  | [], _ => false
  | (k, _) :: r, i => if i = k then true else thas r i

/-- List `x` at key `i`. -/
def tput {α : Type} : Tab α → Nat → α → Tab α
  | [], i, x => [(i, x)]
  | (k, v) :: r, i, x =>
    if i < k then (i, x) :: (k, v) :: r
    else if i = k then (i, x) :: r
    else (k, v) :: tput r i x

/-- Drop every entry of key `i`. -/
def tdel {α : Type} : Tab α → Nat → Tab α
  | [], _ => []
  | (k, v) :: r, i => if k = i then tdel r i else (k, v) :: tdel r i

/-- Write `x` at `i` in the canonical form: an entry equal to the default is not listed. -/
def tset {α : Type} [DecidableEq α] (d : α) (m : Tab α) (i : Nat) (x : α) : Tab α :=
  if x = d then tdel m i else tput m i x

/-- Change the entry at `i`. -/
def tmod {α : Type} (d : α) (m : Tab α) (i : Nat) (f : α → α) : Tab α :=
  tput m i (f (tget d m i))

/-- The least key of the first entry is above `lo`, keys rise, and no entry is the default. -/
def twfFrom {α : Type} [DecidableEq α] (d : α) : Option Nat → Tab α → Bool
  | _, [] => true
  | lo, (k, v) :: r =>
    (match lo with
     | none => true
     | some l => decide (l < k)) && decide (v ≠ d) && twfFrom d (some k) r

/-- The canonical form of a table whose default is `d`. -/
def twf {α : Type} [DecidableEq α] (d : α) (m : Tab α) : Bool := twfFrom d none m

/-- The first `n` numbers from `a`. -/
def upto (a : Nat) : Nat → List Nat
  | 0 => []
  | n + 1 => a :: upto (a + 1) n

/-- The elements of a list, each once, where it stands first. -/
def distinct : List Nat → List Nat
  | [] => []
  | a :: r => a :: (distinct r).filter (· ≠ a)

/-- Element `i` of a list of words; 0 beyond its end. -/
def wordAt (l : List Word32) (i : Nat) : Word32 := l.getD i 0

/-- Replace element `i` of a list. -/
def setNth {α : Type} : List α → Nat → α → List α
  | [], _, _ => []
  | _ :: r, 0, x => x :: r
  | a :: r, n + 1, x => a :: setNth r n x

/-- Little-endian number of bytes (R7). -/
def leNat : List Byte → Nat
  | [] => 0
  | b :: r => b.toNat + 256 * leNat r

/-- The `n` low bytes of a number, least significant first (R7). -/
def natLe : Nat → Nat → List Byte
  | 0, _ => []
  | n + 1, w => BitVec.ofNat 8 w :: natLe n (w / 256)

/-- Bytes numbered from an address. -/
def atAddr (a : Nat) : List Byte → List (Nat × Byte)
  | [] => []
  | b :: r => (a, b) :: atAddr (a + 1) r

/-- Insert before the first element that does not come before it. -/
def insertBy {α : Type} (le : α → α → Bool) (x : α) : List α → List α
  | [] => [x]
  | y :: r => if le x y then x :: y :: r else y :: insertBy le x r
/-- Sort, keeping the order of equal elements. -/
def sortBy {α : Type} (le : α → α → Bool) : List α → List α
  | [] => []
  | x :: r => insertBy le x (sortBy le r)

/-- Field of a record of bytes: `n` bytes from offset `o`, as a number. -/
def fieldLe (r : List Byte) (o n : Nat) : Nat := leNat ((r.drop o).take n)

/-- Serial-number comparison over a window of 2^27: `n` is at or before `done` (R129, R255). -/
def serialLe (n done : Nat) : Bool := decide ((done + 2 ^ 28 - n % 2 ^ 28) % 2 ^ 28 < 2 ^ 27)
/-- `n` is earlier than the window of 2^27 that ends at the newest issued number, and so names what has finished long ago (R129, R255):
of 28-bit numbers the one that is half the numbers away, the others outside the window being after the newest (log entry 52). -/
def serialOld (n newest : Nat) : Bool := decide ((newest + 2 ^ 28 - n % 2 ^ 28) % 2 ^ 28 = 2 ^ 27)

end Sys2Proof.Machine
end

