-- ==== Sys2Proof/Syntax.lean ====
section
/-! DEFINITION. The instruction set: control-core words, 16-bit forms, strand ops and the device's events. -/

namespace Sys2Proof

/-- The control contexts of a bank (R119, R309). -/
inductive CtxId where
  | L | X | S | T
  deriving DecidableEq, Repr

/-- The five strands, west to east (R6). -/
inductive StrandId where
  | ld | mx | sc | vx | st
  deriving DecidableEq, Repr

/-- Kinds of a heap operation (R201, R202). -/
inductive GainKind where
  | add | set | max | insert
  deriving DecidableEq, Repr

/-- A task record (R202). -/
structure TaskRec where
  tid : Nat
  gain : Word32
  entry : Nat
  heap : Nat
  kind : Nat
  preds : List (Nat × Nat)
  args : List Word64
  deriving DecidableEq, Repr

/-- A heap operation on its way to a heap unit: what it does and who issued it (R201, R202). -/
structure HeapOp where
  kind : GainKind
  die : Nat
  heap : Nat
  target : Nat
  x : Word32
  issuer : Nat
  place : Nat
  braid : Nat
  bank : Nat
  launch : Nat
  /-- The opening of the round whose task issued it, for a task of the heap's own rounds (R331). -/
  round : Option Nat
  pc : Addr
  record : Option TaskRec
  deriving DecidableEq, Repr

/-- A reduction entry: one RED or one element of an atomic-add copy (R245, R262). -/
structure RedEntry where
  pa : Nat
  op : Nat
  wide : Bool
  z : Bool
  comp : Bool
  x : Word64
  level : Nat
  /-- An element across a page boundary: its bytes on the first page, and the physical address of those that follow. -/
  cut : Nat := 8
  far : Nat := 0
  deriving DecidableEq, Repr

/-- A record spawned by a task, on its way to a device task queue (R291). -/
structure Spawn where
  record : TaskRec
  target : Nat
  launch : Nat
  spawner : Nat
  spawnerBank : Nat
  /-- The spawner's task sequence number (R284). -/
  sq : Nat
  /-- The heap and the opening of the round the spawner is a task of (R317). -/
  round : Option (Nat × Nat)
  /-- Cycle in which the TASK retired (R292). -/
  retired : Nat
  deriving DecidableEq, Repr

/-- What a packet carries (R183, R342). -/
inductive Body where
  | empty
  /-- MAIL: the beat's words; the bank and the sq number of the sending task, which the DONE brings back (R328). -/
  | mail (words : List Word32) (bank sq : Nat)
  /-- DONE of a MAIL packet: the bank and the sq number of the task that sent it. -/
  | ack (bank sq : Nat)
  | gain (o : HeapOp)
  /-- RDREQ: a line for a context of a bank, in the name of an interface; whether without allocation (R230). -/
  | lineReq (pa vi bank : Nat) (c : CtxId) (na : Bool)
  /-- RDRSP: the line, or a poison mark. -/
  | line (pa bank : Nat) (c : CtxId) (data : List Byte) (poison : Bool)
  /-- PREP: writes of a commit event for one slice. -/
  | prep (ev : Nat) (cells : List (Nat × Byte))
  /-- AMOREQ. -/
  | amo (pa op : Nat) (wide z : Bool) (x e : Word64) (vi bank : Nat) (c : CtxId)
  /-- AMORSP: the old value. -/
  | amoOld (old : Word64) (bank : Nat) (c : CtxId)
  /-- REDENT: one entry with its task id and program-order place. -/
  | red (ev tid place : Nat) (e : RedEntry)
  /-- ENGINE: a request for some of a piece's or command's lines at a slice, tagged, in the name of an interface, or its answer: each
line's number, and in the answer its bytes and whether they are in error; `load`: the lines are a tile load's (R249). -/
  | engine (braid bank ch ask vi : Nat) (load answer : Bool) (lines : List (Nat × List Byte × Bool))
  /-- CTRL: a tile load is over and its locks go (R249). -/
  | unlock (braid bank ch ask : Nat)
  /-- CTRL: a home has prepared a packet of an event. -/
  | prepared (ev : Nat)
  /-- CTRL: a task record. -/
  | spawn (r : Spawn)
  deriving DecidableEq, Repr

/-- A ring packet (R182): type, route, flow number, argument, flit count and contents. -/
structure Packet where
  typ : Nat
  src : Nat
  dest : Nat
  seq : Nat
  arg : Nat
  flits : Nat
  sdev : Nat
  ddev : Nat
  body : Body
  deriving DecidableEq, Repr

/-- A return word or an audit (R190, R191): AUD, SH, E0 and E1. -/
structure RetWord where
  aud : Bool
  sh : Nat
  e0 : Nat
  e1 : Nat
  deriving DecidableEq, Repr

/-- A frame of an extension port (R355): its number, its flit slot (a packet, the flit's index and its channel) if any,
whether its mask is legal and its CRC holds, its words, at most two, and whether the flit takes an escape slot. -/
structure PortFrame where
  seq : Nat
  flit : Option (Packet × Nat × Nat)
  maskOk : Bool
  crcOk : Bool
  words : List RetWord
  esc : Bool
  deriving DecidableEq, Repr

/-- Operands of the admin command CREATE (R348). -/
structure CreateArgs where
  mode : Nat
  firstBand : Nat
  bands : Nat
  share : Nat
  slots : Nat
  chain : Bool
  nsess : Nat
  deriving DecidableEq, Repr

/-- The configuration image (R364). -/
structure ConfigImage where
  rings : Nat
  period : Nat
  dmode : Nat
  ifter : Nat
  chainN : Nat
  dev : Nat
  saveBase : Nat
  cap0 : Nat
  talarm : Nat
  deriving DecidableEq, Repr

/-- One part of the boot bundle (R363): type, version and contents. -/
structure BootPart where
  typ : Nat
  version : Nat
  data : List Byte
  deriving DecidableEq, Repr

/-- What a boot step finds outside (R362, R363): lanes trained on the crossings and the host link, the flash bundle with its signature. -/
structure BootImage where
  lanesA : Nat
  lanesB : Nat
  lanesH : Nat
  parts : List BootPart
  signature : List Byte
  deriving DecidableEq, Repr

/-- The common operand frame of the VX ops (R74). -/
structure VxFrame where
  d : BitVec 5
  a : BitVec 5
  b : BitVec 5
  m : BitVec 2
  me : Bool
  pr : Bool
  rnd : BitVec 3
  fn : BitVec 4
  deriving DecidableEq, Repr

/-- The instructions and events of the device: one constructor for each row of the opcode table. -/
inductive Instr where
  /-- ADD: R88 to R90. -/
  | add (g : BitVec 4) (d a b : BitVec 5)
  /-- SUB: R88 to R90. -/
  | sub (g : BitVec 4) (d a b : BitVec 5)
  /-- MUL: R88 to R90. -/
  | mul (g : BitVec 4) (d a b : BitVec 5)
  /-- MULH: R88 to R90. -/
  | mulh (g : BitVec 4) (d a b : BitVec 5)
  /-- MULHZ: R88 to R90. -/
  | mulhz (g : BitVec 4) (d a b : BitVec 5)
  /-- DIV: R88 to R90. -/
  | div (g : BitVec 4) (d a b : BitVec 5)
  /-- DIVZ: R88 to R90. -/
  | divz (g : BitVec 4) (d a b : BitVec 5)
  /-- REM: R88 to R90. -/
  | rem (g : BitVec 4) (d a b : BitVec 5)
  /-- REMZ: R88 to R90. -/
  | remz (g : BitVec 4) (d a b : BitVec 5)
  /-- AND: R88 to R90. -/
  | and (g : BitVec 4) (d a b : BitVec 5)
  /-- OR: R88 to R90. -/
  | or (g : BitVec 4) (d a b : BitVec 5)
  /-- XOR: R88 to R90. -/
  | xor (g : BitVec 4) (d a b : BitVec 5)
  /-- ANDN: R88 to R90. -/
  | andn (g : BitVec 4) (d a b : BitVec 5)
  /-- SHL: R88 to R90. -/
  | shl (g : BitVec 4) (d a b : BitVec 5)
  /-- SHR: R88 to R90. -/
  | shr (g : BitVec 4) (d a b : BitVec 5)
  /-- SRA: R88 to R90. -/
  | sra (g : BitVec 4) (d a b : BitVec 5)
  /-- MIN: R88 to R90. -/
  | min (g : BitVec 4) (d a b : BitVec 5)
  /-- MAX: R88 to R90. -/
  | max (g : BitVec 4) (d a b : BitVec 5)
  /-- MINZ: R88 to R90. -/
  | minz (g : BitVec 4) (d a b : BitVec 5)
  /-- MAXZ: R88 to R90. -/
  | maxz (g : BitVec 4) (d a b : BitVec 5)
  /-- CLZ: R88; rs2 = 0. -/
  | clz (g : BitVec 4) (d a : BitVec 5)
  /-- POPC: R88; rs2 = 0. -/
  | popc (g : BitVec 4) (d a : BitVec 5)
  /-- BFX: R88, R91. -/
  | bfx (g : BitVec 4) (d a b : BitVec 5)
  /-- BFI: R88, R91. -/
  | bfi (g : BitVec 4) (d a b : BitVec 5)
  /-- SEL: R88, R91. -/
  | sel (g : BitVec 4) (d a b : BitVec 5)
  /-- ADDI: R92. -/
  | addi (g : BitVec 4) (d : BitVec 5) (imm : BitVec 11)
  /-- ANDI: R92. -/
  | andi (g : BitVec 4) (d : BitVec 5) (imm : BitVec 11)
  /-- ORI: R92. -/
  | ori (g : BitVec 4) (d : BitVec 5) (imm : BitVec 11)
  /-- XORI: R92. -/
  | xori (g : BitVec 4) (d : BitVec 5) (imm : BitVec 11)
  /-- SHLI: R92; imm[10:6] = 0. -/
  | shli (g : BitVec 4) (d : BitVec 5) (sh : BitVec 6)
  /-- SHRI: R92; imm[10:6] = 0. -/
  | shri (g : BitVec 4) (d : BitVec 5) (sh : BitVec 6)
  /-- SRAI: R92; imm[10:6] = 0. -/
  | srai (g : BitVec 4) (d : BitVec 5) (sh : BitVec 6)
  /-- MOVI: R93. -/
  | movi (g : BitVec 4) (d : BitVec 5) (imm : BitVec 11)
  /-- MOVHI: R93. -/
  | movhi (g : BitVec 4) (d : BitVec 5) (imm : BitVec 11)
  /-- CMP_EQ: R94. -/
  | cmpEq (g pd : BitVec 4) (a b : BitVec 5)
  /-- CMP_NE: R94. -/
  | cmpNe (g pd : BitVec 4) (a b : BitVec 5)
  /-- CMP_LT: R94. -/
  | cmpLt (g pd : BitVec 4) (a b : BitVec 5)
  /-- CMP_LE: R94. -/
  | cmpLe (g pd : BitVec 4) (a b : BitVec 5)
  /-- CMP_LO: R94. -/
  | cmpLo (g pd : BitVec 4) (a b : BitVec 5)
  /-- CMP_LS: R94. -/
  | cmpLs (g pd : BitVec 4) (a b : BitVec 5)
  /-- CMPI_EQ: R94. -/
  | cmpiEq (g pd : BitVec 4) (a : BitVec 3) (imm : BitVec 11)
  /-- CMPI_NE: R94. -/
  | cmpiNe (g pd : BitVec 4) (a : BitVec 3) (imm : BitVec 11)
  /-- CMPI_LT: R94. -/
  | cmpiLt (g pd : BitVec 4) (a : BitVec 3) (imm : BitVec 11)
  /-- CMPI_LE: R94. -/
  | cmpiLe (g pd : BitVec 4) (a : BitVec 3) (imm : BitVec 11)
  /-- CMPI_LO: R94. -/
  | cmpiLo (g pd : BitVec 4) (a : BitVec 3) (imm : BitVec 11)
  /-- CMPI_LS: R94. -/
  | cmpiLs (g pd : BitVec 4) (a : BitVec 3) (imm : BitVec 11)
  /-- PAND: R95. -/
  | pand (g pd ps1 ps2 : BitVec 4)
  /-- POR: R95. -/
  | por (g pd ps1 ps2 : BitVec 4)
  /-- PXOR: R95. -/
  | pxor (g pd ps1 ps2 : BitVec 4)
  /-- PNOT: R95; ps2 = 0. -/
  | pnot (g pd ps1 : BitVec 4)
  /-- PMOV: R95; ps2 = 0. -/
  | pmov (g pd ps1 : BitVec 4)
  /-- FADD: R97, R98. -/
  | fadd (g : BitVec 4) (d a b : BitVec 5)
  /-- FSUB: R97, R98. -/
  | fsub (g : BitVec 4) (d a b : BitVec 5)
  /-- FMUL: R97, R98. -/
  | fmul (g : BitVec 4) (d a b : BitVec 5)
  /-- FFMA: R97, R98. -/
  | ffma (g : BitVec 4) (d a b : BitVec 5)
  /-- FMIN: R97, R98. -/
  | fmin (g : BitVec 4) (d a b : BitVec 5)
  /-- FMAX: R97, R98. -/
  | fmax (g : BitVec 4) (d a b : BitVec 5)
  /-- FABS: R97; rs2 = 0. -/
  | fabs (g : BitVec 4) (d a : BitVec 5)
  /-- FNEG: R97; rs2 = 0. -/
  | fneg (g : BitVec 4) (d a : BitVec 5)
  /-- FCMP_EQ: R98. -/
  | fcmpEq (g pd : BitVec 4) (a b : BitVec 5)
  /-- FCMP_LT: R98. -/
  | fcmpLt (g pd : BitVec 4) (a b : BitVec 5)
  /-- FCMP_LE: R98. -/
  | fcmpLe (g pd : BitVec 4) (a b : BitVec 5)
  /-- FCMP_UN: R98. -/
  | fcmpUn (g pd : BitVec 4) (a b : BitVec 5)
  /-- FCVT: R99. -/
  | fcvt (g df sf : BitVec 4) (z : Bool) (rnd : BitVec 2) (d a : BitVec 5)
  /-- LD_B: R101. -/
  | ldB (g : BitVec 4) (na z : Bool) (sid : BitVec 4) (d a : BitVec 5)
  /-- LD_H: R101. -/
  | ldH (g : BitVec 4) (na z : Bool) (sid : BitVec 4) (d a : BitVec 5)
  /-- LD_W: R101. -/
  | ldW (g : BitVec 4) (na z : Bool) (sid : BitVec 4) (d a : BitVec 5)
  /-- LD_D: R101. -/
  | ldD (g : BitVec 4) (na z : Bool) (sid : BitVec 4) (d a : BitVec 5)
  /-- ST_B: R102; a address, b data. -/
  | stB (g : BitVec 4) (na : Bool) (sid : BitVec 4) (a b : BitVec 5)
  /-- ST_H: R102; a address, b data. -/
  | stH (g : BitVec 4) (na : Bool) (sid : BitVec 4) (a b : BitVec 5)
  /-- ST_W: R102; a address, b data. -/
  | stW (g : BitVec 4) (na : Bool) (sid : BitVec 4) (a b : BitVec 5)
  /-- ST_D: R102; a address, b data. -/
  | stD (g : BitVec 4) (na : Bool) (sid : BitVec 4) (a b : BitVec 5)
  /-- LDF: R215. -/
  | ldf (g : BitVec 4) (d a : BitVec 5)
  /-- STE: R215. -/
  | ste (g : BitVec 4) (a b : BitVec 5)
  /-- MBCLR: R215. -/
  | mbclr (g : BitVec 4) (a : BitVec 5)
  /-- MBSTAT: R215. -/
  | mbstat (g : BitVec 4) (d a : BitVec 5)
  /-- AMO_ADD: R243. -/
  | amoAdd (g : BitVec 4) (z wide : Bool) (d a b : BitVec 5)
  /-- AMO_SWAP: R243. -/
  | amoSwap (g : BitVec 4) (z wide : Bool) (d a b : BitVec 5)
  /-- AMO_CAS: R243. -/
  | amoCas (g : BitVec 4) (z wide : Bool) (d a b : BitVec 5)
  /-- AMO_MIN: R243. -/
  | amoMin (g : BitVec 4) (z wide : Bool) (d a b : BitVec 5)
  /-- AMO_MAX: R243. -/
  | amoMax (g : BitVec 4) (z wide : Bool) (d a b : BitVec 5)
  /-- AMO_AND: R243. -/
  | amoAnd (g : BitVec 4) (z wide : Bool) (d a b : BitVec 5)
  /-- AMO_OR: R243. -/
  | amoOr (g : BitVec 4) (z wide : Bool) (d a b : BitVec 5)
  /-- RED_ADD: R245. -/
  | redAdd (g : BitVec 4) (z comp wide : Bool) (a b : BitVec 5)
  /-- RED_MIN: R245. -/
  | redMin (g : BitVec 4) (z comp wide : Bool) (a b : BitVec 5)
  /-- RED_MAX: R245. -/
  | redMax (g : BitVec 4) (z comp wide : Bool) (a b : BitVec 5)
  /-- RED_FADD: R245. -/
  | redFadd (g : BitVec 4) (z comp wide : Bool) (a b : BitVec 5)
  /-- RED_CFADD: R245. -/
  | redCfadd (g : BitVec 4) (z comp wide : Bool) (a b : BitVec 5)
  /-- FENCE_S: R240. -/
  | fenceS (g sid : BitVec 4)
  /-- FENCE_J: R240. -/
  | fenceJ (g : BitVec 4) (a : BitVec 5)
  /-- BR: R103. -/
  | br (g : BitVec 4) (off : BitVec 21)
  /-- JAL: R104. -/
  | jal (g : BitVec 4) (off : BitVec 21)
  /-- JALR: R104. -/
  | jalr (g : BitVec 4) (d a : BitVec 5) (imm : BitVec 11)
  /-- QPUT: R127. -/
  | qput (g : BitVec 4) (q : BitVec 3) (a : BitVec 5)
  /-- QGET: R127. -/
  | qget (g : BitVec 4) (d : BitVec 5) (q : BitVec 3)
  /-- LPW: R127. -/
  | lpw (g lp : BitVec 4) (a : BitVec 5)
  /-- FMT: R127. -/
  | fmt (g : BitVec 4) (a : BitVec 5)
  /-- JOB: R128. -/
  | job (g : BitVec 4) (d a : BitVec 5)
  /-- JWAIT: R129. -/
  | jwait (g : BitVec 4) (a : BitVec 5)
  /-- CPIN: R260; channel codes 0 to 3 only (R69). -/
  | cpin (g : BitVec 4) (d : BitVec 5) (ch : BitVec 2) (a : BitVec 5)
  /-- CPOUT: R260; channel codes 0 to 3 only (R69). -/
  | cpout (g : BitVec 4) (d : BitVec 5) (ch : BitVec 2) (a : BitVec 5)
  /-- WAITX: R256; code 7 excluded. -/
  | waitx (g : BitVec 4) (ch : BitVec 3) (a : BitVec 5)
  /-- RVIN: R271. -/
  | rvin (g : BitVec 4) (d a : BitVec 5)
  /-- RVOUT: R271. -/
  | rvout (g : BitVec 4) (d a : BitVec 5)
  /-- COMMIT: R194, R273. -/
  | commit (g : BitVec 4)
  /-- COMMIT_SWAP: R194, R273. -/
  | commitSwap (g : BitVec 4)
  /-- SNAP: R274. -/
  | snap (g : BitVec 4) (d a : BitVec 5)
  /-- FORK: R274. -/
  | fork (g : BitVec 4) (d a : BitVec 5)
  /-- ROLLB: R274. -/
  | rollb (g : BitVec 4) (a b : BitVec 5)
  /-- FREEH: R274. -/
  | freeh (g : BitVec 4) (a : BitVec 5)
  /-- BAR: R195; level 0 excluded. -/
  | bar (g : BitVec 4) (k : BitVec 2)
  /-- TASK: R202, R291. -/
  | task (g : BitVec 4) (a : BitVec 5)
  /-- GADD: R201. -/
  | gadd (g : BitVec 4) (a b : BitVec 5)
  /-- GSET: R201. -/
  | gset (g : BitVec 4) (a b : BitVec 5)
  /-- GMAX: R201. -/
  | gmax (g : BitVec 4) (a b : BitVec 5)
  /-- RESID: R203. -/
  | resid (g : BitVec 4) (d : BitVec 5)
  /-- HMIX: R294. -/
  | hmix (g : BitVec 4) (d a b : BitVec 5)
  /-- TRAP: R311. -/
  | trap (g : BitVec 4) (code : BitVec 10)
  /-- RTE: R311. -/
  | rte (g : BitVec 4)
  /-- CRR: R105, R310; numbers 24 to 31 excluded. -/
  | crr (g : BitVec 4) (d n : BitVec 5)
  /-- CRW: R105, R310; numbers 24 to 31 excluded. -/
  | crw (g : BitVec 4) (n a : BitVec 5)
  /-- TSAVE: R313. -/
  | tsave (g : BitVec 4) (a : BitVec 5)
  /-- TRSTR: R313. -/
  | trstr (g : BitVec 4) (a : BitVec 5)
  /-- YIELD: R311. -/
  | yield (g : BitVec 4)
  /-- HALT: R106, R121. -/
  | halt (g : BitVec 4)
  /-- C_MOV: R67, R107. -/
  | cMov (d a : BitVec 5)
  /-- C_ADD: R67, R107. -/
  | cAdd (d a : BitVec 5)
  /-- C_ADDI: R67, R107. -/
  | cAddi (d : BitVec 5) (imm : BitVec 6)
  /-- C_LD_D: R67, R107. -/
  | cLdD (d a : BitVec 5)
  /-- C_ST_D: R67, R107; a address, b data. -/
  | cStD (a b : BitVec 5)
  /-- C_QPUT: R67, R107. -/
  | cQput (q : BitVec 3) (a : BitVec 5)
  /-- C_QGET: R67, R107. -/
  | cQget (d : BitVec 5) (q : BitVec 3)
  /-- C_BR: R67, R107. -/
  | cBr (off : BitVec 11)
  /-- C_LPW: R67, R107. -/
  | cLpw (lp : BitVec 4) (a : BitVec 5)
  /-- IDLE: R71; n holds the count less 1. -/
  | idle (n : BitVec 10)
  /-- BLK: R71, R72, R114. -/
  | blk (depth : BitVec 3) (rsrc : Bool) (len : BitVec 10) (rep : BitVec 12)
  /-- MMA_BF16: R140; k holds the count less 1. -/
  | mmaBf16 (acc : BitVec 2) (aop bop : BitVec 3) (k : BitVec 14) (comp fz : Bool)
  /-- MMA_FP16: R140; k holds the count less 1. -/
  | mmaFp16 (acc : BitVec 2) (aop bop : BitVec 3) (k : BitVec 14) (comp fz : Bool)
  /-- MMA_FP8E4: R140; k holds the count less 1. -/
  | mmaFp8e4 (acc : BitVec 2) (aop bop : BitVec 3) (k : BitVec 14) (comp fz : Bool)
  /-- MMA_FP8E5: R140; k holds the count less 1. -/
  | mmaFp8e5 (acc : BitVec 2) (aop bop : BitVec 3) (k : BitVec 14) (comp fz : Bool)
  /-- MMA_CB4: R140; k holds the count less 1. -/
  | mmaCb4 (acc : BitVec 2) (aop bop : BitVec 3) (k : BitVec 14) (comp fz : Bool)
  /-- CMMA_CBF16: R141. -/
  | cmmaCbf16 (acc : BitVec 2) (aop bop : BitVec 3) (k : BitVec 14) (comp fz conja conjb : Bool)
  /-- CMMA_CFP16: R141. -/
  | cmmaCfp16 (acc : BitVec 2) (aop bop : BitVec 3) (k : BitVec 14) (comp fz conja conjb : Bool)
  /-- MZERO: R145. -/
  | mzero (acc : BitVec 2) (pair : Bool)
  /-- MDRAIN_TRK: R146. -/
  | mdrainTrk (acc trk : BitVec 2) (pair : Bool)
  /-- MDRAIN_SPD: R146. -/
  | mdrainSpd (acc : BitVec 2) (spb : BitVec 3) (pair : Bool)
  /-- MDRAIN_CP: R146, R263. -/
  | mdrainCp (acc ch : BitVec 2) (pair : Bool)
  /-- MWL: R143. -/
  | mwl (wb : BitVec 1) (src : BitVec 3) (k : BitVec 14)
  /-- MCB: R144. -/
  | mcb (cb : BitVec 2) (src : BitVec 3)
  /-- MSTOP: R147. -/
  | mstop (seed : BitVec 16)
  /-- SCAN_D: R150, R151. -/
  | scanD (dtrk xtrk : BitVec 2) (comp fz : Bool) (spb : BitVec 3) (n : BitVec 10)
  /-- SCAN_C: R150, R151. -/
  | scanC (dtrk xtrk : BitVec 2) (comp fz : Bool) (spb : BitVec 3) (n : BitVec 10)
  /-- SCHUNK: R150, R151. -/
  | schunk (dtrk xtrk : BitVec 2) (comp fz : Bool) (spb : BitVec 3) (n : BitVec 10)
  /-- SCARRY: R152. -/
  | scarry (spb rspb : BitVec 3) (comp : Bool) (n : BitVec 10)
  /-- SOUT: R153. -/
  | sout (trk : BitVec 2) (spb : BitVec 3) (comp : Bool) (n : BitVec 10)
  /-- SLIN: R154. -/
  | slin (ktrk vtrk : BitVec 2) (spb : BitVec 3) (comp : Bool) (n : BitVec 10)
  /-- VADD: R74, R163 to R172. -/
  | vadd (f : VxFrame)
  /-- VSUB: R74, R163 to R172. -/
  | vsub (f : VxFrame)
  /-- VMUL: R74, R163 to R172. -/
  | vmul (f : VxFrame)
  /-- VFMA: R74, R163 to R172. -/
  | vfma (f : VxFrame)
  /-- VMIN: R74, R163 to R172. -/
  | vmin (f : VxFrame)
  /-- VMAX: R74, R163 to R172. -/
  | vmax (f : VxFrame)
  /-- VNEG: R74, R163 to R172. -/
  | vneg (f : VxFrame)
  /-- VABS: R74, R163 to R172. -/
  | vabs (f : VxFrame)
  /-- VCMP: R74, R163 to R172. -/
  | vcmp (f : VxFrame)
  /-- VSEL: R74, R163 to R172. -/
  | vsel (f : VxFrame)
  /-- VCVT: R74, R163 to R172. -/
  | vcvt (f : VxFrame)
  /-- VEXP: R74, R163 to R172. -/
  | vexp (f : VxFrame)
  /-- VLOG: R74, R163 to R172. -/
  | vlog (f : VxFrame)
  /-- VRCP: R74, R163 to R172. -/
  | vrcp (f : VxFrame)
  /-- VRSQ: R74, R163 to R172. -/
  | vrsq (f : VxFrame)
  /-- VACT: R74, R163 to R172. -/
  | vact (f : VxFrame)
  /-- VCMUL: R74, R163 to R172. -/
  | vcmul (f : VxFrame)
  /-- VRED_SUM: R74, R163 to R172. -/
  | vredSum (f : VxFrame)
  /-- VRED_MAX: R74, R163 to R172. -/
  | vredMax (f : VxFrame)
  /-- VROT: R74, R163 to R172. -/
  | vrot (f : VxFrame)
  /-- VKEY: R74, R163 to R172. -/
  | vkey (f : VxFrame)
  /-- VHIST: R74, R163 to R172. -/
  | vhist (f : VxFrame)
  /-- VCHK: R173; the other frame fields are 0. -/
  | vchk (pr : Bool) (rnd : BitVec 3) (k : BitVec 32)
  /-- VMOV: R74, R166, R170. -/
  | vmov (f : VxFrame)
  /-- VBIT: R74, R166, R170. -/
  | vbit (f : VxFrame)
  /-- VIADD: R74, R166, R170. -/
  | viadd (f : VxFrame)
  /-- VIMUL: R74, R166, R170. -/
  | vimul (f : VxFrame)
  /-- VPACK: R74, R166, R170. -/
  | vpack (f : VxFrame)
  /-- VUNPK: R74, R166, R170. -/
  | vunpk (f : VxFrame)
  /-- LDT: R174. -/
  | ldt (trk : BitVec 2) (spb : BitVec 3)
  /-- LDX: R175. -/
  | ldx (trk : BitVec 2) (ispb dspb : BitVec 3)
  /-- LDM: R177. -/
  | ldm (trk : BitVec 2) (win : BitVec 13)
  /-- LDC: R176. -/
  | ldc (trk : BitVec 2) (addr : BitVec 24)
  /-- LDB: R174. -/
  | ldb (trk : BitVec 2) (spb : BitVec 3)
  /-- STT: R174. -/
  | stt (trk : BitVec 2) (spb : BitVec 3)
  /-- STX: R178. -/
  | stx (dtrk itrk : BitVec 2) (spb : BitVec 3)
  /-- STM: R179. -/
  | stm (trk : BitVec 2) (stop : BitVec 7) (win : BitVec 13)
  /-- STB: R174. -/
  | stb (trk : BitVec 2) (spb : BitVec 3)
  /-- OP_RESULT: R112: results due in this cycle; late: the SRAM writes, which follow the contexts' (R123). -/
  | opResult (b : Nat) (late : Bool)
  /-- FLIT: R181: the flit at the head of the link into that input port. -/
  | flit (stop : Nat) (ccw : Bool) (ok : Bool)
  /-- RETURN_WORD: R190: the word reaching the sender of that port's link; ok: its parity. -/
  | returnWord (stop : Nat) (ccw : Bool) (ok : Bool)
  /-- AUDIT_FLIT: R191. -/
  | auditFlit (stop : Nat) (ccw : Bool) (ok : Bool)
  /-- MAIL: R179, R213, R328. -/
  | mail (p : Packet)
  /-- DONE: R194, R213, R328. -/
  | done (p : Packet)
  /-- BARA: R195. -/
  | bara (p : Packet)
  /-- BARR: R195. -/
  | barr (p : Packet)
  /-- HEAP: R201. -/
  | heap (p : Packet)
  /-- GAIN_REFUSAL: R201. -/
  | gainRefusal (o : HeapOp)
  /-- RESERVED_PACKET: R183. -/
  | reservedPacket (p : Packet)
  /-- RDREQ: R342. -/
  | rdreq (p : Packet)
  /-- RDRSP: R342. -/
  | rdrsp (p : Packet)
  /-- PREP: R340, R342. -/
  | prep (p : Packet)
  /-- AMOREQ: R343. -/
  | amoreq (p : Packet)
  /-- AMORSP: R361. -/
  | amorsp (p : Packet)
  /-- REDENT: R342. -/
  | redent (p : Packet)
  /-- ENGINE: R342. -/
  | engine (p : Packet)
  /-- CTRL: R342. -/
  | ctrl (p : Packet)
  /-- SLOTREF: R287: an edge, offset in ns from its predicted boundary. -/
  | slotref (offset : Int)
  /-- SLOT_ANNOUNCEMENT: R341. -/
  | slotAnnouncement (num tick : Nat)
  /-- SLOT_ACK: R341. -/
  | slotAck (num : Nat)
  /-- TOKEN_RETRY: R305, R349. -/
  | tokenRetry (v tok : Nat)
  /-- TOKEN_REFUSE: R305, R349. -/
  | tokenRefuse (v tok : Nat)
  /-- ROW_REFRESH: R325: lines in error, true when uncorrectable. -/
  | rowRefresh (die row : Nat) (bad : List (Nat × Bool))
  /-- L2_SCRUB: R325: superblock sb visited, err: the line of its four in which an error was found. -/
  | l2Scrub (die sb : Nat) (err : Option Nat)
  /-- IN_FIELD_TEST_END: R329. -/
  | inFieldTestEnd (b : Nat) (pass : Bool)
  /-- SPLICE_FLIT: R337: ok: the CRC holds. -/
  | spliceFlit (cr : Nat) (toEast : Bool) (ok : Bool)
  /-- RETRAIN_COMPLETE: R338: lanes trained by each module. -/
  | retrainComplete (link : Nat) (lanes0 lanes1 : Nat)
  /-- PORT_FRAME: R355. -/
  | portFrame (port : Nat) (fr : PortFrame)
  /-- CXL_MEM_READ: R345. -/
  | cxlMemRead (v off n : Nat)
  /-- CXL_MEM_WRITE: R345. -/
  | cxlMemWrite (v off : Nat) (data : List Byte)
  /-- SNOOP: R347. -/
  | snoop (pa : Nat)
  /-- CREATE: R348. -/
  | create (v : Nat) (c : CreateArgs)
  /-- DESTROY: R348. -/
  | destroy (v : Nat)
  /-- ASSIGN: R348. -/
  | assign (v first count : Nat)
  /-- MIGRATE: R348, R351. -/
  | migrate (v src dst size : Nat)
  /-- ATTEST: R366. -/
  | attest (addr : Nat) (nonce : List Byte)
  /-- HOLDREL: R348. -/
  | holdrel (b : Nat)
  /-- ERRBANK_CLEAR: R323. -/
  | errbankClear (die bank : Nat)
  /-- PTROOT: R348. -/
  | ptroot (v val : Nat)
  /-- TLBSYNC: R350. -/
  | tlbsync (v : Nat)
  /-- CAP: R369. -/
  | cap (watts : Nat)
  /-- REGISTER_WRITE: R348: v 0 to 63 an interface page, 64 the admin page. -/
  | registerWrite (v off val : Nat)
  /-- POWER_EVALUATION: R368. -/
  | powerEvaluation (mw tempW tempE : Nat)
  /-- RESET_N: R362: the pin falls and stays low, or rises, when it has been low for 1 µs or more. -/
  | resetN (low : Bool)
  /-- RESET: R362, R369. -/
  | reset (val : Nat)
  /-- BOOT_STEP: R362. -/
  | bootStep (ok : Bool) (img : BootImage)
  /-- CXL_CACHE_RESPONSE: R347. -/
  | cxlCacheResponse (pa : Nat) (data : List Byte)
  /-- POWER_GATE_DECISION: R368: closed for that many cycles, 0: open. -/
  | powerGateDecision (b cycles : Nat)
  /-- C_NOP: R67, R106. -/
  | cNop
  /-- JOIN: R71, R132. -/
  | join
  /-- JOB_START: R130: braid b. -/
  | jobStart
  /-- RENDEZVOUS: R132. -/
  | rendezvous
  /-- OVERRUN: R133. -/
  | overrun
  /-- TASK_START: R120, R135. -/
  | taskStart
  /-- AUDIT_TICK: R191. -/
  | auditTick
  /-- PACKET_DELIVERY: R189. -/
  | packetDelivery
  /-- TASK_SPILL_RETURN: R291. -/
  | taskSpillReturn
  /-- COMMIT_EVENT: R234, R236. -/
  | commitEvent
  /-- EVENT_PREPARED: R340. -/
  | eventPrepared
  /-- EVENT_COMPLETE: R235. -/
  | eventComplete
  /-- HEAP_RUN: R198. -/
  | heapRun
  /-- ROUND_TASK_START: R200. -/
  | roundTaskStart
  /-- COPY_START: R260. -/
  | copyStart
  /-- COPY_PIECE: R265. -/
  | copyPiece
  /-- REEVE_START: R271. -/
  | reeveStart
  /-- RVIN_RETIRE: R271. -/
  | rvinRetire
  /-- RVOUT_RETIRE: R271. -/
  | rvoutRetire
  /-- LIGHT_FAULT: R222, R305. -/
  | lightFault
  /-- RECORD_TAKE: R279. -/
  | recordTake
  /-- LAUNCH_ISSUE: R283. -/
  | launchIssue
  /-- PREFIX_LOOKUP: R296. -/
  | prefixLookup
  /-- PREFIX_INSERT: R296. -/
  | prefixInsert
  /-- PREFIX_UNPIN: R296. -/
  | prefixUnpin
  /-- LAUNCH_COMPLETE: R290. -/
  | launchComplete
  /-- SLOT_BOUNDARY: R287, R341: on West or on East. -/
  | slotBoundary
  /-- SLOTREF_TIMEOUT: R287. -/
  | slotrefTimeout
  /-- CANCELLATION: R289. -/
  | cancellation
  /-- DISCARD: R303. -/
  | discard
  /-- SUSPEND: R305. -/
  | suspend
  /-- TOKEN_RECORD_POST: R349. -/
  | tokenRecordPost
  /-- BANK_SWITCH: R306. -/
  | bankSwitch
  /-- BRAID_STALL: R308. -/
  | braidStall
  /-- PREEMPTION: R316. -/
  | preemption
  /-- LAUNCH_RESUME: R318. -/
  | launchResume
  /-- IN_FIELD_TEST: R329. -/
  | inFieldTest
  /-- FLIT_REPLAY: R337. -/
  | flitReplay
  /-- RETRAIN: R338: 0 crossing A, 1 crossing B, 2 host link, 3 X0, 4 X1. -/
  | retrain
  /-- LINK_DOWN: R339. -/
  | linkDown
  /-- SPLICE_RETRAIN_A: R348. -/
  | spliceRetrainA
  /-- SPLICE_RETRAIN_B: R348. -/
  | spliceRetrainB
  /-- HOST_LINK_RETRAIN: R348. -/
  | hostLinkRetrain
  /-- THERMAL_TRIP: R368. -/
  | thermalTrip
  /-- ILLEGAL_ENCODING: R78. -/
  | illegalEncoding
  /-- FLIT_SEND: R188. -/
  | flitSend
  /-- ADMIN_COMMAND_COMPLETE: R348. -/
  | adminCommandComplete
  deriving DecidableEq, Repr

end Sys2Proof
end

