-- ==== Sys2Proof/Machine/State.lean ====
section
/-! DEFINITION. The state of the device as plain data, the reasons a step can stop, and the state after reset. -/

namespace Sys2Proof.Machine

/-- Why a control context does not retire (R308, R305). -/
inductive Wait where
  | none | queue | jobSpace | jobWait | halt | other
  deriving DecidableEq, Repr

/-- A line of memory returned to a context (R342). -/
structure Fill where
  data : List Byte
  poison : Bool
  deriving DecidableEq, Repr

/-- A control context (R12, R119). -/
structure Ctx where
  s : Tab Word64 := []
  p : BitVec 16 := 0
  pc : Addr := 0
  run : Bool := false
  halt : Bool := false
  fault : Bool := false
  epc : Addr := 0
  /-- The cycle in which the instruction in progress retires at the earliest (R19, R108). -/
  retireAt : Option Nat := .none
  /-- The instruction in progress, fetched and not yet retired (R19). -/
  ins : Option Instr := .none
  began : Bool := false
  wait : Wait := .none
  /-- Lines returned for the access in progress, by physical line address. -/
  fills : Tab Fill := []
  /-- Lines asked for and not yet returned. -/
  missing : List Nat := []
  /-- Lines asked for by an access that is over or begins anew: their answers are dropped (R238). -/
  stale : List Nat := []
  /-- The cycle before which the first instructions of a task do not issue (R135). -/
  issueAt : Nat := 0
  /-- The waits of the instruction in progress are over; it holds its context for its cycles (R330). -/
  holding : Bool := false
  /-- The AMO request sent and not yet answered (R343, R361). -/
  amo : Option Packet := .none
  amoOld : Option Word64 := .none
  /-- Address and length of a store in progress (R131). -/
  store : Option (Nat × Nat) := .none
  /-- The newest numbers of c0 to c3 when the HALT in progress began to wait (R266). -/
  copies : Option (List Nat) := .none
  deriving DecidableEq, Repr

/-- A job header as queued (R75, R128). -/
structure Job where
  num : Nat
  pc : Addr
  ctx : CtxId
  at_ : Nat
  smask : Nat
  maxc : Nat
  entry : List Nat
  spbld : List Nat
  preds : List (Nat × Nat)
  conds : List Nat
  regions : List Nat
  xv : Bool
  xdev : Nat
  raw : List Byte
  deriving DecidableEq, Repr

/-- An open job (R130 to R133). -/
structure OpenJob where
  job : Job
  bank : Nat
  start : Nat
  /-- The strands that have issued JOIN, by position. -/
  joined : List Nat
  /-- Entries reserved and not yet popped: q4, q5, q6, fq. -/
  resv : Tab Nat
  /-- Entries of q7 reserved (KIND 2). -/
  resv7 : Nat
  lpImage : Tab Word32
  /-- SRAM at the start cycle (R115). -/
  sram : Tab Byte
  /-- STM packets of the job whose tail has not left the send queue (R179). -/
  stm : Nat
  deriving DecidableEq, Repr

/-- A beat on a track: lanes and end-of-stream marker (R111). -/
structure Beat where
  lanes : List Word32
  marker : Bool
  deriving DecidableEq, Repr

/-- One level of a strand's block nest (R72, R114): first parcel, end of the body, passes left after this one. -/
structure Blk where
  start : Nat
  stop : Nat
  left : Nat
  deriving DecidableEq, Repr

/-- The drain record of an accumulator and its tile kind (R139, R146). -/
structure DrainRec where
  fmt : Nat := 0
  rnd : Nat := 0
  sat : Bool := false
  seed : Nat := 0
  cplx : Bool := false
  deriving DecidableEq, Repr

/-- A weight buffer: recorded beats and contents (R143). -/
structure WBuf where
  beats : Nat := 0
  data : List (List Word32) := []
  deriving DecidableEq, Repr

/-- A strand: parameter blocks, stream position, block nest, and the op in progress (R113, R114, R117). -/
structure Strand where
  spb : Tab Nat := []
  pc : Nat := 0
  nest : List Blk := []
  op : Option Instr := none
  opPc : Nat := 0
  /-- Issue cycles the op in progress has had. -/
  q : Nat := 0
  /-- Stream parameter images the op in progress opened, bases resolved (R118). -/
  opened : List Nat := []
  /-- Working values of the op in progress: state or accumulator words, and the flags gathered with them. -/
  held : List Word32 := []
  heldFlags : FlagSet := 0
  /-- Block scale codes of the rows in use: A's 32 and B's 192 (R138). -/
  scaleA : List Nat := []
  scaleB : List Nat := []
  /-- The weight buffers and codebooks as at the issue of the op in progress (R142). -/
  wbAt : Tab WBuf := []
  cbAt : Tab (List (BitVec 16)) := []
  /-- Format word of the tile command in progress (R139). -/
  fw : Nat := 0
  /-- Loop buffer: parcels fetched in this job (R115). -/
  buf : Tab Parcel := []
  job : Option Nat := none
  bank : Nat := 0
  deriving DecidableEq, Repr

/-- The strand registers of R158, R159 that a bank save carries (R305, R313). -/
structure StrandRegs where
  v : Tab (List Word32) := []
  m : Tab (BitVec 192) := []
  acc : Tab (List Word32) := []
  drain : Tab DrainRec := []
  wb : Tab WBuf := []
  cb : Tab (List (BitVec 16)) := []
  stopper : Word32 := 0
  deriving DecidableEq, Repr

/-- An SRAM write of one byte under a bit mask (CB4 nibbles). -/
structure SWrite where
  addr : Nat
  val : Byte
  mask : Byte
  deriving DecidableEq, Repr

/-- A result of a strand op in flight (R112). -/
inductive Eff where
  | vreg (r : Nat) (lanes : List Word32) (mask : BitVec 192)
  | vmask (m : Nat) (val mask : BitVec 192)
  | track (t : Nat) (lanes : List Word32) (marker : Bool) (mask : BitVec 192)
  | sram (ws : List SWrite) (aware : Bool)
  | acc (a : Nat) (data : List Word32)
  | wbuf (i : Nat) (w : WBuf)
  | cbook (i : Nat) (data : List (BitVec 16))
  | stopper (w : Word32)
  | mismatch
  | send (p : Packet)
  /-- LDX's gather: track, data stream image, indices, marker (R175). -/
  | gather (t : Nat) (data : Nat) (idx : List Word32) (marker : Bool)
  | drain (ch : Nat) (data : List Byte) (last : Bool)
  | nothing
  deriving DecidableEq, Repr

/-- A result with the cycle it lands in, its strand, bank, job, its op's parcel and the flags it raises (R27, R48). -/
structure Pend where
  due : Nat
  pos : Nat
  bank : Nat
  job : Nat
  pc : Nat
  flags : FlagSet
  eff : Eff
  deriving DecidableEq, Repr

/-- A write of a byte that a later one stands over: value, stream tag, join bit, the context that wrote it, whether a fence of that
context has covered it since (R241). -/
structure OldByte where
  val : Byte
  tag : Nat
  j : Bool
  writer : CtxId
  covered : Bool
  /-- Staged by a copy command, of that channel and number: `covered` then says that its completion has been acquired (R248). -/
  copy : Option (Nat × Nat)
  deriving DecidableEq, Repr

/-- One byte of a merge-buffer line: its last write, and the writes a load may still see without it, latest first (R241). -/
structure MByte where
  val : Byte
  tag : Nat
  j : Bool
  writer : CtxId
  covered : Bool
  copy : Option (Nat × Nat) := none
  older : List OldByte := []
  deriving DecidableEq, Repr

/-- What kind of page a line lies on and the virtual address it was reached by (R220, R223). -/
structure PageTag where
  kind : Nat
  olev : Nat
  ounit : Nat
  deriving DecidableEq, Repr

/-- A line of writes: merge-buffer line, spilled line (R226, R262), or part of a staged piece. -/
structure MLine where
  pa : Nat
  bytes : Tab MByte
  mark : Nat
  na : Bool
  page : PageTag
  /-- The entry of the overflow area it stands in (R226, R262). -/
  slot : Option Nat := none
  deriving DecidableEq, Repr

/-- A staged tile store: copy index, piece number, channel and number of its command, its bytes by physical address (R249, R262). -/
structure Tile where
  k : Nat
  piece : Nat
  ch : Nat
  num : Nat
  lines : List MLine
  deriving DecidableEq, Repr

/-- A reduction in the queue: program-order place, entry, page level (R245). -/
structure RedItem where
  place : Nat
  red : RedEntry
  /-- An element of an atomic-add copy, which takes no place of the reduction queue (R245, R262). -/
  copied : Bool := false
  deriving DecidableEq, Repr

/-- A TLB entry: the interface whose table it comes from, the page's address and the leaf's fields (R219, R224). -/
structure TlbEntry where
  vi : Nat
  va : Nat
  big : Bool
  leaf : Nat
  leafPa : Nat
  deriving DecidableEq, Repr

/-- One 64-byte line of the L1 (R227). -/
structure L1Line where
  pa : Nat
  data : List Byte
  dirty : Bool
  kind : Nat
  phase : Nat
  deriving DecidableEq, Repr

/-- A superblock of the L1: tag and its valid lines (R227). -/
structure L1Sb where
  tag : Nat
  lines : Tab L1Line
  deriving DecidableEq, Repr

/-- A superblock of the L2: tag, valid and dirty bits of its lines, pin count (R228, R231). -/
structure L2Sb where
  tag : Nat
  valid : Nat
  dirty : Nat
  pins : Nat
  deriving DecidableEq, Repr

/-- A fault as it is raised (R300, R301). -/
structure FaultInfo where
  code : Nat
  src : Nat
  ctx : CtxId
  epc : Addr
  spc : Addr := 0
  va : Nat := 0
  write : Bool := false
  tid2 : Nat := 0
  /-- The physical line of an uncorrectable error (R321); none where it stands in braid SRAM. -/
  line : Option Nat := none
  /-- It is an engine command's (R277, R300). -/
  engine : Bool := false
  deriving DecidableEq, Repr

/-- A copy command as issued (R257, R258). -/
structure CopyCmd where
  num : Nat
  isOut : Bool
  pc : Addr
  ctx : CtxId
  vi : Nat
  local_ : Nat
  sid : Nat
  src : Bool
  preds : List (Nat × Nat)
  org : List Int
  base : Nat
  fmt : Nat
  op : Nat
  pin : Bool
  ext : List Nat
  box : List Nat
  str : List Int
  /-- Copy index of a CPOUT within its phase (R262). -/
  k : Nat
  place : Nat
  /-- The sq number of the task that issued it (R277). -/
  owner : Nat
  deriving DecidableEq, Repr

/-- A drain tile of a copy channel (R263). -/
structure DrainTile where
  data : List Byte
  fmt : Nat
  full : Bool
  deriving DecidableEq, Repr

/-- A piece of a removed CPIN that was under way at the removal: its command, the tag of its requests, answers still to come, the lines
that came, and the command's pages (R253, R289). -/
structure LastPiece where
  cmd : CopyCmd
  piece : Nat
  ask : Nat
  awaits : Nat
  lines : Tab Fill
  pages : List (Nat × Nat × Nat)
  deriving DecidableEq, Repr

/-- A copy channel (R253, R263, R265). -/
structure Chan where
  queue : List CopyCmd := []
  newest : Nat := 0
  done : Nat := 0
  running : Bool := false
  pieces : Nat := 0
  /-- The requests for the next piece are out; answers still to come (R342); the lines that came, with whether they are in error. -/
  asked : Bool := false
  awaits : Nat := 0
  lines : Tab Fill := []
  /-- The tag of those requests, one for each piece asked for (R342). -/
  ask : Nat := 0
  /-- What the running command's pages translate to: number of the virtual page, physical address of its first byte, leaf (R261). -/
  pages : List (Nat × Nat × Nat) := []
  /-- Superblocks the running command has asked to pin (R264). -/
  pinned : List Nat := []
  /-- Pieces of removed commands that are still under way (R289). -/
  lasts : List LastPiece := []
  /-- The fault that the head command met in this cycle (R277, R300), and that it is held by a resumable one (R305). -/
  failing : Option FaultInfo := none
  stalled : Bool := false
  tile : Option DrainTile := none
  tlb : List TlbEntry := []
  deriving DecidableEq, Repr

/-- A Reeve command (R270, R271). -/
structure ReeveCmd where
  num : Nat
  isOut : Bool
  pc : Addr
  ctx : CtxId
  sid : Nat
  bank : Nat
  first : Nat
  cnt : Nat
  sg : Nat
  preds : List (Nat × Nat)
  epoch : Nat
  vi : Nat
  /-- The launch whose resident check this RVIN is (R285). -/
  launch : Option Nat
  /-- The sq number of the task that issued it (R277); none for the sequencer's. -/
  owner : Option Nat
  deriving DecidableEq, Repr

/-- The Reeve's channel (R253, R271): the image referenced by the running command. -/
structure Rv where
  queue : List ReeveCmd := []
  newest : Nat := 0
  done : Nat := 0
  running : Bool := false
  img : Option Nat := none
  asked : Bool := false
  awaits : Nat := 0
  /-- The code of the fault that the head command's start met in this cycle (R277, R300). -/
  failing : Option Nat := none
  /-- The image that a running RVOUT has made, whose slots are on their way to their homes (R271, R342). -/
  made : Option Nat := none
  tlb : List TlbEntry := []
  deriving DecidableEq, Repr

/-- The task resident in a bank (R281, R291, R200). -/
structure Task where
  tid : Nat
  vi : Nat
  launch : Nat
  entry : Addr
  m1 : Bool
  m2 : Bool
  m3 : Bool
  phase : Word32
  /-- BAR.k retired by the task, for k = 1 to 3 (R195). -/
  bars : Tab Nat
  rank : Nat
  spawned : Bool
  /-- Heap round: die, heap, place in the pop (R199). -/
  round : Option (Nat × Nat × Nat)
  gain : Word32
  tvec : Addr
  wmap : Nat
  /-- CPOUTs issued in the open phase, and groups staged (R262). -/
  copies : Nat
  groups : Nat
  /-- Next program-order place of a reduction or copy, and heap operations issued (R235, R201). -/
  place : Nat
  gops : Nat
  /-- Overflow-area entries that earlier round tasks of this member hold in the round (R237). -/
  areaBase : Nat
  /-- Superblocks pinned by the task's CPINs (R264). -/
  pins : List Nat
  /-- Order in which tasks started on the braid, and the cycle it started in (R354). -/
  started : Nat
  from_ : Nat
  sq : Nat
  deriving DecidableEq, Repr

/-- State of a context bank's task (R305, R316). -/
inductive Mode where
  | idle | starting | running | cancelling | suspending | suspended | preempting | preempted | switching
  deriving DecidableEq, Repr

/-- What a bank has arrived at: commit (level 0) or BAR (R194, R195, R199). `passed`: its event has completed;
`released`: BARR has come or is not needed. -/
structure Arrive where
  level : Nat
  swap : Bool
  gen : Nat
  event : Option Nat
  passed : Bool
  released : Bool
  /-- Members the root still has to send BARR to. -/
  barr : List Nat
  deriving DecidableEq, Repr

/-- What T's TSAVE holds aside (R313): the task's queued jobs are in the image; their own records stay here. -/
structure Held where
  jobs : List Job
  deriving DecidableEq, Repr

/-- The checkpoint of a commit event (R320): T is a context too, with what its entry has saved (R310; DEDUCED, log entry 121). -/
structure Ckpt where
  l : Ctx
  x : Ctx
  s : Ctx
  t : Ctx
  tActive : Bool
  tSaved : Bool
  tpc : Addr
  tcode : BitVec 10
  tctx : BitVec 2
  held : Option Held
  lp : Tab Word32
  q : Tab (List Word64)
  jobs : List Job
  jobNext : Nat
  jobDone : Nat
  jobFin : List Nat
  chans : Tab (Nat × Nat)
  flags : FlagSet
  warn : BitVec 12
  deriving DecidableEq, Repr

/-- A resumable fault a bank is suspended by (R305, R349). -/
structure Susp where
  code : Nat
  src : Nat
  ctx : CtxId
  epc : Addr
  write : Bool
  va : Nat
  token : Option Nat
  posted : Bool
  answered : Bool
  /-- The cycle of the fault (R300). -/
  cycle : Nat
  deriving DecidableEq, Repr

/-- A context bank of a braid (R305). -/
structure Bank where
  l : Ctx := {}
  x : Ctx := {}
  s : Ctx := {}
  t : Ctx := {}
  mode : Mode := .idle
  task : Option Task := none
  causeCode : BitVec 8 := 0
  causeSrc : BitVec 3 := 0
  spc : Addr := 0
  flags : FlagSet := 0
  warn : BitVec 12 := 0
  /-- Bits set in the present cycle, and a CRW of the present cycle (R105). -/
  flagSets : FlagSet := 0
  warnSets : BitVec 12 := 0
  flagWrite : Option FlagSet := none
  warnWrite : Option (BitVec 12) := none
  lp : Tab Word32 := []
  q : Tab (List Word64) := []
  /-- Queues at the start of the cycle (R125). -/
  qStart : Tab (List Word64) := []
  /-- cr.DOM.PHASE, cr.BANK.CUR and cr.RERUN as at the start of the cycle (R105). -/
  phaseStart : Word32 := 0
  curStart : Bool := false
  rerunStart : Bool := false
  /-- cr.TPC, cr.TCAUSE and cr.TSTAT as at the start of the cycle (R105). -/
  tpcStart : Addr := 0
  tcodeStart : BitVec 10 := 0
  tctxStart : BitVec 2 := 0
  tActiveStart : Bool := false
  tSavedStart : Bool := false
  jobs : List Job := []
  jobNext : Nat := 0
  jobDone : Nat := 0
  jobFin : List Nat := []
  chans : Tab Chan := []
  rv : Rv := {}
  curBank : Bool := false
  w : Tab Bool := []
  writerMap : Tab Byte := []
  /-- The interface whose launch loaded the writer map: its stops are that one's (R213, R353). -/
  mapVi : Nat := 0
  reds : List RedItem := []
  conflicts : List Nat := []
  spilled : List MLine := []
  staged : List Tile := []
  tpc : Addr := 0
  tcode : BitVec 10 := 0
  tctx : BitVec 2 := 0
  tActive : Bool := false
  tSaved : Bool := false
  preempts : Word32 := 0
  rerun : Bool := false
  arrive : Option Arrive := none
  held : Option Held := none
  ckpt : Option Ckpt := none
  /-- The open phase is no longer eligible for a re-run (R320). -/
  inelig : Bool := false
  /-- Strand registers written in the phase, and scratchpad units read before a write (R320). -/
  regsWritten : List Nat := []
  unitsRead : List Nat := []
  unitsWritten : List Nat := []
  susp : Option Susp := none
  /-- Faults of the present cycle of which one is recorded as it ends (R300). -/
  late : List FaultInfo := []
  /-- Lines of the merge buffer that the bank's spill has left, its area being unmapped (R305). -/
  parked : List MLine := []
  stall : Nat := 0
  /-- The bank gave way by YIELD (R311). -/
  yielded : Bool := false
  /-- The cycle in which the contexts of a starting task issue at the earliest (R135). -/
  startAt : Nat := 0
  deriving DecidableEq, Repr

/-- A residency tag (R285). -/
structure RTag where
  sid : Nat
  vi : Nat
  epoch : Nat
  bank : Nat
  first : Nat
  cnt : Nat
  sg : Nat
  deriving DecidableEq, Repr

/-- A braid (R109, R208). -/
structure Braid where
  b0 : Bank := {}
  b1 : Bank := {}
  runBank : Nat := 0
  sram : Tab Byte := []
  sramStart : Tab Byte := []
  full : Tab Bool := []
  fullStart : Tab Bool := []
  /-- Mailbox words taken and stored in this cycle (R216). -/
  taken : List Nat := []
  stored : List Nat := []
  h : Tab Bool := []
  regs : StrandRegs := {}
  /-- Accumulators in issue order, and effective ready cycles (R142). -/
  chain : Tab (List Word32) := []
  accReady : Tab Nat := []
  strands : Tab Strand := []
  /-- Beats arriving in this cycle, and beats driven in this cycle: key 5·track + position (R110). -/
  arriving : Tab Beat := []
  driven : Tab Beat := []
  pend : List Pend := []
  jobsOpen : List OpenJob := []
  merge : List MLine := []
  l1 : List L1Sb := []
  tlb : List TlbEntry := []
  sendQ : List Packet := []
  /-- The start cycles of the jobs whose STMs placed the packets of sendQ (R179). -/
  sendOf : List Nat := []
  ctlQ : List Packet := []
  memQ : List Packet := []
  /-- Cycles in which the heads of sendQ, ctlQ and memQ became heads (R188). -/
  headAt : Tab Nat := []
  out : Nat := 0
  /-- Tags of the next far AMO (R343), and of the next one to a slice of its own die. -/
  amoNext : Nat := 0
  amoNear : Nat := 0
  sqNext : Nat := 0
  sqDone : Nat := 0
  sqFin : List Nat := []
  /-- cr.XDONE.sq as at the start of the cycle (R105). -/
  sqStart : Nat := 0
  tags : List RTag := []
  taskQ : List Spawn := []
  fencedOff : Bool := false
  held : Bool := false
  testAsked : Bool := false
  testEnd : Option Nat := none
  /-- Slot and cycle of the last in-field pass (R329). -/
  testPass : Nat := 0
  testAt : Nat := 0
  gateTill : Nat := 0
  reserved : Option Nat := none
  started : Nat := 0
  /-- Cross-device reservations held (R357). -/
  xheld : Nat := 0
  /-- Bytes of the SRAM in which an uncorrectable error stands; such an error comes from outside the rules (R321, R323; log entry 103). -/
  bad : List Nat := []
  /-- BARA packets held by a root: launch, level, generation, source (R195). -/
  baras : List (Nat × Nat × Nat × Nat) := []
  deriving DecidableEq, Repr

/-- A flit standing in a port or on a link (R182): packet, index, class, channel, header parity, cycle its packet's head came. -/
structure Flit where
  pkt : Packet
  idx : Nat
  esc : Bool
  vc : Nat
  hpOk : Bool
  head : Nat
  deriving DecidableEq, Repr

/-- A packet on its way out over a link: next flit, class, cycle of its age at the stop, rank of its source
(0 input port, 1 control queue, 2 send queue, 3 memory queue), channel (R186, R188). -/
structure Sending where
  pkt : Packet
  next : Nat
  esc : Bool
  age : Nat
  rank : Nat
  vc : Nat
  deriving DecidableEq, Repr

/-- A packet complete at its destination: cycle of its tail's arrival, and the reassembly buffer it stands in (R189). -/
structure Complete where
  pkt : Packet
  tail : Nat
  buf : Option Nat
  deriving DecidableEq, Repr

/-- A link from a stop: the sender's counts, the receiving port, what is under way (R185 to R191). -/
structure Link where
  sSh : Nat := 24
  sE0 : Nat := 4
  sE1 : Nat := 4
  /-- A packet holds VC0, VC1 of the link. -/
  hold0 : Bool := false
  hold1 : Bool := false
  sending : List Sending := []
  /-- Flits under way, with the cycle each arrives in. -/
  fly : List (Nat × Flit) := []
  /-- The receiving port: its free counts, the flits in its slots, its complete packets, reassembly buffers. -/
  rSh : Nat := 24
  rE0 : Nat := 4
  rE1 : Nat := 4
  port : List Flit := []
  complete : List Complete := []
  reasm0 : List Flit := []
  reasm1 : List Flit := []
  /-- Slots freed and not yet reported: cycle, class (0 shared, 1 VC0, 2 VC1), count. -/
  freed : List (Nat × Nat × Nat) := []
  /-- Return words and audits under way, with arrival cycles. -/
  words : List (Nat × RetWord) := []
  /-- The sums the audits under way are compared with, oldest first: by class, and whether the audit was sent since the link's
crossing last trained (R191, R338). -/
  audits : List (Nat × Nat × Nat × Bool) := []
  quiesced : Bool := false
  /-- Packets being discarded after a bad header (R182). -/
  dropping : List Packet := []
  auditCor : Nat := 0
  deriving DecidableEq, Repr

/-- What one UCIe flit carries: Hawser flits and return words with their link keys, at most two of each, and its SLOTMASK[15:4] (R334). -/
structure Carried where
  slots : List (Nat × Flit) := []
  words : List (Nat × RetWord) := []
  mask : Nat := 0
  deriving DecidableEq, Repr

/-- One direction of a crossing (R333 to R338, R360): flit k goes on module k mod 2 under number k / 2. -/
structure Lane where
  /-- Non-idle flits sent, and taken by the receiver. -/
  sent : Nat := 0
  taken : Nat := 0
  /-- Flits under way: arrival cycle, k, contents. -/
  fly : List (Nat × Nat × Carried) := []
  replay : List (Nat × Carried) := []
  /-- A failed flit waits for its replay. -/
  nak : Option Nat := none
  /-- When the newest flit, as first sent, arrives: flits and words of the cycle it was sent in may still join it. -/
  newAt : Option Nat := none
  /-- Cycles of recent Hawser flits, and of recent return words (R336). -/
  recent : List Nat := []
  recentW : List Nat := []
  /-- What comes to the crossing over a closing link, with the cycle it boards in (R192, R360). -/
  board : List (Nat × Carried) := []
  deriving DecidableEq, Repr

/-- A link with training: crossings A 0 and B 1, host link 2, ports X0 3 and X1 4 (R332, R338, R344, R355). -/
structure Crossing where
  /-- 0 down, 1 32 lanes, 2 64 lanes. -/
  width : Nat := 2
  training : Bool := false
  since : Nat := 0
  retrains : Nat := 0
  /-- Links whose senders still await the audit of R338 step 4. -/
  auditsDue : List Nat := []
  restore : Bool := false
  east : Lane := {}
  west : Lane := {}
  deriving DecidableEq, Repr

/-- An extension port's store for cross-device packets, with their channels, the flits sent of the first and whether it took the
escape class, and the frames kept for replay (R333, R355, R357). -/
structure Port where
  outQ : List (Packet × Nat) := []
  sent : Nat := 0
  esc : Bool := false
  replay : List PortFrame := []
  /-- The port's end of the hop: X1's counts of the next device's X0, and what X0 holds (R185, R355). -/
  link : Link := {}
  broken : Bool := false
  deriving DecidableEq, Repr

/-- A launch queue descriptor (R278). -/
structure LQueue where
  ring : Nat := 0
  logn : Nat := 0
  en : Bool := false
  err : Bool := false
  pia : Nat := 0
  cring : Nat := 0
  ci : Nat := 0
  cpi : Nat := 0
  cci : Nat := 0
  deriving DecidableEq, Repr

/-- An image of the frame store (R268): list of slots, length, reference count. -/
structure Image where
  slots : List (Option Nat)
  len : Nat
  refs : Nat
  deriving DecidableEq, Repr

/-- A session (R268). -/
structure Session where
  cur : Option Nat := none
  epoch : Nat := 0
  snap : Nat := 0
  deriving DecidableEq, Repr

/-- A write that waits for a line of a page table in host memory: a record for the interface's fault ring, or a heap's completion
record with its address and its launch's number (R205, R221, R297, R349). -/
inductive Unposted where
  | record (bytes : List Byte)
  | heapDone (va num : Nat) (bytes : List Byte)
  deriving DecidableEq, Repr

/-- A virtual interface (R268, R278, R348, R353). -/
structure Iface where
  mode : Nat
  first : Nat
  bands : Nat
  share : Nat
  chain : Bool
  nsess : Nat
  slots : Nat
  ptroot : Nat := 0
  ptv : Bool := false
  key : Nat := 0
  fring : Nat := 0
  flog : Nat := 0
  fset : Bool := false
  fpi : Nat := 0
  fci : Nat := 0
  flost : Nat := 0
  begun : Nat := 0
  ended : Nat := 0
  token : Nat := 0
  tlbsync : Bool := false
  queues : Tab LQueue := []
  sessions : Tab Session := []
  /-- Handles held: handle word to image (R268). -/
  handles : Tab Nat := []
  images : Tab Image := []
  imageNext : Nat := 1
  /-- Slots in use with their reference counts, and their contents by byte (R268). -/
  slotRefs : Tab Nat := []
  store : Tab Byte := []
  /-- First and last cycle of the interface's ended tasks (R354). -/
  use : List (Nat × Nat) := []
  /-- Per braid: first and last ENDED it took part in since its last in-field pass (R329). -/
  parts : Tab (Nat × Nat) := []
  /-- The STABLE leaf entries of its table at the last level-3 event: address, and value but for A and D (R223). -/
  stable : List (Nat × Nat) := []
  unposted : List Unposted := []
  deriving DecidableEq, Repr

/-- A participant of a commit event: braid, bank, task id, start order (R235). -/
structure Part where
  braid : Nat
  bank : Nat
  tid : Nat
  started : Nat
  lines : List MLine
  tiles : List Tile
  reds : List RedItem
  conflicts : List Nat
  deriving DecidableEq, Repr

/-- A heap entry (R198). -/
structure HEntry where
  tid : Nat
  gain : Word32
  entry : Nat
  args : List Word64
  popped : Bool
  deriving DecidableEq, Repr

/-- State of a heap (R198). -/
inductive HState where
  | fill | run | done
  deriving DecidableEq, Repr

/-- A heap (R197 to R206). -/
structure Heap where
  st : HState
  level : Nat
  unit : Nat
  k : Nat
  base : Nat
  cap : Nat
  tol : Word32
  maxr : Nat
  doneAt : Nat
  vi : Nat
  launch : Nat
  entries : List HEntry
  resid : Pair
  round : Nat
  /-- r as computed at the end of the previous round (R203). -/
  r : Word32
  heldOps : List HeapOp
  /-- The round in progress: popped (task id, gain, entry, args) by place, which have started and ended. -/
  popped : List (Nat × Word32 × Nat × List Word64)
  started : List Nat
  ended : List Nat
  roundOpen : Bool
  committing : Bool
  /-- The round's commit has completed; its operations are next (R199). -/
  updating : Bool
  paused : Bool
  members : List Nat
  status : Nat
  /-- Buffers of halted round tasks (R237). -/
  parts : List Part
  /-- How many times a round has been opened, and the openings that a pre-emption has discarded (R317). -/
  tries : Nat
  voided : List Nat
  deriving DecidableEq, Repr

/-- A launch record as taken (R280, R295). -/
structure Launch where
  uid : Nat
  vi : Nat
  queue : Nat
  num : Nat
  kind : Nat
  entry : Nat
  m1 : Bool
  m2 : Bool
  m3 : Bool
  prio : Nat
  pre : Bool
  braid0 : Nat
  nb : Nat
  sid : Nat
  ovfs : Nat
  release : Nat
  deadline : Nat
  argp : Nat
  ovfb : Nat
  auxp : Nat
  tspb : Nat
  tsps : Nat
  arrival : Nat
  args : List Word64
  wmap : Nat
  tvec : Nat
  frame : List Byte
  heap : List Byte
  /-- KIND 3: operation, N, handle, hash list address, result line, hash. -/
  op : Nat
  n : Nat
  handle : Nat
  hlist : Nat
  res : Nat
  hash : Word64
  /-- The hash list of a lookup, as it stood when the record was taken (R297). -/
  hashes : List Byte
  /-- Progress: physical braids, issue slot, status so far, heap status. -/
  phys : List Nat
  issued : Bool
  issueSlot : Nat
  status : Nat
  stopSlot : Nat
  /-- The braids on which an open phase was discarded (R290, R303). -/
  discards : List Nat
  hstatus : Nat
  preempted : Bool
  /-- Braids that its pre-emption has still to reach (R316). -/
  requests : List Nat
  /-- Braids and banks whose task is still to end; braids still to be delivered to, with the cycle (R286). -/
  live : List (Nat × Nat)
  deliver : List (Nat × Nat)
  /-- Records spawned and not yet started, and the bytes of the spill area in use (R291). -/
  pendingSpawns : Nat
  spill : List Spawn
  resident : Bool
  finished : Bool
  /-- A task of it has faulted: its launch-wide discard has been sent (R302). -/
  doomed : Bool
  deriving DecidableEq, Repr

/-- A prefix table entry (R295). -/
structure PEntry where
  h : Word64
  index : Nat
  handle : Nat
  pin : Nat
  hits : Nat
  deriving DecidableEq, Repr

/-- A commit event in progress (R234, R340): level, interface, heap round if any, participants, packets not yet prepared. -/
structure Event where
  level : Nat
  vi : Nat
  round : Option (Nat × Nat)
  parts : List Part
  begun : Bool
  left : Nat
  deriving DecidableEq, Repr

/-- An error bank record (R323). -/
structure ErrBank where
  v : Bool := false
  uc : Bool := false
  ovf : Bool := false
  poison : Bool := false
  ue : Nat := 0
  ce : Nat := 0
  unit : Nat := 0
  typ : Nat := 0
  addr : Nat := 0
  slot : Nat := 0
  deriving DecidableEq, Repr

/-- The slot clock (R287, R341). -/
structure SlotClock where
  slot : Word64 := 0
  /-- East's counter. -/
  slotE : Word64 := 0
  /-- Reference tick (ns) of the last boundary, West and East. -/
  lastW : Nat := 0
  lastE : Nat := 0
  /-- Cycles of the last boundaries (R288). -/
  cycleW : Nat := 0
  cycleE : Nat := 0
  errW : Bool := false
  errE : Bool := false
  /-- Slew predicted by the last SLOTREF edge (ns), and the cycle of that edge. -/
  slew : Int := 0
  lastEdge : Nat := 0
  announced : Option (Nat × Nat) := none
  acked : Option (Nat × Nat) := none
  heard : Option (Nat × Nat) := none
  deriving DecidableEq, Repr

/-- Bring-up, identity and power (R362 to R369). -/
structure Boot where
  step : Nat := 1
  ready : Bool := false
  code : Nat := 0
  count : Nat := 0
  versions : List Nat := []
  parts : List (List Byte) := []
  idReady : Bool := false
  cap : Nat := 450
  capNext : Nat := 450
  power : Nat := 0
  tempW : Nat := 0
  tempE : Nat := 0
  closures : Nat := 0
  idles : Nat := 0
  /-- How far each die's temperature has lowered its power target, in mW, and the cycle in which its inserted idle cycles end (R368). -/
  lowW : Nat := 0
  lowE : Nat := 0
  gapW : Nat := 0
  gapE : Nat := 0
  resetLow : Option Nat := none
  /-- Cycle in which the configuration was applied (step 7). -/
  since : Nat := 0
  deriving DecidableEq, Repr

/-- The cycle in which a die's inserted idle cycles end (R368). -/
def Boot.gapTill (b : Boot) (east : Bool) : Nat := if east then b.gapE else b.gapW

/-- The admin command interface (R348): BUSY, status, a command's status to come, the fault ring of the device. -/
structure Admin where
  busy : Bool := false
  status : Nat := 0
  due : Option (Nat × Nat) := none
  cmd : Tab Byte := []
  dfring : Nat := 0
  dflog : Nat := 0
  dfset : Bool := false
  dfpi : Nat := 0
  dfci : Nat := 0
  dflost : Nat := 0
  linkDown : Bool := false
  /-- MIGRATE copying: interface, source, destination, size (R351). -/
  migrate : Option (Nat × Nat × Nat × Nat) := none
  /-- Contended pages: physical address of the 64 KiB page, cycle of the contention. -/
  contended : List (Nat × Nat) := []
  migrateVoid : Bool := false
  deriving DecidableEq, Repr

/-- What the device has sent to the host (R344). -/
inductive HostOut where
  | memRead (v off : Nat) (data : List Byte) (poison : Bool)
  | cacheRead (pa : Nat)
  | cacheOwn (pa : Nat)
  | writeBack (pa : Nat) (data : List Byte)
  | snoopClean (pa : Nat)
  | portFrame (port : Nat) (f : PortFrame)
  deriving DecidableEq, Repr

/-- A line request that waits for the host (R347): who asked. -/
structure HostWait where
  pa : Nat
  req : Packet
  deriving DecidableEq, Repr

/-- Who holds an issue slot of the cycle. -/
inductive Act where
  | ctx (b bank : Nat) (c : CtxId)
  | strand (b k : Nat)
  | event (i : Instr) (a b c : Nat)
  deriving DecidableEq, Repr

/-- The agent that acts: a context, a strand, or another agent of the device, named by up to three numbers
(braid, bank and channel; stop and direction; launch and braid; interface and queue; event; link). -/
inductive Who where
  | nobody
  | ctx (b bank : Nat) (c : CtxId)
  | strand (b k : Nat)
  | agent (a b c : Nat)
  deriving DecidableEq, Repr

/-- Memory: physical bytes of LPDDR6, in canonical form, unlisted bytes 0. -/
abbrev Memory := List Host.Cell

/-- The memory's canonical form: addresses strictly rising, no entry equal to what an unlisted address reads as. -/
abbrev Memory.wf (m : Memory) : Bool := twf (0 : Byte) m

/-- A line that a tile load reads under its lock, with the load: braid, bank, channel and request tag (R249). -/
structure LineLock where
  line : Nat
  braid : Nat
  bank : Nat
  ch : Nat
  ask : Nat
  deriving DecidableEq, Repr

/-- Memory side of the device: contents, keys, poison, caches, host lines, owners (R218, R228, R232, R321, R347). -/
structure MemSide where
  mem : Memory := []
  /-- Key generation each line was last written under (R232); 0: none. -/
  keyOf : Tab Nat := []
  keyNext : Nat := 1
  /-- Lines of LPDDR6 with an uncorrectable error, and lines that the L2 holds so (R321, R322). -/
  poison : List Nat := []
  l2Poison : List Nat := []
  /-- Quarantined pages: address and size (R322). -/
  quarantine : List (Nat × Nat) := []
  l2w : List L2Sb := []
  l2e : List L2Sb := []
  /-- Lines of LPDDR6 that the L2 holds otherwise than LPDDR6 decrypts for the interface that wrote it: written and not yet written back,
or filled for another interface (R228, R232); and the key generation a dirty one is to be written back under. -/
  l2Data : Tab (List Byte) := []
  l2Key : Tab Nat := []
  hostLines : Tab (List Byte) := []
  hostDirty : List Nat := []
  /-- Bytes written to host lines not yet held, and lines asked of the host. -/
  hostOver : Tab Byte := []
  hostAsked : List Nat := []
  /-- Lines asked of the host for no-allocate accesses alone (R230), and those whose ownership has been asked for (R347). -/
  hostNa : List Nat := []
  hostOwn : List Nat := []
  /-- What waits for the host link to be up again before it is sent (R344). -/
  unsent : List HostOut := []
  hostWait : List HostWait := []
  /-- Locks that tile loads hold (R249). -/
  locks : List LineLock := []
  amoPairs : Tab (List (Nat × Word64)) := []
  owner : Tab Nat := []
  frameGranules : Tab Nat := []
  errW : Tab ErrBank := []
  errE : Tab ErrBank := []
  rows : Tab Nat := []
  hintW : Word32 := 0
  hintE : Word32 := 0
  deriving DecidableEq, Repr

/-- An error of a die's sequencer or memory-processor SRAM, error bank 25: its cycle, the unit, and where (R323). -/
structure SeqErr where
  cycle : Nat
  east : Bool
  unit : Nat
  uc : Bool
  addr : Nat
  deriving DecidableEq, Repr

/-- The device. -/
structure State where
  cycle : Nat
  /-- The model's own: who issues, what is left of the present cycle, what comes from outside and when, the free-value counter. -/
  cur : Who
  todo : List Act
  inputs : List (Nat × Act)
  /-- Errors of sequencer and memory-processor SRAM that are still to come, brought from outside as `inputs` are. -/
  seqErrs : List SeqErr
  /-- What the device itself has under way, with the cycle each lands in. -/
  pending : List (Nat × Act)
  free : Nat
  braids : Tab Braid
  mem : MemSide
  ifaces : Tab Iface
  /-- Heaps: key 16·die + heap number. -/
  heaps : Tab Heap
  launches : List Launch
  launchNext : Nat
  prefix_ : Tab PEntry
  events : Tab Event
  eventNext : Nat
  /-- Links: key 2·stop + direction, of the sending stop. -/
  links : Tab Link
  crossings : Tab Crossing
  ports : Tab Port
  /-- SEQ of the next packet of each flow, and next expected at the destination (R182): keys of source, destination and devices. -/
  seqs : Tab Nat
  seen : Tab Nat
  clock : SlotClock
  cfg : ConfigImage
  boot : Boot
  admin : Admin
  hostOut : List HostOut
  deriving DecidableEq, Repr

/-- Why the model stops with a fault. Every fault of the architecture (R299) is taken as a next state, so none is left:
the one constructor is raised by nothing in this model, and its absence is safe. -/
inductive Fault where
  | unreachable
  deriving DecidableEq, Repr

/-- Why the model refuses. -/
inductive Refusal where
  /-- Raised by the dispatcher for an instruction without a meaning yet; safe, since the machine stops. -/
  | notModelled (mnemonic : String)
  deriving DecidableEq, Repr

/-- The outcome of an instruction. -/
abbrev Res := Host.Outcome State Fault Refusal

/-- The device right after reset (R362): everything discarded, boot step 1. -/
def State.reset : State :=
  { cycle := 0, cur := .nobody, todo := [], inputs := [], seqErrs := [], pending := [], free := 0,
    braids := [], mem := {}, ifaces := [], heaps := [], launches := [], launchNext := 0,
    prefix_ := [], events := [], eventNext := 0, links := [], crossings := [], ports := [],
    seqs := [], seen := [], clock := {},
    cfg := { rings := 0, period := 10000, dmode := 0, ifter := 1, chainN := 1, dev := 0, saveBase := 0, cap0 := 450, talarm := 85 },
    boot := {}, admin := {}, hostOut := [] }

end Sys2Proof.Machine
end

