-- ==== Sys2Proof/Machine/Access.lean ====
section
/-! DEFINITION. Accessors: braids, banks, contexts, registers, retirement, flags, braid SRAM. -/

namespace Sys2Proof.Machine

/-- Braid `b` (R6). -/
def State.braid (s : State) (b : Nat) : Braid := tget {} s.braids b
def State.setBraid (s : State) (b : Nat) (x : Braid) : State := { s with braids := tput s.braids b x }
def State.modBraid (s : State) (b : Nat) (f : Braid → Braid) : State := s.setBraid b (f (s.braid b))
def State.setMem (s : State) (m : MemSide) : State := { s with mem := m }
def State.setCur (s : State) (w : Who) : State := { s with cur := w }
def State.setTodo (s : State) (l : List Act) : State := { s with todo := l }
/-- An event without an agent. -/
def ev (i : Instr) : Act := .event i 0 0 0
/-- Put actions in front of what is left of the cycle. -/
def State.next (s : State) (l : List Act) : State := { s with todo := l ++ s.todo }
/-- Let an action land in a later cycle. -/
def State.later (s : State) (c : Nat) (a : Act) : State := { s with pending := s.pending ++ [(c, a)] }
/-- The numbers of the acting agent; 0 where none acts. -/
def State.agent (s : State) : Nat × Nat × Nat :=
  match s.cur with
  | .agent a b c => (a, b, c)
  | .ctx b i _ => (b, i, 0)
  | .strand b k => (b, k, 0)
  | .nobody => (0, 0, 0)
/-- The next free number and the state that has used it. -/
def State.draw (s : State) : Nat × State := (Config.freeNat s.free, { s with free := s.free + 1 })
/-- The next free choice and the state that has used it. -/
def State.flip (s : State) : Bool × State := (Config.choice s.free, { s with free := s.free + 1 })

def Braid.bank (x : Braid) (i : Nat) : Bank := if i = 0 then x.b0 else x.b1
def Braid.setBank (x : Braid) (i : Nat) (k : Bank) : Braid := if i = 0 then { x with b0 := k } else { x with b1 := k }
def State.bank (s : State) (b i : Nat) : Bank := (s.braid b).bank i
def State.setBank (s : State) (b i : Nat) (k : Bank) : State := s.modBraid b (·.setBank i k)
def State.modBank (s : State) (b i : Nat) (f : Bank → Bank) : State := s.setBank b i (f (s.bank b i))

def Bank.ctx (k : Bank) : CtxId → Ctx
  | .L => k.l
  | .X => k.x
  | .S => k.s
  | .T => k.t
def Bank.setCtx (k : Bank) (c : CtxId) (x : Ctx) : Bank :=
  match c with
  | .L => { k with l := x }
  | .X => { k with x := x }
  | .S => { k with s := x }
  | .T => { k with t := x }

/-- The context whose slot it is: braid, bank, context. Outside a context's slot, braid 0, bank 0, X (never met in a step). -/
def State.me (s : State) : Nat × Nat × CtxId :=
  match s.cur with
  | .ctx b i c => (b, i, c)
  | _ => (0, 0, .X)
/-- The strand whose slot it is: braid and position. Outside a strand's slot, braid 0 and the given position. -/
def State.here (s : State) (k : Nat) : Nat × Nat :=
  match s.cur with
  | .strand b j => (b, j)
  | _ => (0, k)

def State.myBraid (s : State) : Braid := s.braid s.me.1
def State.myBank (s : State) : Bank := s.bank s.me.1 s.me.2.1
def State.myCtx (s : State) : Ctx := s.myBank.ctx s.me.2.2
def State.modMyBraid (s : State) (f : Braid → Braid) : State := s.modBraid s.me.1 f
def State.modMyBank (s : State) (f : Bank → Bank) : State := s.modBank s.me.1 s.me.2.1 f
def State.modMyCtx (s : State) (f : Ctx → Ctx) : State :=
  s.modMyBank fun k => k.setCtx s.me.2.2 (f (k.ctx s.me.2.2))

/-- Read a scalar register; s0 reads 0 (R12). -/
def Ctx.getS (c : Ctx) (r : BitVec 5) : Word64 := if r = 0 then 0 else tget 0 c.s r.toNat
/-- Write a scalar register; a write of s0 is discarded (R12, R87). -/
def Ctx.setS (c : Ctx) (r : BitVec 5) (v : Word64) : Ctx := if r = 0 then c else { c with s := tset 0 c.s r.toNat v }
/-- Read a predicate; p0 is true (R12). -/
def Ctx.getP (c : Ctx) (r : BitVec 4) : Bool := r == 0 || c.p.getLsbD r.toNat
/-- Write a predicate; a write of p0 is discarded (R12, R87). -/
def Ctx.setP (c : Ctx) (r : BitVec 4) (v : Bool) : Ctx :=
  if r = 0 then c
  else { c with p := (c.p &&& ~~~(1#16 <<< r.toNat)) ||| (if v then 1#16 <<< r.toNat else 0) }

/-- Registers of the issuing context. -/
def State.rS (s : State) (r : BitVec 5) : Word64 := s.myCtx.getS r
def State.wS (s : State) (r : BitVec 5) (v : Word64) : State := s.modMyCtx (·.setS r v)
def State.wP (s : State) (r : BitVec 4) (v : Bool) : State := s.modMyCtx (·.setP r v)

/-- What an access has asked for is asked for anew: the lines it holds go, and so do those still to come (R238). -/
def Ctx.renewed (c : Ctx) : Ctx := { c with fills := [], missing := [], stale := c.stale ++ c.missing }
/-- An instruction has retired: nothing is in progress (R19). -/
def Ctx.retired (c : Ctx) : Ctx :=
  { c.renewed with retireAt := none, ins := none, wait := .none, holding := false, amo := none, amoOld := none, store := none, copies := none }
/-- The context goes on at `a`, bit 0 cleared (R13). -/
def Ctx.goto (c : Ctx) (a : Addr) : Ctx := { c.retired with pc := a &&& ~~~1#48 }
/-- Retire and advance by `n` bytes (R19). -/
def State.advance (s : State) (n : Nat) : State := s.modMyCtx fun c => c.goto (c.pc + BitVec.ofNat 48 n)
/-- Stay in the instruction; say what it waits for (R125). -/
def State.waitIn (s : State) (w : Wait) : State := s.modMyCtx fun c => { c with wait := w }

/-- R19 steps 3 to 5: under a true guard the effect `f`, else only the pc's advance. -/
def guarded (g : BitVec 4) (n : Nat) (s : State) (f : State → State) : Res :=
  .next (if s.myCtx.getP g then f s else s.advance n)

/-- Raise sticky flags of the bank: they stand from the end of this cycle, and a set beats a clear (R27, R105). -/
def Bank.raise (k : Bank) (f : FlagSet) : Bank := { k with flagSets := k.flagSets ||| f }
def Bank.warnBit (k : Bank) (n : Nat) : Bank := { k with warnSets := k.warnSets ||| (1#12 <<< n) }
def State.raiseFlags (s : State) (f : FlagSet) : State := s.modMyBank (·.raise f)
def State.warnIf (s : State) (c : Bool) (n : Nat) : State := if c then s.modMyBank (·.warnBit n) else s

/-- End of a cycle for the sticky registers: a CRW of the cycle, then what was set; and what CRR reads in the next one (R105). -/
def Bank.settle (k : Bank) : Bank :=
  { k with
    flags := (k.flagWrite.getD k.flags) ||| k.flagSets, flagSets := 0, flagWrite := none,
    warn := (k.warnWrite.getD k.warn) ||| k.warnSets, warnSets := 0, warnWrite := none,
    qStart := k.q, phaseStart := (k.task.map Task.phase).getD 0, curStart := k.curBank, rerunStart := k.rerun,
    tpcStart := k.tpc, tcodeStart := k.tcode, tctxStart := k.tctx, tActiveStart := k.tActive, tSavedStart := k.tSaved }

/-- Byte of braid SRAM as at the start of the cycle; above 12 MiB it reads 0 (R23, R208). -/
def Braid.sramAt (x : Braid) (a : Nat) : Byte := if a < Config.sramBytes then tget 0 x.sramStart a else 0
/-- Byte of braid SRAM as it now stands. -/
def Braid.sramNow (x : Braid) (a : Nat) : Byte := if a < Config.sramBytes then tget 0 x.sram a else 0
/-- Write a byte of braid SRAM; above 12 MiB nothing happens (R208). -/
def Braid.sramPut (x : Braid) (a : Nat) (v : Byte) : Braid :=
  if a < Config.sramBytes then { x with sram := tset 0 x.sram a v, bad := x.bad.filter (· ≠ a) } else x
/-- Write bytes one after another. -/
def Braid.sramPuts (x : Braid) (a : Nat) : List Byte → Braid
  | [] => x
  | v :: r => (x.sramPut a v).sramPuts (a + 1) r
/-- `n` bytes as at the start of the cycle. -/
def Braid.sramRead (x : Braid) (a n : Nat) : List Byte := (upto a n).map x.sramAt
def Braid.sramReadNow (x : Braid) (a n : Nat) : List Byte := (upto a n).map x.sramNow

/-- The address lies in the mailbox (R177). -/
def inMail (a : Nat) : Bool := decide (Config.mailBase ≤ a ∧ a < Config.sramBytes)
/-- The address lies in the scratchpad (R208). -/
def inScratch (a : Nat) : Bool := decide (Config.scratchBase ≤ a ∧ a < Config.mailBase)
/-- The address reaches braid SRAM without translation: bits 47 to 24 are 0 (R208). -/
def isLocal (a : Nat) : Bool := decide (a < 0x1000000)

/-- Granule of a window byte, 0 to 49,151 over both banks; none outside the windows (R210). -/
def granuleOf (a : Nat) : Option Nat :=
  if a < Config.windowBytes then some (a / 64)
  else if 0x300000 ≤ a ∧ a < 0x300000 + Config.windowBytes then some (24576 + (a - 0x300000) / 64)
  else none
/-- Byte address of half `h` of granule `g` (R210). -/
def halfBase (g : Nat) (h : Bool) : Nat :=
  (if g < 24576 then g * 64 else 0x300000 + (g - 24576) * 64) + (if h then Config.windowBytes else 0)
/-- The granule a half-aware access reaches under cr.BANK.CUR (R267). -/
def swapGranule (cur : Bool) (g : Nat) : Nat :=
  if cur then (if g < 24576 then g + 24576 else g - 24576) else g

/-- The byte that a half-aware read of an address reaches (R211, R267). -/
def Braid.awareAddr (x : Braid) (bank : Nat) (a : Nat) : Nat :=
  match granuleOf a with
  | none => a
  | some g0 =>
    let k := x.bank bank
    let g := swapGranule k.curBank g0
    let h := tget false x.h g
    let half := if tget false k.w g then !h else h
    halfBase g half + a % 64
/-- A half-aware read of a byte (R211, R267). -/
def Braid.awareAt (x : Braid) (bank : Nat) (a : Nat) : Byte := x.sramAt (x.awareAddr bank a)

/-- A half-aware write under a bit mask; whether the other bank has the granule's W (R211, R267, R307). -/
def Braid.awarePut (x : Braid) (bank : Nat) (w : SWrite) : Braid × Bool :=
  let put (y : Braid) (a : Nat) : Braid := y.sramPut a ((y.sramNow a &&& ~~~w.mask) ||| (w.val &&& w.mask))
  match granuleOf w.addr with
  | none => (put x w.addr, false)
  | some g0 =>
    let k := x.bank bank
    let g := swapGranule k.curBank g0
    if tget false (x.bank (1 - bank)).w g then (x, true)
    else
      let h := tget false x.h g
      let y := if tget false k.w g then x
        else (x.sramPuts (halfBase g (!h)) (x.sramReadNow (halfBase g h) 64)).setBank bank { k with w := tset false k.w g true }
      (put y (halfBase g (!h) + w.addr % 64), false)

/-- A raw write under a bit mask. -/
def Braid.rawPut (x : Braid) (w : SWrite) : Braid :=
  x.sramPut w.addr ((x.sramNow w.addr &&& ~~~w.mask) ||| (w.val &&& w.mask))

def State.iface (s : State) (v : Nat) : Option Iface :=
  if thas s.ifaces v then
    some (tget { mode := 0, first := 0, bands := 0, share := 1, chain := false, nsess := 0, slots := 0 } s.ifaces v)
  else none
def State.modIface (s : State) (v : Nat) (f : Iface → Iface) : State :=
  match s.iface v with
  | none => s
  | some i => { s with ifaces := tput s.ifaces v (f i) }
/-- The interface whose id a number names, or one of no braids. -/
def State.ifaceD (s : State) (v : Nat) : Iface :=
  (s.iface v).getD { mode := 0, first := 0, bands := 0, share := 1, chain := false, nsess := 0, slots := 0 }
def Braid.isEast (b : Nat) : Bool := decide (48 ≤ b)
/-- The first band of a MODE 1 interface's shared arc and its bands: every band no MODE 0 interface owns (R353). -/
def State.owned (s : State) (band : Nat) : Bool :=
  s.ifaces.any fun e => e.2.mode == 0 && decide (e.2.first ≤ band ∧ band < e.2.first + e.2.bands)

/-- First band and band count of an interface's arc; of MODE 1 the bands no MODE 0 interface owns (R353). -/
def State.arc (s : State) (v : Nat) : Nat × Nat :=
  let i := s.ifaceD v
  if i.mode = 0 then (i.first, i.bands)
  else
    let fr := (upto 0 12).filter fun b => !s.owned b
    (fr.headD 0, fr.length)
/-- The physical braid of arc number `a` (R353). -/
def State.physOf (s : State) (v a : Nat) : Nat := 8 * (s.arc v).1 + a
/-- The arc number of a physical braid (R353). -/
def State.arcNo (s : State) (v b : Nat) : Nat := b - 8 * (s.arc v).1

def State.launch (s : State) (uid : Nat) : Option Launch := s.launches.find? fun l => l.uid == uid
def State.modLaunch (s : State) (uid : Nat) (f : Launch → Launch) : State :=
  { s with launches := s.launches.map fun l => if l.uid = uid then f l else l }

/-- A Boolean as a byte. -/
def bit (b : Bool) : Nat := if b then 1 else 0

end Sys2Proof.Machine
end

