-- ==== Sys2Proof/Machine/Memory.lean ====
section
/-! DEFINITION. Device memory: physical bytes, keys, page tables, translation (10: R218 to R224, R232; 17: R346). -/

namespace Sys2Proof.Machine

/-- Key generation of an interface; 0 for the device itself (R232). -/
def State.keyOf (s : State) (v : Nat) : Nat := match s.iface v with
  | some i => i.key
  | none => 0

/-- The address is LPDDR6 (R218). -/
def isLpddr (pa : Nat) : Bool := decide (pa < Config.lpddrBytes)
/-- The address is host memory (R218). -/
def isHost (pa : Nat) : Bool := decide (Config.hostBase ≤ pa ∧ pa < Config.hostEnd)
/-- Home die of a physical address: East when PA[12] is 1; host memory is homed on West (R218). -/
def homeEast (pa : Nat) : Bool := isLpddr pa && bitAt pa 12
/-- An AMO comes from the die that is not the home (R343). -/
def farAmo (pa b : Nat) : Bool := homeEast pa != Braid.isEast b
/-- Stop of the L2 slice of an address (R359). -/
def sliceStop (pa : Nat) : Nat := (if homeEast pa then 48 else 0) + 6 * bits pa 8 3 + 3

/-- Valid and dirty bits of a line in its home's L2 (R228). -/
def MemSide.l2State (m : MemSide) (line : Nat) : Bool × Bool :=
  match (if homeEast (64 * line) then m.l2e else m.l2w).find? fun x => x.tag == line / 4 with
  | some x => (bitAt x.valid (line % 4), bitAt x.dirty (line % 4))
  | none => (false, false)
/-- A byte that LPDDR6 itself holds, as a reader with key `k` decrypts it (R232). -/
def MemSide.dramByte (m : MemSide) (k pa : Nat) : Byte :=
  let o := tget 0 m.keyOf (pa / 64)
  if o = 0 ∨ o = k then tget 0 m.mem pa
  else Config.foreignByte o k pa ((upto (pa / 64 * 64) 64).map fun a => tget 0 m.mem a)
/-- A byte of LPDDR6 at its home for a reader with key `k`: what the L2 holds, which is plaintext, else what LPDDR6 does (R228, R232). -/
def MemSide.lpByte (m : MemSide) (k pa : Nat) : Byte :=
  if thas m.l2Data (pa / 64) then (tget [] m.l2Data (pa / 64)).getD (pa % 64) 0
  else if (m.l2State (pa / 64)).1 then tget 0 m.mem pa
  else m.dramByte k pa

/-- Write bytes at consecutive addresses. -/
def memPuts (m : Memory) (a : Nat) : List Byte → Memory
  | [] => m
  | b :: r => memPuts (tset 0 m a b) (a + 1) r

/-- The bytes of a line as a reader with key `k` finds them at its home. -/
def MemSide.lpLine (m : MemSide) (k line : Nat) : List Byte := (upto (64 * line) 64).map (m.lpByte k)
/-- Bytes of a list of cells stand over those of a line. -/
def overLine (line : Nat) (old : List Byte) (l : List (Nat × Byte)) : List Byte :=
  l.foldl (fun (d : List Byte) e => if e.1 / 64 = line then setNth d (e.1 % 64) e.2 else d) old
/-- Write a line of LPDDR6 itself under key `k` (R232). -/
def MemSide.dramPut (m : MemSide) (k line : Nat) (l : List Byte) : MemSide :=
  { m with mem := memPuts m.mem (64 * line) l, keyOf := tput m.keyOf line k }
/-- A line that the L2 holds takes bytes, to be written back under key `k` (R228, R232). -/
def MemSide.l2Put (m : MemSide) (k line : Nat) (l : List (Nat × Byte)) : MemSide :=
  { m with l2Data := tput m.l2Data line (overLine line (m.lpLine k line) l), l2Key := tput m.l2Key line k }
/-- The L2 holds nothing of a line that LPDDR6 does not. -/
def MemSide.l2Same (m : MemSide) (line : Nat) : MemSide := { m with l2Data := tdel m.l2Data line, l2Key := tdel m.l2Key line }
/-- The L2's copy of a line is written back: LPDDR6 holds it as the L2 did (R228, R232, R325). -/
def MemSide.wroteBack (m : MemSide) (line : Nat) : MemSide :=
  let p := m.poison.filter (· ≠ line)
  let m1 := if thas m.l2Data line then (m.dramPut (tget 0 m.l2Key line) line (tget [] m.l2Data line)).l2Same line else m
  { m1 with poison := if m.l2Poison.contains line then line :: p else p }

/-- What the device sends over the host link, once it is up (R344). -/
def State.toHost (s : State) (l : List HostOut) : State :=
  let x := tget {} s.crossings 2
  if x.width != 0 && !x.training then { s with hostOut := s.hostOut ++ l }
  else { s with mem := { s.mem with unsent := s.mem.unsent ++ l } }
/-- What waited for the host link is sent once it is up (R344). -/
def State.sendUnsent (s : State) : State :=
  if s.mem.unsent.isEmpty then s else ({ s with mem := { s.mem with unsent := [] } } : State).toHost s.mem.unsent
/-- West's L2 holds a line of host memory (R347). -/
def MemSide.holds (m : MemSide) (line : Nat) : Bool := thas m.hostLines line
/-- A byte of host memory held by West's L2; where the line is not held, what the device has written to it, else 0. -/
def MemSide.hostByte (m : MemSide) (pa : Nat) : Byte :=
  if m.holds (pa / 64) then (tget [] m.hostLines (pa / 64)).getD (pa % 64) 0 else tget 0 m.hostOver pa
/-- Ask the host for a line, or for its ownership, once each; `na`: for a no-allocate access (R230, R347). -/
def State.askLineOf (s : State) (line : Nat) (own na : Bool) : State :=
  let m := s.mem
  let known := m.hostAsked.contains line
  let again := known && (!own || m.hostOwn.contains line)
  let m1 : MemSide := { m with
    hostAsked := if known then m.hostAsked else line :: m.hostAsked,
    hostOwn := if own && !m.hostOwn.contains line then line :: m.hostOwn else m.hostOwn,
    hostNa := if na then (if known then m.hostNa else line :: m.hostNa) else m.hostNa.filter (· ≠ line) }
  ({ s with mem := m1 } : State).toHost (if again then [] else [if own then .cacheOwn (64 * line) else .cacheRead (64 * line)])
/-- Ask the host for a line (R347). -/
def State.askHost (s : State) (line : Nat) (own : Bool) : State := s.askLineOf line own false
/-- Ask the host for a line that a no-allocate load reads (R230, R347). -/
def State.askHostNa (s : State) (line : Nat) : State := s.askLineOf line false true

/-- The home's value of a physical byte for interface `v`; an address of no range reads 0. -/
def State.homeByte (s : State) (v pa : Nat) : Byte :=
  if isLpddr pa then s.mem.lpByte (s.keyOf v) pa
  else if isHost pa then s.mem.hostByte pa
  else 0
def State.homeBytes (s : State) (v pa n : Nat) : List Byte := (upto pa n).map (s.homeByte v)

/-- Set of the L2 of a superblock tag: PA[22:13] above PA[11:8] (R228). -/
def l2Set (tag : Nat) : Nat := bits tag 5 10 * 16 + bits tag 0 4
/-- Room for a new superblock: the least recently used unpinned one of a full set leaves (R228, R231). -/
def l2Room (l : List L2Sb) (tag : Nat) : List L2Sb × Option L2Sb :=
  let set := l.filter fun x => l2Set x.tag == l2Set tag
  if set.length < 16 then (l, none)
  else
    match (set.filter fun x => x.pins == 0).getLast? with
    | some v => (l.filter fun x => x.tag != v.tag, some v)
    | none => (l, none)
/-- The L2 of the home die of an address. -/
def State.l2 (s : State) (east : Bool) : List L2Sb := if east then s.mem.l2e else s.mem.l2w
def State.setL2 (s : State) (east : Bool) (l : List L2Sb) : State :=
  { s with mem := if east then { s.mem with l2e := l } else { s.mem with l2w := l } }
/-- The die's hint-override counter (R230). -/
def State.countHint (s : State) (east : Bool) : State :=
  { s with mem := if east then { s.mem with hintE := s.mem.hintE + 1 } else { s.mem with hintW := s.mem.hintW + 1 } }
def State.l2State (s : State) (line : Nat) : Bool × Bool := s.mem.l2State line
/-- A read of the line at its home meets an uncorrectable error: in the L2's copy, or in LPDDR6 where the L2 holds none (R321, R322). -/
def State.linePoison (s : State) (line : Nat) : Bool :=
  if (s.l2State line).1 then s.mem.l2Poison.contains line else s.mem.poison.contains line
/-- A host line leaves West's L2: a dirty one is written back (R347). -/
def State.dropHost (s : State) (line : Nat) : State :=
  if !s.mem.holds line then s
  else
    let out := if s.mem.hostDirty.contains line then [HostOut.writeBack (64 * line) (tget [] s.mem.hostLines line)] else []
    ({ s with mem := { s.mem with hostLines := tdel s.mem.hostLines line, hostDirty := s.mem.hostDirty.filter (· ≠ line) } } : State).toHost out
/-- A line leaves the L2: a dirty one is written back, one of host memory to the host (R228, R347). -/
def State.l2Drop (s : State) (line : Nat) (dirty : Bool) : State :=
  let s1 := s.dropHost line
  let m := if dirty then s1.mem.wroteBack line else s1.mem.l2Same line
  { s1 with mem := { m with l2Poison := m.l2Poison.filter (· ≠ line) } }
/-- A superblock leaves the L2 (R228). -/
def State.l2Leave (s : State) (v : L2Sb) : State :=
  (upto 0 4).foldl (fun (st : State) i => st.l2Drop (4 * v.tag + i) (bitAt v.dirty i)) s
/-- A line that comes into the L2 comes as LPDDR6 decrypts for the interface that asks, and brings the error that stands there with it
(R228, R232, R322). -/
def State.l2Fill (s : State) (v line : Nat) : State :=
  if (s.l2State line).1 || !isLpddr (64 * line) then s
  else
    let o := tget 0 s.mem.keyOf line
    let m := if o = 0 ∨ o = s.keyOf v then s.mem else { s.mem with l2Data := tput s.mem.l2Data line (s.mem.lpLine (s.keyOf v) line) }
    { s with mem := { m with l2Poison := if m.poison.contains line then line :: m.l2Poison else m.l2Poison } }
/-- Bring a superblock into its home's L2, most recently used, with some of its lines valid and dirty; what leaves is written back (R228). -/
def State.l2Bring (s : State) (tag valid dirty : Nat) : State :=
  let east := homeEast (256 * tag)
  let l := s.l2 east
  match l.find? fun x => x.tag == tag with
  | some x => s.setL2 east ({ x with valid := x.valid ||| valid, dirty := x.dirty ||| dirty } :: l.filter fun y => y.tag != tag)
  | none =>
    let (l1, gone) := l2Room l tag
    let s1 := s.setL2 east (⟨tag, valid, dirty, 0⟩ :: l1)
    match gone with
    | none => s1
    | some v => s1.l2Leave v
/-- Bring a line into its home's L2 for an interface (R228). -/
def State.l2Take (s : State) (v line : Nat) (dirty : Bool) : State :=
  let m := 2 ^ (line % 4)
  (s.l2Fill v line).l2Bring (line / 4) m (if dirty then m else 0)
/-- The home's L2 takes a line that stands there: of LPDDR6, or of host memory once it has come (R228, R347). -/
def State.l2Use (s : State) (v line : Nat) (dirty : Bool) : State :=
  if isLpddr (64 * line) || s.mem.holds line then s.l2Take v line dirty else s
/-- The L2's part of a line read (R230). -/
def State.l2Read (s : State) (v line : Nat) (na : Bool) : State :=
  if !na then s.l2Use v line false
  else if s.l2State line = (true, true) then s.countHint (homeEast (64 * line))
  else s

/-- Write bytes of a line of LPDDR6 at its home for an interface: into the L2, which allocates it; under NA into the L2's copy and LPDDR6,
or into a dirty copy alone, or into LPDDR6 alone (R228, R230). -/
def State.lpWrite (s : State) (v line : Nat) (na : Bool) (l : List (Nat × Byte)) : State :=
  let k := s.keyOf v
  if !na then
    let s1 := s.l2Take v line true
    { s1 with mem := s1.mem.l2Put k line l }
  else
    match s.l2State line with
    | (false, _) => { s with mem := s.mem.dramPut k line (overLine line (s.mem.lpLine k line) l) }
    | (true, false) => { s with mem := (s.mem.dramPut k line (overLine line (s.mem.lpLine k line) l)).l2Same line }
    | (true, true) => ({ s with mem := s.mem.l2Put k line l } : State).countHint (homeEast (64 * line))
/-- Write bytes of a line of host memory: ownership is obtained; a line not yet held takes the bytes when it comes. Under NA a clean copy
is updated and written back, and a line not held is written back and not kept (R230, R347). -/
def State.hostWrite (s : State) (line : Nat) (na : Bool) (l : List (Nat × Byte)) : State :=
  let m := s.mem
  if m.holds line then
    let dirty := m.hostDirty.contains line
    let data := overLine line (tget [] m.hostLines line) l
    let s1 := if dirty then s else s.toHost [.cacheOwn (64 * line)]
    let s2 : State := { s1 with mem := { s1.mem with
      hostLines := tput s1.mem.hostLines line data, hostDirty := if na && !dirty then s1.mem.hostDirty else line :: s1.mem.hostDirty.filter (· ≠ line) } }
    if !na then s2.l2Take 64 line true
    else if dirty then s2.countHint false
    else s2.toHost [.writeBack (64 * line) data]
  else
    let s1 := s.askLineOf line true na
    { s1 with mem := { s1.mem with hostOver := l.foldl (fun (t : Tab Byte) e => if e.1 / 64 = line then tput t e.1 e.2 else t) s1.mem.hostOver } }

/-- The 64-byte lines of a list of physical addresses, each once. -/
def linesOf (l : List Nat) : List Nat := distinct (l.map (· / 64))
/-- Write a group of bytes at the home for an interface, its lines under NA as told; a line it covers whole holds no error any more
(R228, R230, R249, R321, R322). Bytes of no range are written nowhere. -/
def State.homeWrite (s : State) (v : Nat) (na : Nat → Bool) (l : List (Nat × Byte)) : State :=
  let s1 := (linesOf (l.map fun e => e.1)).foldl (fun (st : State) ln =>
    if isLpddr (64 * ln) then st.lpWrite v ln (na ln) l else if isHost (64 * ln) then st.hostWrite ln (na ln) l else st) s
  let stays (ln : Nat) : Bool := (upto (64 * ln) 64).any fun a => !(l.any fun e => e.1 == a)
  { s1 with mem := { s1.mem with poison := s1.mem.poison.filter stays, l2Poison := s1.mem.l2Poison.filter stays } }
/-- Write a group of bytes through the home's L2, which then holds its lines dirty (R228). -/
def State.homePuts (s : State) (v : Nat) (l : List (Nat × Byte)) : State := s.homeWrite v (fun _ => false) l

/-- Read `n` little-endian bytes at the home as a number. -/
def State.homeNat (s : State) (v pa n : Nat) : Nat := leNat (s.homeBytes v pa n)

/-- Interface `v` owns the 2 MiB granule of an LPDDR6 address (R345, R346). -/
def State.owns (s : State) (v pa : Nat) : Bool := tget 64 s.mem.owner (pa / 2 ^ 21) == v

/-- What an access is, for R223 and R261. -/
inductive Acc where
  | load | store | fetch | amo | red | seqRead | seqWrite | copyIn | copyOut | copyAdd | area | areaRead
  deriving DecidableEq, Repr

/-- The access writes. -/
def Acc.writes : Acc → Bool
  | .store | .amo | .red | .seqWrite | .copyOut | .copyAdd | .area => true
  | _ => false

/-- Fields of a leaf entry (R220). -/
def leafKind (e : Nat) : Nat := bits e 5 3
def leafOlev (e : Nat) : Nat := bits e 46 2
def leafOunit (e : Nat) : Nat := bits e 48 7

/-- The result of a translation (R221); `away`: a table entry lies in a line of host memory that West's L2 does not hold yet (R347). -/
inductive Tr where
  | ok (pa : Nat) (leaf : Nat)
  | fault (code : Nat)
  | light (entry : Nat) (write : Bool)
  | away (line : Nat)
  deriving DecidableEq, Repr

/-- What a table lookup finds: a value, nothing (page not present), or a line of host memory that has to come first (R221, R347). -/
inductive Found (α : Type) where
  | got (a : α)
  | absent
  | away (line : Nat)
  deriving DecidableEq, Repr
def Found.bind {α β : Type} (x : Found α) (f : α → Found β) : Found β :=
  match x with
  | .got a => f a
  | .absent => .absent
  | .away l => .away l
def Found.ofOption {α : Type} : Option α → Found α
  | some a => .got a
  | none => .absent

/-- A table walk's end: leaf entry, whether it maps 2 MiB, and the entry's address (R219). -/
abbrev Walk := Found (Nat × Bool × Nat)

/-- The entry at an address, refused outside the interface's granules (R346). -/
def State.entryAt (s : State) (v a : Nat) : Found Nat :=
  if isLpddr a then (if s.owns v a then .got (s.homeNat v a 8) else .absent)
  else if !isHost a then .absent
  else if s.mem.holds (a / 64) then .got (s.homeNat v a 8)
  else .away (a / 64)

/-- NEXT of a valid non-leaf entry with its reserved fields 0 (R220); tables of 4 KiB need [11:8] = 0. -/
def nextTable (e : Nat) (big : Bool) : Option Nat :=
  if bitAt e 0 && !bitAt e 1 && bits e 2 6 == 0 && bits e 46 18 == 0 && (!big || bits e 8 4 == 0) then some (bits e 8 38 * 256)
  else none

/-- The leaf is well formed (R220, first two rows of R221 that do not need the kind's access). -/
def leafOk (e : Nat) (big : Bool) : Bool :=
  let pa := bits e 16 30 * 65536
  bitAt e 0 && bitAt e 1 && bits e 8 8 == 0 && bits e 55 9 == 0 && decide (leafKind e ≤ 4) &&
    (isLpddr pa || isHost pa) && (!big || bits e 16 5 == 0) && (isHost pa == (leafKind e == 4))

/-- The physical address of a byte by its leaf. -/
def leafPa (e : Nat) (big : Bool) (va : Nat) : Nat :=
  if big then bits e 21 25 * 2 ^ 21 + va % 2 ^ 21 else bits e 16 30 * 65536 + va % 65536
/-- A table one level down: the table that the entry at an address names (R219, R220). -/
def State.tableAt (s : State) (v a : Nat) (big : Bool) : Found Nat :=
  (s.entryAt v a).bind fun e => .ofOption (nextTable e big)
/-- Address of the level-1 entry of a virtual address (R219). -/
def State.level1 (s : State) (v va : Nat) : Found Nat :=
  let i := s.ifaceD v
  if !i.ptv then .absent else
    (s.tableAt v (i.ptroot + 8 * bits va 39 9) true).bind fun t2 =>
    (s.tableAt v (t2 + 8 * bits va 30 9) true).bind fun t1 => .got (t1 + 8 * bits va 21 9)
/-- The last entry of a walk, whether it stands at level 1 and says LEAF, and its address (R219). -/
def State.lastEntry (s : State) (v va : Nat) : Walk :=
  (s.level1 v va).bind fun a1 =>
  (s.entryAt v a1).bind fun e1 =>
    if bitAt e1 1 then .got (e1, true, a1)
    else (Found.ofOption (nextTable e1 false)).bind fun t0 =>
      let a0 := t0 + 8 * bits va 16 5
      (s.entryAt v a0).bind fun e0 => .got (e0, false, a0)
/-- The walk of levels 3 to 0 (R219, R221). -/
def State.walk (s : State) (v va : Nat) : Walk :=
  (s.lastEntry v va).bind fun e => if leafOk e.1 e.2.1 then .got e else .absent
/-- Addresses of the entries a walk reads (R221). -/
def State.entryAddrs (s : State) (v va : Nat) : List Nat :=
  let i := s.ifaceD v
  let a3 := i.ptroot + 8 * bits va 39 9
  if !i.ptv then []
  else
    a3 :: match s.tableAt v a3 true with
    | .got t2 =>
      let a2 := t2 + 8 * bits va 30 9
      a2 :: match s.tableAt v a2 true with
      | .got t1 =>
        let a1 := t1 + 8 * bits va 21 9
        a1 :: match s.tableAt v a1 false with
        | .got t0 => [t0 + 8 * bits va 16 5]
        | _ => []
      | _ => []
    | _ => []
/-- A walk reads its entries through the home's L2 (R221). -/
def State.walked (s : State) (v va : Nat) : State :=
  (s.entryAddrs v va).foldl (fun (st : State) a => if isLpddr a && !st.owns v a then st else st.l2Use v (a / 64) false) s

/-- The physical page a leaf entry names, whatever its V says (R351; DESIGN CHOICE, log entry 28): address and size. -/
def State.namedPage (s : State) (v va : Nat) : Option (Nat × Nat) :=
  match s.lastEntry v va with
  | .got (e, true, _) => some (bits e 21 25 * 2 ^ 21, 2 ^ 21)
  | .got (e, false, _) => if bitAt e 1 then some (bits e 16 30 * 65536, 65536) else none
  | _ => none
/-- What an entry of a table comes to for the search of STABLE leaves: an entry, or the line of host memory that has to come first. -/
def Found.either {α β : Type} (x : Found α) (f : α → List (β ⊕ Nat)) : List (β ⊕ Nat) :=
  match x with
  | .got a => f a
  | .absent => []
  | .away ln => [.inr ln]
/-- The STABLE leaf entries of an interface's table: address, value but for A and D, and whether the page has 2 MiB; and lines of the table
that are away (R219, R220, R223, R347). -/
def State.stableSearch (s : State) (v : Nat) : List ((Nat × Nat × Bool) ⊕ Nat) :=
  let i := s.ifaceD v
  let down (t n : Nat) (f : Nat → List ((Nat × Nat × Bool) ⊕ Nat)) : List ((Nat × Nat × Bool) ⊕ Nat) := ((upto 0 n).map fun k => f (t + 8 * k)).flatten
  let leaf (big : Bool) (a : Nat) : List ((Nat × Nat × Bool) ⊕ Nat) := (s.entryAt v a).either fun e =>
    if bitAt e 0 && bitAt e 1 && leafKind e == 2 then [.inl (a, e / 16 * 16 + e % 4, big)] else []
  let level1 (a : Nat) := leaf true a ++ (s.tableAt v a false).either fun t => down t 32 (leaf false)
  let level2 (a : Nat) := (s.tableAt v a true).either fun t => down t 512 level1
  if !i.ptv then [] else down i.ptroot 512 fun a => (s.tableAt v a true).either fun t => down t 512 level2
/-- The STABLE leaf entries of an interface's table (R223). -/
def State.stableLeaves (s : State) (v : Nat) : List (Nat × Nat) := (s.stableSearch v).filterMap fun
  | .inl (a, e, _) => some (a, e)
  | .inr _ => none
/-- Lines of host memory that the table of an interface stands in and that are away (R223, R347). -/
def State.stableAway (s : State) (v : Nat) : List Nat := distinct ((s.stableSearch v).filterMap fun
  | .inl _ => none
  | .inr ln => some ln)
/-- The L2 superblocks of the STABLE pages of an interface's table (R220, R231). -/
def State.stableBlocks (s : State) (v : Nat) : List Nat :=
  ((s.stableSearch v).map fun
    | .inl (_, e, big) => if leafOk e big then upto (leafPa e big 0 / 256) ((if big then 2 ^ 21 else 65536) / 256) else []
    | .inr _ => []).flatten
/-- The page of a page-not-present fault meets `n` bytes at a physical address (R351). -/
def State.faultMeets (s : State) (v va pa n : Nat) : Bool :=
  match s.namedPage v va with
  | some (a, m) => decide (a < pa + n) && decide (pa < a + m)
  | none => false

/-- The owning domain of a page contains braid `b` of interface `v` (R223). -/
def State.domainHas (s : State) (v b olev ounit : Nat) : Bool :=
  match olev with
  | 0 => ounit == s.arcNo v b
  | 1 => ounit == s.arcNo v b / 8
  | 2 => ounit == (if Braid.isEast b then 1 else 0)
  | _ => ounit == 0

/-- The kind permits the access (R223, R244, R245, R261; the sequencer reads every kind, R297). -/
def State.permits (s : State) (v b : Nat) (a : Acc) (e : Nat) : Bool :=
  let k := leafKind e
  let dom := s.domainHas v b (leafOlev e) (leafOunit e)
  let priv := k == 0 && leafOlev e == 0 && dom
  match a with
  | .load | .fetch => priv || (k == 1 && dom) || k == 2 || k == 3 || k == 4
  | .store => priv || (k == 1 && dom) || k == 4
  | .amo => k == 3
  | .red => k == 3
  | .seqRead | .seqWrite => true
  | .copyIn => priv || (k == 1 && dom) || k == 2 || k == 3 || k == 4
  | .copyOut => priv || (k == 1 && dom) || k == 4
  | .copyAdd => (k == 1 && dom) || k == 3
  | .area | .areaRead => priv


/-- The rows of R221 after the walk, with R346; a byte of a page that runs beyond the range of its first byte has a PA in no range. -/
def State.checkLeaf (s : State) (v b : Nat) (a : Acc) (va : Nat) : Walk → Tr
  | .absent => .fault 9
  | .away l => .away l
  | .got (e, big, entry) =>
    let pa := leafPa e big va
    if (isLpddr pa && !s.owns v pa) || !(isLpddr pa || isHost pa) then .fault 9
    else if !s.permits v b a e then .fault 11
    else if a.writes && !bitAt e 4 then .fault 12
    else if !bitAt e 2 || (a.writes && !bitAt e 3) then .light entry a.writes
    else .ok pa e

/-- Translate without a TLB (the sequencer and the device, R297). -/
def State.translate (s : State) (v b : Nat) (a : Acc) (va : Nat) : Tr := s.checkLeaf v b a va (s.walk v va)

/-- The page a TLB entry covers holds the address, for the interface the entry belongs to (R219, R224). -/
def TlbEntry.covers (t : TlbEntry) (v va : Nat) : Bool :=
  t.vi == v && if t.big then t.va / 2 ^ 21 == va / 2 ^ 21 else t.va / 65536 == va / 65536

/-- Translate through a TLB of `n` entries, most recently used first: the result, the TLB, and whether it hit (R224). -/
def State.lookup (s : State) (v b n : Nat) (a : Acc) (va : Nat) (tlb : List TlbEntry) : Tr × List TlbEntry × Bool :=
  let fresh :=
    let w := s.walk v va
    let r := s.checkLeaf v b a va w
    match r, w with
    | .ok _ _, .got (e, big, entry) =>
      (r, (⟨v, va, big, e, entry⟩ :: tlb.filter (fun t => !t.covers v va)).take n, false)
    | _, _ => (r, tlb, false)
  match tlb.find? (·.covers v va) with
  | none => fresh
  | some t =>
    match s.checkLeaf v b a va (.got (t.leaf, t.big, t.leafPa)) with
    | .ok pa e => (.ok pa e, t :: tlb.filter (fun u => !u.covers v va), true)
    | .light _ _ => fresh
    | r => (r, tlb, true)

/-- The page kind, level and unit of a leaf. -/
def pageTag (e : Nat) : PageTag := ⟨leafKind e, leafOlev e, leafOunit e⟩

/-- Set A, or A and D, in the entry at a physical address, by the home's memory processor (R222). -/
def State.serveLight (s : State) (v entry : Nat) (write : Bool) : State :=
  let b := s.homeByte v entry
  s.homePuts v [(entry, b ||| (if write then 12#8 else 4#8))]

/-- Why an access goes no further: a fault of a code at an address, or a line of host memory that West's L2 does not hold yet and
that has been asked for (R221, R347). -/
inductive Stop where
  | fault (va code : Nat)
  | away (line : Nat)
  deriving DecidableEq, Repr

/-- The bytes of a sequencer or device access, one after another: a page's first byte walks, light faults are served (R297). Addresses
wrap at the top of the 48-bit space (DESIGN CHOICE, log entry 111). -/
def State.seqBytes (s0 : State) (v : Nat) (a : Acc) (va : Nat) : Nat → State × Except Stop (List Nat)
  | 0 => (s0, .ok [])
  | n + 1 =>
    let s := if va % 65536 = 0 then s0.walked v va else s0
    let (s1, r) :=
      match s.translate v 0 a va with
      | .light entry w =>
        let s' := s.serveLight v entry w
        (s', s'.translate v 0 a va)
      | r => (s, r)
    match r with
    | .ok pa _ =>
      let (s2, rest) := s1.seqBytes v a ((va + 1) % 2 ^ 48) n
      match rest with
      | .ok l => (s2, .ok (pa :: l))
      | .error e => (s2, .error e)
    | .fault c => (s1, .error (.fault va c))
    | .light _ _ => (s1, .error (.fault va 9))
    | .away l => (s1.askHost l false, .error (.away l))

/-- A sequencer or device access of `n` bytes at a virtual address (R297): the physical address of each byte, or why it stops. -/
def State.seqTouch (s : State) (v : Nat) (a : Acc) (va n : Nat) : State × Except Stop (List Nat) := (s.walked v va).seqBytes v a va n

/-- Lines of a list of physical addresses that lie in host memory and have not come yet (R347). -/
def State.hostAway (s : State) (pas : List Nat) : List Nat :=
  (linesOf (pas.filter isHost)).filter fun ln => !s.mem.holds ln

/-- Read bytes for the sequencer through the home's L2; lines of host memory that are away are asked for and waited for (R297, R347). -/
def State.seqRead (s : State) (v va n : Nat) : State × Except Stop (List Byte) :=
  match s.seqTouch v .seqRead va n with
  | (s1, .error e) => (s1, .error e)
  | (s1, .ok l) =>
    match s1.hostAway l with
    | [] => ((linesOf l).foldl (fun (st : State) ln => st.l2Use v ln false) s1, .ok (l.map (s1.homeByte v)))
    | ln :: r => ((ln :: r).foldl (fun (st : State) x => st.askHost x false) s1, .error (.away ln))

/-- Write bytes as one group for the sequencer or the device (R249, R297). -/
def State.seqWrite (s : State) (v va : Nat) (data : List Byte) : State × Except Stop Unit :=
  let (s1, r) := s.seqTouch v .seqWrite va data.length
  match r with
  | .ok l => (s1.homePuts v (l.zip data), .ok ())
  | .error e => (s1, .error e)

end Sys2Proof.Machine
end

