-- ==== Sys2Proof/Machine/Ops.lean ====
section
/-! DEFINITION. Taking an exception and returning from one; fault records, discard, suspension, task end (15: R299 to R314; 08: R205). -/

namespace Sys2Proof.Machine

/-- The code is of the resumable class (R299). -/
def resumable (code : Nat) : Bool := code == 9 || code == 10
/-- The fault suspends its task's bank: it is of the resumable class, and not T's, whose every fault is a discard (R299, R305, R311). -/
def FaultInfo.resumes (f : FaultInfo) : Bool := resumable f.code && f.src != 6
/-- The place of a fault's source in the order L, X, S, LD, MX, SC, VX, ST, T (R300). -/
def FaultInfo.rank (f : FaultInfo) : Nat :=
  if f.src = 0 then (match f.ctx with
    | .L => 0
    | .X => 1
    | .S => 2
    | .T => 8)
  else if f.src < 6 then f.src + 2
  else 8
/-- Of two faults of a cycle the first is recorded: a discard before a resumable one, then by source, an engine command's last, then by
code (R300). -/
def FaultInfo.before (f g : FaultInfo) : Bool :=
  let key (f : FaultInfo) : Nat := 4096 * bit f.resumes + 256 * (if f.engine then 9 else f.rank) + f.code
  decide (key f ≤ key g)
/-- The fault of a cycle's faults that is recorded (R300). -/
def firstFault : List FaultInfo → Option FaultInfo
  | [] => none
  | f :: r => match firstFault r with
    | none => some f
    | some g => some (if f.before g then f else g)

/-- The 64 bytes of a fault record (R301). -/
def faultRecord (f : FaultInfo) (rerun : Bool) (arc bank vi tid launch : Nat) (slot : Word64) (phase : Word32) (token : Nat) : List Byte :=
  natLe 4 (f.code + 256 * f.src + 2048 * bit f.resumes + 4096 * bit f.write + 8192 * bit rerun
      + 2 ^ 16 * arc + 2 ^ 23 * bank + 2 ^ 24 * vi)
    ++ natLe 4 tid ++ natLe 8 f.epc.toNat ++ natLe 8 f.spc.toNat ++ natLe 8 f.va ++ natLe 4 f.tid2 ++ natLe 4 launch
    ++ natLe 8 slot.toNat ++ natLe 4 phase.toNat ++ natLe 4 token ++ natLe 8 0

/-- A record to the device fault ring, whose address the model takes as physical; dropped and counted when it cannot be written (R348, R349). -/
def State.postDevice (s : State) (rec : List Byte) : State :=
  let a := s.admin
  let at_ := a.dfring + 64 * (a.dfpi % 2 ^ a.dflog)
  if !a.dfset || a.dflog < 4 || 12 < a.dflog || (a.dfpi + 2 ^ 32 - a.dfci) % 2 ^ 32 == 2 ^ a.dflog
      || !(isLpddr (at_ + 63) || (isHost at_ && isHost (at_ + 63))) then
    { s with admin := { a with dflost := a.dflost + 1 } }
  else
    let s1 := s.homePuts 64 (atAddr at_ rec)
    { s1 with admin := { a with dfpi := (a.dfpi + 1) % 2 ^ 32 } }

/-- How posting a record ended. -/
inductive Posted where
  | done | dropped | full | away
  deriving DecidableEq, Repr

/-- Write a record into an interface's fault ring (R349). -/
def State.postTry (s : State) (v : Nat) (rec : List Byte) : State × Posted :=
  let i := s.ifaceD v
  let lose (x : State) : State := x.modIface v fun j => { j with flost := j.flost + 1 }
  if !i.fset || i.flog < 4 || 12 < i.flog then (lose s, .dropped)
  else if (i.fpi + 2 ^ 32 - i.fci) % 2 ^ 32 == 2 ^ i.flog then (s, .full)
  else
    match s.seqWrite v (i.fring + 64 * (i.fpi % 2 ^ i.flog)) rec with
    | (s1, .ok _) => (s1.modIface v fun j => { j with fpi := (j.fpi + 1) % 2 ^ 32 }, .done)
    | (s1, .error (.fault va code)) =>
      let f : FaultInfo := { code, src := 0, ctx := .X, epc := 0, va, write := true }
      ((lose s1).postDevice (faultRecord f false 0 0 v 0xFFFFFFFF 0 s.clock.slot 0 0), .dropped)
    | (s1, .error (.away _)) => (s1, .away)

/-- Make a write of the device for an interface: how it ended. A heap's record that cannot be written posts its failure (R205, R349). -/
def State.tryUnposted (s : State) (v : Nat) : Unposted → State × Posted
  | .record rec => s.postTry v rec
  | .heapDone va num data =>
    match s.seqWrite v va data with
    | (s1, .ok _) => (s1, .done)
    | (s1, .error (.away _)) => (s1, .away)
    | (s1, .error (.fault x code)) =>
      s1.postTry v (faultRecord { code, src := 0, ctx := .X, epc := 0, va := x, write := true } false 0 0 v 0xFFFFFFFF num s.clock.slot 0 0)
/-- Make a write of the device, after those that wait: a full ring drops a record without a TOKEN (R349); one whose page table is
away waits (R221, R347). -/
def State.put (s : State) (v : Nat) (u : Unposted) : State :=
  let keep (x : State) : State := x.modIface v fun j => { j with unposted := j.unposted ++ [u] }
  if !(s.ifaceD v).unposted.isEmpty then keep s
  else
    match s.tryUnposted v u with
    | (s1, .full) => s1.modIface v fun j => { j with flost := j.flost + 1 }
    | (s1, .away) => keep s1
    | (s1, _) => s1
/-- Post a record without a TOKEN (R349). -/
def State.post (s : State) (v : Nat) (rec : List Byte) : State := s.put v (.record rec)
/-- The writes that wait are tried again, in order. -/
def State.putWaiting (s : State) (v : Nat) : State :=
  let l := (s.ifaceD v).unposted
  l.foldl (fun (st : State) u => st.put v u) (s.modIface v fun j => { j with unposted := [] })

/-- Record an event in an error bank (R323, R324). -/
def ErrBank.note (e : ErrBank) (uc poison : Bool) (unit typ addr slot : Nat) : ErrBank :=
  let ce := if uc then e.ce else min 65535 (e.ce + 1)
  let ue := if uc then min 255 (e.ue + 1) else e.ue
  if e.v && e.uc then
    if uc then { e with ovf := true, ue } else { e with ce }
  else { v := true, uc, ovf := e.ovf, poison, ue, ce, unit, typ, addr, slot }

/-- An event of an error bank; an uncorrectable one posts a fault record too, which names no address (R301, R324), be it kept by the bank or
not (DESIGN CHOICE, log entry 113). -/
def State.noteErr (s : State) (east : Bool) (bank : Nat) (uc poison : Bool) (unit typ addr : Nat) : State :=
  let f (t : Tab ErrBank) : Tab ErrBank := tmod {} t bank fun e => e.note uc poison unit typ addr (if east then s.clock.slotE else s.clock.slot).toNat
  let s1 := { s with mem := if east then { s.mem with errE := f s.mem.errE } else { s.mem with errW := f s.mem.errW } }
  if uc then
    s1.postDevice (faultRecord { code := 20, src := 0, ctx := .X, epc := 0 } false 0 0 0 0xFFFFFFFF 0 s.clock.slot 0 0)
  else s1

/-- An uncorrectable error in a braid's SRAM is met, and recorded in the bank of its band (R323). -/
def State.noteSram (s : State) (b a : Nat) : State := s.noteErr (Braid.isEast b) (16 + b % 48 / 8) true true (b % 8) 0 a
/-- A line is read at its home: an error that LPDDR6 returns is recorded in its package's bank (R228, R230, R323, R324). -/
def State.readLine (s : State) (v line : Nat) (na : Bool) : State :=
  let met := !(s.l2State line).1 && s.mem.poison.contains line
  let s1 := s.l2Read v line na
  if met then s1.noteErr (homeEast (64 * line)) (bits (64 * line) 13 3) true true 0 0 (64 * line) else s1
/-- A line that was in error is read from LPDDR6 once more: where that succeeds it is rewritten, else the error is recorded (R321, R322). -/
def State.rereadLine (s : State) (line : Nat) : Bool × State :=
  let (good, s1) := s.flip
  (good, if good then
      { s1 with mem := { s1.mem with poison := s1.mem.poison.filter (· ≠ line), l2Poison := s1.mem.l2Poison.filter (· ≠ line) } }
    else s1.noteErr (homeEast (64 * line)) (bits (64 * line) 13 3) true true 0 0 (64 * line))

/-- Record of a task's fault in its interface's ring. -/
def State.recordFault (s : State) (b bank : Nat) (f : FaultInfo) (token : Nat) : List Byte :=
  let k := s.bank b bank
  match k.task with
  | none => faultRecord f k.rerun b bank 0 0xFFFFFFFF 0 s.clock.slot 0 token
  | some t =>
    let num := match s.launch t.launch with
      | some l => l.num
      | none => 0
    faultRecord f k.rerun (s.arcNo t.vi b) bank t.vi t.tid num s.clock.slot t.phase token

/-- Take a number on a channel as retired, in sequence order (R253, R284). -/
def settleDone (done : Nat) (fin : List Nat) : Nat → Nat × List Nat
  | 0 => (done, fin)
  | n + 1 =>
    let nx := (done + 1) % 2 ^ 28
    if fin.contains nx then settleDone nx (fin.filter (· ≠ nx)) n else (done, fin)

/-- Drop L1 lines that a predicate selects (R227). -/
def dropL1 (l1 : List L1Sb) (p : L1Line → Bool) : List L1Sb :=
  (l1.map fun sb => { sb with lines := sb.lines.filter fun e => !p e.2 }).filter fun sb => !sb.lines.isEmpty

/-- Drop one pin of each superblock (R231, R264). -/
def dropPins (l2 : List L2Sb) (tags : List Nat) : List L2Sb :=
  l2.map fun sb => { sb with pins := sb.pins - (tags.filter (· == sb.tag)).length }

/-- A context that stops. -/
def Ctx.stopped (c : Ctx) : Ctx := { c.retired with run := false }
/-- The removal of a channel's commands: they count as retired, and a drain tile one of them was to take is free; the piece that a
running CPIN has under way is still done (R253, R263, R265, R289). -/
def Chan.removed (c : Chan) : Chan :=
  let last : List LastPiece := match c.running && c.asked, c.queue with
    | true, q :: _ => if q.isOut then [] else [⟨q, c.pieces, c.ask, c.awaits, c.lines, c.pages⟩]
    | _, _ => []
  { c with
    tile := if c.queue.any (fun q => q.src) then none else c.tile, lasts := c.lasts ++ last,
    queue := [], running := false, asked := false, awaits := 0, lines := [], pieces := 0, failing := none, stalled := false, done := c.newest }
/-- The removals of R289 and R302 from a bank: everything of the open phase; what was queued on copy channels counts as retired (R253). -/
def Bank.dropPhase (k : Bank) : Bank :=
  { k with
    spilled := [], staged := [], reds := [], conflicts := [], jobs := [], w := [], arrive := none, held := none, parked := [], late := [],
    chans := k.chans.map fun (n, c) => (n, c.removed),
    task := k.task.map fun t => { t with copies := 0, groups := 0 } }

/-- A drain tile that an MDRAIN.cp has not filled goes with its job (R263, R302). -/
def Braid.dropHalfTiles (x : Braid) (bank : Nat) : Braid :=
  x.setBank bank { x.bank bank with chans := (x.bank bank).chans.map fun (n, c) =>
    (n, { c with tile := match c.tile with
      | some t => if t.full then some t else none
      | none => none }) }
/-- Stop the strands of a bank's open jobs: their ops and results in flight are gone (R122, R302). -/
def Braid.stopStrands (x : Braid) (bank : Nat) : Braid :=
  ({ x with
    jobsOpen := x.jobsOpen.filter fun j => j.bank ≠ bank,
    strands := x.strands.map fun (n, t) =>
      (n, if t.job.isSome && t.bank == bank then { t with job := none, op := none, q := 0, nest := [], buf := [] } else t),
    pend := x.pend.filter fun p => p.bank ≠ bank,
    chain := x.regs.acc, accReady := [],
    arriving := [], driven := [] } : Braid).dropHalfTiles bank

/-- The cycle of a commit: PHASE increases, H flips under W, COMMIT.swap changes banks, the phase's leases end, and the
checkpoint of the next phase is taken (R212, R223, R227, R273, R320). -/
def State.phaseDone (s : State) (b bank : Nat) (swap : Bool) (k : Nat) : State :=
  s.modBraid b fun x =>
    let kb := x.bank bank
    let h := kb.w.foldl (fun (m : Tab Bool) e => if e.2 then tset false m e.1 (!tget false m e.1) else m) x.h
    let task := kb.task.map fun t =>
      { t with phase := t.phase + 1, bars := if k = 0 then t.bars else tmod 0 t.bars k (· + 1) }
    ({ x with h, l1 := dropL1 x.l1 fun l => l.kind == 1 || l.kind == 4 }).setBank bank
      { kb with w := [], curBank := if swap then !kb.curBank else kb.curBank, task, arrive := none, rerun := false }

/-- An event of the bank's task has been applied (R235, R302). -/
def State.committed (s : State) (b bank : Nat) : Bool :=
  match (s.bank b bank).arrive with
  | none => false
  | some a => a.passed || match a.event with
    | some id => s.events.any fun e => e.1 == id && e.2.begun
    | none => false
/-- Events a bank takes part in that have not begun to apply are gone, for all their participants (R289, R302). -/
def State.dropEvents (s : State) (b bank : Nat) : State :=
  let dead := (s.events.filter fun e => !e.2.begun && e.2.round.isNone && e.2.parts.any fun p => p.braid == b && p.bank == bank)
  let gone (k : Bank) : Bank := { k with arrive := k.arrive.map fun a =>
    { a with event := if dead.any fun e => some e.1 == a.event then none else a.event } }
  let s1 := dead.foldl (fun (st : State) e => e.2.parts.foldl (fun (st : State) p => st.modBank p.braid p.bank gone) st) s
  { s1 with events := s1.events.filter fun e => !dead.any fun d => d.1 == e.1 }

/-- Discard the open phase of a bank (R289, R302): what is kept is what R289 keeps. -/
def State.dropPhase (s0 : State) (b bank : Nat) : State :=
  let s := match (s0.bank b bank).arrive with
    | some a => if s0.committed b bank then s0.phaseDone b bank a.swap a.level else s0.dropEvents b bank
    | none => s0
  s.modBraid b fun x =>
    let y := if x.jobsOpen.any (·.bank == bank) || x.strands.any (fun e => e.2.job.isSome && e.2.bank == bank) then x.stopStrands bank else x
    let z := { y with merge := if y.runBank = bank then [] else y.merge }
    z.setBank bank (z.bank bank).dropPhase

/-- A task of the bank occupies its braid (R283, R306). -/
def Mode.occupies : Mode → Bool
  | .starting | .running | .cancelling | .suspending | .preempting | .switching => true
  | _ => false
/-- A bank's task stops occupying its braid: the cycles since it began count as its interface's use (R354). -/
def State.closeUse (s : State) (b bank : Nat) : State :=
  let k := s.bank b bank
  match k.task with
  | some t =>
    if k.mode.occupies then s.modIface t.vi fun i => { i with use := (t.from_, s.cycle) :: i.use.filter fun e => s.cycle < e.2 + 2 ^ 21 }
    else s
  | none => s

/-- Every context of a bank stops, T among them. -/
def Bank.stopAll (k : Bank) : Bank :=
  { k with l := k.l.stopped, x := k.x.stopped, s := k.s.stopped, t := k.t.stopped, tActive := false }

/-- The bank of a braid whose task belongs to a launch. -/
def State.bankOf (s : State) (b uid : Nat) : Option Nat :=
  (upto 0 2).find? fun i => match (s.bank b i).task with
    | some t => t.launch == uid
    | none => false

/-- A launch's open phase is discarded on a braid, which its completion record counts once (R290, R303). -/
def Launch.lose (l : Launch) (b : Nat) : Launch := { l with discards := if l.discards.contains b then l.discards else b :: l.discards }

/-- A task has ended on a braid: queues, leases and pins go, sq retires, the launch counts it (R121, R284, R223, R264, R212). -/
def State.endTask (s : State) (b bank : Nat) : State :=
  let k := s.bank b bank
  match k.task with
  | none => s
  | some t =>
    let s1 := (s.closeUse b bank).modBraid b fun x =>
      let x1 := x.setBank bank { k.stopAll with
        task := none, mode := .idle, q := [], qStart := [], jobs := [], spilled := [], staged := [], reds := [], conflicts := [],
        w := [], arrive := none, held := none, parked := [], ckpt := none, susp := none, rerun := false, tSaved := false,
        chans := k.chans.map fun (n, c) => (n, { c with tile := none }) }
      let (dn, fin) := settleDone x.sqDone (t.sq :: x.sqFin) (x.sqFin.length + 1)
      { x1 with
        merge := if x.runBank = bank then [] else x.merge,
        l1 := dropL1 x.l1 (·.kind == 0), sqDone := dn, sqFin := fin }
    let s2 := { s1 with mem := { s1.mem with l2w := dropPins s1.mem.l2w t.pins, l2e := dropPins s1.mem.l2e t.pins } }
    let s3 := s2.modLaunch t.launch fun l =>
      { l with live := l.live.filter (· ≠ (b, bank)), stopSlot := s.clock.slot.toNat }
    match t.round with
    | none => s3
    | some (die, h, place) =>
      { s3 with heaps := s3.heaps.map fun (key, hp) =>
          if key = 16 * die + h ∧ hp.launch = t.launch then (key, { hp with ended := place :: hp.ended }) else (key, hp) }

/-- The braids on which halted tasks of a heap's round lose their phase with it: those of the buffers held, while the round's commit
event has not begun (R234, R302, R303). -/
def State.roundLoses (s : State) (key : Nat) (h : Heap) : List Nat :=
  let begun := s.events.any fun e => e.2.begun && e.2.round == some (key / 16, key % 16)
  if h.roundOpen && !h.updating && !begun then h.parts.map Part.braid else []
/-- Complete a heap with a status: its record is written as one group, or its failure posted (R205, R297). The operations it holds go,
and a round in progress with them, counted with the launch's discards (R206, R303). -/
def State.completeHeap (s : State) (key status who place : Nat) : State :=
  match s.heaps.find? (·.1 == key) with
  | none => s
  | some (_, h) =>
    let never := (h.entries.filter fun e => !e.popped).length
    let rec_ := natLe 4 (key % 16 + 16 * status) ++ natLe 4 h.round ++ natLe 4 (pairWord h.resid).1.toNat ++ natLe 4 never
      ++ natLe 4 who ++ natLe 4 place ++ natLe 4 h.resid.hi.toNat ++ natLe 4 h.resid.lo.toNat ++ List.replicate 32 0
    let h1 : Heap := { h with
      st := .done, status, roundOpen := false, committing := false, updating := false, popped := [], started := [], ended := [], parts := [], heldOps := [] }
    let s1 : State := { s with heaps := tput s.heaps key h1,
                               events := s.events.filter fun e => e.2.begun || e.2.round != some (key / 16, key % 16) }
    let s2 := s1.modLaunch h.launch fun l => { (s.roundLoses key h).foldl Launch.lose l with hstatus := status }
    let num := match s.launch h.launch with
      | some l => l.num
      | none => 0
    s2.put h.vi (.heapDone h.doneAt num rec_)

/-- A launch ends by a fault: its other tasks get the discard within 64 cycles, its deliveries and unstarted records go,
its heap completes with status 6 (R302, R303). -/
def State.doomLaunch (s : State) (uid b bank status hstatus : Nat) : State :=
  match s.launch uid with
  | none => s
  | some l =>
    if l.doomed then s
    else
      let (n, s0) := s.draw
      let others := (l.live.filter (· ≠ (b, bank))).map (·.1)
      let s1 := others.foldl (fun x c => x.later (x.cycle + 1 + n % 64) (.event .discard uid c 0)) s0
      let s2 := s1.modLaunch uid fun l =>
        { l with doomed := true, status := if l.status = 1 then 1 else status, deliver := [],
                 live := l.live.filter (fun p => !(l.deliver.map (·.1)).contains p.1), spill := [], pendingSpawns := 0 }
      let clear (e : Nat × Braid) : Nat × Braid :=
        (e.1, { e.2 with taskQ := e.2.taskQ.filter (·.launch ≠ uid), reserved := if e.2.reserved = some uid then none else e.2.reserved })
      let s3 : State := { s2 with braids := s2.braids.map clear }
      match s3.heaps.find? (fun e => e.2.launch == uid && e.2.st != HState.done) with
      | some (key, _) => s3.completeHeap key hstatus 0 0
      | none => s3

/-- The checkpoint of a commit event (R320). -/
def Bank.checkpoint (k : Bank) : Bank :=
  { k with
    ckpt := some { l := k.l.retired, x := k.x.retired, s := k.s.retired, t := k.t.retired, tActive := k.tActive, tSaved := k.tSaved,
                   tpc := k.tpc, tcode := k.tcode, tctx := k.tctx, held := k.held, lp := k.lp, q := k.q, jobs := k.jobs, jobNext := k.jobNext,
                   jobDone := k.jobDone, jobFin := k.jobFin, chans := k.chans.map fun (n, c) => (n, (c.newest, c.done)),
                   flags := k.flags ||| k.flagSets, warn := k.warn ||| k.warnSets },
    inelig := false, regsWritten := [], unitsRead := [], unitsWritten := [] }

/-- Restore the checkpoint for a re-run (R320). -/
def Bank.restore (k : Bank) (c : Ckpt) : Bank :=
  { k with
    l := c.l, x := c.x, s := c.s, lp := c.lp, q := c.q, qStart := c.q, jobs := c.jobs, jobNext := c.jobNext, jobDone := c.jobDone,
    jobFin := c.jobFin, flags := c.flags, warn := c.warn, flagSets := 0, warnSets := 0, flagWrite := none, warnWrite := none,
    chans := k.chans.map fun (n, h) =>
      (n, { h.removed with
                   newest := (tget (0, 0) c.chans n).1, done := (tget (0, 0) c.chans n).2 }),
    t := c.t, tActive := c.tActive, tSaved := c.tSaved, tpc := c.tpc, tcode := c.tcode, tctx := c.tctx, held := c.held,
    rerun := true, inelig := false, regsWritten := [], unitsRead := [], unitsWritten := [], mode := .running, susp := none }

/-- Say a mode or register once: the cause registers a discard fault writes (R24, R26, R122, R300). -/
def Bank.fault (k : Bank) (f : FaultInfo) : Bank :=
  let mark (c : CtxId) (x : Ctx) : Ctx :=
    if c = f.ctx then { x.stopped with fault := true, epc := f.epc } else { x.stopped with epc := x.pc }
  { k with
    causeCode := BitVec.ofNat 8 f.code, causeSrc := BitVec.ofNat 3 f.src, spc := f.spc,
    l := mark .L k.l, x := mark .X k.x, s := mark .S k.s, t := mark .T k.t }

/-- The contexts of a bank, and the strands where the bank runs, issue no more in this cycle. -/
def State.idleRest (s : State) (b bank : Nat) : State :=
  let run := (s.braid b).runBank
  { s with todo := s.todo.filter fun a =>
      match a with
      | .ctx c i _ => !(c == b && i == bank)
      | .strand c _ => !(c == b && run == bank)
      | _ => true }

/-- A task ends by a discard fault: its record is posted, its contexts and strands stop, its open phase goes, and its launch ends (R302, R303). -/
def State.endByFault (s : State) (b bank : Nat) (f : FaultInfo) : State :=
  match (s.bank b bank).task with
  | none => s
  | some t =>
    let s1 := s.post t.vi (s.recordFault b bank f 0)
    let s2 := s1.modBank b bank (·.fault f)
    let s3 := (s2.dropPhase b bank).idleRest b bank
    let s4 := s3.modLaunch t.launch (·.lose b)
    (s4.doomLaunch t.launch b bank 4 6).endTask b bank

/-- A braid is fenced: every launch that names it ends with code 27 (R327). -/
def State.fence (s : State) (b : Nat) : State :=
  let f : FaultInfo := { code := 27, src := 0, ctx := .X, epc := 0 }
  let s1 := s.modBraid b fun x => { x with fencedOff := true }
  let s2 := (s1.endByFault b 0 f).endByFault b 1 f
  let names (l : Launch) : Bool := l.issued && !l.finished && !l.doomed && l.phys.contains b
  (s2.launches.filter names).foldl (fun (st : State) (l : Launch) =>
    let s3 := st.post l.vi (faultRecord f false (s.arcNo l.vi b) 0 l.vi 0xFFFFFFFF l.num s.clock.slot 0 0)
    s3.doomLaunch l.uid 256 0 4 6) s2

/-- A page is contended, from the present cycle on: each of its units of 64 KiB (R351). -/
def State.nowContended (s : State) (src size : Nat) : State :=
  { s with admin := { s.admin with
    contended := (upto (src / 65536) ((src % 65536 + size + 65535) / 65536)).map (fun u => (65536 * u, s.cycle)) ++ s.admin.contended } }
/-- A page-not-present fault on a page that MIGRATE is copying toward host memory makes it contended (R351). -/
def State.contend (s : State) (v : Nat) (f : FaultInfo) : State :=
  match s.admin.migrate with
  | some (w, src, dst, size) =>
    if f.code = 9 && w == v && isHost dst && s.faultMeets v f.va src size then
      let s1 := s.nowContended src size
      { s1 with admin := { s1.admin with migrateVoid := true } }
    else s
  | none => s

/-- TAKING A FAULT, the one operation of the model (R24, R122, R299 to R305): a resumable fault marks the bank for suspension;
a discard fault stops every context and strand of the task, writes the cause registers, posts its record, drops the open phase,
and then re-runs the phase (R320, R321, R326) or ends the task and its launch (R303). A fault with no task is recorded only (R277). -/
def State.raise (s : State) (b bank : Nat) (f : FaultInfo) : State :=
  let k := s.bank b bank
  match k.task with
  | none => s.postDevice (s.recordFault b bank f 0)
  | some t =>
    if f.resumes then
      if k.mode = .running || k.mode = .starting then
        (s.contend t.vi f).setBank b bank { k with
          mode := .suspending,
          susp := some { code := f.code, src := f.src, ctx := f.ctx, epc := f.epc, write := f.write, va := f.va, token := none, posted := false, answered := false, cycle := s.cycle } }
      else s
    else
      let again := (f.code == 19 || f.code == 20) && !k.inelig && !k.rerun
      match again, k.ckpt with
      | true, some c =>
        let s1 := s.post t.vi (s.recordFault b bank f 0)
        let s2 := s1.modBank b bank (·.fault f)
        let s3 := (s2.dropPhase b bank).idleRest b bank
        let s4 := match f.line with
          | some ln => if f.code = 20 then (s3.rereadLine ln).2 else s3
          | none => s3
        s4.modBank b bank (·.restore c)
      | _, _ =>
        let s1 := (s.endByFault b bank f).modBraid b fun x =>
          { x with
            held := x.held || f.code == 23,
            testAsked := x.testAsked || (f.code == 19 && k.inelig && !k.rerun) }
        if f.code = 19 && k.rerun then s1.fence b else s1

/-- The bank has an open job. -/
def State.jobIn (s : State) (b bank : Nat) : Bool := (s.braid b).jobsOpen.any fun j => j.bank == bank
/-- A fault of the cycle stands until the cycle's last act, which records one (R300). -/
def State.defer (s : State) (b bank : Nat) (f : FaultInfo) : State := s.modBank b bank fun k => { k with late := f :: k.late }
/-- No fault of this cycle that is still to come can go before this one: it is L's, or X's with no job open and none standing, since
contexts issue in the order L, X, S (R23, R300); or it suspends. -/
def State.raisedFirst (s : State) (b bank : Nat) (f : FaultInfo) : Bool :=
  f.resumes || (f.src == 0 && (f.ctx == .L || (f.ctx == .X && !s.jobIn b bank && (s.bank b bank).late.isEmpty)))
/-- A fault of a context, a strand or a job: taken at once where it goes before all others of its cycle, else it stands (R300). -/
def State.fault (s : State) (b bank : Nat) (f : FaultInfo) : State :=
  if s.raisedFirst b bank f then s.raise b bank f else s.defer b bank f
/-- The cycle's faults of a bank are over: the first of those that stand is taken (R300). -/
def State.settleFaults (s : State) (b bank : Nat) : State :=
  match firstFault (s.bank b bank).late with
  | none => s
  | some f => (s.modBank b bank fun k => { k with late := [] }).raise b bank f

/-- A fault of the issuing context at its own instruction (R24, R300). -/
def State.ctxFault (s : State) (code va : Nat) (write : Bool) (line : Option Nat := none) : State :=
  let (b, bank, c) := s.me
  let pc := s.myCtx.pc
  (s.modMyCtx fun x => { x with retireAt := none, ins := none, store := none, holding := false }).fault b bank
    { code, src := if c = .T then 6 else 0, ctx := c, epc := pc, va, write, line }

/-- The instruction is unassigned in this context or has an excluded field: illegal encoding (R19, R78, R124). -/
def State.illegal (s : State) : State := s.ctxFault 1 0 false

/-- A fault raised by a job as a whole (R122). -/
def State.jobFault (s : State) (b : Nat) (bank code : Nat) (j : Job) (va : Nat) : State :=
  s.fault b bank { code, src := 0, ctx := .X, epc := j.pc, va }
/-- A fault of a strand at the parcel `pc`; X's EPC is the instruction it has in progress (R24, R122). -/
def State.strandFault (s : State) (b k code pc va : Nat) (write : Bool := false) : State :=
  let bank := (tget {} (s.braid b).strands k).bank
  (if code = 20 then s.noteSram b va else s).fault b bank
    { code, src := k + 1, ctx := .X, epc := (s.bank b bank).x.pc, spc := BitVec.ofNat 48 pc, va, write }

/-- TRAP's entry (R311): the saved pc and cause, T's registers, T's pc at the handler with bit 0 cleared (R13), ACTIVE. -/
def Bank.takeTrap (k : Bank) (c : CtxId) (code : BitVec 10) (ret tvec : Addr) : Bank :=
  let from_ := k.ctx c
  let args := (upto 2 12).foldl (fun (m : Tab Word64) r => tset 0 m r (tget 0 from_.s r)) []
  { k with
    tpc := ret, tcode := code, tctx := match c with
      | .L => 0
      | .X => 1
      | _ => 2,
    tActive := true,
    t := { s := args, p := 0, pc := tvec &&& ~~~1#48, run := true, began := false } }

/-- RTE's return (R311): s2 and s3 go back, the trapping context resumes at cr.TPC. -/
def Bank.returnTrap (k : Bank) : Bank :=
  let c : CtxId := if k.tctx = 0 then .L else if k.tctx = 1 then .X else .S
  let x := k.ctx c
  let x1 := (x.setS 2 (k.t.getS 2)).setS 3 (k.t.getS 3)
  ({ k with tActive := false, t := { k.t.retired with run := false } }).setCtx c (x1.goto k.tpc)

end Sys2Proof.Machine
end

