-- ==== Sys2Proof/Machine/LoadPath.lean ====
section
/-! DEFINITION. The path of a context access: braid SRAM, merge buffer, overflow area, L1, home (10: R225 to R227, R230, R370; 11: R238 to R242). -/

namespace Sys2Proof.Machine

/-- The interface of a bank's task; 0 with none. -/
def Bank.vi (k : Bank) : Nat := match k.task with
  | some t => t.vi
  | none => 0

/-- The delivery event of a packet by its type (R183, R342). -/
def packetEvent (p : Packet) : Act :=
  ev (match p.typ with
    | 0 => .mail p
    | 1 => .done p
    | 2 => .bara p
    | 3 => .barr p
    | 4 => .heap p
    | 8 => .rdreq p
    | 9 => .rdrsp p
    | 10 => .prep p
    | 11 => .amoreq p
    | 12 => .amorsp p
    | 13 => .redent p
    | 14 => .engine p
    | 15 => .ctrl p
    | _ => .reservedPacket p)

/-- A packet of memory or engine traffic from stop `a` to stop `b` (R342, R359); to its own stop it comes in the next cycle. -/
def State.sendMem (s : State) (typ a b arg flits : Nat) (body : Body) : State :=
  let p : Packet := ⟨typ, a, b, 0, arg, flits, s.cfg.dev, s.cfg.dev, body⟩
  if a = b then s.later (s.cycle + 1) (packetEvent p)
  else s.modBraid a fun x =>
    { x with memQ := x.memQ ++ [p], headAt := if x.memQ.isEmpty then tput x.headAt 2 s.cycle else x.headAt }

/-- Runs of `n` of a list. -/
def chunksOf (n : Nat) : Nat → List Nat → List (List Nat)
  | 0, _ => []
  | _, [] => []
  | f + 1, l => l.take n :: chunksOf n f (l.drop n)
/-- Lines by the slice that holds them, at most the 28 whose bytes 16 flits carry to a packet (R184, R342, R359). -/
def sliceRuns (lines : List Nat) : List (Nat × List Nat) :=
  ((distinct (lines.map fun ln => sliceStop (64 * ln))).map fun stop =>
    let mine := lines.filter fun ln => sliceStop (64 * ln) == stop
    (chunksOf 28 mine.length mine).map fun r => (stop, r)).flatten
/-- Flits of a packet that carries that many bytes (R184). -/
def flitsFor (n : Nat) : Nat := max 1 ((n + 111) / 112)
/-- A context reads a scratchpad byte that an open job writes, or stores to a byte of any of its regions: it waits (R131). -/
def regionHit (r : Nat) (off : Nat) (wOnly : Bool) : Bool :=
  bitAt r 31 && (!wOnly || bitAt r 30) && decide (bits r 13 13 * 1024 ≤ off) && decide (off < (bits r 13 13 + bits r 0 13 + 1) * 1024)
def Braid.jobHolds (x : Braid) (bank a : Nat) (wOnly : Bool) : Bool :=
  inScratch a && x.jobsOpen.any fun j => j.bank == bank && j.job.regions.any fun r => regionHit r (a - Config.scratchBase) wOnly

/-- R320: scratchpad units read before a write, and then written. -/
def Bank.noteRead (k : Bank) (a : Nat) : Bank :=
  let u := a / 1024
  if !inScratch a || k.unitsWritten.contains u || k.unitsRead.contains u then k else { k with unitsRead := u :: k.unitsRead }
def Bank.noteWrite (k : Bank) (a : Nat) : Bank :=
  let u := a / 1024
  if !inScratch a then k
  else { k with inelig := k.inelig || k.unitsRead.contains u,
                unitsWritten := if k.unitsWritten.contains u then k.unitsWritten else u :: k.unitsWritten }
/-- R320: a range of bytes is read. -/
def Bank.noteReads (k : Bank) (a n : Nat) : Bank :=
  (upto (a / 1024) ((a + n + 1023) / 1024 - a / 1024)).foldl (fun (k : Bank) u => k.noteRead (1024 * u)) k
/-- R320: a range of bytes is written. -/
def Bank.noteWrites (k : Bank) (a n : Nat) : Bank :=
  (upto (a / 1024) ((a + n + 1023) / 1024 - a / 1024)).foldl (fun (k : Bank) u => k.noteWrite (1024 * u)) k
/-- R320: a strand register is read: ineligible if the phase has not written it. -/
def Bank.noteReg (k : Bank) (r : Nat) : Bank := if k.regsWritten.contains r then k else { k with inelig := true }
def Bank.noteSet (k : Bank) (r : Nat) : Bank := if k.regsWritten.contains r then k else { k with regsWritten := r :: k.regsWritten }
/-- Every strand register, by its number in R320's notes: v, m, acc, drain records, wb, cb, the Stopper's, and spb of the five strands. -/
def strandRegs : List Nat := upto 0 35 ++ upto 40 40

/-- Own bytes at a physical byte, with the order keys of R262: merged lines 2m+1, tiles 2k, later pieces later. -/
def lineByte (pa : Nat) (l : MLine) : Option MByte :=
  if l.pa = pa / 64 * 64 then
    if thas l.bytes (pa % 64) then some (tget ⟨0, 0, false, .X, false, none, []⟩ l.bytes (pa % 64)) else none
  else none
def ownIn (pa key : Nat) (best : Option (Nat × MByte)) (l : MLine) : Option (Nat × MByte) :=
  match lineByte pa l, best with
  | none, b => b
  | some m, none => some (key, m)
  | some m, some (k0, m0) => if k0 ≤ key then some (key, m) else some (k0, m0)
/-- The own value of a physical byte: what R250's order applies last (R238). -/
def ownByte (merge spilled : List MLine) (tiles : List Tile) (pa : Nat) : Option MByte :=
  let a := (merge ++ spilled).foldl (fun b l => ownIn pa (2 * l.mark + 1) b l) none
  let t := tiles.foldl (fun b t => t.lines.foldl (fun b l => ownIn pa (2 * t.k) b l) b) a
  t.map (·.2)
def State.own (s : State) (b bank pa : Nat) : Option MByte :=
  let x := s.braid b
  let k := x.bank bank
  ownByte (if x.runBank = bank then x.merge else []) k.spilled k.staged pa

/-- A line of the L1 (R227). -/
def l1Find (l1 : List L1Sb) (line : Nat) : Option L1Line :=
  (l1.find? (·.tag == line / 4)).bind fun sb => if thas sb.lines (line % 4) then some (tget ⟨0, [], false, 0, 0⟩ sb.lines (line % 4)) else none
/-- Make a superblock the most recently used. -/
def l1Touch (l1 : List L1Sb) (line : Nat) : List L1Sb :=
  l1.filter (·.tag == line / 4) ++ l1.filter (·.tag ≠ line / 4)
/-- Fill a line, replacing the least recently used superblock of a full set of 8 (R227). -/
def l1Fill (l1 : List L1Sb) (e : L1Line) : List L1Sb :=
  let tag := e.pa / 256
  let old := (l1.find? (·.tag == tag)).getD ⟨tag, []⟩
  let rest := l1.filter (·.tag ≠ tag)
  let set := rest.filter (·.tag % 128 == tag % 128)
  let rest := if set.length < 8 then rest else
    match set.getLast? with
    | some v => rest.filter (·.tag ≠ v.tag)
    | none => rest
  ⟨tag, tput old.lines (e.pa / 64 % 4) e⟩ :: rest

/-- One byte a context reads: where it comes from. -/
inductive Src where
  | val (b : Byte)
  | need (line kind : Nat)
  deriving DecidableEq, Repr

/-- A byte's writes, latest first. -/
def MByte.writes (m : MByte) : List OldByte := ⟨m.val, m.tag, m.j, m.writer, m.covered, m.copy⟩ :: m.older
/-- The values a load may return of a byte's writes, latest first, down to the one it sees in any case; and whether it may
see none of them (R241). -/
def seenOf (sure : OldByte → Bool) : List OldByte → List Byte × Bool
  | [] => ([], true)
  | o :: r => if sure o then ([o.val], false) else (o.val :: (seenOf sure r).1, (seenOf sure r).2)
/-- A load of context `c` and stream `sid` sees a write in any case: one of another context, of its stream, or covered by a fence; a
copy's once it has been acquired (R241, R242, R248). -/
def OldByte.sure (c : CtxId) (sid : Nat) (o : OldByte) : Bool := o.covered || (o.copy.isNone && (o.writer != c || o.tag == sid || o.j))
/-- The free choice of an access for its byte `i`. -/
def pickAt (n i : Nat) : Nat := n / 2 ^ (12 * i) % 2 ^ 12

/-- The value of a translated byte for a load of context `ci` and stream `sid`; `pick` chooses where R241 allows several (R238, R241). -/
def State.srcByte (s : State) (b bank : Nat) (ci : CtxId) (sid pa leaf pick : Nat) : Src :=
  let kind := leafKind leaf
  let c := (s.bank b bank).ctx ci
  let home : Src :=
    match if kind = 3 then none else l1Find (s.braid b).l1 (pa / 64) with
    | some l => .val (l.data.getD (pa % 64) 0)
    | none =>
      if thas c.fills (pa / 64) then .val ((tget ⟨[], false⟩ c.fills (pa / 64)).data.getD (pa % 64) 0)
      else .need (pa / 64) kind
  if kind = 3 then home
  else
    match s.own b bank pa with
    | none => home
    | some m =>
      match seenOf (OldByte.sure ci sid) m.writes with
      | ([v], false) => .val v
      | (vals, bare) =>
        let k := pick % (vals.length + bit bare)
        if k < vals.length then .val (vals.getD k 0) else home
/-- The byte comes from a line that came from its home with an error (R321). -/
def State.fromBad (s : State) (b bank : Nat) (ci : CtxId) (pa leaf : Nat) : Bool :=
  (tget ⟨[], false⟩ ((s.bank b bank).ctx ci).fills (pa / 64)).poison && (leafKind leaf == 3 || (s.own b bank pa).isNone)
    && (leafKind leaf == 3 || (l1Find (s.braid b).l1 (pa / 64)).isNone)

/-- Ask the home slice for a line (R342, R359). -/
def State.askLine (s : State) (b bank : Nat) (c : CtxId) (vi line : Nat) (na : Bool) : State :=
  let pa := line * 64
  s.sendMem 8 b (sliceStop pa) 0 1 (.lineReq pa vi bank c na)

/-- Translate the bytes of a context access, updating the braid's TLB: physical address and leaf of each translated byte,
none for a byte of braid SRAM or beyond the address space; or why it stops. -/
def State.ctxTouch (s : State) (b : Nat) (vi : Nat) (a : Acc) (va : Nat) : Nat → State × Except Stop (List (Option (Nat × Nat)))
  | 0 => (s, .ok [])
  | n + 1 =>
    if isLocal va || decide (2 ^ 48 ≤ va) then
      let (s1, r) := s.ctxTouch b vi a (va + 1) n
      (s1, r.map fun l => none :: l)
    else
      let (r, tlb, hit) := s.lookup vi b 64 a va (s.braid b).tlb
      let s0 := (if hit then s else s.walked vi va).modBraid b fun x => { x with tlb }
      match r with
      | .ok pa leaf =>
        let (s1, q) := s0.ctxTouch b vi a (va + 1) n
        (s1, q.map fun l => some (pa, leaf) :: l)
      | .fault c => (s0, .error (.fault va c))
      | .light _ _ => (s0, .error (.fault va 10))
      | .away l => (s0.askHost l false, .error (.away l))
/-- A context's access stops: it faults, or waits for the line (R221, R347). -/
def State.ctxStop (s : State) (write : Bool) : Stop → State
  | .fault va code => s.ctxFault code va write
  | .away _ => s.waitIn .other

/-- The lines that sources still need. -/
def needs : List Src → List (Nat × Nat)
  | [] => []
  | .need l k :: r => (l, k) :: (needs r).filter (·.1 ≠ l)
  | .val _ :: r => needs r
def values : List Src → List Byte
  | [] => []
  | .val b :: r => b :: values r
  | .need _ _ :: r => 0 :: values r

/-- The page an address lies on: its physical address and size. -/
def State.pageOf (s : State) (v va pa : Nat) : Nat × Nat :=
  match s.walk v va with
  | .got (_, true, _) => (pa / 2 ^ 21 * 2 ^ 21, 2 ^ 21)
  | _ => (pa / 65536 * 65536, 65536)
/-- The physical address lies in a quarantined page (R322). -/
def MemSide.quarantined (m : MemSide) (pa : Nat) : Bool := m.quarantine.any fun q => decide (q.1 ≤ pa) && decide (pa < q.1 + q.2)
/-- A byte is consumed, `bad` where its line came with an error: the code of its fault. On a STABLE page the line is read once more,
and the page quarantined where that fails; the consumer that finds it so takes the quarantined-page fault too, and not R321's (R321,
R322; DESIGN CHOICE, log entry 122). -/
def State.consumeByte (s : State) (v va pa leaf : Nat) (bad : Bool) : State × Option Nat :=
  if leafKind leaf = 2 && s.mem.quarantined pa then (s, some 21)
  else if !bad || !s.linePoison (pa / 64) then (s, none)
  else if leafKind leaf ≠ 2 then (s, some 20)
  else
    match s.rereadLine (pa / 64) with
    | (true, s1) => (s1, none)
    | (false, s1) => ({ s1 with mem := { s1.mem with quarantine := s.pageOf v va pa :: s1.mem.quarantine } }, some 21)
/-- The bytes of an access, one after another, each with its addresses, its leaf and whether its line came with an error: the code,
virtual address and physical line of the first fault (R301, R321, R322). -/
def State.consume (s : State) (v : Nat) : List (Nat × Nat × Nat × Bool) → State × Option (Nat × Nat × Nat)
  | [] => (s, none)
  | (va, pa, leaf, bad) :: r =>
    match s.consumeByte v va pa leaf bad with
    | (s1, some code) => (s1, some (code, va, pa / 64))
    | (s1, none) => s1.consume v r

/-- The launch of a bank's task, for its areas. -/
def State.areaOf (s : State) (k : Bank) : Nat × Nat :=
  match k.task with
  | none => (0, 0)
  | some t =>
    match s.launch t.launch with
    | none => (0, 0)
    | some l => (l.ovfb + 1024 * l.ovfs * t.rank, l.ovfs * 8)

/-- The lines a bank holds in its overflow area: spilled and staged (R226, R262). -/
def Bank.areaLines (k : Bank) : List MLine := k.spilled ++ (k.staged.map fun t => t.lines).flatten
/-- The entries of the area that hold a physical byte. -/
def Bank.entriesOf (k : Bank) (pa : Nat) : List Nat := (k.areaLines.filter fun l => (lineByte pa l).isSome).filterMap MLine.slot
/-- Read entries of a bank's overflow area: their translation, by the task's table (R226, R305). -/
def State.areaRead (s : State) (b bank : Nat) : List Nat → State × Option Stop
  | [] => (s, none)
  | e :: r =>
    let k := s.bank b bank
    let va := (s.areaOf k).1 + 128 * e
    match s.translate k.vi b .areaRead va with
    | .ok pa _ => ((upto (pa / 64) 2).foldl (fun (st : State) ln => st.l2Use k.vi ln false) (s.walked k.vi va)).areaRead b bank r
    | .fault c => (s, some (.fault va c))
    | .light _ _ => (s, some (.fault va 10))
    | .away l => (s.askHost l false, some (.away l))

/-- A context load of `n` bytes on stream `sid` (R101, R208, R209, R131, R225, R226, R230, R321): the bytes once it has taken effect;
none while it waits or where it has faulted. -/
def State.ctxRead (s : State) (va n sid : Nat) (na : Bool) : State × Option (List Byte) :=
  let (b, bank, c) := s.me
  let x := s.braid b
  let addrs := upto va n
  match addrs.find? inMail with
  | some a => (s.ctxFault 7 a false, none)
  | none =>
    if addrs.any fun a => x.jobHolds bank a true then (s.waitIn .other, none)
    else
      let vi := s.myBank.vi
      match addrs.find? fun a => isLocal a && x.bad.contains a, s.ctxTouch b vi .load va n with
      | some a, _ => ((s.noteSram b a).ctxFault 20 a false, none)
      | none, (s1, .error e) => (s1.ctxStop false e, none)
      | none, (s1, .ok l) =>
        let used := l.filterMap id
        match s1.areaRead b bank (distinct ((used.map fun e => if leafKind e.2 = 3 then [] else s1.myBank.entriesOf e.1).flatten)) with
        | (s2, some e) => (s2.ctxStop false e, none)
        | (s2, none) =>
          let (pick, s3) := if used.isEmpty then (0, s2) else s2.draw
          let ctx := s3.myCtx
          let srcs := (addrs.zip l).map fun (a, o) =>
            match o with
            | none => Src.val (if isLocal a then x.sramAt a else 0)
            | some (pa, leaf) => s3.srcByte b bank c sid pa leaf (pickAt pick (a - va))
          match needs srcs with
          | [] =>
            let read := (addrs.zip l).filterMap fun (a, o) => o.map fun (pa, leaf) => (a, pa, leaf, s3.fromBad b bank c pa leaf)
            match s3.consume vi read with
            | (s4, some (code, a, line)) => (s4.ctxFault code a false (some line), none)
            | (s4, none) =>
              let fills := ctx.fills
              let phase := match s4.myBank.task with
                | some t => t.phase.toNat
                | none => 0
              let keep (acc : List L1Sb) (e : Nat × Nat) : List L1Sb :=
                if leafKind e.2 = 3 then acc
                else if (l1Find acc (e.1 / 64)).isSome then l1Touch acc (e.1 / 64)
                else if thas fills (e.1 / 64) then
                  l1Fill acc ⟨e.1 / 64 * 64, (tget ⟨[], false⟩ fills (e.1 / 64)).data, false, leafKind e.2, phase⟩
                else acc
              let s5 := if na then s4 else s4.modBraid b fun y => { y with l1 := used.foldl keep y.l1 }
              (s5.modMyBank fun k => addrs.foldl Bank.noteRead k, some (values srcs))
          | ls =>
            let fresh := ls.filter fun e => !ctx.missing.contains e.1
            let s4 := fresh.foldl (fun st e => st.askLine b bank c vi e.1 na) s3
            (s4.modMyCtx fun y => { y with missing := fresh.map (·.1) ++ y.missing, wait := .other }, none)

/-- The 128-byte image of a line in the overflow area (R226, R262). -/
def lineImage (l : MLine) (group k : Nat) : List Byte :=
  let byte (i : Nat) := tget ⟨0, 0, false, .X, false, none, []⟩ l.bytes i
  (upto 0 64).map (fun i => (byte i).val)
    ++ natLe 8 ((upto 0 64).foldl (fun acc i => acc + if thas l.bytes i then 2 ^ i else 0) 0)
    ++ natLe 8 l.pa
    ++ (upto 0 32).map (fun i => BitVec.ofNat 8 ((byte (2 * i)).tag + 16 * (byte (2 * i + 1)).tag))
    ++ natLe 4 group ++ natLe 4 k ++ natLe 8 0

/-- The first entry of the overflow area a task may use: those below hold what earlier round tasks of the member left (R237). -/
def Bank.areaBase (k : Bank) : Nat := (k.task.map Task.areaBase).getD 0
/-- The first `n` free entries of the overflow area (R226). -/
def Bank.freeEntries (k : Bank) (n : Nat) : List Nat :=
  let used := k.areaLines.filterMap MLine.slot
  ((upto k.areaBase (used.length + n)).filter fun e => !used.contains e).take n
def Bank.freeEntry (k : Bank) : Nat := (k.freeEntries 1).headD k.areaBase
/-- The first entry beyond those in use (R237). -/
def Bank.areaEnd (k : Bank) : Nat := (k.areaLines.filterMap MLine.slot).foldl (fun m e => max m (e + 1)) k.areaBase

/-- Write one entry of a bank's overflow area; why it stops: the area is full, or its translation (R226, R305). -/
def State.areaPut (s : State) (b bank entry : Nat) (img : List Byte) : State × Option Stop :=
  let k := s.bank b bank
  let (base, n) := s.areaOf k
  if n ≤ entry then (s, some (.fault 0 15))
  else
    let va := base + 128 * entry
    match s.translate k.vi b .area va with
    | .ok pa _ => ((s.walked k.vi va).homePuts k.vi (atAddr pa img), none)
    | .fault c => (s, some (.fault va c))
    | .light _ _ => (s, some (.fault va 10))
    | .away l => (s.askHost l false, some (.away l))

/-- Spill a line of the merge buffer to the first free entry (R226). -/
def State.spill (s : State) (b bank : Nat) (l : MLine) : State × Option Stop :=
  let e := (s.bank b bank).freeEntry
  match s.areaPut b bank e (lineImage l 0 l.mark) with
  | (s1, some e) => (s1, some e)
  | (s1, none) =>
    (s1.modBraid b fun x => ({ x with merge := x.merge.filter (· ≠ l) }).setBank bank
      { x.bank bank with spilled := (x.bank bank).spilled ++ [{ l with slot := some e }] }, none)

/-- The copy mark of a bank's next store (R262). -/
def Bank.mark (k : Bank) : Nat := (k.task.map Task.copies).getD 0
/-- One after another, until something stops. -/
def andThen (x : State × Option Stop) (f : State → State × Option Stop) : State × Option Stop :=
  match x with
  | (s, some e) => (s, some e)
  | (s, none) => f s
/-- Have a line of the present copy mark in the merge buffer for a physical line address: a line of an older mark, and the least
recently written one of a full buffer, are spilled; a spilled one of this mark is read back (R226, R262). -/
def State.openLine (s : State) (b bank line leaf : Nat) (na : Bool) : State × Option Stop :=
  let mark := (s.bank b bank).mark
  if (s.braid b).merge.any fun l => l.pa == line && l.mark == mark then (s, none)
  else
    let old := match (s.braid b).merge.find? (·.pa == line) with
      | some l => s.spill b bank l
      | none => (s, none)
    let room := andThen old fun s1 =>
      match decide (2048 ≤ (s1.braid b).merge.length), (s1.braid b).merge.getLast? with
      | true, some l => s1.spill b bank l
      | _, _ => (s1, none)
    andThen room fun s2 =>
      let back := (s2.bank b bank).spilled.find? fun l => l.pa == line && l.mark == mark
      andThen (s2.areaRead b bank ((back.bind MLine.slot).toList)) fun s3 =>
        let fresh : MLine := { pa := line, bytes := [], mark, na, page := pageTag leaf }
        let l : MLine := (back.map fun l => { l with slot := none }).getD fresh
        (s3.modBraid b fun y => ({ y with merge := l :: y.merge }).setBank bank
          { y.bank bank with spilled := (y.bank bank).spilled.filter fun l => !(l.pa == line && l.mark == mark) }, none)

/-- The writes that a new one stands over and a load may still see without it (R241): those of an earlier one that every load sees
in any case hide what is under it. -/
def MByte.under (m : MByte) : List OldByte := if m.j then m.writes.take 1 else m.writes
/-- Write one byte into the open line of the present mark; a conflict is kept (R241, R250). A line keeps the no-allocate hint while
every store to it gave it (R230). -/
def State.mergeByte (s : State) (b bank : Nat) (c : CtxId) (sid pa : Nat) (v : Byte) (na : Bool) : State :=
  let x := s.braid b
  let k := x.bank bank
  let old := s.own b bank pa
  let clash := match old with
    | some m => m.tag != sid && !m.j
    | none => false
  let m : MByte := ⟨v, sid, false, c, false, none, (old.map MByte.under).getD []⟩
  let put (l : MLine) : MLine := { l with bytes := tput l.bytes (pa % 64) m, na := l.na && na }
  let isIt (l : MLine) : Bool := l.pa == pa / 64 * 64 && l.mark == k.mark
  let merge := (x.merge.filter isIt).map put ++ x.merge.filter (fun l => !isIt l)
  s.setBraid b (({ x with merge }).setBank bank { k with conflicts := if clash then pa :: k.conflicts else k.conflicts })

/-- A context store of bytes on stream `sid` (R102, R208, R209, R131, R223, R226, R239, R241): true once it has taken effect. -/
def State.ctxStore (s : State) (va sid : Nat) (na : Bool) (data : List Byte) : State × Bool :=
  let (b, bank, c) := s.me
  let x := s.braid b
  let addrs := upto va data.length
  match addrs.find? inMail with
  | some a => (s.ctxFault 7 a true, false)
  | none =>
    if addrs.any fun a => x.jobHolds bank a false then (s.waitIn .other, false)
    else
      match s.ctxTouch b s.myBank.vi .store va data.length with
      | (s1, .error e) => (s1.ctxStop true e, false)
      | (s1, .ok l) =>
        let lines := (l.filterMap id).foldl (fun acc (pa, leaf) => if acc.any fun e => e.1 == pa / 64 * 64 then acc else acc ++ [(pa / 64 * 64, leaf)]) []
        match lines.foldl (fun st e => andThen st fun x => x.openLine b bank e.1 e.2 na) (s1, none) with
        | (s2, some e) => (s2.ctxStop true e, false)
        | (s2, none) =>
          let s3 := ((addrs.zip l).zip data).foldl (fun st e =>
            match e.1.2 with
            | some (pa, _) => st.mergeByte b bank c sid pa e.2 na
            | none => if isLocal e.1.1 then st.modMyBraid (·.sramPut e.1.1 e.2) else st) s2
          (s3.modMyBank fun k => addrs.foldl Bank.noteWrite k, true)

/-- Bytes an instruction fetch reads (R17, R209, R370): the value of R238 without own values; none where it waits or has faulted. -/
def State.fetchBytes (s : State) (pc n : Nat) : State × Option (List Byte) :=
  let (b, _, _) := s.me
  let x := s.braid b
  let addrs := upto pc n
  match addrs.find? inMail with
  | some a => (s.ctxFault 7 a false, none)
  | none =>
    let vi := s.myBank.vi
    match s.ctxTouch b vi .fetch pc n with
    | (s1, .error e) => (s1.ctxStop false e, none)
    | (s1, .ok l) =>
      match s1.hostAway ((l.filterMap id).map fun e => e.1) with
      | [] =>
        (s1, some ((addrs.zip l).map fun (a, o) =>
          match o with
          | none => if isLocal a then x.sramAt a else 0
          | some (pa, _) => s1.homeByte vi pa))
      | ls => ((ls.foldl (fun (st : State) ln => st.askHost ln false) s1).modMyCtx fun y => { y with wait := .other }, none)

/-- The two parcels at the pc, the second only where the first begins a 32-bit instruction (R17). -/
def State.fetchParcels (s : State) : State × Option (List Parcel) :=
  let pc := s.myCtx.pc.toNat
  let parcel (l : List Byte) : Parcel := BitVec.ofNat 16 (leNat l)
  match s.fetchBytes pc 2 with
  | (s1, none) => (s1, none)
  | (s1, some l) =>
    if leNat l % 4 = 3 then
      match s1.fetchBytes (pc + 2) 2 with
      | (s2, none) => (s2, none)
      | (s2, some m) => (s2, some [parcel l, parcel m])
    else (s1, some [parcel l])

end Sys2Proof.Machine
end

