-- ==== Sys2Proof/Machine/Operands.lean ====
section
/-! DEFINITION. Operand forms of the control core, and the integer results over them (04: R87 to R95). -/

namespace Sys2Proof.Machine

/-- An 11-bit immediate sign-extended to 64 bits (R63, R92, R93, R94). -/
def sext11 (imm : BitVec 11) : Word64 := imm.signExtend 64
/-- An address operand: bits 47 to 0 of a register (R14). -/
def addrOf (w : Word64) : Nat := w.toNat % 2 ^ 48

/-- Retire with a result in a scalar register (R87). -/
def State.result (s : State) (n : Nat) (d : BitVec 5) (v : Word64) : State := (s.wS d v).advance n
/-- Retire with a result in a predicate (R87). -/
def State.resultP (s : State) (n : Nat) (d : BitVec 4) (v : Bool) : State := (s.wP d v).advance n

/-- Register form: rd := f rs1 rs2 (R88). -/
def aluRR (g : BitVec 4) (n : Nat) (d a b : BitVec 5) (f : Word64 → Word64 → Word64) (s : State) : Res :=
  guarded g n s fun s => s.result n d (f (s.rS a) (s.rS b))
/-- Register form with old rd as a further operand. -/
def aluRRD (g : BitVec 4) (n : Nat) (d a b : BitVec 5) (f : Word64 → Word64 → Word64 → Word64) (s : State) : Res :=
  guarded g n s fun s => s.result n d (f (s.rS a) (s.rS b) (s.rS d))
/-- Immediate form: rd := f rd (R92, R93). -/
def aluD (g : BitVec 4) (n : Nat) (d : BitVec 5) (f : Word64 → Word64) (s : State) : Res :=
  guarded g n s fun s => s.result n d (f (s.rS d))
/-- Compare form: pd := f rs1 b (R94). -/
def cmpRR (g pd : BitVec 4) (a b : BitVec 5) (f : Word64 → Word64 → Bool) (s : State) : Res :=
  guarded g 4 s fun s => s.resultP 4 pd (f (s.rS a) (s.rS b))
def cmpRI (g pd : BitVec 4) (a : BitVec 3) (imm : BitVec 11) (f : Word64 → Word64 → Bool) (s : State) : Res :=
  guarded g 4 s fun s => s.resultP 4 pd (f (s.rS (a.setWidth 5)) (sext11 imm))
/-- Predicate form (R95). -/
def predForm (g pd : BitVec 4) (f : Ctx → Bool) (s : State) : Res :=
  guarded g 4 s fun s => s.resultP 4 pd (f s.myCtx)

/-- High half of a signed product (R88). -/
def mulHigh (a b : Word64) : Word64 := BitVec.ofInt 64 (a.toInt * b.toInt / 2 ^ 64)
/-- High half of an unsigned product (R88). -/
def mulHighU (a b : Word64) : Word64 := BitVec.ofNat 64 (a.toNat * b.toNat / 2 ^ 64)
/-- Division outcomes (R89). -/
def divS (x y : Word64) : Word64 := if y = 0 then BitVec.allOnes 64 else BitVec.ofInt 64 (x.toInt.tdiv y.toInt)
def remS (x y : Word64) : Word64 := if y = 0 then x else BitVec.ofInt 64 (x.toInt.tmod y.toInt)
def divU (x y : Word64) : Word64 := if y = 0 then BitVec.allOnes 64 else BitVec.ofNat 64 (x.toNat / y.toNat)
def remU (x y : Word64) : Word64 := if y = 0 then x else BitVec.ofNat 64 (x.toNat % y.toNat)
/-- Shifts by rs2[5:0] (R90). -/
def shl6 (a b : Word64) : Word64 := a <<< (b.toNat % 64)
def shr6 (a b : Word64) : Word64 := a >>> (b.toNat % 64)
def sra6 (a b : Word64) : Word64 := a.sshiftRight (b.toNat % 64)

/-- Number of leading zeros of the `n` low bits (R88). -/
def leadingZeros (w : Word64) : Nat → Nat
  | 0 => 0
  | n + 1 => if w.getLsbD n then 0 else 1 + leadingZeros w n
/-- Number of ones among the `n` low bits (R88). -/
def onesCount (w : Word64) : Nat → Nat
  | 0 => 0
  | n + 1 => (if w.getLsbD n then 1 else 0) + onesCount w n

/-- BFX and BFI (R91): position, effective width and mask of a control word. -/
def bfPos (c : Word64) : Nat := c.toNat % 64
def bfWidth (c : Word64) : Nat := min (bits c.toNat 8 7) (64 - bfPos c)
def bfMask (c : Word64) : Word64 := BitVec.ofNat 64 (2 ^ bfWidth c - 1)
def bfExtract (a c : Word64) : Word64 :=
  let f := (a >>> bfPos c) &&& bfMask c
  if c.getLsbD 15 && decide (0 < bfWidth c) && f.getLsbD (bfWidth c - 1) then f ||| ~~~bfMask c else f
def bfInsert (a c d : Word64) : Word64 :=
  let m := bfMask c <<< bfPos c
  (d &&& ~~~m) ||| ((a <<< bfPos c) &&& m)

/-- Signed and unsigned orders of 64-bit patterns (R94). -/
def ltS (a b : Word64) : Bool := a.slt b
def leS (a b : Word64) : Bool := a.sle b
def ltU (a b : Word64) : Bool := a.ult b
def leU (a b : Word64) : Bool := a.ule b

end Sys2Proof.Machine
end

