-- ==== Sys2Proof/Machine/Alu.lean ====
section
/-! DEFINITION. ALU-R, ALU-I and MOVE-IMM (04: R88 to R93). -/

namespace Sys2Proof.Machine

/-- ADD: rd := a + b (R88). -/
def execAdd (g : BitVec 4) (d a b : BitVec 5) (s : State) : Res :=
  aluRR g 4 d a b (fun a b => a + b) s

/-- SUB: rd := a - b (R88). -/
def execSub (g : BitVec 4) (d a b : BitVec 5) (s : State) : Res :=
  aluRR g 4 d a b (fun a b => a - b) s

/-- MUL: low half of the product (R88). -/
def execMul (g : BitVec 4) (d a b : BitVec 5) (s : State) : Res :=
  aluRR g 4 d a b (fun a b => a * b) s

/-- MULH: signed high half (R88). -/
def execMulh (g : BitVec 4) (d a b : BitVec 5) (s : State) : Res :=
  aluRR g 4 d a b mulHigh s

/-- MULHZ: unsigned high half (R88). -/
def execMulhz (g : BitVec 4) (d a b : BitVec 5) (s : State) : Res :=
  aluRR g 4 d a b mulHighU s

/-- DIV: signed quotient (R89). -/
def execDiv (g : BitVec 4) (d a b : BitVec 5) (s : State) : Res :=
  aluRR g 4 d a b divS s

/-- DIVZ: unsigned quotient (R89). -/
def execDivz (g : BitVec 4) (d a b : BitVec 5) (s : State) : Res :=
  aluRR g 4 d a b divU s

/-- REM: signed remainder (R89). -/
def execRem (g : BitVec 4) (d a b : BitVec 5) (s : State) : Res :=
  aluRR g 4 d a b remS s

/-- REMZ: unsigned remainder (R89). -/
def execRemz (g : BitVec 4) (d a b : BitVec 5) (s : State) : Res :=
  aluRR g 4 d a b remU s

/-- AND: (R88). -/
def execAnd (g : BitVec 4) (d a b : BitVec 5) (s : State) : Res :=
  aluRR g 4 d a b (fun a b => a &&& b) s

/-- OR: (R88). -/
def execOr (g : BitVec 4) (d a b : BitVec 5) (s : State) : Res :=
  aluRR g 4 d a b (fun a b => a ||| b) s

/-- XOR: (R88). -/
def execXor (g : BitVec 4) (d a b : BitVec 5) (s : State) : Res :=
  aluRR g 4 d a b (fun a b => a ^^^ b) s

/-- ANDN: (R88). -/
def execAndn (g : BitVec 4) (d a b : BitVec 5) (s : State) : Res :=
  aluRR g 4 d a b (fun a b => a &&& ~~~b) s

/-- SHL: (R90). -/
def execShl (g : BitVec 4) (d a b : BitVec 5) (s : State) : Res :=
  aluRR g 4 d a b shl6 s

/-- SHR: (R90). -/
def execShr (g : BitVec 4) (d a b : BitVec 5) (s : State) : Res :=
  aluRR g 4 d a b shr6 s

/-- SRA: (R90). -/
def execSra (g : BitVec 4) (d a b : BitVec 5) (s : State) : Res :=
  aluRR g 4 d a b sra6 s

/-- MIN: signed smaller (R88). -/
def execMin (g : BitVec 4) (d a b : BitVec 5) (s : State) : Res :=
  aluRR g 4 d a b (fun a b => if leS a b then a else b) s

/-- MAX: signed larger (R88). -/
def execMax (g : BitVec 4) (d a b : BitVec 5) (s : State) : Res :=
  aluRR g 4 d a b (fun a b => if leS a b then b else a) s

/-- MINZ: unsigned smaller (R88). -/
def execMinz (g : BitVec 4) (d a b : BitVec 5) (s : State) : Res :=
  aluRR g 4 d a b (fun a b => if leU a b then a else b) s

/-- MAXZ: unsigned larger (R88). -/
def execMaxz (g : BitVec 4) (d a b : BitVec 5) (s : State) : Res :=
  aluRR g 4 d a b (fun a b => if leU a b then b else a) s

/-- CLZ (R88). -/
def execClz (g : BitVec 4) (d a : BitVec 5) (s : State) : Res :=
  aluRR g 4 d a 0 (fun a _ => BitVec.ofNat 64 (leadingZeros a 64)) s

/-- POPC (R88). -/
def execPopc (g : BitVec 4) (d a : BitVec 5) (s : State) : Res :=
  aluRR g 4 d a 0 (fun a _ => BitVec.ofNat 64 (onesCount a 64)) s

/-- BFX (R91). -/
def execBfx (g : BitVec 4) (d a b : BitVec 5) (s : State) : Res :=
  aluRR g 4 d a b bfExtract s

/-- BFI (R91). -/
def execBfi (g : BitVec 4) (d a b : BitVec 5) (s : State) : Res :=
  aluRRD g 4 d a b bfInsert s

/-- SEL: a if old rd is not 0, else b (R88). -/
def execSel (g : BitVec 4) (d a b : BitVec 5) (s : State) : Res :=
  aluRRD g 4 d a b (fun a b o => if o = 0 then b else a) s

/-- ADDI (R92). -/
def execAddi (g : BitVec 4) (d : BitVec 5) (imm : BitVec 11) (s : State) : Res :=
  aluD g 4 d (fun x => x + sext11 imm) s

/-- ANDI (R92). -/
def execAndi (g : BitVec 4) (d : BitVec 5) (imm : BitVec 11) (s : State) : Res :=
  aluD g 4 d (fun x => x &&& sext11 imm) s

/-- ORI (R92). -/
def execOri (g : BitVec 4) (d : BitVec 5) (imm : BitVec 11) (s : State) : Res :=
  aluD g 4 d (fun x => x ||| sext11 imm) s

/-- XORI (R92). -/
def execXori (g : BitVec 4) (d : BitVec 5) (imm : BitVec 11) (s : State) : Res :=
  aluD g 4 d (fun x => x ^^^ sext11 imm) s

/-- SHLI (R90, R92). -/
def execShli (g : BitVec 4) (d : BitVec 5) (sh : BitVec 6) (s : State) : Res :=
  aluD g 4 d (fun x => x <<< sh.toNat) s

/-- SHRI (R90, R92). -/
def execShri (g : BitVec 4) (d : BitVec 5) (sh : BitVec 6) (s : State) : Res :=
  aluD g 4 d (fun x => x >>> sh.toNat) s

/-- SRAI (R90, R92). -/
def execSrai (g : BitVec 4) (d : BitVec 5) (sh : BitVec 6) (s : State) : Res :=
  aluD g 4 d (fun x => x.sshiftRight sh.toNat) s

/-- MOVI (R93). -/
def execMovi (g : BitVec 4) (d : BitVec 5) (imm : BitVec 11) (s : State) : Res :=
  aluD g 4 d (fun _ => sext11 imm) s

/-- MOVHI (R93). -/
def execMovhi (g : BitVec 4) (d : BitVec 5) (imm : BitVec 11) (s : State) : Res :=
  aluD g 4 d (fun x => (x <<< 11) ||| imm.setWidth 64) s

end Sys2Proof.Machine
end

