-- ==== Sys2Proof/Machine/Atomic.lean ====
section
/-! DEFINITION. AMO, RED and the fences (11: R239 to R245; 17: R342, R343). -/

namespace Sys2Proof.Machine

/-- Change every write of the bytes of a line. -/
def MLine.mapBytes (l : MLine) (f : OldByte → OldByte) : MLine :=
  { l with bytes := l.bytes.map fun (i, m) =>
      let o := f ⟨m.val, m.tag, m.j, m.writer, m.covered, m.copy⟩
      (i, ⟨o.val, o.tag, o.j, o.writer, o.covered, o.copy, m.older.map f⟩) }
/-- Change every own byte of a bank: merge buffer, overflow area, staged tiles. -/
def State.mapOwn (s : State) (b bank : Nat) (f : OldByte → OldByte) : State :=
  s.modBraid b fun x =>
    let k := x.bank bank
    ({ x with merge := if x.runBank = bank then x.merge.map (fun l : MLine => l.mapBytes f) else x.merge }).setBank bank
      { k with spilled := k.spilled.map (fun l : MLine => l.mapBytes f),
               staged := k.staged.map fun t : Tile => { t with lines := t.lines.map (fun l : MLine => l.mapBytes f) } }

/-- FENCE.s: accesses take effect in issue order, so it retires at once; it covers the context's own bytes of the stream (R240, R241). -/
def execFenceS (g sid : BitVec 4) (s : State) : Res :=
  guarded g 4 s fun s =>
    let (b, bank, c) := s.me
    (s.mapOwn b bank fun m => if m.tag = sid.toNat && m.writer == c && m.copy.isNone then { m with covered := true } else m).advance 4

/-- FENCE.j: sets J on every byte of the task whose tag is in the mask (R240, R241). -/
def execFenceJ (g : BitVec 4) (a : BitVec 5) (s : State) : Res :=
  guarded g 4 s fun s =>
    let (b, bank, _) := s.me
    let mask := (s.rS a).toNat
    (s.mapOwn b bank fun m => if bitAt mask m.tag then { m with j := true } else m).advance 4

/-- The new value of an AMO (R243): operation, width in bytes, unsigned order, old, operand, expected. -/
def amoNew (op n : Nat) (z : Bool) (old x e : Nat) : Nat :=
  let le := intValue (8 * n) z old ≤ intValue (8 * n) z x
  match op with
  | 0 => (old + x) % 2 ^ (8 * n)
  | 1 => x
  | 2 => if old = e then x else old
  | 3 => if le then old else x
  | 4 => if le then x else old
  | 5 => old &&& x
  | _ => old ||| x

/-- The checks of R244 for `n` bytes, then the request to the home; the answer retires it. -/
def amo (op : Nat) (g : BitVec 4) (z wide : Bool) (d a b : BitVec 5) (s : State) : Res :=
  guarded g 4 s fun s =>
    let n := if wide then 8 else 4
    let va := addrOf (s.rS a)
    let (br, bank, c) := s.me
    match s.myCtx.amoOld with
    | some old =>
      ((s.warnIf (z && op ≠ 3 && op ≠ 4) 2).modMyBank fun k => { k with inelig := true }).result 4 d
        (BitVec.ofNat 64 (old.toNat % 2 ^ (8 * n)))
    | none =>
      if s.myCtx.amo.isSome then s.waitIn .other
      else if isLocal va then s.ctxFault 11 va true
      else
        let (s1, r) := s.ctxTouch br s.myBank.vi .amo va 1
        match r with
        | .error e => s1.ctxStop true e
        | .ok l =>
          match l with
          | [some (pa, leaf)] =>
            if leafOlev leaf ≠ 0 || leafOunit leaf ≠ s.arcNo s.myBank.vi br then s1.ctxFault 11 va true
            else if va % n ≠ 0 then s1.ctxFault 13 va true
            else
              let far := farAmo pa br
              let tag := if far then s1.myBraid.amoNext else s1.myBraid.amoNear
              let x := BitVec.ofNat 64 ((s.rS b).toNat % 2 ^ (8 * n))
              let e := BitVec.ofNat 64 ((s.rS d).toNat % 2 ^ (8 * n))
              let body : Body := .amo pa op wide (z && (op == 3 || op == 4)) x e s.myBank.vi bank c
              let s2 := s1.sendMem 11 br (sliceStop pa) tag 1 body
              let p : Packet := ⟨11, br, sliceStop pa, 0, tag, 1, s.cfg.dev, s.cfg.dev, body⟩
              (s2.modMyBraid fun y => if far then { y with amoNext := (tag + 1) % 2 ^ 13 } else { y with amoNear := (tag + 1) % 2 ^ 13 }).modMyCtx fun y => { y with amo := some p, wait := .other }
          | _ => s1.ctxFault 9 va true

/-- AMO.add (R243). -/
def execAmoAdd (g : BitVec 4) (z wide : Bool) (d a b : BitVec 5) (s : State) : Res := amo 0 g z wide d a b s
/-- AMO.swap (R243). -/
def execAmoSwap (g : BitVec 4) (z wide : Bool) (d a b : BitVec 5) (s : State) : Res := amo 1 g z wide d a b s
/-- AMO.cas (R243). -/
def execAmoCas (g : BitVec 4) (z wide : Bool) (d a b : BitVec 5) (s : State) : Res := amo 2 g z wide d a b s
/-- AMO.min (R243). -/
def execAmoMin (g : BitVec 4) (z wide : Bool) (d a b : BitVec 5) (s : State) : Res := amo 3 g z wide d a b s
/-- AMO.max (R243). -/
def execAmoMax (g : BitVec 4) (z wide : Bool) (d a b : BitVec 5) (s : State) : Res := amo 4 g z wide d a b s
/-- AMO.and (R243). -/
def execAmoAnd (g : BitVec 4) (z wide : Bool) (d a b : BitVec 5) (s : State) : Res := amo 5 g z wide d a b s
/-- AMO.or (R243). -/
def execAmoOr (g : BitVec 4) (z wide : Bool) (d a b : BitVec 5) (s : State) : Res := amo 6 g z wide d a b s

/-- Take the next program-order place of a bank's task. -/
def Bank.nextPlace (k : Bank) : Bank := { k with task := k.task.map fun t => { t with place := t.place + 1 } }
def Bank.place (k : Bank) : Nat := match k.task with
  | some t => t.place
  | none => 0

/-- The checks of R245, then one entry in the reduction queue. -/
def red (op : Nat) (g : BitVec 4) (z comp wide : Bool) (a b : BitVec 5) (s : State) : Res :=
  guarded g 4 s fun s =>
    let n := if op = 4 then 8 else if op = 3 then 4 else if wide then 8 else 4
    let va := addrOf (s.rS a)
    let (br, _, _) := s.me
    if isLocal va then s.ctxFault 11 va true
    else
      let (s1, r) := s.ctxTouch br s.myBank.vi .red va 1
      match r with
      | .error e => s1.ctxStop true e
      | .ok l =>
        match l with
        | [some (pa, leaf)] =>
          if va % n ≠ 0 then s1.ctxFault 13 va true
          else if 512 ≤ (s1.myBank.reds.filter fun r => !r.copied).length then s1.ctxFault 15 va true
          else
            let e : RedEntry := ⟨pa, op, n == 8, z && op < 3, comp && decide (3 ≤ op), BitVec.ofNat 64 ((s.rS b).toNat % 2 ^ (8 * n)), leafOlev leaf, 8, 0⟩
            let s2 := s1.modMyBank fun k => ({ k with reds := k.reds ++ [({ place := k.place, red := e } : RedItem)] }).nextPlace
            ((s2.warnIf (comp && decide (op < 3)) 3).warnIf ((wide || z) && decide (3 ≤ op)) 4).advance 4
        | _ => s1.ctxFault 9 va true

/-- RED.add (R245). -/
def execRedAdd (g : BitVec 4) (z comp wide : Bool) (a b : BitVec 5) (s : State) : Res := red 0 g z comp wide a b s
/-- RED.min (R245). -/
def execRedMin (g : BitVec 4) (z comp wide : Bool) (a b : BitVec 5) (s : State) : Res := red 1 g z comp wide a b s
/-- RED.max (R245). -/
def execRedMax (g : BitVec 4) (z comp wide : Bool) (a b : BitVec 5) (s : State) : Res := red 2 g z comp wide a b s
/-- RED.fadd (R245). -/
def execRedFadd (g : BitVec 4) (z comp wide : Bool) (a b : BitVec 5) (s : State) : Res := red 3 g z comp wide a b s
/-- RED.cfadd (R245). -/
def execRedCfadd (g : BitVec 4) (z comp wide : Bool) (a b : BitVec 5) (s : State) : Res := red 4 g z comp wide a b s

end Sys2Proof.Machine
end

