-- ==== Sys2Proof/WellFormed.lean ====
section
/-! DEFINITION. Which instruction terms are well formed: the field values that the opcode map excludes (R63, R69, R71 to R74, R165, R166, R170, R177). -/

namespace Sys2Proof

/-- Formats FCVT converts between (R78, R99). -/
def scalarFormat (f : Nat) : Bool := decide (f ≤ 4) || (decide (7 ≤ f) && decide (f ≤ 10))

/-- Formats VCVT converts between (R165). -/
def laneFormat (f : Nat) : Bool := decide (f ≤ 4) || (decide (7 ≤ f) && decide (f ≤ 9))

/-- Integer formats of 64 bits or fewer (R29). -/
def intFormat (f : Nat) : Bool := decide (7 ≤ f) && decide (f ≤ 10)

/-- Packed formats of VPACK and VUNPK (R166). -/
def packFormat (f : Nat) : Bool := (decide (1 ≤ f) && decide (f ≤ 4)) || f == 7 || f == 8

/-- The 16-bit ones among them. -/
def wideFormat (f : Nat) : Bool := f == 1 || f == 2 || f == 8

/-- Checks every VX frame passes (R74): DST and A name registers or tracks, RND is a rounding code. -/
def VxFrame.common (f : VxFrame) : Bool :=
  decide (f.d.toNat < 20) && decide (f.a.toNat < 20) && decide (f.rnd.toNat < 5)

/-- B names a register or a track. -/
def VxFrame.srcB (f : VxFrame) : Bool := decide (f.b.toNat < 20)

/-- B is unused and 0. -/
def VxFrame.noB (f : VxFrame) : Bool := f.b == 0#5

/-- The field values the opcode map admits; for an event, the numbers of units that exist. -/
def Instr.wf : Instr → Bool
  | .fcvt _ df sf _ _ _ _ => scalarFormat df.toNat && scalarFormat sf.toNat
  | .waitx _ ch _ => ch != 7#3
  | .bar _ k => k != 0#2
  | .crr _ _ n => decide (n.toNat ≤ 23)
  | .crw _ n _ => decide (n.toNat ≤ 23)
  | .blk depth rsrc len rep => decide (1 ≤ depth.toNat) && decide (depth.toNat ≤ 6) && decide (1 ≤ len.toNat) && decide (len.toNat ≤ 510)
      && (!rsrc || decide (rep.toNat < 16))
  | .mmaBf16 _ aop bop _ _ _ => aop != bop
  | .mmaFp16 _ aop bop _ _ _ => aop != bop
  | .mmaFp8e4 _ aop bop _ _ _ => aop != bop
  | .mmaFp8e5 _ aop bop _ _ _ => aop != bop
  | .mmaCb4 _ aop bop _ _ _ => aop != bop
  | .cmmaCbf16 _ aop bop _ _ _ _ _ => aop != bop
  | .cmmaCfp16 _ aop bop _ _ _ _ _ => aop != bop
  | .mwl _ src _ => src != 4#3 && src != 5#3
  | .mcb _ src => src != 4#3 && src != 5#3
  | .vadd f => f.common && f.srcB && f.fn == 0#4
  | .vsub f => f.common && f.srcB && f.fn == 0#4
  | .vmul f => f.common && f.srcB && f.fn == 0#4
  | .vfma f => f.common && f.srcB && f.fn == 0#4
  | .vmin f => f.common && f.srcB && f.fn == 0#4
  | .vmax f => f.common && f.srcB && f.fn == 0#4
  | .vneg f => f.common && f.noB && f.fn == 0#4
  | .vabs f => f.common && f.noB && f.fn == 0#4
  | .vcmp f => f.common && f.srcB && decide (f.d.toNat < 4) && decide (f.fn.toNat < 4)
  | .vsel f => f.common && f.srcB && !f.me && f.fn == 0#4
  | .vcvt f => f.common && laneFormat f.fn.toNat && laneFormat (f.b.toNat % 16)
      && (decide (f.b.toNat < 16) || intFormat f.fn.toNat || intFormat (f.b.toNat % 16))
  | .vexp f => f.common && f.noB && f.fn == 0#4
  | .vlog f => f.common && f.noB && f.fn == 0#4
  | .vrcp f => f.common && f.noB && f.fn == 0#4
  | .vrsq f => f.common && f.noB && f.fn == 0#4
  | .vact f => f.common && f.noB && decide (f.fn.toNat < 4)
  | .vcmul f => f.common && f.srcB && f.fn == 0#4
  | .vredSum f => f.common && f.noB && decide (f.fn.toNat < 2)
  | .vredMax f => f.common && f.noB && decide (f.fn.toNat < 2)
  | .vrot f => f.common && decide (16 * f.b.toNat + f.fn.toNat ≤ 191)
  | .vkey f => f.common && f.noB && decide (f.fn.toNat < 3)
  | .vhist f => f.common && f.srcB && decide (f.fn.toNat < 4)
  | .vchk _ rnd _ => decide (rnd.toNat < 5)
  | .vmov f => f.common && f.noB && f.fn == 0#4
  | .vbit f => f.common && f.srcB && decide (f.fn.toNat < 5)
  | .viadd f => f.common && f.srcB && f.fn == 0#4
  | .vimul f => f.common && f.srcB && f.fn == 0#4
  | .vpack f => f.common && f.srcB && packFormat f.fn.toNat && (wideFormat f.fn.toNat || decide (f.d.toNat < 16))
  | .vunpk f => f.common && packFormat f.fn.toNat && decide (f.b.toNat / 4 % 4 = 0)
      && (!wideFormat f.fn.toNat || decide (f.b.toNat % 4 < 2)) && (decide (f.b.toNat < 16) || intFormat f.fn.toNat)
  | .ldm _ win => decide (win.toNat ≤ 8186)
  | .ldc _ addr => decide (addr.toNat ≤ 0xBFFFFC)
  | .stm _ stop win => decide (stop.toNat < 96) && decide (win.toNat ≤ 8186)
  | .opResult b _ => decide (b < 96)
  | .flit stop _ _ => decide (stop < 96)
  | .returnWord stop _ _ => decide (stop < 96)
  | .auditFlit stop _ _ => decide (stop < 96)
  | .tokenRetry v _ => decide (v < 64)
  | .tokenRefuse v _ => decide (v < 64)
  | .rowRefresh die _ _ => decide (die < 2)
  | .l2Scrub die _ err => decide (die < 2) && decide (err.getD 0 < 4)
  | .inFieldTestEnd b _ => decide (b < 96)
  | .spliceFlit cr _ _ => decide (cr < 2)
  | .retrainComplete link _ _ => decide (link < 5)
  | .portFrame port _ => decide (port < 2)
  | .cxlMemRead v _ _ => decide (v < 64)
  | .cxlMemWrite v _ _ => decide (v < 64)
  | .create v _ => decide (v < 64)
  | .destroy v => decide (v < 64)
  | .assign v _ _ => decide (v ≤ 64)
  | .migrate v _ _ _ => decide (v < 64)
  | .holdrel b => decide (b < 96)
  | .errbankClear die bank => decide (die < 2) && decide (bank < 32)
  | .ptroot v _ => decide (v < 64)
  | .tlbsync v => decide (v < 64)
  | .registerWrite v _ _ => decide (v ≤ 64)
  | .powerGateDecision b _ => decide (b < 96)
  | .add .. | .sub .. | .mul .. | .mulh .. | .mulhz .. | .div .. | .divz .. | .rem ..
  | .remz .. | .and .. | .or .. | .xor .. | .andn .. | .shl .. | .shr .. | .sra ..
  | .min .. | .max .. | .minz .. | .maxz .. | .clz .. | .popc .. | .bfx .. | .bfi ..
  | .sel .. | .addi .. | .andi .. | .ori .. | .xori .. | .shli .. | .shri .. | .srai ..
  | .movi .. | .movhi .. | .cmpEq .. | .cmpNe .. | .cmpLt .. | .cmpLe .. | .cmpLo .. | .cmpLs ..
  | .cmpiEq .. | .cmpiNe .. | .cmpiLt .. | .cmpiLe .. | .cmpiLo .. | .cmpiLs .. | .pand .. | .por ..
  | .pxor .. | .pnot .. | .pmov .. | .fadd .. | .fsub .. | .fmul .. | .ffma .. | .fmin ..
  | .fmax .. | .fabs .. | .fneg .. | .fcmpEq .. | .fcmpLt .. | .fcmpLe .. | .fcmpUn .. | .ldB ..
  | .ldH .. | .ldW .. | .ldD .. | .stB .. | .stH .. | .stW .. | .stD .. | .ldf ..
  | .ste .. | .mbclr .. | .mbstat .. | .amoAdd .. | .amoSwap .. | .amoCas .. | .amoMin .. | .amoMax ..
  | .amoAnd .. | .amoOr .. | .redAdd .. | .redMin .. | .redMax .. | .redFadd .. | .redCfadd .. | .fenceS ..
  | .fenceJ .. | .br .. | .jal .. | .jalr .. | .qput .. | .qget .. | .lpw .. | .fmt ..
  | .job .. | .jwait .. | .cpin .. | .cpout .. | .rvin .. | .rvout .. | .commit .. | .commitSwap ..
  | .snap .. | .fork .. | .rollb .. | .freeh .. | .task .. | .gadd .. | .gset .. | .gmax ..
  | .resid .. | .hmix .. | .trap .. | .rte .. | .tsave .. | .trstr .. | .yield .. | .halt ..
  | .cMov .. | .cAdd .. | .cAddi .. | .cLdD .. | .cStD .. | .cQput .. | .cQget .. | .cBr ..
  | .cLpw .. | .cNop | .idle .. | .join | .mzero .. | .mdrainTrk .. | .mdrainSpd .. | .mdrainCp ..
  | .mstop .. | .scanD .. | .scanC .. | .schunk .. | .scarry .. | .sout .. | .slin .. | .ldt ..
  | .ldx .. | .ldb .. | .stt .. | .stx .. | .stb .. | .auditTick | .mail .. | .done ..
  | .bara .. | .barr .. | .heap .. | .gainRefusal .. | .reservedPacket .. | .rdreq .. | .rdrsp .. | .prep ..
  | .amoreq .. | .amorsp .. | .redent .. | .engine .. | .ctrl .. | .commitEvent | .eventPrepared | .eventComplete ..
  | .prefixLookup | .prefixInsert | .prefixUnpin | .launchComplete | .slotBoundary | .slotref .. | .slotrefTimeout | .slotAnnouncement ..
  | .slotAck .. | .launchResume | .snoop .. | .attest .. | .spliceRetrainA | .spliceRetrainB | .hostLinkRetrain | .cap ..
  | .powerEvaluation .. | .thermalTrip | .resetN .. | .reset .. | .bootStep .. | .illegalEncoding | .cxlCacheResponse .. | .adminCommandComplete => true
  | .jobStart | .rendezvous | .overrun | .taskStart | .packetDelivery | .taskSpillReturn | .heapRun | .roundTaskStart | .copyStart | .copyPiece | .reeveStart | .rvinRetire | .rvoutRetire | .lightFault | .recordTake | .launchIssue | .cancellation | .discard | .suspend | .tokenRecordPost | .bankSwitch | .braidStall | .preemption | .inFieldTest | .flitReplay | .retrain | .linkDown | .flitSend => true

end Sys2Proof
end

