-- ==== Sys2Proof/Decode.lean ====
section
/-! DEFINITION. The decoder of control-core words, 16-bit forms and strand parcels, total and rejecting by name, and the encoder (R61 to R78). -/

namespace Sys2Proof

/-- Why parcels are no instruction (R78). -/
inductive Reject where
  | truncated        -- fewer parcels than the instruction needs
  | zeroParcel       -- the parcel 0x0000 in a control stream (R18)
  | major            -- majors 25 to 31 (R19)
  | minor            -- an unassigned minor or operation value
  | reserved         -- a nonzero reserved field
  | field            -- an excluded field value
  | half             -- an unassigned 16-bit pattern (R67)
  | shape            -- a parcel of the other shape for its op (R70)
  | op               -- an op number the strand does not assign (R73)
  deriving DecidableEq, Repr

/-- Accept `i` when its reserved fields are 0 and its field values are admitted. -/
def accept (rsv : Bool) (i : Instr) : Except Reject Instr :=
  if rsv then (if i.wf then .ok i else .error .field) else .error .reserved

/-- A field of the word that must be 0. -/
def zf (w lo n : Nat) : Bool := bits w lo n == 0

/-- ALU-R, major 0 (R88). -/
def decodeAluR (w : Nat) : Except Reject Instr :=
  let g := bvAt w 28 4; let d := bvAt w 7 5; let a := bvAt w 12 5; let b := bvAt w 17 5
  match bits w 22 6 with
  | 0 => accept true (.add g d a b)
  | 1 => accept true (.sub g d a b)
  | 2 => accept true (.mul g d a b)
  | 3 => accept true (.mulh g d a b)
  | 4 => accept true (.mulhz g d a b)
  | 5 => accept true (.div g d a b)
  | 6 => accept true (.divz g d a b)
  | 7 => accept true (.rem g d a b)
  | 8 => accept true (.remz g d a b)
  | 9 => accept true (.and g d a b)
  | 10 => accept true (.or g d a b)
  | 11 => accept true (.xor g d a b)
  | 12 => accept true (.andn g d a b)
  | 13 => accept true (.shl g d a b)
  | 14 => accept true (.shr g d a b)
  | 15 => accept true (.sra g d a b)
  | 16 => accept true (.min g d a b)
  | 17 => accept true (.max g d a b)
  | 18 => accept true (.minz g d a b)
  | 19 => accept true (.maxz g d a b)
  | 20 => accept (zf w 17 5) (.clz g d a)
  | 21 => accept (zf w 17 5) (.popc g d a)
  | 22 => accept true (.bfx g d a b)
  | 23 => accept true (.bfi g d a b)
  | 24 => accept true (.sel g d a b)
  | _ => .error .minor

/-- ALU-I and MOVE-IMM, majors 1 and 2 (R92, R93). -/
def decodeAluI (w : Nat) : Except Reject Instr :=
  let g := bvAt w 28 4; let d := bvAt w 7 5; let imm := bvAt w 17 11
  match bits w 12 5 with
  | 0 => accept true (.addi g d imm)
  | 1 => accept true (.andi g d imm)
  | 2 => accept true (.ori g d imm)
  | 3 => accept true (.xori g d imm)
  | 4 => accept (zf w 23 5) (.shli g d (bvAt w 17 6))
  | 5 => accept (zf w 23 5) (.shri g d (bvAt w 17 6))
  | 6 => accept (zf w 23 5) (.srai g d (bvAt w 17 6))
  | _ => .error .minor

def decodeMoveImm (w : Nat) : Except Reject Instr :=
  let g := bvAt w 28 4; let d := bvAt w 7 5; let imm := bvAt w 17 11
  match bits w 12 5 with
  | 0 => accept true (.movi g d imm)
  | 1 => accept true (.movhi g d imm)
  | _ => .error .minor

/-- CMP and CMPI, majors 3 and 4 (R94). -/
def decodeCmp (w : Nat) : Except Reject Instr :=
  let g := bvAt w 28 4; let pd := bvAt w 7 4; let a := bvAt w 12 5; let b := bvAt w 17 5
  match bits w 22 6 with
  | 0 => accept (zf w 11 1) (.cmpEq g pd a b)
  | 1 => accept (zf w 11 1) (.cmpNe g pd a b)
  | 2 => accept (zf w 11 1) (.cmpLt g pd a b)
  | 3 => accept (zf w 11 1) (.cmpLe g pd a b)
  | 4 => accept (zf w 11 1) (.cmpLo g pd a b)
  | 5 => accept (zf w 11 1) (.cmpLs g pd a b)
  | _ => .error .minor

def decodeCmpi (w : Nat) : Except Reject Instr :=
  let g := bvAt w 28 4; let pd := bvAt w 10 4; let a := bvAt w 7 3; let imm := bvAt w 17 11
  match bits w 14 3 with
  | 0 => accept true (.cmpiEq g pd a imm)
  | 1 => accept true (.cmpiNe g pd a imm)
  | 2 => accept true (.cmpiLt g pd a imm)
  | 3 => accept true (.cmpiLe g pd a imm)
  | 4 => accept true (.cmpiLo g pd a imm)
  | 5 => accept true (.cmpiLs g pd a imm)
  | _ => .error .minor

/-- PRED, major 5 (R95). -/
def decodePred (w : Nat) : Except Reject Instr :=
  let g := bvAt w 28 4; let pd := bvAt w 7 4; let p1 := bvAt w 12 4; let p2 := bvAt w 17 4
  let r := zf w 21 1 && zf w 16 1 && zf w 11 1
  match bits w 22 6 with
  | 0 => accept r (.pand g pd p1 p2)
  | 1 => accept r (.por g pd p1 p2)
  | 2 => accept r (.pxor g pd p1 p2)
  | 3 => accept (r && zf w 17 4) (.pnot g pd p1)
  | 4 => accept (r && zf w 17 4) (.pmov g pd p1)
  | _ => .error .minor

/-- FPU, major 6 (R96, R97). -/
def decodeFpu (w : Nat) : Except Reject Instr :=
  let g := bvAt w 28 4; let d := bvAt w 7 5; let a := bvAt w 12 5; let b := bvAt w 17 5; let pd := bvAt w 7 4
  match bits w 22 6 with
  | 0 => accept true (.fadd g d a b)
  | 1 => accept true (.fsub g d a b)
  | 2 => accept true (.fmul g d a b)
  | 3 => accept true (.ffma g d a b)
  | 4 => accept true (.fmin g d a b)
  | 5 => accept true (.fmax g d a b)
  | 6 => accept (zf w 17 5) (.fabs g d a)
  | 7 => accept (zf w 17 5) (.fneg g d a)
  | 8 => accept (zf w 11 1) (.fcmpEq g pd a b)
  | 9 => accept (zf w 11 1) (.fcmpLt g pd a b)
  | 10 => accept (zf w 11 1) (.fcmpLe g pd a b)
  | 11 => accept (zf w 11 1) (.fcmpUn g pd a b)
  | _ => .error .minor

/-- LD and ST, majors 8 and 9 (R101, R102). -/
def decodeLd (w : Nat) : Except Reject Instr :=
  let g := bvAt w 28 4; let d := bvAt w 7 5; let a := bvAt w 12 5; let sid := bvAt w 17 4
  let r := zf w 26 2 && zf w 21 1
  match bits w 22 2 with
  | 0 => accept r (.ldB g (bitAt w 25) (bitAt w 24) sid d a)
  | 1 => accept r (.ldH g (bitAt w 25) (bitAt w 24) sid d a)
  | 2 => accept r (.ldW g (bitAt w 25) (bitAt w 24) sid d a)
  | _ => accept r (.ldD g (bitAt w 25) (bitAt w 24) sid d a)

def decodeSt (w : Nat) : Except Reject Instr :=
  let g := bvAt w 28 4; let a := bvAt w 12 5; let b := bvAt w 17 5; let sid := bvAt w 7 4
  let r := zf w 26 2 && zf w 24 1 && zf w 11 1
  match bits w 22 2 with
  | 0 => accept r (.stB g (bitAt w 25) sid a b)
  | 1 => accept r (.stH g (bitAt w 25) sid a b)
  | 2 => accept r (.stW g (bitAt w 25) sid a b)
  | _ => accept r (.stD g (bitAt w 25) sid a b)

/-- MBOX, major 10 (R215). -/
def decodeMbox (w : Nat) : Except Reject Instr :=
  let g := bvAt w 28 4; let d := bvAt w 7 5; let a := bvAt w 12 5; let b := bvAt w 17 5
  match bits w 22 6 with
  | 0 => accept (zf w 17 5) (.ldf g d a)
  | 1 => accept (zf w 7 5) (.ste g a b)
  | 2 => accept (zf w 17 5 && zf w 7 5) (.mbclr g a)
  | 3 => accept (zf w 17 5) (.mbstat g d a)
  | _ => .error .minor

/-- AMO and RED, majors 11 and 12 (R243, R245). -/
def decodeAmo (w : Nat) : Except Reject Instr :=
  let g := bvAt w 28 4; let d := bvAt w 7 5; let a := bvAt w 12 5; let b := bvAt w 17 5
  let z := bitAt w 26; let wide := bitAt w 25
  match bits w 22 3 with
  | 0 => accept (zf w 27 1) (.amoAdd g z wide d a b)
  | 1 => accept (zf w 27 1) (.amoSwap g z wide d a b)
  | 2 => accept (zf w 27 1) (.amoCas g z wide d a b)
  | 3 => accept (zf w 27 1) (.amoMin g z wide d a b)
  | 4 => accept (zf w 27 1) (.amoMax g z wide d a b)
  | 5 => accept (zf w 27 1) (.amoAnd g z wide d a b)
  | 6 => accept (zf w 27 1) (.amoOr g z wide d a b)
  | _ => .error .minor

def decodeRed (w : Nat) : Except Reject Instr :=
  let g := bvAt w 28 4; let a := bvAt w 12 5; let b := bvAt w 17 5
  let z := bitAt w 27; let comp := bitAt w 26; let wide := bitAt w 25
  match bits w 22 3 with
  | 0 => accept (zf w 7 5) (.redAdd g z comp wide a b)
  | 1 => accept (zf w 7 5) (.redMin g z comp wide a b)
  | 2 => accept (zf w 7 5) (.redMax g z comp wide a b)
  | 3 => accept (zf w 7 5) (.redFadd g z comp wide a b)
  | 4 => accept (zf w 7 5) (.redCfadd g z comp wide a b)
  | _ => .error .minor

/-- FENCE, QUEUE, JOB, COPY, FRAME, STATE, DOMAIN and HASH: majors 13 and 17 to 23. -/
def decodeFence (w : Nat) : Except Reject Instr :=
  let g := bvAt w 28 4
  match bits w 22 6 with
  | 0 => accept (zf w 12 10 && zf w 11 1) (.fenceS g (bvAt w 7 4))
  | 1 => accept (zf w 17 5 && zf w 7 5) (.fenceJ g (bvAt w 12 5))
  | _ => .error .minor

def decodeQueue (w : Nat) : Except Reject Instr :=
  let g := bvAt w 28 4; let a := bvAt w 12 5
  match bits w 22 6 with
  | 0 => accept (zf w 17 5 && zf w 10 2) (.qput g (bvAt w 7 3) a)
  | 1 => accept (zf w 17 5 && zf w 15 2) (.qget g (bvAt w 7 5) (bvAt w 12 3))
  | 2 => accept (zf w 17 5 && zf w 11 1) (.lpw g (bvAt w 7 4) a)
  | 3 => accept (zf w 17 5 && zf w 7 5) (.fmt g a)
  | _ => .error .minor

def decodeJob (w : Nat) : Except Reject Instr :=
  let g := bvAt w 28 4; let a := bvAt w 12 5
  match bits w 22 6 with
  | 0 => accept (zf w 17 5) (.job g (bvAt w 7 5) a)
  | 1 => accept (zf w 17 5 && zf w 7 5) (.jwait g a)
  | _ => .error .minor

def decodeCopy (w : Nat) : Except Reject Instr :=
  let g := bvAt w 28 4; let d := bvAt w 7 5; let a := bvAt w 12 5
  match bits w 22 6 with
  | 0 => accept (zf w 19 3) (.cpin g d (bvAt w 17 2) a)
  | 1 => accept (zf w 19 3) (.cpout g d (bvAt w 17 2) a)
  | 2 => accept (zf w 20 2 && zf w 7 5) (.waitx g (bvAt w 17 3) a)
  | _ => .error .minor

def decodeFrame (w : Nat) : Except Reject Instr :=
  let g := bvAt w 28 4; let d := bvAt w 7 5; let a := bvAt w 12 5
  match bits w 22 6 with
  | 0 => accept (zf w 17 5) (.rvin g d a)
  | 1 => accept (zf w 17 5) (.rvout g d a)
  | 2 => accept (zf w 7 15) (.commit g)
  | 3 => accept (zf w 7 15) (.commitSwap g)
  | _ => .error .minor

def decodeState (w : Nat) : Except Reject Instr :=
  let g := bvAt w 28 4; let d := bvAt w 7 5; let a := bvAt w 12 5; let b := bvAt w 17 5
  match bits w 22 6 with
  | 0 => accept (zf w 17 5) (.snap g d a)
  | 1 => accept (zf w 17 5) (.fork g d a)
  | 2 => accept (zf w 7 5) (.rollb g a b)
  | 3 => accept (zf w 17 5 && zf w 7 5) (.freeh g a)
  | _ => .error .minor

def decodeDomain (w : Nat) : Except Reject Instr :=
  let g := bvAt w 28 4; let d := bvAt w 7 5; let a := bvAt w 12 5; let b := bvAt w 17 5
  match bits w 22 6 with
  | 0 => accept (zf w 19 3 && zf w 7 10) (.bar g (bvAt w 17 2))
  | 1 => accept (zf w 17 5 && zf w 7 5) (.task g a)
  | 2 => accept (zf w 7 5) (.gadd g a b)
  | 3 => accept (zf w 7 5) (.gset g a b)
  | 4 => accept (zf w 7 5) (.gmax g a b)
  | 5 => accept (zf w 12 10) (.resid g d)
  | _ => .error .minor

def decodeHash (w : Nat) : Except Reject Instr :=
  match bits w 22 6 with
  | 0 => accept true (.hmix (bvAt w 28 4) (bvAt w 7 5) (bvAt w 12 5) (bvAt w 17 5))
  | _ => .error .minor

/-- SYS, major 24 (R105, R106, R311, R313). -/
def decodeSys (w : Nat) : Except Reject Instr :=
  let g := bvAt w 28 4; let d := bvAt w 7 5; let a := bvAt w 12 5; let n := bvAt w 17 5
  match bits w 22 6 with
  | 0 => accept (zf w 7 5) (.trap g (bvAt w 12 10))
  | 1 => accept (zf w 7 15) (.rte g)
  | 2 => accept (zf w 12 5) (.crr g d n)
  | 3 => accept (zf w 7 5) (.crw g n a)
  | 4 => accept (zf w 17 5 && zf w 7 5) (.tsave g a)
  | 5 => accept (zf w 17 5 && zf w 7 5) (.trstr g a)
  | 6 => accept (zf w 7 15) (.yield g)
  | 7 => accept (zf w 7 15) (.halt g)
  | _ => .error .minor

/-- A 32-bit control-core word, whose bits [1:0] are 0b11 (R61 to R65). -/
def decodeWord (w : Nat) : Except Reject Instr :=
  let g := bvAt w 28 4; let d := bvAt w 7 5; let a := bvAt w 12 5
  match bits w 2 5 with
  | 0 => decodeAluR w
  | 1 => decodeAluI w
  | 2 => decodeMoveImm w
  | 3 => decodeCmp w
  | 4 => decodeCmpi w
  | 5 => decodePred w
  | 6 => decodeFpu w
  | 7 => accept true (.fcvt g (bvAt w 24 4) (bvAt w 20 4) (bitAt w 19) (bvAt w 17 2) d a)
  | 8 => decodeLd w
  | 9 => decodeSt w
  | 10 => decodeMbox w
  | 11 => decodeAmo w
  | 12 => decodeRed w
  | 13 => decodeFence w
  | 14 => accept true (.br g (bvAt w 7 21))
  | 15 => accept true (.jal g (bvAt w 7 21))
  | 16 => accept true (.jalr g d a (bvAt w 17 11))
  | 17 => decodeQueue w
  | 18 => decodeJob w
  | 19 => decodeCopy w
  | 20 => decodeFrame w
  | 21 => decodeState w
  | 22 => decodeDomain w
  | 23 => decodeHash w
  | 24 => decodeSys w
  | _ => .error .major

/-- A 16-bit form (R67). -/
def decodeHalf (w : Nat) : Except Reject Instr :=
  let d := bvAt w 10 5; let a := bvAt w 5 5
  if w = 0 then .error .zeroParcel else
  match bits w 0 5 with
  | 4 => accept (zf w 15 1) (.cMov d a)
  | 8 => accept (zf w 15 1) (.cAdd d a)
  | 12 => accept true (.cAddi d (BitVec.ofNat 6 (32 * bits w 15 1 + bits w 5 5)))
  | 16 => accept (zf w 15 1) (.cLdD d a)
  | 20 => accept (zf w 15 1) (.cStD a d)
  | 24 => accept (zf w 15 1 && zf w 10 2) (.cQput (bvAt w 12 3) a)
  | 28 => accept (zf w 15 1 && zf w 8 2) (.cQget d (bvAt w 5 3))
  | 1 => accept true (.cBr (bvAt w 5 11))
  | 5 => accept (zf w 14 2) (.cLpw (bvAt w 10 4) a)
  | 9 => accept (zf w 5 11) .cNop
  | _ => .error .half

/-- The control-core instruction at the head of a list of parcels, and the parcels it takes (R17 to R19). -/
def decodeCtl : List Parcel → Except Reject (Instr × Nat)
  | [] => .error .truncated
  | p :: rest =>
    if bits p.toNat 0 2 = 3 then
      match rest with
      | [] => .error .truncated
      | q :: _ => (decodeWord (p.toNat + 65536 * q.toNat)).map fun i => (i, 2)
    else (decodeHalf p.toNat).map fun i => (i, 1)

/-- The VX frame of a long op (R74). -/
def vxFrame (w : Nat) : VxFrame where
  d := bvAt w 21 5
  a := bvAt w 16 5
  b := bvAt w 11 5
  m := bvAt w 9 2
  me := bitAt w 8
  pr := bitAt w 7
  rnd := bvAt w 4 3
  fn := bvAt w 0 4

/-- The long ops of MX (R73); `w` is 2^31, the op number at bit 26 and F. -/
def decodeMx (w : Nat) : Except Reject Instr :=
  let acc := bvAt w 24 2; let aop := bvAt w 21 3; let bop := bvAt w 18 3; let k := bvAt w 4 14
  let comp := bitAt w 3; let fz := bitAt w 2
  match bits w 26 5 with
  | 2 => accept (zf w 0 2) (.mmaBf16 acc aop bop k comp fz)
  | 3 => accept (zf w 0 2) (.mmaFp16 acc aop bop k comp fz)
  | 4 => accept (zf w 0 2) (.mmaFp8e4 acc aop bop k comp fz)
  | 5 => accept (zf w 0 2) (.mmaFp8e5 acc aop bop k comp fz)
  | 6 => accept (zf w 0 2) (.mmaCb4 acc aop bop k comp fz)
  | 7 => accept true (.cmmaCbf16 acc aop bop k comp fz (bitAt w 1) (bitAt w 0))
  | 8 => accept true (.cmmaCfp16 acc aop bop k comp fz (bitAt w 1) (bitAt w 0))
  | 9 => .error .shape
  | 10 => accept (zf w 0 21) (.mdrainTrk acc (bvAt w 22 2) (bitAt w 21))
  | 11 => accept (zf w 0 20) (.mdrainSpd acc (bvAt w 21 3) (bitAt w 20))
  | 12 => accept (zf w 0 21) (.mdrainCp acc (bvAt w 22 2) (bitAt w 21))
  | 13 => accept (zf w 0 8) (.mwl (bvAt w 25 1) (bvAt w 22 3) (bvAt w 8 14))
  | 14 => accept (zf w 0 21) (.mcb acc aop)
  | 15 => accept (zf w 0 10) (.mstop (bvAt w 10 16))
  | _ => .error .op

/-- The long ops of SC (R73). -/
def decodeSc (w : Nat) : Except Reject Instr :=
  let t0 := bvAt w 24 2; let t1 := bvAt w 22 2
  match bits w 26 5 with
  | 2 => accept (zf w 0 7) (.scanD t0 t1 (bitAt w 21) (bitAt w 20) (bvAt w 17 3) (bvAt w 7 10))
  | 3 => accept (zf w 0 7) (.scanC t0 t1 (bitAt w 21) (bitAt w 20) (bvAt w 17 3) (bvAt w 7 10))
  | 4 => accept (zf w 0 7) (.schunk t0 t1 (bitAt w 21) (bitAt w 20) (bvAt w 17 3) (bvAt w 7 10))
  | 5 => accept (zf w 0 9) (.scarry (bvAt w 23 3) (bvAt w 20 3) (bitAt w 19) (bvAt w 9 10))
  | 6 => accept (zf w 0 10) (.sout t0 (bvAt w 21 3) (bitAt w 20) (bvAt w 10 10))
  | 7 => accept (zf w 0 8) (.slin t0 t1 (bvAt w 19 3) (bitAt w 18) (bvAt w 8 10))
  | _ => .error .op

/-- The long ops of VX but VCHK (R74). -/
def decodeVx (w : Nat) : Except Reject Instr :=
  let f := vxFrame w
  match bits w 26 5 with
  | 2 => accept true (.vadd f)
  | 3 => accept true (.vsub f)
  | 4 => accept true (.vmul f)
  | 5 => accept true (.vfma f)
  | 6 => accept true (.vmin f)
  | 7 => accept true (.vmax f)
  | 8 => accept true (.vneg f)
  | 9 => accept true (.vabs f)
  | 10 => accept true (.vcmp f)
  | 11 => accept true (.vsel f)
  | 12 => accept true (.vcvt f)
  | 13 => accept true (.vexp f)
  | 14 => accept true (.vlog f)
  | 15 => accept true (.vrcp f)
  | 16 => accept true (.vrsq f)
  | 17 => accept true (.vact f)
  | 18 => accept true (.vcmul f)
  | 19 => accept true (.vredSum f)
  | 20 => accept true (.vredMax f)
  | 21 => accept true (.vrot f)
  | 22 => accept true (.vkey f)
  | 23 => accept true (.vhist f)
  | 25 => accept true (.vmov f)
  | 26 => accept true (.vbit f)
  | 27 => accept true (.viadd f)
  | 28 => accept true (.vimul f)
  | 29 => accept true (.vpack f)
  | 30 => accept true (.vunpk f)
  | _ => .error .op

/-- VCHK with its constant (R70, R173): only PR and RND may differ from 0. -/
def decodeVchk (w k : Nat) : Except Reject Instr :=
  accept (zf w 8 18 && zf w 0 4) (.vchk (bitAt w 7) (bvAt w 4 3) (BitVec.ofNat 32 k))

/-- The long ops of LD (R73). -/
def decodeLdOp (w : Nat) : Except Reject Instr :=
  let t := bvAt w 24 2; let s := bvAt w 21 3
  match bits w 26 5 with
  | 2 => accept (zf w 0 21) (.ldt t s)
  | 3 => accept (zf w 0 18) (.ldx t s (bvAt w 18 3))
  | 4 => accept (zf w 0 11) (.ldm t (bvAt w 11 13))
  | 5 => accept true (.ldc t (bvAt w 0 24))
  | 6 => accept (zf w 0 21) (.ldb t s)
  | _ => .error .op

/-- The long ops of ST (R73). -/
def decodeStOp (w : Nat) : Except Reject Instr :=
  let t := bvAt w 24 2; let s := bvAt w 21 3
  match bits w 26 5 with
  | 2 => accept (zf w 0 21) (.stt t s)
  | 3 => accept (zf w 0 19) (.stx t (bvAt w 22 2) (bvAt w 19 3))
  | 4 => accept (zf w 0 4) (.stm t (bvAt w 17 7) (bvAt w 4 13))
  | 5 => accept (zf w 0 21) (.stb t s)
  | _ => .error .op

/-- BLK, op 31 of every strand (R71). -/
def decodeBlk (w : Nat) : Except Reject Instr :=
  accept true (.blk (bvAt w 23 3) (bitAt w 22) (bvAt w 12 10) (bvAt w 0 12))

/-- A long op of a strand. -/
def decodeLong (k : StrandId) (w : Nat) : Except Reject Instr :=
  match bits w 26 5 with
  | 0 => .error .shape
  | 1 => .error .shape
  | 31 => decodeBlk w
  | _ => match k with
    | .ld => decodeLdOp w
    | .mx => decodeMx w
    | .sc => decodeSc w
    | .vx => decodeVx w
    | .st => decodeStOp w

/-- A short op of a strand: IDLE, JOIN, and MZERO on MX (R71, R73). -/
def decodeShort (k : StrandId) (p : Nat) : Except Reject Instr :=
  match bits p 10 5 with
  | 0 => accept true (.idle (bvAt p 0 10))
  | 1 => accept (zf p 0 10) .join
  | 9 => match k with
    | .mx => accept (zf p 0 7) (.mzero (bvAt p 8 2) (bitAt p 7))
    | _ => .error .shape
  | _ => .error .shape

/-- The strand op at the head of a list of parcels, and the parcels it takes (R70). -/
def decodeStrand (k : StrandId) : List Parcel → Except Reject (Instr × Nat)
  | [] => .error .truncated
  | p :: rest =>
    if p.toNat < 32768 then (decodeShort k p.toNat).map fun i => (i, 1)
    else match rest with
      | [] => .error .truncated
      | q :: more =>
        let w := 65536 * p.toNat + q.toNat
        if k = .vx ∧ bits w 26 5 = 24 then
          match more with
          | lo :: hi :: _ => (decodeVchk w (lo.toNat + 65536 * hi.toNat)).map fun i => (i, 4)
          | _ => .error .truncated
        else (decodeLong k w).map fun i => (i, 2)

/-- How an instruction stands in a stream. -/
inductive Shape where
  | word | half | short | long | check | event
  deriving DecidableEq, Repr

/-- A register-form word (R62). -/
def encReg (major minor : Nat) (g : BitVec 4) (b a d : Nat) : Nat :=
  3 + 4 * major + 128 * d + 4096 * a + 131072 * b + 4194304 * minor + 268435456 * g.toNat

/-- An immediate-form word (R62). -/
def encImm (major minor : Nat) (g : BitVec 4) (imm d : Nat) : Nat :=
  3 + 4 * major + 128 * d + 4096 * minor + 131072 * imm + 268435456 * g.toNat

/-- A compare-immediate word (R62). -/
def encCmpi (minor : Nat) (g : BitVec 4) (imm pd a : Nat) : Nat :=
  3 + 4 * 4 + 128 * a + 1024 * pd + 16384 * minor + 131072 * imm + 268435456 * g.toNat

/-- A branch-form word (R62). -/
def encBr (major : Nat) (g : BitVec 4) (off : Nat) : Nat :=
  3 + 4 * major + 128 * off + 268435456 * g.toNat

/-- A 16-bit form (R67): selector bits [4:0], then bits [15:5]. -/
def encHalf (sel rest : Nat) : Nat := sel + 32 * rest

/-- A long strand op: op number and F (R70). -/
def encLong (op f : Nat) : Nat := 2147483648 + 67108864 * op + f

/-- F of a VX op (R74). -/
def encVx (f : VxFrame) : Nat :=
  f.fn.toNat + 16 * f.rnd.toNat + 128 * b2n f.pr + 256 * b2n f.me + 512 * f.m.toNat + 2048 * f.b.toNat
    + 65536 * f.a.toNat + 2097152 * f.d.toNat

/-- F of a tile command (R140). -/
def encMma (acc : BitVec 2) (aop bop : BitVec 3) (k : BitVec 14) (comp fz : Bool) (low : Nat) : Nat :=
  low + 4 * b2n fz + 8 * b2n comp + 16 * k.toNat + 262144 * bop.toNat + 2097152 * aop.toNat + 16777216 * acc.toNat

/-- F of SCAN and SCHUNK (R150). -/
def encScan (d x : BitVec 2) (comp fz : Bool) (s : BitVec 3) (n : BitVec 10) : Nat :=
  128 * n.toNat + 131072 * s.toNat + 1048576 * b2n fz + 2097152 * b2n comp + 4194304 * x.toNat + 16777216 * d.toNat

/-- How each instruction is laid out. -/
def Instr.shape : Instr → Shape
  | .cMov .. | .cAdd .. | .cAddi .. | .cLdD .. | .cStD .. | .cQput .. | .cQget .. | .cBr .. | .cLpw ..
  | .cNop => .half
  | .idle .. | .join | .mzero .. => .short
  | .blk .. | .mmaBf16 .. | .mmaFp16 .. | .mmaFp8e4 .. | .mmaFp8e5 .. | .mmaCb4 .. | .cmmaCbf16 .. | .cmmaCfp16 .. | .mdrainTrk ..
  | .mdrainSpd .. | .mdrainCp .. | .mwl .. | .mcb .. | .mstop .. | .scanD .. | .scanC .. | .schunk .. | .scarry ..
  | .sout .. | .slin .. | .vadd .. | .vsub .. | .vmul .. | .vfma .. | .vmin .. | .vmax .. | .vneg ..
  | .vabs .. | .vcmp .. | .vsel .. | .vcvt .. | .vexp .. | .vlog .. | .vrcp .. | .vrsq .. | .vact ..
  | .vcmul .. | .vredSum .. | .vredMax .. | .vrot .. | .vkey .. | .vhist .. | .vmov .. | .vbit .. | .viadd ..
  | .vimul .. | .vpack .. | .vunpk .. | .ldt .. | .ldx .. | .ldm .. | .ldc .. | .ldb .. | .stt ..
  | .stx .. | .stm .. | .stb .. => .long
  | .vchk .. => .check
  | .add .. | .sub .. | .mul .. | .mulh .. | .mulhz .. | .div .. | .divz .. | .rem .. | .remz ..
  | .and .. | .or .. | .xor .. | .andn .. | .shl .. | .shr .. | .sra .. | .min .. | .max ..
  | .minz .. | .maxz .. | .clz .. | .popc .. | .bfx .. | .bfi .. | .sel .. | .addi .. | .andi ..
  | .ori .. | .xori .. | .shli .. | .shri .. | .srai .. | .movi .. | .movhi .. | .cmpEq .. | .cmpNe ..
  | .cmpLt .. | .cmpLe .. | .cmpLo .. | .cmpLs .. | .cmpiEq .. | .cmpiNe .. | .cmpiLt .. | .cmpiLe .. | .cmpiLo ..
  | .cmpiLs .. | .pand .. | .por .. | .pxor .. | .pnot .. | .pmov .. | .fadd .. | .fsub .. | .fmul ..
  | .ffma .. | .fmin .. | .fmax .. | .fabs .. | .fneg .. | .fcmpEq .. | .fcmpLt .. | .fcmpLe .. | .fcmpUn ..
  | .fcvt .. | .ldB .. | .ldH .. | .ldW .. | .ldD .. | .stB .. | .stH .. | .stW .. | .stD ..
  | .ldf .. | .ste .. | .mbclr .. | .mbstat .. | .amoAdd .. | .amoSwap .. | .amoCas .. | .amoMin .. | .amoMax ..
  | .amoAnd .. | .amoOr .. | .redAdd .. | .redMin .. | .redMax .. | .redFadd .. | .redCfadd .. | .fenceS .. | .fenceJ ..
  | .br .. | .jal .. | .jalr .. | .qput .. | .qget .. | .lpw .. | .fmt .. | .job .. | .jwait ..
  | .cpin .. | .cpout .. | .waitx .. | .rvin .. | .rvout .. | .commit .. | .commitSwap .. | .snap .. | .fork ..
  | .rollb .. | .freeh .. | .bar .. | .task .. | .gadd .. | .gset .. | .gmax .. | .resid .. | .hmix ..
  | .trap .. | .rte .. | .crr .. | .crw .. | .tsave .. | .trstr .. | .yield .. | .halt .. => .word
  | .jobStart | .opResult .. | .rendezvous | .overrun | .taskStart | .flit .. | .returnWord .. | .auditTick | .auditFlit ..
  | .packetDelivery | .mail .. | .done .. | .bara .. | .barr .. | .heap .. | .gainRefusal .. | .reservedPacket .. | .rdreq ..
  | .rdrsp .. | .prep .. | .amoreq .. | .amorsp .. | .redent .. | .engine .. | .ctrl .. | .taskSpillReturn | .commitEvent
  | .eventPrepared | .eventComplete | .heapRun | .roundTaskStart | .copyStart | .copyPiece | .reeveStart | .rvinRetire | .rvoutRetire
  | .lightFault | .recordTake | .launchIssue | .prefixLookup | .prefixInsert | .prefixUnpin | .launchComplete | .slotBoundary | .slotref ..
  | .slotrefTimeout | .slotAnnouncement .. | .slotAck .. | .cancellation | .discard | .suspend | .tokenRetry .. | .tokenRefuse .. | .tokenRecordPost
  | .bankSwitch | .braidStall | .preemption | .launchResume | .rowRefresh .. | .l2Scrub .. | .inFieldTest | .inFieldTestEnd .. | .spliceFlit ..
  | .flitReplay | .retrain | .retrainComplete .. | .linkDown | .portFrame .. | .cxlMemRead .. | .cxlMemWrite .. | .snoop .. | .create ..
  | .destroy .. | .assign .. | .migrate .. | .attest .. | .spliceRetrainA | .spliceRetrainB | .hostLinkRetrain | .holdrel .. | .errbankClear ..
  | .ptroot .. | .tlbsync .. | .cap .. | .registerWrite .. | .powerEvaluation .. | .thermalTrip | .resetN .. | .reset .. | .bootStep ..
  | .illegalEncoding | .flitSend | .cxlCacheResponse .. | .adminCommandComplete | .powerGateDecision .. => .event

/-- The number of an instruction's word, 16-bit form or strand op, from the encoding tables (R62 to R67, R70 to R74); 0 for an event. -/
def Instr.number : Instr → Nat
  | .add g d a b => encReg 0 0 g b.toNat a.toNat d.toNat
  | .sub g d a b => encReg 0 1 g b.toNat a.toNat d.toNat
  | .mul g d a b => encReg 0 2 g b.toNat a.toNat d.toNat
  | .mulh g d a b => encReg 0 3 g b.toNat a.toNat d.toNat
  | .mulhz g d a b => encReg 0 4 g b.toNat a.toNat d.toNat
  | .div g d a b => encReg 0 5 g b.toNat a.toNat d.toNat
  | .divz g d a b => encReg 0 6 g b.toNat a.toNat d.toNat
  | .rem g d a b => encReg 0 7 g b.toNat a.toNat d.toNat
  | .remz g d a b => encReg 0 8 g b.toNat a.toNat d.toNat
  | .and g d a b => encReg 0 9 g b.toNat a.toNat d.toNat
  | .or g d a b => encReg 0 10 g b.toNat a.toNat d.toNat
  | .xor g d a b => encReg 0 11 g b.toNat a.toNat d.toNat
  | .andn g d a b => encReg 0 12 g b.toNat a.toNat d.toNat
  | .shl g d a b => encReg 0 13 g b.toNat a.toNat d.toNat
  | .shr g d a b => encReg 0 14 g b.toNat a.toNat d.toNat
  | .sra g d a b => encReg 0 15 g b.toNat a.toNat d.toNat
  | .min g d a b => encReg 0 16 g b.toNat a.toNat d.toNat
  | .max g d a b => encReg 0 17 g b.toNat a.toNat d.toNat
  | .minz g d a b => encReg 0 18 g b.toNat a.toNat d.toNat
  | .maxz g d a b => encReg 0 19 g b.toNat a.toNat d.toNat
  | .clz g d a => encReg 0 20 g 0 a.toNat d.toNat
  | .popc g d a => encReg 0 21 g 0 a.toNat d.toNat
  | .bfx g d a b => encReg 0 22 g b.toNat a.toNat d.toNat
  | .bfi g d a b => encReg 0 23 g b.toNat a.toNat d.toNat
  | .sel g d a b => encReg 0 24 g b.toNat a.toNat d.toNat
  | .addi g d imm => encImm 1 0 g imm.toNat d.toNat
  | .andi g d imm => encImm 1 1 g imm.toNat d.toNat
  | .ori g d imm => encImm 1 2 g imm.toNat d.toNat
  | .xori g d imm => encImm 1 3 g imm.toNat d.toNat
  | .shli g d imm => encImm 1 4 g imm.toNat d.toNat
  | .shri g d imm => encImm 1 5 g imm.toNat d.toNat
  | .srai g d imm => encImm 1 6 g imm.toNat d.toNat
  | .movi g d imm => encImm 2 0 g imm.toNat d.toNat
  | .movhi g d imm => encImm 2 1 g imm.toNat d.toNat
  | .cmpEq g pd a b => encReg 3 0 g b.toNat a.toNat pd.toNat
  | .cmpNe g pd a b => encReg 3 1 g b.toNat a.toNat pd.toNat
  | .cmpLt g pd a b => encReg 3 2 g b.toNat a.toNat pd.toNat
  | .cmpLe g pd a b => encReg 3 3 g b.toNat a.toNat pd.toNat
  | .cmpLo g pd a b => encReg 3 4 g b.toNat a.toNat pd.toNat
  | .cmpLs g pd a b => encReg 3 5 g b.toNat a.toNat pd.toNat
  | .cmpiEq g pd a imm => encCmpi 0 g imm.toNat pd.toNat a.toNat
  | .cmpiNe g pd a imm => encCmpi 1 g imm.toNat pd.toNat a.toNat
  | .cmpiLt g pd a imm => encCmpi 2 g imm.toNat pd.toNat a.toNat
  | .cmpiLe g pd a imm => encCmpi 3 g imm.toNat pd.toNat a.toNat
  | .cmpiLo g pd a imm => encCmpi 4 g imm.toNat pd.toNat a.toNat
  | .cmpiLs g pd a imm => encCmpi 5 g imm.toNat pd.toNat a.toNat
  | .pand g pd p1 p2 => encReg 5 0 g p2.toNat p1.toNat pd.toNat
  | .por g pd p1 p2 => encReg 5 1 g p2.toNat p1.toNat pd.toNat
  | .pxor g pd p1 p2 => encReg 5 2 g p2.toNat p1.toNat pd.toNat
  | .pnot g pd p1 => encReg 5 3 g 0 p1.toNat pd.toNat
  | .pmov g pd p1 => encReg 5 4 g 0 p1.toNat pd.toNat
  | .fadd g d a b => encReg 6 0 g b.toNat a.toNat d.toNat
  | .fsub g d a b => encReg 6 1 g b.toNat a.toNat d.toNat
  | .fmul g d a b => encReg 6 2 g b.toNat a.toNat d.toNat
  | .ffma g d a b => encReg 6 3 g b.toNat a.toNat d.toNat
  | .fmin g d a b => encReg 6 4 g b.toNat a.toNat d.toNat
  | .fmax g d a b => encReg 6 5 g b.toNat a.toNat d.toNat
  | .fabs g d a => encReg 6 6 g 0 a.toNat d.toNat
  | .fneg g d a => encReg 6 7 g 0 a.toNat d.toNat
  | .fcmpEq g pd a b => encReg 6 8 g b.toNat a.toNat pd.toNat
  | .fcmpLt g pd a b => encReg 6 9 g b.toNat a.toNat pd.toNat
  | .fcmpLe g pd a b => encReg 6 10 g b.toNat a.toNat pd.toNat
  | .fcmpUn g pd a b => encReg 6 11 g b.toNat a.toNat pd.toNat
  | .fcvt g df sf z rnd d a => 3 + 4 * 7 + 128 * d.toNat + 4096 * a.toNat + 131072 * rnd.toNat + 524288 * b2n z + 1048576 * sf.toNat
    + 16777216 * df.toNat + 268435456 * g.toNat
  | .ldB g na z sid d a => encReg 8 (0 + 4 * b2n z + 8 * b2n na) g sid.toNat a.toNat d.toNat
  | .ldH g na z sid d a => encReg 8 (1 + 4 * b2n z + 8 * b2n na) g sid.toNat a.toNat d.toNat
  | .ldW g na z sid d a => encReg 8 (2 + 4 * b2n z + 8 * b2n na) g sid.toNat a.toNat d.toNat
  | .ldD g na z sid d a => encReg 8 (3 + 4 * b2n z + 8 * b2n na) g sid.toNat a.toNat d.toNat
  | .stB g na sid a b => encReg 9 (0 + 8 * b2n na) g b.toNat a.toNat sid.toNat
  | .stH g na sid a b => encReg 9 (1 + 8 * b2n na) g b.toNat a.toNat sid.toNat
  | .stW g na sid a b => encReg 9 (2 + 8 * b2n na) g b.toNat a.toNat sid.toNat
  | .stD g na sid a b => encReg 9 (3 + 8 * b2n na) g b.toNat a.toNat sid.toNat
  | .ldf g d a => encReg 10 0 g 0 a.toNat d.toNat
  | .ste g a b => encReg 10 1 g b.toNat a.toNat 0
  | .mbclr g a => encReg 10 2 g 0 a.toNat 0
  | .mbstat g d a => encReg 10 3 g 0 a.toNat d.toNat
  | .amoAdd g z wide d a b => encReg 11 (0 + 8 * b2n wide + 16 * b2n z) g b.toNat a.toNat d.toNat
  | .amoSwap g z wide d a b => encReg 11 (1 + 8 * b2n wide + 16 * b2n z) g b.toNat a.toNat d.toNat
  | .amoCas g z wide d a b => encReg 11 (2 + 8 * b2n wide + 16 * b2n z) g b.toNat a.toNat d.toNat
  | .amoMin g z wide d a b => encReg 11 (3 + 8 * b2n wide + 16 * b2n z) g b.toNat a.toNat d.toNat
  | .amoMax g z wide d a b => encReg 11 (4 + 8 * b2n wide + 16 * b2n z) g b.toNat a.toNat d.toNat
  | .amoAnd g z wide d a b => encReg 11 (5 + 8 * b2n wide + 16 * b2n z) g b.toNat a.toNat d.toNat
  | .amoOr g z wide d a b => encReg 11 (6 + 8 * b2n wide + 16 * b2n z) g b.toNat a.toNat d.toNat
  | .redAdd g z comp wide a b => encReg 12 (0 + 8 * b2n wide + 16 * b2n comp + 32 * b2n z) g b.toNat a.toNat 0
  | .redMin g z comp wide a b => encReg 12 (1 + 8 * b2n wide + 16 * b2n comp + 32 * b2n z) g b.toNat a.toNat 0
  | .redMax g z comp wide a b => encReg 12 (2 + 8 * b2n wide + 16 * b2n comp + 32 * b2n z) g b.toNat a.toNat 0
  | .redFadd g z comp wide a b => encReg 12 (3 + 8 * b2n wide + 16 * b2n comp + 32 * b2n z) g b.toNat a.toNat 0
  | .redCfadd g z comp wide a b => encReg 12 (4 + 8 * b2n wide + 16 * b2n comp + 32 * b2n z) g b.toNat a.toNat 0
  | .fenceS g sid => encReg 13 0 g 0 0 sid.toNat
  | .fenceJ g a => encReg 13 1 g 0 a.toNat 0
  | .br g off => encBr 14 g off.toNat
  | .jal g off => encBr 15 g off.toNat
  | .jalr g d a imm => encImm 16 a.toNat g imm.toNat d.toNat
  | .qput g q a => encReg 17 0 g 0 a.toNat q.toNat
  | .qget g d q => encReg 17 1 g 0 q.toNat d.toNat
  | .lpw g lp a => encReg 17 2 g 0 a.toNat lp.toNat
  | .fmt g a => encReg 17 3 g 0 a.toNat 0
  | .job g d a => encReg 18 0 g 0 a.toNat d.toNat
  | .jwait g a => encReg 18 1 g 0 a.toNat 0
  | .cpin g d ch a => encReg 19 0 g ch.toNat a.toNat d.toNat
  | .cpout g d ch a => encReg 19 1 g ch.toNat a.toNat d.toNat
  | .waitx g ch a => encReg 19 2 g ch.toNat a.toNat 0
  | .rvin g d a => encReg 20 0 g 0 a.toNat d.toNat
  | .rvout g d a => encReg 20 1 g 0 a.toNat d.toNat
  | .commit g => encReg 20 2 g 0 0 0
  | .commitSwap g => encReg 20 3 g 0 0 0
  | .snap g d a => encReg 21 0 g 0 a.toNat d.toNat
  | .fork g d a => encReg 21 1 g 0 a.toNat d.toNat
  | .rollb g a b => encReg 21 2 g b.toNat a.toNat 0
  | .freeh g a => encReg 21 3 g 0 a.toNat 0
  | .bar g k => encReg 22 0 g k.toNat 0 0
  | .task g a => encReg 22 1 g 0 a.toNat 0
  | .gadd g a b => encReg 22 2 g b.toNat a.toNat 0
  | .gset g a b => encReg 22 3 g b.toNat a.toNat 0
  | .gmax g a b => encReg 22 4 g b.toNat a.toNat 0
  | .resid g d => encReg 22 5 g 0 0 d.toNat
  | .hmix g d a b => encReg 23 0 g b.toNat a.toNat d.toNat
  | .trap g code => 3 + 4 * 24 + 4096 * code.toNat + 268435456 * g.toNat
  | .rte g => encReg 24 1 g 0 0 0
  | .crr g d n => encReg 24 2 g n.toNat 0 d.toNat
  | .crw g n a => encReg 24 3 g n.toNat a.toNat 0
  | .tsave g a => encReg 24 4 g 0 a.toNat 0
  | .trstr g a => encReg 24 5 g 0 a.toNat 0
  | .yield g => encReg 24 6 g 0 0 0
  | .halt g => encReg 24 7 g 0 0 0
  | .cMov d a => encHalf 4 (a.toNat + 32 * d.toNat)
  | .cAdd d a => encHalf 8 (a.toNat + 32 * d.toNat)
  | .cAddi d imm => encHalf 12 (imm.toNat % 32 + 32 * d.toNat + 1024 * (imm.toNat / 32))
  | .cLdD d a => encHalf 16 (a.toNat + 32 * d.toNat)
  | .cStD a b => encHalf 20 (a.toNat + 32 * b.toNat)
  | .cQput q a => encHalf 24 (a.toNat + 128 * q.toNat)
  | .cQget d q => encHalf 28 (q.toNat + 32 * d.toNat)
  | .cBr off => encHalf 1 (off.toNat)
  | .cLpw lp a => encHalf 5 (a.toNat + 32 * lp.toNat)
  | .cNop => encHalf 9 (0)
  | .idle n => n.toNat
  | .join => 1024
  | .blk depth rsrc len rep => encLong 31 (rep.toNat + 4096 * len.toNat + 4194304 * b2n rsrc + 8388608 * depth.toNat)
  | .mmaBf16 acc aop bop k comp fz => encLong 2 (encMma acc aop bop k comp fz 0)
  | .mmaFp16 acc aop bop k comp fz => encLong 3 (encMma acc aop bop k comp fz 0)
  | .mmaFp8e4 acc aop bop k comp fz => encLong 4 (encMma acc aop bop k comp fz 0)
  | .mmaFp8e5 acc aop bop k comp fz => encLong 5 (encMma acc aop bop k comp fz 0)
  | .mmaCb4 acc aop bop k comp fz => encLong 6 (encMma acc aop bop k comp fz 0)
  | .cmmaCbf16 acc aop bop k comp fz ca cb => encLong 7 (encMma acc aop bop k comp fz (2 * b2n ca + b2n cb))
  | .cmmaCfp16 acc aop bop k comp fz ca cb => encLong 8 (encMma acc aop bop k comp fz (2 * b2n ca + b2n cb))
  | .mzero acc pair => 9216 + 128 * b2n pair + 256 * acc.toNat
  | .mdrainTrk acc trk pair => encLong 10 (2097152 * b2n pair + 4194304 * trk.toNat + 16777216 * acc.toNat)
  | .mdrainSpd acc spb pair => encLong 11 (1048576 * b2n pair + 2097152 * spb.toNat + 16777216 * acc.toNat)
  | .mdrainCp acc ch pair => encLong 12 (2097152 * b2n pair + 4194304 * ch.toNat + 16777216 * acc.toNat)
  | .mwl wb src k => encLong 13 (256 * k.toNat + 4194304 * src.toNat + 33554432 * wb.toNat)
  | .mcb cb src => encLong 14 (2097152 * src.toNat + 16777216 * cb.toNat)
  | .mstop seed => encLong 15 (1024 * seed.toNat)
  | .scanD dt xt comp fz spb n => encLong 2 (encScan dt xt comp fz spb n)
  | .scanC dt xt comp fz spb n => encLong 3 (encScan dt xt comp fz spb n)
  | .schunk dt xt comp fz spb n => encLong 4 (encScan dt xt comp fz spb n)
  | .scarry spb rspb comp n => encLong 5 (512 * n.toNat + 524288 * b2n comp + 1048576 * rspb.toNat + 8388608 * spb.toNat)
  | .sout trk spb comp n => encLong 6 (1024 * n.toNat + 1048576 * b2n comp + 2097152 * spb.toNat + 16777216 * trk.toNat)
  | .slin kt vt spb comp n => encLong 7 (256 * n.toNat + 262144 * b2n comp + 524288 * spb.toNat + 4194304 * vt.toNat + 16777216 * kt.toNat)
  | .vadd f => encLong 2 (encVx f)
  | .vsub f => encLong 3 (encVx f)
  | .vmul f => encLong 4 (encVx f)
  | .vfma f => encLong 5 (encVx f)
  | .vmin f => encLong 6 (encVx f)
  | .vmax f => encLong 7 (encVx f)
  | .vneg f => encLong 8 (encVx f)
  | .vabs f => encLong 9 (encVx f)
  | .vcmp f => encLong 10 (encVx f)
  | .vsel f => encLong 11 (encVx f)
  | .vcvt f => encLong 12 (encVx f)
  | .vexp f => encLong 13 (encVx f)
  | .vlog f => encLong 14 (encVx f)
  | .vrcp f => encLong 15 (encVx f)
  | .vrsq f => encLong 16 (encVx f)
  | .vact f => encLong 17 (encVx f)
  | .vcmul f => encLong 18 (encVx f)
  | .vredSum f => encLong 19 (encVx f)
  | .vredMax f => encLong 20 (encVx f)
  | .vrot f => encLong 21 (encVx f)
  | .vkey f => encLong 22 (encVx f)
  | .vhist f => encLong 23 (encVx f)
  | .vchk pr rnd _ => encLong 24 (16 * rnd.toNat + 128 * b2n pr)
  | .vmov f => encLong 25 (encVx f)
  | .vbit f => encLong 26 (encVx f)
  | .viadd f => encLong 27 (encVx f)
  | .vimul f => encLong 28 (encVx f)
  | .vpack f => encLong 29 (encVx f)
  | .vunpk f => encLong 30 (encVx f)
  | .ldt t s => encLong 2 (2097152 * s.toNat + 16777216 * t.toNat)
  | .ldx t s d => encLong 3 (262144 * d.toNat + 2097152 * s.toNat + 16777216 * t.toNat)
  | .ldm t win => encLong 4 (2048 * win.toNat + 16777216 * t.toNat)
  | .ldc t addr => encLong 5 (addr.toNat + 16777216 * t.toNat)
  | .ldb t s => encLong 6 (2097152 * s.toNat + 16777216 * t.toNat)
  | .stt t s => encLong 2 (2097152 * s.toNat + 16777216 * t.toNat)
  | .stx t i s => encLong 3 (524288 * s.toNat + 4194304 * i.toNat + 16777216 * t.toNat)
  | .stm t stop win => encLong 4 (16 * win.toNat + 131072 * stop.toNat + 16777216 * t.toNat)
  | .stb t s => encLong 5 (2097152 * s.toNat + 16777216 * t.toNat)
  | .jobStart | .opResult .. | .rendezvous | .overrun | .taskStart | .flit .. | .returnWord .. | .auditTick | .auditFlit ..
  | .packetDelivery | .mail .. | .done .. | .bara .. | .barr .. | .heap .. | .gainRefusal .. | .reservedPacket .. | .rdreq ..
  | .rdrsp .. | .prep .. | .amoreq .. | .amorsp .. | .redent .. | .engine .. | .ctrl .. | .taskSpillReturn | .commitEvent
  | .eventPrepared | .eventComplete | .heapRun | .roundTaskStart | .copyStart | .copyPiece | .reeveStart | .rvinRetire | .rvoutRetire
  | .lightFault | .recordTake | .launchIssue | .prefixLookup | .prefixInsert | .prefixUnpin | .launchComplete | .slotBoundary | .slotref ..
  | .slotrefTimeout | .slotAnnouncement .. | .slotAck .. | .cancellation | .discard | .suspend | .tokenRetry .. | .tokenRefuse .. | .tokenRecordPost
  | .bankSwitch | .braidStall | .preemption | .launchResume | .rowRefresh .. | .l2Scrub .. | .inFieldTest | .inFieldTestEnd .. | .spliceFlit ..
  | .flitReplay | .retrain | .retrainComplete .. | .linkDown | .portFrame .. | .cxlMemRead .. | .cxlMemWrite .. | .snoop .. | .create ..
  | .destroy .. | .assign .. | .migrate .. | .attest .. | .spliceRetrainA | .spliceRetrainB | .hostLinkRetrain | .holdrel .. | .errbankClear ..
  | .ptroot .. | .tlbsync .. | .cap .. | .registerWrite .. | .powerEvaluation .. | .thermalTrip | .resetN .. | .reset .. | .bootStep ..
  | .illegalEncoding | .flitSend | .cxlCacheResponse .. | .adminCommandComplete | .powerGateDecision .. => 0

/-- VCHK's constant; 0 for every other instruction. -/
def Instr.constant : Instr → Nat
  | .vchk _ _ k => k.toNat
  | _ => 0

/-- The parcels of an instruction, in stream order. A control word's first parcel is its low half (R61), a long op's first parcel holds F[25:16] (R70). -/
def encode (i : Instr) : List Parcel :=
  match i.shape with
  | .word => [BitVec.ofNat 16 i.number, BitVec.ofNat 16 (i.number / 65536)]
  | .half => [BitVec.ofNat 16 i.number]
  | .short => [BitVec.ofNat 16 i.number]
  | .long => [BitVec.ofNat 16 (i.number / 65536), BitVec.ofNat 16 i.number]
  | .check => [BitVec.ofNat 16 (i.number / 65536), BitVec.ofNat 16 i.number,
      BitVec.ofNat 16 i.constant, BitVec.ofNat 16 (i.constant / 65536)]
  | .event => []

/-- The strands whose op space holds an instruction (R70 to R74). -/
def Instr.onStrand (i : Instr) (k : StrandId) : Bool :=
  match decodeStrand k (encode i) with
  | .ok (j, _) => i == j
  | .error _ => false

/-- The instruction a decoder reads when it takes exactly `n` parcels. -/
def exactly (n : Nat) : Except Reject (Instr × Nat) → Option Instr
  | .ok (i, m) => if m = n then some i else none
  | .error _ => none

/-- The first strand, in the order VX, MX, SC, LD, ST, that reads the parcels as one op of `n` parcels, or as VCHK. -/
def decodeAnyStrand (ps : List Parcel) (n : Nat) : Option (StrandId × Instr) :=
  [StrandId.vx, .mx, .sc, .ld, .st].findSome? fun k =>
    match decodeStrand k ps with
    | .ok (i, m) => if m = n || m = 4 then some (k, i) else none
    | .error _ => none

/-- A word as the opcode table numbers it, read first as a control word (first parcel low), else as a strand op (first parcel high); which strand, if any, its op belongs to. -/
def decodeTable (nbits w : Nat) : Option (Option StrandId × Instr) :=
  let lo : Parcel := BitVec.ofNat 16 w
  let hi : Parcel := BitVec.ofNat 16 (w / 65536)
  if nbits ≤ 16 then
    match exactly (if bits w 0 2 = 3 then 2 else 1) (decodeCtl [lo, 0#16]) with
    | some i => some (none, i)
    | none => (decodeAnyStrand [lo, 0#16, 0#16, 0#16] 1).map fun (k, i) => (some k, i)
  else if nbits ≤ 32 then
    match exactly 2 (decodeCtl [lo, hi]) with
    | some i => some (none, i)
    | none => (decodeAnyStrand [hi, lo, 0#16, 0#16] 2).map fun (k, i) => (some k, i)
  else
    (decodeAnyStrand [lo, hi, BitVec.ofNat 16 (w / 4294967296), BitVec.ofNat 16 (w / 281474976710656)] 4).map
      fun (k, i) => (some k, i)

/-- The instruction the decoder reads from a table word. -/
def decodeTableWord (nbits w : Nat) : Option Instr := (decodeTable nbits w).map (·.2)

end Sys2Proof
end

