-- ==== Sys2Proof/Machine/Issue.lean ====
section
/-! DEFINITION. Who may issue, which instructions access memory, and the store a context is about to make (01: R19; 05: R119, R131; 11: R235; 15: R309). -/

namespace Sys2Proof.Machine

/-- A context in the midst of an instruction that does not wait: it goes on to its instruction boundary (R305, R311). -/
def Ctx.midway (c : Ctx) : Bool := c.run && !c.halt && c.ins.isSome && c.wait == .none
/-- The contexts of a bank issue: it runs, or awaits a cancelled task's rendezvous; its suspension began in this cycle (R300); or it is to
be pre-empted and a job is still open (R316). -/
def State.bankIssues (s : State) (b bank : Nat) : Bool :=
  let k := s.bank b bank
  match k.mode with
  | .running | .cancelling => true
  | .suspending => k.susp.any fun u => u.cycle == s.cycle
  | .preempting => (s.braid b).jobsOpen.any fun j => j.bank == bank
  | _ => false
/-- The acting context has an issue slot in this cycle: its bank runs on the braid, it runs, and while T is active T alone does, from the
cycle after its TRAP on (DESIGN CHOICE, log entry 108); one that has to stop at its instruction boundary goes on until then (R305, R309,
R311). -/
def State.ctxIssues (s : State) : Bool :=
  let (b, bank, c) := s.me
  let k := s.myBank
  let stops := k.mode == .suspending || k.mode == .preempting || k.mode == .switching
  s.myBraid.runBank == bank && k.task.isSome && s.myCtx.run && !s.myCtx.halt
    && ((s.bankIssues b bank && (c == .T) == k.tActive && (c != .T || k.tActiveStart)) || (s.myCtx.midway && (stops || (k.tActive && (k.mode == .running || k.mode == .cancelling)))))

/-- The guard of an instruction that accesses memory, be it the record it reads; none of one that makes no access (R19, R235). -/
def accessGuard (i : Instr) : Option (BitVec 4) :=
  match i with
  | .ldB g .. | .ldH g .. | .ldW g .. | .ldD g .. | .stB g .. | .stH g .. | .stW g .. | .stD g .. | .ldf g .. | .ste g ..
  | .amoAdd g .. | .amoSwap g .. | .amoCas g .. | .amoMin g .. | .amoMax g .. | .amoAnd g .. | .amoOr g ..
  | .redAdd g .. | .redMin g .. | .redMax g .. | .redFadd g .. | .redCfadd g .. | .hmix g .. | .cpin g .. | .cpout g ..
  | .job g .. | .task g .. | .rvin g .. | .rvout g .. | .tsave g .. | .trstr g .. => some g
  | .cLdD .. | .cStD .. => some 0
  | _ => none
/-- An access of a context whose task stands at a commit event waits until the event has completed; one under a false guard makes no
access (R19, R235). -/
def State.barred (s : State) (i : Instr) : Bool :=
  ((accessGuard i).any fun g => s.myCtx.getP g) && match s.myBank.arrive with
    | some a => !a.passed
    | none => false

/-- The bytes a store in progress will write (R131). -/
def State.storeOf (s : State) (i : Instr) : Option (Nat × Nat) :=
  match i with
  | .stB _ _ _ a _ => some (addrOf (s.rS a), 1)
  | .stH _ _ _ a _ => some (addrOf (s.rS a), 2)
  | .stW _ _ _ a _ => some (addrOf (s.rS a), 4)
  | .stD _ _ _ a _ => some (addrOf (s.rS a), 8)
  | .cStD a _ => some (addrOf (s.rS a), 8)
  | _ => none

/-- The guard of an instruction's parcels: bits 31 to 28 of a word, p0 of a 16-bit form (R19). -/
def guardOf : List Parcel → BitVec 4
  | [_, hi] => BitVec.ofNat 4 (hi.toNat / 4096)
  | _ => 0

/-- The store a context has issued and not yet made, the one it is about to issue in its slot of this cycle among them: no store takes
effect in the cycle it is issued in (R108, R131). -/
def State.storeNow (s : State) (b bank : Nat) (c : CtxId) : Option (Nat × Nat) :=
  let s1 := s.setCur (.ctx b bank c)
  match s1.myCtx.ins with
  | some _ => s1.myCtx.store
  | none =>
    if !s1.ctxIssues then none
    else
      match s1.fetchParcels with
      | (_, none) => none
      | (s2, some ps) =>
        match decodeCtl ps with
        | .error _ => none
        | .ok (i, _) => if s2.myCtx.getP (guardOf ps) then s2.storeOf i else none

end Sys2Proof.Machine
end

