-- ==== Sys2Proof/Machine/LoadStore.lean ====
section
/-! DEFINITION. LD, ST and the mailbox words (04: R101, R102; 10: R208, R209, R215, R216). -/

namespace Sys2Proof.Machine

/-- A load of `n` bytes into rd, extended by Z (R101). -/
def load (g : BitVec 4) (len n : Nat) (z na : Bool) (sid : BitVec 4) (d a : BitVec 5) (s : State) : Res :=
  guarded g len s fun s =>
    match s.ctxRead (addrOf (s.rS a)) n sid.toNat na with
    | (s1, none) => s1
    | (s1, some l) =>
      (s1.warnIf (z && n == 8) 0).result len d (if z then BitVec.ofNat 64 (leNat l) else BitVec.ofInt 64 (intValue (8 * n) false (leNat l)))

/-- A store of the low `n` bytes of rs2 (R102). -/
def store (g : BitVec 4) (len n : Nat) (na : Bool) (sid : BitVec 4) (a b : BitVec 5) (s : State) : Res :=
  guarded g len s fun s =>
    match s.ctxStore (addrOf (s.rS a)) sid.toNat na (natLe n (s.rS b).toNat) with
    | (s1, false) => s1
    | (s1, true) => s1.advance len

/-- LD.b (R101). -/
def execLdB (g : BitVec 4) (na z : Bool) (sid : BitVec 4) (d a : BitVec 5) (s : State) : Res := load g 4 1 z na sid d a s
/-- LD.h (R101). -/
def execLdH (g : BitVec 4) (na z : Bool) (sid : BitVec 4) (d a : BitVec 5) (s : State) : Res := load g 4 2 z na sid d a s
/-- LD.w (R101). -/
def execLdW (g : BitVec 4) (na z : Bool) (sid : BitVec 4) (d a : BitVec 5) (s : State) : Res := load g 4 4 z na sid d a s
/-- LD.d; with .z cr.WARN bit 0 (R79, R101). -/
def execLdD (g : BitVec 4) (na z : Bool) (sid : BitVec 4) (d a : BitVec 5) (s : State) : Res := load g 4 8 z na sid d a s
/-- ST.b (R102). -/
def execStB (g : BitVec 4) (na : Bool) (sid : BitVec 4) (a b : BitVec 5) (s : State) : Res := store g 4 1 na sid a b s
/-- ST.h (R102). -/
def execStH (g : BitVec 4) (na : Bool) (sid : BitVec 4) (a b : BitVec 5) (s : State) : Res := store g 4 2 na sid a b s
/-- ST.w (R102). -/
def execStW (g : BitVec 4) (na : Bool) (sid : BitVec 4) (a b : BitVec 5) (s : State) : Res := store g 4 4 na sid a b s
/-- ST.d (R102). -/
def execStD (g : BitVec 4) (na : Bool) (sid : BitVec 4) (a b : BitVec 5) (s : State) : Res := store g 4 8 na sid a b s

/-- Number of a mailbox word by its address (R177). -/
def mailWord (a : Nat) : Nat := (a - Config.mailBase) / 4
/-- The address of LDF and STE: in the mailbox and a multiple of 4 (R215). -/
def mailAddrOk (a : Nat) : Bool := inMail a && a % 4 == 0

/-- LDF: wait until the word is full; take it (R215, R216). The phase is no longer eligible for a re-run (R320). -/
def execLdf (g : BitVec 4) (d a : BitVec 5) (s : State) : Res :=
  guarded g 4 s fun s =>
    let va := addrOf (s.rS a)
    let w := mailWord va
    let x := s.myBraid
    if !mailAddrOk va then s.ctxFault 7 va false
    else if !tget false x.fullStart w || x.taken.contains w then s.waitIn .other
    else
      let v := leNat (x.sramRead va 4)
      let s1 := s.modMyBraid fun y => { y with full := tset false y.full w false, taken := w :: y.taken }
      (s1.modMyBank fun k => { k with inelig := true }).result 4 d (BitVec.ofNat 64 v)

/-- STE: wait until the word is empty; fill it (R215, R216). -/
def execSte (g : BitVec 4) (a b : BitVec 5) (s : State) : Res :=
  guarded g 4 s fun s =>
    let va := addrOf (s.rS a)
    let w := mailWord va
    let x := s.myBraid
    if !mailAddrOk va then s.ctxFault 7 va true
    else if tget false x.fullStart w || x.stored.contains w then s.waitIn .other
    else
      let s1 := s.modMyBraid fun y =>
        { y.sramPuts va (natLe 4 (s.rS b).toNat) with full := tset false y.full w true, stored := w :: y.stored }
      (s1.modMyBank fun k => { k with inelig := true }).advance 4

/-- Change the full bits of a window's 32 words. -/
def Braid.setWindow (x : Braid) (w : Nat) (v : Bool) : Braid :=
  { x with full := (upto (32 * w) 32).foldl (fun m i => tset false m i v) x.full }

/-- MBCLR: every word of the window becomes empty (R215). -/
def execMbclr (g : BitVec 4) (a : BitVec 5) (s : State) : Res :=
  guarded g 4 s fun s =>
    let va := addrOf (s.rS a)
    if !inMail va then s.ctxFault 7 va true
    else ((s.modMyBraid (·.setWindow ((va - Config.mailBase) / 128) false)).modMyBank fun k => { k with inelig := true }).advance 4

/-- MBSTAT: the window's full bits as a mask (R215). -/
def execMbstat (g : BitVec 4) (d a : BitVec 5) (s : State) : Res :=
  guarded g 4 s fun s =>
    let va := addrOf (s.rS a)
    if !inMail va then s.ctxFault 7 va false
    else
      let w := (va - Config.mailBase) / 128
      let m := (upto 0 32).foldl (fun acc i => acc + if tget false s.myBraid.fullStart (32 * w + i) then 2 ^ i else 0) 0
      s.result 4 d (BitVec.ofNat 64 m)

end Sys2Proof.Machine
end

