-- ==== Sys2Proof/Machine/Control.lean ====
section
/-! DEFINITION. Branches, queue registers and jobs of the contexts (04: R103, R104; 05: R124 to R129; 03: R75; 17: R356). -/

namespace Sys2Proof.Machine

/-- A branch target: the pc plus a signed parcel offset (R103, R104). -/
def brTarget {n : Nat} (pc : Addr) (off : BitVec n) : Addr := pc + (off.signExtend 48 <<< 1)

/-- BR (R103). -/
def execBr (g : BitVec 4) (off : BitVec 21) (s : State) : Res :=
  guarded g 4 s fun s => s.modMyCtx fun c => c.goto (brTarget c.pc off)

/-- JAL: the link goes to s1 (R104). -/
def execJal (g : BitVec 4) (off : BitVec 21) (s : State) : Res :=
  guarded g 4 s fun s => s.modMyCtx fun c => (c.setS 1 ((c.pc + 4).setWidth 64)).goto (brTarget c.pc off)

/-- JALR: rs1 is read before the link is written (R87, R104). -/
def execJalr (g : BitVec 4) (d a : BitVec 5) (imm : BitVec 11) (s : State) : Res :=
  guarded g 4 s fun s => s.modMyCtx fun c =>
    (c.setS d ((c.pc + 4).setWidth 64)).goto ((c.getS a + (sext11 imm <<< 1)).setWidth 48)

/-- Depth of a queue; 8 is fq (R124). -/
def qDepth : Nat → Nat
  | 4 => 32
  | 6 => 32
  | 8 => 8
  | _ => 16

/-- The context that a queue instruction is judged as: T counts as X (R311). -/
def queueRole : CtxId → CtxId
  | .T => .X
  | c => c
/-- Producers and consumers among the contexts (R124). -/
def mayPut (c : CtxId) (q : Nat) : Bool :=
  match queueRole c with
  | .L => q == 0 || q == 4
  | .X => q == 1 || q == 3 || q == 5
  | .S => q == 2 || q == 6
  | .T => false
def mayGet (c : CtxId) (q : Nat) : Bool :=
  match queueRole c with
  | .L => q == 3
  | .X => q == 0 || q == 2 || q == 7
  | .S => q == 1
  | .T => false
/-- The instruction is assigned to X only (R124, R196), and so to T (R311). -/
def isX (c : CtxId) : Bool := queueRole c == .X

def Bank.queue (k : Bank) (q : Nat) : List Word64 := tget [] k.q q
def Bank.queueStart (k : Bank) (q : Nat) : List Word64 := tget [] k.qStart q

/-- Append to a queue, once it had room at the start of the cycle (R125). -/
def putQueue (q len : Nat) (v : Word64) (s : State) : State :=
  let k := s.myBank
  if qDepth q ≤ (k.queueStart q).length || qDepth q ≤ (k.queue q).length then s.waitIn .queue
  else (s.modMyBank fun k => { k with q := tput k.q q (k.queue q ++ [v]) }).advance len

/-- QPUT and C.QPUT: assigned by context before the guard is read (R19, R124, R125, R242). -/
def qputForm (g : BitVec 4) (len : Nat) (q : BitVec 3) (a : BitVec 5) (s : State) : Res :=
  if mayPut s.me.2.2 q.toNat then guarded g len s fun s => putQueue q.toNat len (s.rS a) s
  else .next s.illegal

/-- QGET and C.QGET: the oldest entry present at the start of the cycle (R125). -/
def qgetForm (g : BitVec 4) (len : Nat) (d : BitVec 5) (q : BitVec 3) (s : State) : Res :=
  if mayGet s.me.2.2 q.toNat then
    guarded g len s fun s =>
      match s.myBank.queueStart q.toNat, s.myBank.queue q.toNat with
      | _ :: _, v :: r => (s.modMyBank fun k => { k with q := tput k.q q.toNat r }).result len d v
      | _, _ => s.waitIn .queue
  else .next s.illegal

/-- LPW and C.LPW: X only (R127). -/
def lpwForm (g : BitVec 4) (len : Nat) (lp : BitVec 4) (a : BitVec 5) (s : State) : Res :=
  if isX s.me.2.2 then
    guarded g len s fun s => (s.modMyBank fun k => { k with lp := tset 0 k.lp lp.toNat ((s.rS a).setWidth 32) }).advance len
  else .next s.illegal

/-- QPUT (R127). -/
def execQput (g : BitVec 4) (q : BitVec 3) (a : BitVec 5) (s : State) : Res := qputForm g 4 q a s
/-- QGET (R127). -/
def execQget (g : BitVec 4) (d : BitVec 5) (q : BitVec 3) (s : State) : Res := qgetForm g 4 d q s
/-- LPW (R127). -/
def execLpw (g lp : BitVec 4) (a : BitVec 5) (s : State) : Res := lpwForm g 4 lp a s
/-- FMT: X only; appends to fq unchecked (R124, R127). -/
def execFmt (g : BitVec 4) (a : BitVec 5) (s : State) : Res :=
  if isX s.me.2.2 then guarded g 4 s fun s => putQueue 8 4 (s.rS a) s
  else .next s.illegal

/-- Predecessor words of a record: channel code and number (R75); none where PCH 7 has a number. -/
def parsePreds (r : List Byte) (off : Nat) : Option (List (Nat × Nat)) :=
  (upto 0 4).mapM fun j =>
    let w := fieldLe r (off + 4 * j) 4
    let ch := bits w 29 3
    let n := bits w 0 28
    if bitAt w 28 || (ch == 7 && n ≠ 0) then none else some (ch, n)

/-- Fields of a start condition (R75): kind, queue, count, state, window. -/
def condKind (c : Nat) : Nat := bits c 14 2
def condQueue (c : Nat) : Nat := bits c 10 4
def condCount (c : Nat) : Nat := bits c 4 6
def condWindow (c : Nat) : Nat := bits c 0 13
def condState (c : Nat) : Bool := bitAt c 13
def condOk (c : Nat) : Bool :=
  match condKind c with
  | 0 => c == 0
  | 3 => true
  | _ => decide (condQueue c ≤ 8) && decide (1 ≤ condCount c) && decide (condCount c ≤ qDepth (condQueue c)) && bits c 0 4 == 0
def regionOk (r : Nat) : Bool :=
  if bitAt r 31 then bits r 26 4 == 0 && decide (bits r 13 13 + bits r 0 13 + 1 ≤ 5120) else r == 0
/-- Two conditions of one kind on one queue add; their sum is within the depth (R130). -/
def condSumsOk (cs : List Nat) : Bool :=
  (upto 1 2).all fun k => (upto 0 9).all fun q =>
    decide (((cs.filter fun c => condKind c == k && condQueue c == q).map condCount).sum ≤ qDepth q)

/-- The job header of 64 bytes, checked (R75, R130, R356); none where a field is excluded. With XV = 0 the bits of XDEV are not
looked at: R356 takes them out of R75's reserved field and names no fault for them (model's choice: log entry 88). -/
def parseJob (r : List Byte) (chainN dev : Nat) (chain : Bool) (num : Nat) (pc : Addr) (ctx : CtxId) (now : Nat) : Option Job := do
  let w0 := fieldLe r 0 4
  let smask := bits w0 0 5
  let xv := bitAt w0 22
  let xdev := bits w0 19 3
  let strands := (upto 0 5).map fun i => fieldLe r (4 + 4 * i) 4
  let preds ← parsePreds r 24
  let conds := (upto 0 4).map fun j => fieldLe r (40 + 2 * j) 2
  let regions := (upto 0 4).map fun j => fieldLe r (48 + 4 * j) 4
  let strandOk := ((upto 0 5).zip strands).all fun (i, w) =>
    if bitAt smask i then !bitAt w 0 && (bits w 24 8 == 0 || decide (256 ≤ bits w 0 24)) else w == 0
  let xOk := if xv then decide (1 < chainN) && decide (xdev < chainN) && xdev != dev && chain else true
  if smask ≠ 0 && bits w0 23 9 == 0 && strandOk && conds.all condOk && condSumsOk conds && regions.all regionOk && xOk then
    some { num, pc, ctx, at_ := now, smask, maxc := bits w0 5 14 + 1, entry := strands.map (bits · 0 24), spbld := strands.map (bits · 24 8),
           preds, conds, regions, xv, xdev, raw := r }
  else none

/-- JOB: X only; waits for room, reads the header as a load of stream 0, checks it, takes the next number (R128, R312). -/
def execJob (g : BitVec 4) (d a : BitVec 5) (s : State) : Res :=
  if !isX s.me.2.2 then .next s.illegal
  else
    guarded g 4 s fun s =>
      let (b, bank, c) := s.me
      let k := s.myBank
      if c = .T && !k.tSaved then s.ctxFault 23 0 false
      else if 8 ≤ k.jobs.length + (s.myBraid.jobsOpen.filter fun j => j.bank == bank && j.start == s.cycle).length then s.waitIn .jobSpace
      else
        match s.ctxRead (addrOf (s.rS a)) 64 0 false with
        | (s1, none) => s1
        | (s1, some r) =>
          let num := (k.jobNext + 1) % 2 ^ 28
          match parseJob r s.cfg.chainN s.cfg.dev (s.ifaceD k.vi).chain num s.myCtx.pc c s.cycle with
          | none => s1.illegal
          | some j =>
            (s1.modBank b bank fun k => { k with jobs := k.jobs ++ [j], jobNext := num }).result 4 d (BitVec.ofNat 64 num)

/-- A job has reached its rendezvous: it is at or before DONE, or finished beyond it, or earlier than the window (R129). -/
def Bank.jobFinished (k : Bank) (n : Nat) : Bool := serialLe n k.jobDone || k.jobFin.contains (n % 2 ^ 28) || serialOld n k.jobNext

/-- JWAIT: retires once the named job has reached its rendezvous (R129). -/
def execJwait (g : BitVec 4) (a : BitVec 5) (s : State) : Res :=
  guarded g 4 s fun s =>
    if s.myBank.jobFinished ((s.rS a).toNat % 2 ^ 28) then s.advance 4 else s.waitIn .jobWait

end Sys2Proof.Machine
end

