-- ==== Sys2Proof/Machine/FrameStore.lean ====
section
/-! DEFINITION. The frame store: slots, images, sessions and handles of an interface (12: R268, R269, R271, R274). -/

namespace Sys2Proof.Machine

/-- The empty handle (R268). -/
def emptyHandle : Nat := 0xFFFFFFFF

/-- Drop one reference of each slot of a list; a slot without references is free (R268). -/
def Iface.dropSlots (i : Iface) : List (Option Nat) → Iface
  | [] => i
  | none :: r => i.dropSlots r
  | some x :: r =>
    let n := tget 0 i.slotRefs x
    ({ i with slotRefs := if n ≤ 1 then tdel i.slotRefs x else tput i.slotRefs x (n - 1) }).dropSlots r

/-- The image a number names; an empty one where it names none. -/
def Iface.image (i : Iface) (n : Nat) : Image := tget ⟨[], 0, 0⟩ i.images n
/-- Take a reference to an image; none at the largest count (R268). -/
def Iface.takeImage (i : Iface) (n : Nat) : Option Iface :=
  let m := i.image n
  if 2 ^ 32 - 1 ≤ m.refs then none else some { i with images := tput i.images n { m with refs := m.refs + 1 } }
/-- Drop a reference to an image; an image without references is freed (R268). -/
def Iface.dropImage (i : Iface) (n : Nat) : Iface :=
  let m := i.image n
  if !thas i.images n then i
  else if m.refs ≤ 1 then ({ i with images := tdel i.images n }).dropSlots m.slots
  else { i with images := tput i.images n { m with refs := m.refs - 1 } }
/-- Drop the image a session has, if any. -/
def Iface.dropOpt (i : Iface) : Option Nat → Iface
  | none => i
  | some n => i.dropImage n

/-- A session of the interface exists (R269). -/
def Iface.hasSession (i : Iface) (sid : Nat) : Bool := decide (sid < i.nsess)
def Iface.session (i : Iface) (sid : Nat) : Session := tget {} i.sessions sid
def Iface.setSession (i : Iface) (sid : Nat) (x : Session) : Iface := { i with sessions := tput i.sessions sid x }

/-- A state granule of an image: 64 bytes, zeros beyond LEN or in an empty entry (R268). -/
def Iface.granule (i : Iface) (m : Image) (sg : Nat) : List Byte :=
  match m.slots.getD (sg / 64) none with
  | some x => if m.len ≤ sg then List.replicate 64 0 else (upto (4096 * x + 64 * (sg % 64)) 64).map (tget 0 i.store)
  | none => List.replicate 64 0

/-- The lowest free slot of the store (R268). -/
def Iface.freeSlot (i : Iface) : Option Nat := (upto 0 i.slots).find? fun n => !thas i.slotRefs n

/-- Put a reference on each slot of a list; none where a count would pass 65,535 (R268). -/
def Iface.takeSlots (i : Iface) : List (Option Nat) → Option Iface
  | [] => some i
  | none :: r => i.takeSlots r
  | some x :: r =>
    let n := tget 0 i.slotRefs x
    if 65535 ≤ n then none else ({ i with slotRefs := tput i.slotRefs x (n + 1) }).takeSlots r

/-- Write bytes of the store. -/
def Iface.storePuts (i : Iface) (a : Nat) : List Byte → Iface
  | [] => i
  | b :: r => ({ i with store := tset 0 i.store a b }).storePuts (a + 1) r

/-- An outcome of a state instruction: the interface and the result, or the code of the fault (R274). -/
abbrev StateOut := Except Nat (Iface × Word64)

/-- SNAP (R274). -/
def Iface.snapOp (i : Iface) (sid : Nat) : StateOut :=
  let x := i.session sid
  if !i.hasSession sid then .error 16
  else
    match x.cur with
    | none => .ok (i, BitVec.ofNat 64 emptyHandle)
    | some m =>
      let h := 65536 * sid + x.snap
      if thas i.handles h then .error 16
      else
        match i.takeImage m with
        | none => .error 17
        | some j =>
          .ok ({ j with handles := tput j.handles h m }.setSession sid { x with snap := (x.snap + 1) % 65535 }, BitVec.ofNat 64 h)

/-- FORK (R274). -/
def Iface.forkOp (i : Iface) (h sid : Nat) : StateOut :=
  let x := i.session sid
  if !i.hasSession sid || x.cur.isSome then .error 16
  else if h = emptyHandle then .ok (i.setSession sid { x with epoch := x.epoch + 1 }, 0)
  else if !thas i.handles h then .error 16
  else
    let m := tget 0 i.handles h
    match i.takeImage m with
    | none => .error 17
    | some j => .ok (j.setSession sid { x with cur := some m, epoch := x.epoch + 1 }, BitVec.ofNat 64 (i.image m).len)

/-- ROLLB (R274). -/
def Iface.rollbOp (i : Iface) (sid h : Nat) : StateOut :=
  let x := i.session sid
  if !i.hasSession sid then .error 16
  else if h = emptyHandle then .ok ((i.setSession sid { x with cur := none, epoch := x.epoch + 1 }).dropOpt x.cur, 0)
  else if !thas i.handles h then .error 16
  else
    let m := tget 0 i.handles h
    match i.takeImage m with
    | none => .error 17
    | some j => .ok ((j.setSession sid { x with cur := some m, epoch := x.epoch + 1 }).dropOpt x.cur, 0)

/-- FREEH (R274). -/
def Iface.freehOp (i : Iface) (h : Nat) : StateOut :=
  if h = emptyHandle then .ok (i, 0)
  else if !thas i.handles h then .error 16
  else .ok (({ i with handles := tdel i.handles h }).dropImage (tget 0 i.handles h), 0)

end Sys2Proof.Machine
end

