-- ==== Sys2Proof/Machine/Engines.lean ====
section
/-! DEFINITION. CPIN, CPOUT, WAITX, RVIN, RVOUT and the state instructions (12: R253 to R260, R270, R271, R274). -/

namespace Sys2Proof.Machine

def Bank.chan (k : Bank) (c : Nat) : Chan := tget {} k.chans c
def Bank.setChan (k : Bank) (c : Nat) (x : Chan) : Bank := { k with chans := tput k.chans c x }

/-- A predecessor reference holds (R255). -/
def State.refHolds (s : State) (b bank ch n : Nat) : Bool :=
  let k := s.bank b bank
  match ch with
  | 4 => serialLe n k.rv.done || serialOld n k.rv.newest
  | 5 => k.jobFinished n
  | 6 => serialLe n (s.braid b).sqDone || serialOld n (s.braid b).sqNext
  | 7 => true
  | c => serialLe n (k.chan c).done || serialOld n (k.chan c).newest
def State.refsHold (s : State) (b bank : Nat) (l : List (Nat × Nat)) : Bool := l.all fun e => s.refHolds b bank e.1 e.2

/-- Bits of a signed 32-bit field as an integer. -/
def int32At (r : List Byte) (o : Nat) : Int := intValue 32 false (fieldLe r o 4)

/-- Width in bits of a format code (R29). -/
def fmtWidth (f : Nat) : Nat := match Format.ofCode f with
  | some x => x.width
  | none => 0

/-- Elements of a copy's box (R259). -/
def CopyCmd.count (c : CopyCmd) : Nat := c.box.foldl (fun n b => n * (b + 1)) 1
/-- Bytes of a copy's image (R259). -/
def CopyCmd.size (c : CopyCmd) : Nat := (c.count * fmtWidth c.fmt + 7) / 8

/-- The command and shape records, checked (R257, R258, R260): the command, or the code of the fault. -/
def parseCopy (cmd tsr : List Byte) (isOut : Bool) (num : Nat) (pc : Addr) (ctx : CtxId) (vi k place owner : Nat) : Except Nat CopyCmd :=
  let w0 := fieldLe cmd 0 4
  let t0 := fieldLe tsr 0 8
  let fmt := bits t0 48 4
  let dims := bits t0 52 3
  let op := bits t0 55 2
  let dim (i : Nat) := fieldLe tsr (8 + 8 * i) 8
  let org (i : Nat) := fieldLe cmd (32 + 4 * i) 4
  let low := upto 0 dims
  let high := upto dims (6 - dims)
  let c : CopyCmd :=
    { num, isOut, pc, ctx, vi, local_ := bits w0 0 24, sid := bits w0 24 4, src := bitAt w0 28, preds := (parsePreds cmd 16).getD [],
      org := low.map fun i => int32At cmd (32 + 4 * i), base := bits t0 0 48, fmt, op, pin := bitAt t0 57,
      ext := low.map fun i => bits (dim i) 0 20, box := low.map fun i => bits (dim i) 20 12,
      str := low.map fun i => int32At tsr (12 + 8 * i), k, place, owner }
  let shapeOk := bits t0 58 6 == 0 && (Format.ofCode fmt).isSome && decide (1 ≤ dims ∧ dims ≤ 6) && decide (op ≤ 1)
    && fieldLe tsr 56 8 == 0 && high.all fun i => dim i == 0
  let cmdOk := bits w0 29 3 == 0 && fieldLe cmd 4 4 == 0 && fieldLe cmd 14 2 == 0 && fieldLe cmd 56 8 == 0
    && (parsePreds cmd 16).isSome && high.all fun i => org i == 0
  let kindOk := if isOut then !c.pin else op == 0 && !c.src
  let addOk := op == 0 || fmt == 0 || fmt == 9 || fmt == 10 || fmt == 13
  if !(shapeOk && cmdOk && kindOk && addOk) || 5242880 < c.size then .error 1
  else if !c.src && decide (Config.mailBase < c.local_ + c.size) then .error 7
  else .ok c

/-- CPIN and CPOUT (R260). -/
def copyForm (isOut : Bool) (g : BitVec 4) (d : BitVec 5) (ch : BitVec 2) (a : BitVec 5) (s : State) : Res :=
  guarded g 4 s fun s =>
    let (b, bank, c) := s.me
    if 16 ≤ (s.myBank.chan ch.toNat).queue.length then s.waitIn .other
    else
      match s.ctxRead (addrOf (s.rS a)) 64 0 false with
      | (s1, none) => s1
      | (s1, some cmd) =>
        match s1.ctxRead (fieldLe cmd 8 6) 64 (bits (fieldLe cmd 0 4) 24 4) false with
        | (s2, none) => s2
        | (s2, some tsr) =>
          let k := s2.bank b bank
          let h := k.chan ch.toNat
          let num := (h.newest + 1) % 2 ^ 28
          let copies := match k.task with
            | some t => t.copies
            | none => 0
          match parseCopy cmd tsr isOut num s.myCtx.pc c k.vi (copies + 1) k.place ((k.task.map Task.sq).getD 0) with
          | .error 7 => s2.ctxFault 7 (bits (fieldLe cmd 0 4) 0 24) (!isOut)
          | .error code => s2.ctxFault code 0 false
          | .ok x =>
            let k1 := (k.setChan ch.toNat { h with queue := h.queue ++ [x], newest := num }).nextPlace
            let k2 := { k1 with task := k1.task.map fun t => if isOut then { t with copies := t.copies + 1 } else t }
            (s2.setBank b bank k2).result 4 d (BitVec.ofNat 64 num)

/-- CPIN (R260). -/
def execCpin (g : BitVec 4) (d : BitVec 5) (ch : BitVec 2) (a : BitVec 5) (s : State) : Res := copyForm false g d ch a s
/-- CPOUT (R260). -/
def execCpout (g : BitVec 4) (d : BitVec 5) (ch : BitVec 2) (a : BitVec 5) (s : State) : Res := copyForm true g d ch a s

/-- The completion of a channel's copy of a number has been observed: from here on every stream reads its bytes as it left them, or as
a later write left them (R248, R256). -/
def State.acquire (s : State) (b bank ch n : Nat) : State :=
  s.mapOwn b bank fun o => if o.copy = some (ch, n) then { o with covered := true } else o
/-- WAITX: retires once its reference holds (R256); an acquire of what the copy it names has written (R248). -/
def execWaitx (g : BitVec 4) (ch : BitVec 3) (a : BitVec 5) (s : State) : Res :=
  guarded g 4 s fun s =>
    let n := (s.rS a).toNat % 2 ^ 28
    if s.refHolds s.me.1 s.me.2.1 ch.toNat n then (s.acquire s.me.1 s.me.2.1 ch.toNat n).advance 4 else s.waitIn .other

/-- The frame record, checked (R270): none where a field is excluded. -/
def parseFrame (r : List Byte) (isOut : Bool) (num : Nat) (pc : Addr) (ctx : CtxId) (cur : Bool) (epoch : Nat → Nat) (vi : Nat) : Option ReeveCmd := do
  let w0 := fieldLe r 0 4
  let first := fieldLe r 4 4
  let cnt := fieldLe r 8 4
  let sg := fieldLe r 12 4
  let preds ← parsePreds r 16
  let code := bits w0 16 2
  let bank := if code < 2 then code else if (code == 3) != cur then 1 else 0
  if w0 < 2 ^ 18 && first + cnt + 1 ≤ 24576 && sg + cnt + 1 ≤ 24576 && leNat (r.drop 32) == 0 then
    some { num, isOut, pc, ctx, sid := bits w0 0 16, bank, first, cnt, sg, preds, epoch := epoch (bits w0 0 16), vi, launch := none, owner := none }
  else none

/-- RVIN and RVOUT (R271): X only. -/
def reeveForm (isOut : Bool) (g : BitVec 4) (d a : BitVec 5) (s : State) : Res :=
  if !isX s.me.2.2 then .next s.illegal
  else
    guarded g 4 s fun s =>
      let (b, bank, ctx) := s.me
      if 32 ≤ s.myBank.rv.queue.length then s.waitIn .other
      else
        match s.ctxRead (addrOf (s.rS a)) 64 0 false with
        | (s1, none) => s1
        | (s1, some r) =>
          let k := s1.bank b bank
          let i := s1.ifaceD k.vi
          let num := (k.rv.newest + 1) % 2 ^ 28
          match parseFrame r isOut num s.myCtx.pc ctx k.curBank (fun sid => (i.session sid).epoch) k.vi with
          | none => s1.illegal
          | some c =>
            if !i.hasSession c.sid then s1.ctxFault 16 0 false
            else
              (s1.setBank b bank { k with rv := { k.rv with queue := k.rv.queue ++ [{ c with owner := k.task.map Task.sq }], newest := num }, inelig := true }).result 4 d
                (BitVec.ofNat 64 num)

/-- RVIN (R271). -/
def execRvin (g : BitVec 4) (d a : BitVec 5) (s : State) : Res := reeveForm false g d a s
/-- RVOUT (R271). -/
def execRvout (g : BitVec 4) (d a : BitVec 5) (s : State) : Res := reeveForm true g d a s

/-- A Reeve command of an interface that names a session and has not retired, on any braid (R274). -/
def State.reeveBusy (s : State) (v sid : Nat) (insOnly : Bool) : Bool :=
  s.braids.any fun e =>
    let hit (k : Bank) := k.rv.queue.any fun c => c.vi == v && c.sid == sid && !(insOnly && c.isOut)
    hit e.2.b0 || hit e.2.b1

/-- An operation has changed an interface's sessions: the residency tags of a session whose epoch it changed are cleared (R274, R285). -/
def State.dropTags (s : State) (v : Nat) : State :=
  let i := s.ifaceD v
  { s with braids := s.braids.map fun (b, x) => (b, { x with tags := x.tags.filter fun t => t.vi != v || t.epoch == (i.session t.sid).epoch }) }
/-- A state instruction (R274): X only; waits, then the allocator's operation at once or a fault; `d` gets the result. -/
def stateForm (g : BitVec 4) (d : BitVec 5) (busy : State → Bool) (f : State → Iface → StateOut) (s : State) : Res :=
  if !isX s.me.2.2 then .next s.illegal
  else
    guarded g 4 s fun s =>
      if busy s then s.waitIn .other
      else
        let v := s.myBank.vi
        match f s (s.ifaceD v) with
        | .error code => s.ctxFault code 0 false
        | .ok (i, w) => (((s.modIface v fun _ => i).dropTags v).modMyBank fun k => { k with inelig := true }).result 4 d w

/-- SNAP (R274). -/
def execSnap (g : BitVec 4) (d a : BitVec 5) (s : State) : Res :=
  stateForm g d (fun s => s.reeveBusy s.myBank.vi ((s.rS a).toNat % 65536) false) (fun s i => i.snapOp ((s.rS a).toNat % 65536)) s
/-- FORK (R274). -/
def execFork (g : BitVec 4) (d a : BitVec 5) (s : State) : Res :=
  stateForm g d (fun s => s.reeveBusy s.myBank.vi (bits (s.rS a).toNat 32 16) false)
    (fun s i => i.forkOp ((s.rS a).toNat % 2 ^ 32) (bits (s.rS a).toNat 32 16)) s
/-- ROLLB (R274). -/
def execRollb (g : BitVec 4) (a b : BitVec 5) (s : State) : Res :=
  stateForm g 0 (fun s => s.reeveBusy s.myBank.vi ((s.rS a).toNat % 65536) true)
    (fun s i => i.rollbOp ((s.rS a).toNat % 65536) ((s.rS b).toNat % 2 ^ 32)) s
/-- FREEH (R274). -/
def execFreeh (g : BitVec 4) (a : BitVec 5) (s : State) : Res :=
  stateForm g 0 (fun _ => false) (fun s i => i.freehOp ((s.rS a).toNat % 2 ^ 32)) s

end Sys2Proof.Machine
end

