-- ==== Sys2Proof/Machine/Domain.lean ====
section
/-! DEFINITION. Domains, COMMIT and BAR, TASK, the gain instructions, RESID and HMIX (08: R193 to R204; 12: R266, R272, R273; 13: R291, R294). -/

namespace Sys2Proof.Machine

/-- Membership bit of a task at a level (R193). -/
def Task.member (t : Task) (k : Nat) : Bool :=
  match k with
  | 1 => t.m1
  | 2 => t.m2
  | 3 => t.m3
  | _ => false

/-- The unit of a braid at a level: band, die or device (R193). -/
def unitOf (k b : Nat) : Nat :=
  match k with
  | 0 => b
  | 1 => b / 8
  | 2 => b / 48
  | _ => 0

/-- Members of the level-k domain of a braid's task, ascending; the braid alone where Mk is 0 (R193). -/
def State.members (s : State) (b bank k : Nat) : List Nat :=
  match (s.bank b bank).task with
  | none => [b]
  | some t =>
    if !t.member k then [b]
    else
      match s.launch t.launch with
      | none => [b]
      | some l => l.phys.filter fun c => unitOf k c == unitOf k b

/-- What COMMIT, BAR and HALT in X wait for (R194, R266): no job queued or open, nothing to send, OUT 0, no copy command unretired. -/
def State.quiet (s : State) (b bank : Nat) : Bool :=
  let x := s.braid b
  let k := x.bank bank
  k.jobs.isEmpty && (x.jobsOpen.filter fun j => j.bank == bank).isEmpty && x.sendQ.isEmpty && x.ctlQ.isEmpty && x.out == 0
    && k.chans.all fun e => e.2.queue.isEmpty

/-- The window granules, over both banks, that a Reeve command covers (R270). -/
def ReeveCmd.covers (c : ReeveCmd) (g : Nat) : Bool :=
  decide (24576 * c.bank + c.first ≤ g ∧ g ≤ 24576 * c.bank + c.first + c.cnt)

/-- The waits of a commit event beyond R194 (R272, R273). -/
def State.reeveQuiet (s : State) (b bank : Nat) (swap : Bool) : Bool :=
  let x := s.braid b
  let w := (x.bank bank).w
  let cmds := x.b0.rv.queue ++ x.b1.rv.queue
  cmds.all fun c => if c.isOut then !(w.any fun e => e.2 && c.covers e.1) else !swap

/-- A packet for another device reaches an extension port beside stop 72 on a channel of the port links (R355, R357). -/
def State.toPort (s : State) (port : Nat) (p : Packet) (vc : Nat) : State :=
  { s with ports := tmod {} s.ports port fun x => { x with outQ := x.outQ ++ [(p, vc)] } }
/-- Put a one-flit packet into a braid's control queue, one to its own stop too (R188, R201). -/
def State.sendCtl (s : State) (b : Nat) (p : Packet) : State :=
  if p.ddev ≠ s.cfg.dev ∧ b = 72 then s.toPort 1 p 0
  else s.modBraid b fun x => { x with ctlQ := x.ctlQ ++ [p], headAt := if x.ctlQ.isEmpty then tput x.headAt 1 s.cycle else x.headAt }
/-- The control queue has room (R188). -/
def State.ctlRoom (s : State) (b : Nat) : Bool := decide ((s.braid b).ctlQ.length < 32)
def State.packet (s : State) (typ src dest arg flits : Nat) (body : Body) : Packet :=
  ⟨typ, src, dest, 0, arg, flits, s.cfg.dev, s.cfg.dev, body⟩

/-- A commit of level `k` in X: it arrives once its waits hold, and retires once its event has completed and, for a member
of a domain, BARR has come (R194, R195, R235, R273). In a Capstan round task it is unassigned (R196). -/
def commitForm (g : BitVec 4) (k : Nat) (swap : Bool) (s : State) : Res :=
  let (b, bank, c) := s.me
  let inRound := match s.myBank.task with
    | some t => t.round.isSome
    | none => false
  if !isX c || inRound then .next s.illegal
  else
    guarded g 4 s fun s =>
      match s.myBank.arrive with
      | none =>
        if s.quiet b bank && s.reeveQuiet b bank swap then
          let gen := match s.myBank.task with
            | some t => tget 0 t.bars k % 2 ^ 11
            | none => 0
          let root := (s.members b bank k).headD b
          let s1 := if root = b then s else s.sendCtl b (s.packet 2 b root (2048 * k + gen) 1 .empty)
          (s1.modMyBank fun kb => { kb with arrive := some ⟨k, swap, gen, none, false, false, []⟩ }).waitIn .other
        else s.waitIn .other
      | some a =>
        if a.released then ((s.phaseDone b bank swap k).advance 4).modBank b bank Bank.checkpoint
        else s.waitIn .other

/-- COMMIT (R194, R273). -/
def execCommit (g : BitVec 4) (s : State) : Res := commitForm g 0 false s
/-- COMMIT.swap (R194, R273). -/
def execCommitSwap (g : BitVec 4) (s : State) : Res := commitForm g 0 true s
/-- BAR.k (R195). -/
def execBar (g : BitVec 4) (k : BitVec 2) (s : State) : Res := commitForm g k.toNat false s

/-- The stop of a die's heap unit (R197). -/
def heapStop (b : Nat) : Nat := if Braid.isEast b then 48 else 0

/-- The heap of a die and number: key 16·die + number. -/
def State.heap (s : State) (key : Nat) : Option Heap := (s.heaps.find? fun e => e.1 == key).map fun e => e.2

/-- Send a heap operation of the issuing task: OUT counts it unless it goes to the braid's own stop (R194, R201). -/
def State.sendGain (s : State) (kind : GainKind) (heap target : Nat) (x : Word32) (record : Option TaskRec) : State :=
  let (b, bank, _) := s.me
  let k := s.myBank
  let die := bit (Braid.isEast b)
  let (tid, place, uid, round) := match k.task with
    | none => (0xFFFFFFFF, 0, 0, none)
    | some t => (t.tid, t.gops, t.launch, match t.round with
      | some (d, h, _) =>
        if d = die ∧ h = heap then (s.heap (16 * d + h)).map Heap.tries else none
      | none => none)
  let o : HeapOp := { kind, die, heap, target, x, issuer := tid, place, braid := b, bank, launch := uid, round, pc := s.myCtx.pc, record }
  let s1 := s.sendCtl b (s.packet 4 b (heapStop b) 0 1 (.gain o))
  let s2 := s1.modBraid b fun y => { y with out := if heapStop b = b then y.out else y.out + 1 }
  s2.modBank b bank fun k => { k with inelig := true, task := k.task.map fun t : Task => { t with gops := t.gops + 1 } }

/-- GADD, GSET and GMAX: X only; wait for control-queue space (R201). -/
def gainForm (kind : GainKind) (g : BitVec 4) (a b : BitVec 5) (s : State) : Res :=
  if !isX s.me.2.2 then .next s.illegal
  else
    guarded g 4 s fun s =>
      if !s.ctlRoom s.me.1 then s.waitIn .other
      else (s.sendGain kind (bits (s.rS a).toNat 32 4) ((s.rS a).toNat % 2 ^ 32) ((s.rS b).setWidth 32) none).advance 4

/-- GADD (R201). -/
def execGadd (g : BitVec 4) (a b : BitVec 5) (s : State) : Res := gainForm .add g a b s
/-- GSET (R201). -/
def execGset (g : BitVec 4) (a b : BitVec 5) (s : State) : Res := gainForm .set g a b s
/-- GMAX (R201). -/
def execGmax (g : BitVec 4) (a b : BitVec 5) (s : State) : Res := gainForm .max g a b s

/-- RESID: the residual at the end of the previous round, or the canonical NaN outside a round task (R203). -/
def execResid (g : BitVec 4) (d : BitVec 5) (s : State) : Res :=
  if !isX s.me.2.2 then .next s.illegal
  else
    guarded g 4 s fun s =>
      let round := match s.myBank.task with
        | some t => t.round
        | none => none
      let w : Word32 := match round with
        | some (die, h, _) =>
          match s.heap (16 * die + h) with
          | some hp => hp.r
          | none => 0x7FC00000
        | none => 0x7FC00000
      s.result 4 d (w.setWidth 64)

/-- The task record, checked (R202, R291). -/
def parseTask (r : List Byte) : Option TaskRec := do
  let w := fieldLe r 14 2
  let kind := bits w 4 2
  let preds ← parsePreds r 16
  if w < 64 && kind ≤ 1 && fieldLe r 8 1 % 2 == 0 && (kind == 0 || preds.all fun e => e.1 == 7) && (kind == 1 || bits w 2 2 == 0) then
    some { tid := fieldLe r 0 4, gain := BitVec.ofNat 32 (fieldLe r 4 4), entry := fieldLe r 8 6, heap := bits w 0 4, kind, preds,
           args := (upto 0 12).map fun i => BitVec.ofNat 64 (fieldLe r (32 + 8 * i) 8) }
  else none

/-- TASK: X only; KIND 1 inserts into the die's heap, KIND 0 spawns a task on a member of the spawner's domain (R202, R291, R292). -/
def execTask (g : BitVec 4) (a : BitVec 5) (s : State) : Res :=
  if !isX s.me.2.2 then .next s.illegal
  else
    guarded g 4 s fun s =>
      let (b, bank, _) := s.me
      if !s.ctlRoom b then s.waitIn .other
      else
        match s.ctxRead (addrOf (s.rS a)) 128 0 false with
        | (s1, none) => s1
        | (s1, some r) =>
          match parseTask r with
          | none => s1.illegal
          | some t =>
            if t.kind = 1 then (s1.sendGain .insert t.heap t.tid t.gain (some t)).advance 4
            else
              let ms := s1.members b bank (t.heap % 4)
              let target := ms.getD (t.tid % ms.length) b
              let (uid, sq, round) := match (s1.bank b bank).task with
                | some y => (y.launch, y.sq, y.round.map fun (die, n, _) => (16 * die + n, (s1.heaps.find? fun e => e.1 == 16 * die + n).elim 0 fun e => e.2.tries))
                | none => (0, 0, none)
              let s2 := s1.sendCtl b (s1.packet 15 b target 0 1 (.spawn ⟨t, target, uid, b, bank, sq, round, s.cycle⟩))
              ((s2.modLaunch uid fun l => { l with pendingSpawns := l.pendingSpawns + 1 }).modBank b bank
                fun k => { k with inelig := true }).advance 4

/-- One token pair of Mix (R294). -/
def hmixStep (h w : Word64) : Word64 :=
  let x := (h ^^^ w) * 0x8F3A6C1D52B7E94B
  x ^^^ (x >>> 29)
/-- Mix of a hash and 64 bytes (R294). -/
def hmix (h : Word64) (block : List Byte) : Word64 :=
  let x := (upto 0 8).foldl (fun h j => hmixStep h (BitVec.ofNat 64 (fieldLe block (8 * j) 8))) h
  let y := (x + 16) * 0xC4D17A2E93F60B85
  y ^^^ (y >>> 32)

/-- HMIX (R294). -/
def execHmix (g : BitVec 4) (d a b : BitVec 5) (s : State) : Res :=
  guarded g 4 s fun s =>
    match s.ctxRead (addrOf (s.rS b)) 64 0 false with
    | (s1, none) => s1
    | (s1, some l) => s1.result 4 d (hmix (s.rS a) l)

end Sys2Proof.Machine
end

