-- ==== Sys2Proof/Machine/System.lean ====
section
/-! DEFINITION. TRAP, RTE, CRR, CRW, TSAVE, TRSTR, YIELD and HALT (01: R24, R26; 04: R105, R106; 05: R121; 15: R309 to R313; 11: R237). -/

namespace Sys2Proof.Machine

/-- A field of a control register. -/
def field (v lo : Nat) : Nat := v * 2 ^ lo
/-- cr.STATUS (R26, R132). -/
def statusReg (c : Ctx) (jopen : Bool) : Nat := bit c.run + field (bit c.halt) 1 + field (bit c.fault) 2 + field (bit jopen) 3
/-- cr.DOM (R193, R353). -/
def State.domReg (s : State) (b bank : Nat) : Nat :=
  match (s.bank b bank).task with
  | none => field (bit (Braid.isEast b)) 12 + b
  | some t =>
    let a := s.arcNo t.vi b
    field (s.bank b bank).phaseStart.toNat 32 + field (bit t.m3) 18 + field (bit t.m2) 17 + field (bit t.m1) 16 + field (bit (Braid.isEast b)) 12
      + field (a / 8) 8 + a
/-- cr.VI of an interface as a braid reads it (R352). -/
def State.viReg (s : State) (v pbraid : Nat) : Nat :=
  let i := s.ifaceD v
  field (s.cfg.chainN - 1) 28 + field s.cfg.dev 25 + field (bit i.chain) 24 + field pbraid 16 + field (8 * (s.arc v).2 - 1) 8
    + field i.mode 7 + v

/-- A control register as it stood at the start of the cycle (R68, R105, R254, R310). -/
def State.crRead (s : State) (n : Nat) : Word64 :=
  let (b, bank, _) := s.me
  let x := s.myBraid
  let k := s.myBank
  let c := s.myCtx
  let v := match n with
    | 0 => statusReg c (x.jobsOpen.any fun j => j.bank == bank && j.start < s.cycle)
    | 1 => k.causeCode.toNat + field k.causeSrc.toNat 8
    | 2 => c.epc.toNat
    | 3 => k.spc.toNat
    | 4 => k.flags.toNat
    | 5 => k.warn.toNat
    | 6 => s.domReg b bank
    | 7 => if Braid.isEast b then s.clock.slotE.toNat else s.clock.slot.toNat
    | 8 => bit k.curStart
    | 9 => s.viReg k.vi b
    | 10 => (k.chan 0).done
    | 11 => (k.chan 1).done
    | 12 => (k.chan 2).done
    | 13 => (k.chan 3).done
    | 14 => k.rv.done
    | 15 => k.jobDone
    | 16 => x.sqStart
    | 17 => k.tpcStart.toNat
    | 18 => k.tcodeStart.toNat + field k.tctxStart.toNat 10
    | 19 => match k.task with
      | some t => t.tvec.toNat
      | none => 0
    | 20 => bit k.tActiveStart + field (bit k.tSavedStart) 1
    | 21 => bank
    | 22 => k.preempts.toNat
    | 23 => bit k.rerunStart
    | _ => 0
  BitVec.ofNat 64 v

/-- Registers 17 to 20 belong to T (R310). -/
def crAllowed (c : CtxId) (n : Nat) : Bool := c == .T || !(decide (17 ≤ n ∧ n ≤ 20))

/-- CRR (R105, R310). -/
def execCrr (g : BitVec 4) (d n : BitVec 5) (s : State) : Res :=
  if crAllowed s.me.2.2 n.toNat then guarded g 4 s fun s => s.result 4 d (s.crRead n.toNat)
  else .next s.illegal

/-- What CRW writes: cr.FLAGS, cr.WARN, and cr.TPC in T; every other field is read-only (R26, R310). -/
def Bank.crWrite (k : Bank) (n : Nat) (v : Word64) : Bank :=
  match n with
  | 4 => { k with flagWrite := some (v.setWidth 5) }
  | 5 => { k with warnWrite := some (v.setWidth 12) }
  | 17 => { k with tpc := v.setWidth 48 }
  | _ => k

/-- CRW (R105, R310). -/
def execCrw (g : BitVec 4) (n a : BitVec 5) (s : State) : Res :=
  if crAllowed s.me.2.2 n.toNat then guarded g 4 s fun s => (s.modMyBank fun k => k.crWrite n.toNat (s.rS a)).advance 4
  else .next s.illegal

/-- An instruction that takes `n` cycles after its waits: it waits, then holds its context for them, then has its effect (R330). -/
def afterWait (n : Nat) (ready : Bool) (s : State) (f : State → State) : State :=
  if s.myCtx.holding then f s
  else if ready then s.modMyCtx fun c => { c with wait := .none, holding := true, retireAt := some (s.cycle + n - 1) }
  else s.waitIn .other

/-- TRAP (R311). -/
def execTrap (g : BitVec 4) (code : BitVec 10) (s : State) : Res :=
  guarded g 4 s fun s =>
    let c := s.me.2.2
    let tvec : Addr := match s.myBank.task with
      | some t => t.tvec
      | none => 0
    if s.myBank.tActive || tvec = 0 then s.ctxFault 24 0 false
    else
      let pc := s.myCtx.pc
      (s.modMyCtx Ctx.retired).modMyBank fun k => k.takeTrap c code (pc + 4) tvec

/-- RTE: T only; while SAVED is 1 it is the trap-state fault (R311, R314). -/
def execRte (g : BitVec 4) (s : State) : Res :=
  if s.me.2.2 ≠ .T then .next s.illegal
  else guarded g 4 s fun s => if s.myBank.tSaved then s.ctxFault 23 0 false else s.modMyBank Bank.returnTrap

/-- A bank holds a task that may run again (R306): answered, or preempted apart from its launch. -/
def State.runnable (s : State) (b bank : Nat) : Bool :=
  let k := s.bank b bank
  match k.task with
  | none => false
  | some t =>
    let held := match s.launch t.launch with
      | some l => l.preempted
      | none => false
    !held && (k.mode == .preempted || (k.mode == .suspended && match k.susp with
      | some u => u.answered
      | none => false))
/-- YIELD: X only; the bank gives way to the other bank's runnable task (R311, R316). -/
def execYield (g : BitVec 4) (s : State) : Res :=
  if !isX s.me.2.2 then .next s.illegal
  else
    guarded g 4 s fun s =>
      let (b, bank, _) := s.me
      let k := s.myBank
      afterWait 8 (k.jobs.isEmpty && (s.myBraid.jobsOpen.filter fun j => j.bank == bank).isEmpty) s fun s =>
        if s.runnable b (1 - bank) then (s.advance 4).modBank b bank fun k => { k with mode := .preempting, yielded := true } else s.advance 4

/-- Bytes of a list of lanes. -/
def laneBytes (n : Nat) (l : List Word32) : List Byte := ((upto 0 n).map fun i => natLe 4 (wordAt l i).toNat).flatten
/-- A drain record in the save image (R313). -/
def DrainRec.word (d : DrainRec) : Nat := d.fmt + 16 * d.rnd + 128 * bit d.sat + 256 * bit d.cplx + 65536 * d.seed
def drainOfWord (w : Nat) : DrainRec := ⟨bits w 0 4, bits w 4 3, bitAt w 7, bits w 16 16, bitAt w 8⟩

/-- Bytes 0 to 63 of a save image (R313). -/
def saveHead (counts : List Nat) (r : StrandRegs) : List Byte :=
  (upto 0 5).map (fun i => BitVec.ofNat 8 (counts.getD i 0))
    ++ (upto 0 2).map (fun i => BitVec.ofNat 8 (tget {} r.wb i).beats) ++ [0]
    ++ ((upto 0 4).map fun i => natLe 4 (tget {} r.drain i).word).flatten ++ natLe 4 r.stopper.toNat ++ List.replicate 36 0

/-- Bytes 1,408 to 310,271 of a save image: strand registers and stream parameter blocks (R313). -/
def saveTail (r : StrandRegs) (spb : Tab (Tab Nat)) : List Byte :=
  let cb (i : Nat) := ((upto 0 16).map fun j => natLe 2 ((tget [] r.cb i).getD j 0).toNat).flatten
  let sp (p : Nat) := ((upto 0 8).map fun j => natLe 32 (tget 0 (tget [] spb p) j)).flatten
  let wb (i : Nat) := ((upto 0 128).map fun j => laneBytes 192 ((tget {} r.wb i).data.getD j [])).flatten
  ((upto 0 4).map cb).flatten ++ ((upto 0 5).map sp).flatten
    ++ ((upto 0 4).map fun i => natLe 24 (tget 0 r.m i).toNat).flatten ++ List.replicate 160 0
    ++ ((upto 0 16).map fun i => laneBytes 192 (tget [] r.v i)).flatten
    ++ ((upto 0 4).map fun i => laneBytes 6144 (tget [] r.acc i)).flatten
    ++ wb 0 ++ wb 1

/-- Read `n` words of 4 bytes. -/
def lanesOf (l : List Byte) : Nat → List Word32
  | 0 => []
  | n + 1 => BitVec.ofNat 32 (leNat (l.take 4)) :: lanesOf (l.drop 4) n

/-- Strand registers and stream parameter blocks from a save image (R313). -/
def loadImage (head tail : List Byte) : StrandRegs × Tab (Tab Nat) :=
  let at_ (o : Nat) := tail.drop (o - 1408)
  let tab {α : Type} (n : Nat) (f : Nat → α) : Tab α := (upto 0 n).map fun i => (i, f i)
  let wb (i : Nat) : WBuf := ⟨fieldLe head (5 + i) 1, (upto 0 128).map fun j => lanesOf (at_ (113664 + 98304 * i + 768 * j)) 192⟩
  ({ v := tab 16 fun i => lanesOf (at_ (3072 + 768 * i)) 192,
     m := tab 4 fun i => BitVec.ofNat 192 (leNat ((at_ (2816 + 24 * i)).take 24)),
     acc := tab 4 fun i => lanesOf (at_ (15360 + 24576 * i)) 6144,
     drain := tab 4 fun i => drainOfWord (fieldLe head (8 + 4 * i) 4),
     wb := tab 2 wb,
     cb := tab 4 fun i => (upto 0 16).map fun j => BitVec.ofNat 16 (leNat ((at_ (1408 + 32 * i + 2 * j)).take 2)),
     stopper := BitVec.ofNat 32 (fieldLe head 24 4) },
   tab 5 fun p => tab 8 fun j => leNat ((at_ (1536 + 256 * p + 32 * j)).take 32))

/-- The stream parameter blocks of a braid's strands. -/
def Braid.spbs (x : Braid) : Tab (Tab Nat) := x.strands.map fun e => (e.1, e.2.spb)
/-- Load strand registers and stream parameter blocks into a braid; the accumulator chains start anew. -/
def Braid.loadRegs (x : Braid) (r : StrandRegs) (spb : Tab (Tab Nat)) : Braid :=
  { x with
    regs := r, chain := r.acc, accReady := [],
    strands := (upto 0 5).foldl (fun m p => tmod {} m p fun t => { t with spb := tget [] spb p }) x.strands }

/-- The whole save image of TSAVE (R313). -/
def saveImage (x : Braid) (k : Bank) : List Byte :=
  let q (i n : Nat) := ((upto 0 n).map fun j => natLe 8 (((k.queue i).getD j 0).toNat)).flatten
  saveHead [(k.queue 8).length, (k.queue 4).length, (k.queue 5).length, (k.queue 6).length, k.jobs.length] x.regs
    ++ laneBytes 16 ((upto 0 16).map (tget 0 k.lp)) ++ q 8 8 ++ q 4 32 ++ q 5 16 ++ q 6 32
    ++ ((upto 0 8).map fun j => match k.jobs[j]? with
        | some y => y.raw
        | none => List.replicate 64 0).flatten
    ++ ((upto 0 8).map fun j => match k.jobs[j]? with
        | some y => natLe 4 y.num
        | none => natLe 4 0).flatten
    ++ List.replicate 32 0 ++ saveTail x.regs x.spbs

/-- The address TSAVE and TRSTR accept (R313). -/
def saveAddrOk (a : Nat) : Bool := a % 64 == 0 && decide (Config.scratchBase ≤ a) && decide (a + Config.saveBytes ≤ Config.mailBase)

/-- TSAVE: T only (R313); it reads every strand register and writes the image's units (R320). -/
def execTsave (g : BitVec 4) (a : BitVec 5) (s : State) : Res :=
  if s.me.2.2 ≠ .T then .next s.illegal
  else
    guarded g 4 s fun s =>
      let (b, bank, _) := s.me
      let va := addrOf (s.rS a)
      if !saveAddrOk va then s.ctxFault 11 va true
      else if s.myBank.tSaved then s.ctxFault 23 0 false
      else
        afterWait 420 ((s.myBraid.jobsOpen.filter fun j => j.bank == bank).isEmpty) s fun s =>
          let img := saveImage s.myBraid s.myBank
          ((s.modBraid b fun x => x.sramPuts va img).modBank b bank fun k =>
            { (strandRegs.foldl Bank.noteReg k).noteWrites va Config.saveBytes with held := some ⟨k.jobs⟩, jobs := [], tSaved := true }).advance 4

/-- The queued jobs of a save image: header, number, and what was held aside (R313); none where a header is excluded. -/
def State.imageJobs (s : State) (img : List Byte) (k : Bank) (n : Nat) : Option (List Job) :=
  (upto 0 n).mapM fun j =>
    let old := (match k.held with
      | some h => h.jobs
      | none => [])[j]?
    let (pc, at_) := match old with
      | some y => (y.pc, y.at_)
      | none => (k.t.pc, s.cycle)
    parseJob ((img.drop (832 + 64 * j)).take 64) s.cfg.chainN s.cfg.dev (s.ifaceD k.vi).chain (fieldLe img (1344 + 4 * j) 4 % 2 ^ 28) pc .X at_

/-- TRSTR: T only (R313); it reads the image's units and writes every strand register (R320). An image that holds a job header with
excluded fields is an illegal encoding (DESIGN CHOICE, log entry 112). -/
def execTrstr (g : BitVec 4) (a : BitVec 5) (s : State) : Res :=
  if s.me.2.2 ≠ .T then .next s.illegal
  else
    guarded g 4 s fun s =>
      let (b, bank, _) := s.me
      let va := addrOf (s.rS a)
      if !saveAddrOk va then s.ctxFault 11 va false
      else if !s.myBank.tSaved then s.ctxFault 23 0 false
      else
        let ready := s.myBank.jobs.isEmpty && (s.myBraid.jobsOpen.filter fun j => j.bank == bank).isEmpty
        afterWait 420 ready s fun s =>
          let img := s.myBraid.sramRead va Config.saveBytes
          let n (i : Nat) := fieldLe img i 1
          let q (o c : Nat) : List Word64 := (upto 0 c).map fun j => BitVec.ofNat 64 (fieldLe img (o + 8 * j) 8)
          match s.imageJobs img s.myBank (min 8 (n 4)) with
          | none => s.illegal
          | some jobs =>
            let (regs, spb) := loadImage (img.take 64) (img.drop 1408)
            let lps : Tab Word32 := (upto 0 16).foldl (fun m i => tset 0 m i (BitVec.ofNat 32 (fieldLe img (64 + 4 * i) 4))) []
            let put (m : Tab (List Word64)) (i : Nat) (l : List Word64) := tput m i l
            ((s.modBraid b fun x => x.loadRegs regs spb).modBank b bank fun k =>
              { strandRegs.foldl Bank.noteSet (k.noteReads va Config.saveBytes) with
                lp := lps, jobs, held := none, tSaved := false,
                q := put (put (put (put k.q 8 (q 128 (min 8 (n 0)))) 4 (q 192 (min 32 (n 1)))) 5 (q 448 (min 16 (n 2)))) 6
                  (q 576 (min 32 (n 3))) }).advance 4

/-- The merge buffer of a round task moves to its overflow area when it halts (R237): each line an entry of the area. -/
def State.spillLines (s : State) (b bank : Nat) : List MLine → State × Option Stop
  | [] => (s, none)
  | l :: r =>
    match s.spill b bank l with
    | (s1, some e) => (s1, some e)
    | (s1, none) => s1.spillLines b bank r

/-- A task whose contexts have all halted ends; a round task leaves its writes to the round's commit, or loses them where its round has
gone (R121, R199, R237, R303). -/
def State.finishTask (s : State) (b bank : Nat) : State :=
  let k := s.bank b bank
  match k.task with
  | none => s
  | some t =>
    match t.round with
    | none => s.endTask b bank
    | some (die, h, _) =>
      let p : Part := { braid := b, bank, tid := t.tid, started := t.started, lines := k.spilled, tiles := k.staged, reds := k.reds,
                        conflicts := k.conflicts }
      let mine (e : Nat × Heap) : Bool := e.1 == 16 * die + h && e.2.launch == t.launch && e.2.st == .run
      let add (e : Nat × Heap) : Nat × Heap := if mine e then (e.1, { e.2 with parts := e.2.parts ++ [p] }) else e
      let s1 := if s.heaps.any mine then s else s.modLaunch t.launch (·.lose b)
      ({ s1 with heaps := s1.heaps.map add } : State).endTask b bank

/-- A context that did not begin in this task, or that has halted. -/
def Ctx.over (c : Ctx) : Bool := !c.began || c.halt

/-- The newest numbers of the copy channels. -/
def Bank.newest (k : Bank) : List Nat := (upto 0 4).map fun c => (k.chan c).newest
/-- Every copy command up to given numbers has retired (R253, R266). -/
def Bank.copiesOver (k : Bank) (l : List Nat) : Bool :=
  (upto 0 4).all fun c => (k.chan c).queue.all fun q => decide (2 ^ 27 ≤ (l.getD c 0 + 2 ^ 28 - q.num) % 2 ^ 28)
/-- HALT: X waits for its phase's work, and L, X and S for the copy commands issued before it; the task ends with the last context
(R24, R106, R121, R194, R266). In T, of which no rule speaks, it stops T at once, ends nothing and resumes nothing (DESIGN CHOICE,
log entry 94). -/
def execHalt (g : BitVec 4) (s : State) : Res :=
  guarded g 4 s fun s =>
    let (b, bank, c) := s.me
    let marks := s.myCtx.copies.getD s.myBank.newest
    if (c = .X && !s.quiet b bank) || (c ≠ .T && !s.myBank.copiesOver marks) then
      (s.modMyCtx fun x => { x with copies := some marks }).waitIn .halt
    else
      let halted (x : Ctx) : Ctx := { x.goto (x.pc + 4) with run := false, halt := true }
      let k := s.myBank.setCtx c (halted s.myCtx)
      let last := c ≠ .T && k.l.over && k.x.over && k.s.over
      let inRound := match k.task with
        | some t => t.round.isSome
        | none => false
      if last && inRound then
        match s.spillLines b bank (if s.myBraid.runBank = bank then s.myBraid.merge.reverse else []) with
        | (s1, some e) => s1.ctxStop true e
        | (s1, none) => (s1.modMyCtx halted).finishTask b bank
      else
        let s1 := s.modMyCtx halted
        if last then s1.finishTask b bank else s1

end Sys2Proof.Machine
end

