-- ==== Sys2Proof/Machine/Short.lean ====
section
/-! DEFINITION. The 16-bit forms: guard p0, pc advance 2, the effects of their expansions (03: R67; 04: R106, R107). -/

namespace Sys2Proof.Machine

/-- C.MOV: rd := rs1 (R107). -/
def execCMov (d a : BitVec 5) (s : State) : Res := aluRR 0 2 d a 0 (fun x y => x + y) s
/-- C.ADD: rd := rd + rs1 (R107). -/
def execCAdd (d a : BitVec 5) (s : State) : Res := aluRR 0 2 d d a (fun x y => x + y) s
/-- C.ADDI: the 6-bit immediate is sign-extended (R107). -/
def execCAddi (d : BitVec 5) (imm : BitVec 6) (s : State) : Res := aluD 0 2 d (fun x => x + imm.signExtend 64) s
/-- C.LD.d: stream 0, no NA (R107). -/
def execCLdD (d a : BitVec 5) (s : State) : Res := load 0 2 8 false false 0 d a s
/-- C.ST.d: stream 0, no NA (R107). -/
def execCStD (a b : BitVec 5) (s : State) : Res := store 0 2 8 false 0 a b s
/-- C.QPUT (R107, R124). -/
def execCQput (q : BitVec 3) (a : BitVec 5) (s : State) : Res := qputForm 0 2 q a s
/-- C.QGET (R107, R124). -/
def execCQget (d : BitVec 5) (q : BitVec 3) (s : State) : Res := qgetForm 0 2 d q s
/-- C.BR: always taken (R107). -/
def execCBr (off : BitVec 11) (s : State) : Res := guarded 0 2 s fun s => s.modMyCtx fun c => c.goto (brTarget c.pc off)
/-- C.LPW (R107, R124). -/
def execCLpw (lp : BitVec 4) (a : BitVec 5) (s : State) : Res := lpwForm 0 2 lp a s
/-- C.NOP: only the pc advances (R106). -/
def execCNop (s : State) : Res := guarded 0 2 s fun s => s.advance 2

end Sys2Proof.Machine
end

