-- ==== Sys2Proof/Machine/StrandCommon.lean ====
section
/-! DEFINITION. What the strand ops share: issue, tracks, stream parameter blocks, SRAM streams and results (03: R71, R72, R77; 05: R109 to R118, R123, R126, R131; 07: R157; 10: R209 to R211). -/

namespace Sys2Proof.Machine

/-- An op at its strand: braid, position, bank, issue cycles it has had, the cycle, its job and the parcel it begins at. -/
structure At where
  b : Nat
  k : Nat
  bank : Nat
  q : Nat
  now : Nat
  job : Nat
  pc : Nat
  deriving DecidableEq, Repr

/-- A fault an op meets: code, address, and whether the access writes (R301). -/
structure Bad where
  code : Nat
  va : Nat
  write : Bool
  deriving DecidableEq, Repr
/-- A fault without an access. -/
def bare (code : Nat) : Bad := ⟨code, 0, false⟩
/-- Faults an op meets in one cycle. -/
abbrev Errs := List Bad
/-- A result, or a fault. -/
abbrev Iss (α : Type) := Except Bad α

/-- Of the faults one op meets in one cycle the lowest code is raised (R300). -/
def Errs.least : Errs → Option Bad
  | [] => none
  | e :: r => match Errs.least r with
    | none => some e
    | some f => if f.code < e.code then some f else some e
/-- Go on with a value if nothing failed. -/
def orFault {α : Type} (e : Errs) (x : Iss α) : Iss α := match e.least with
  | none => x
  | some f => .error f
/-- A check: the fault where it fails. -/
def need (ok : Bool) (code : Nat) : Errs := if ok then [] else [bare code]

def State.strand (s : State) (b k : Nat) : Strand := tget {} (s.braid b).strands k
def Braid.modStrand (x : Braid) (k : Nat) (f : Strand → Strand) : Braid := { x with strands := tmod {} x.strands k f }
def State.modStrand (s : State) (b k : Nat) (f : Strand → Strand) : State := s.modBraid b (·.modStrand k f)
def At.strand (a : At) (s : State) : Strand := s.strand a.b a.k
def At.braid (a : At) (s : State) : Braid := s.braid a.b

/-- The open job of an op. -/
def At.open_ (a : At) (s : State) : Option OpenJob := (s.braid a.b).jobsOpen.find? fun j => j.bank == a.bank && j.job.num == a.job
def At.modOpen (a : At) (s : State) (f : OpenJob → OpenJob) : State :=
  s.modBraid a.b fun x => { x with jobsOpen := x.jobsOpen.map fun j => if j.bank = a.bank ∧ j.job.num = a.job then f j else j }

/-- Where a pass through a block's body ends, the next pass or the op after the block follows (R114). -/
def unwind : List Blk → Nat → List Blk × Nat
  | [], pc => ([], pc)
  | b :: r, pc =>
    if pc ≠ b.stop then (b :: r, pc)
    else if b.left = 0 then unwind r pc
    else ({ b with left := b.left - 1 } :: r, b.start)

/-- The op has had its last issue cycle; the stream goes on at `pc` (R114). -/
def Strand.leave (t : Strand) (pc : Nat) : Strand :=
  let (nest, pc) := unwind t.nest pc
  { t with op := none, q := 0, pc, nest, opened := [], held := [], heldFlags := 0, scaleA := [], scaleB := [], fw := 0, wbAt := [], cbAt := [] }

/-- One issue cycle of an op of `len` parcels: `f` answers the next state and whether the op's occupancy ends (R113),
or a fault of the strand at the op's parcel (R122). A strand without a job does nothing. -/
def strandForm (k len : Nat) (f : State → At → Iss (State × Bool)) (s : State) : Res :=
  let (b, k) := s.here k
  let t := s.strand b k
  match t.job with
  | none => .next s
  | some job =>
    match f s ⟨b, k, t.bank, t.q, s.cycle, job, t.opPc⟩ with
    | .error e => .next (s.strandFault b k e.code t.opPc e.va e.write)
    | .ok (s1, true) => .next (s1.modStrand b k fun t => t.leave (t.opPc + 2 * len))
    | .ok (s1, false) => .next (s1.modStrand b k fun t => { t with q := t.q + 1 })

/-- IDLE n: n cycles (R71, R113). -/
def execIdle (n : BitVec 10) (s : State) : Res := strandForm 0 1 (fun s a => .ok (s, a.q == n.toNat)) s

/-- JOIN: the strand is done with its job once the job's results are written (R71, R132). -/
def execJoin (s : State) : Res :=
  strandForm 0 1 (fun s a => .ok (a.modOpen s fun j => { j with joined := a.k :: j.joined }, true)) s

/-- BLK: one cycle; the body follows, or with a register count of 0 what comes after it (R71, R72, R114, R116). -/
def execBlk (depth : BitVec 3) (rsrc : Bool) (len : BitVec 10) (rep : BitVec 12) (s : State) : Res :=
  let (b, k) := s.here 0
  let t := s.strand b k
  match t.job with
  | none => .next s
  | some job =>
    let a : At := ⟨b, k, t.bank, t.q, s.cycle, job, t.opPc⟩
    let start := t.opPc + 4
    let stop := start + 2 * len.toNat
    let fits := match t.nest with
      | [] => true
      | o :: _ => decide (stop ≤ o.stop)
    if depth.toNat ≠ t.nest.length + 1 || !fits then .next (s.strandFault b k 1 t.opPc 0)
    else
      let image := match a.open_ s with
        | some j => j.lpImage
        | none => []
      let count := if rsrc then (tget 0 image (rep.toNat % 16)).toNat else rep.toNat + 1
      .next (s.modStrand b k fun t =>
        if count = 0 then t.leave stop
        else ({ t with nest := ⟨start, stop, count - 1⟩ :: t.nest }).leave start)

/-- The beat a position reads from a track (R110). -/
def At.beat (a : At) (s : State) (t : Nat) : Option Beat :=
  let x := s.braid a.b
  if thas x.arriving (5 * t + a.k) then some (tget ⟨[], false⟩ x.arriving (5 * t + a.k)) else none

/-- Consume a beat: an empty one is the stream-shape fault (R111). -/
def At.take (a : At) (s : State) (t : Nat) : Iss Beat := match a.beat s t with
  | some x => .ok x
  | none => .error (bare 2)

/-- Consume a beat of a counted stream, whose marker stands on the last beat alone (R111). -/
def At.takeCounted (a : At) (s : State) (t : Nat) (last : Bool) : Iss (List Word32) := do
  let x ← a.take s t
  if x.marker == last then .ok x.lanes else .error (bare 2)

/-- A result that lands in cycle `due` (R112). -/
def At.emit (a : At) (s : State) (due : Nat) (flags : FlagSet) (eff : Eff) : State :=
  s.modBraid a.b fun x => { x with pend := x.pend ++ [⟨due, a.k, a.bank, a.job, a.pc, flags, eff⟩] }
def At.modBank (a : At) (s : State) (f : Bank → Bank) : State := s.modBank a.b a.bank f
/-- Set a bit of cr.WARN in the issue cycle (R80). -/
def At.warnIf (a : At) (s : State) (c : Bool) (n : Nat) : State := if c then a.modBank s (·.warnBit n) else s

/-- Numbers of the strand registers for R320. -/
def regV (r : Nat) : Nat := r
def regM (i : Nat) : Nat := 16 + i
def regAcc (i : Nat) : Nat := 20 + i
def regDrain (i : Nat) : Nat := 24 + i
def regWb (i : Nat) : Nat := 28 + i
def regCb (i : Nat) : Nat := 30 + i
def regStopper : Nat := 34
def regSpb (k i : Nat) : Nat := 40 + 8 * k + i
def At.noteRegs (a : At) (s : State) (l : List Nat) : State := a.modBank s fun k => l.foldl Bank.noteReg k
def At.noteSets (a : At) (s : State) (l : List Nat) : State := a.modBank s fun k => l.foldl Bank.noteSet k

/-- A stream parameter block (R77). -/
structure Spb where
  base : Nat
  fmt : Nat
  /-- Per level, innermost first: EXT and STR. -/
  levels : List (Nat × Int)
  deriving DecidableEq, Repr

/-- Levels of a block's image. -/
def spbLevel (w i : Nat) : Nat × Int := (bits w (32 + 36 * i) 12, intValue 24 false (bits w (44 + 36 * i) 24))
/-- The block of an image; none where R77 excludes a field. -/
def parseSpb (w : Nat) : Option Spb :=
  let n := bits w 28 3
  if bitAt w 31 || bits w 248 8 ≠ 0 || n = 0 || n = 7 || 14 ≤ bits w 24 4 || bits w (32 + 36 * n) (216 - 36 * n) ≠ 0 then none
  else some ⟨bits w 0 24, bits w 24 4, (upto 0 n).map (spbLevel w)⟩

/-- Elements of the stream. -/
def Spb.count (p : Spb) : Nat := p.levels.foldl (fun n l => n * (l.1 + 1)) 1
/-- Elements of a run, and runs of the stream (R157). -/
def Spb.run (p : Spb) : Nat := match p.levels with
  | [] => 1
  | l :: _ => l.1 + 1
def Spb.runs (p : Spb) : Nat := p.count / p.run
/-- Bits of an element. -/
def Spb.width (p : Spb) : Nat := fmtWidth p.fmt

/-- Element offset of the stream's element `i` in loop order (R77). -/
def levelOff : List (Nat × Int) → Nat → Int
  | [], _ => 0
  | (e, st) :: r, i => (i % (e + 1) : Nat) * st + levelOff r (i / (e + 1))
/-- Least and greatest element offset. -/
def levelMin : List (Nat × Int) → Int
  | [] => 0
  | (e, st) :: r => min 0 (e * st) + levelMin r
def levelMax : List (Nat × Int) → Int
  | [] => 0
  | (e, st) :: r => max 0 (e * st) + levelMax r

/-- Bytes an element spans. -/
def Spb.bytes (p : Spb) : Nat := (p.width + 7) / 8
/-- Byte address of the element at an offset, exactly (R77). -/
def Spb.byteOf (p : Spb) (off : Int) : Int := p.base + off * p.width / 8
/-- Every element's bytes lie in the address space of braid SRAM (R77). -/
def Spb.inRange (p : Spb) : Bool :=
  decide (0 ≤ p.byteOf (levelMin p.levels)) && decide (p.byteOf (levelMax p.levels) + p.bytes ≤ 0x1000000)

/-- An element offset of the levels, from `off`, between `lo` and `hi`, if there is one. -/
def levelsHit (lo hi : Int) : List (Nat × Int) → Int → Option Int
  | [], off => if lo ≤ off ∧ off ≤ hi then some off else none
  | (e, st) :: r, off =>
    let a := off + min 0 (e * st) + levelMin r
    let z := off + max 0 (e * st) + levelMax r
    if z < lo || hi < a then none
    else if lo ≤ a && z ≤ hi then some off
    else (upto 0 (e + 1)).findSome? fun (i : Nat) => levelsHit lo hi r (off + i * st)
/-- A byte of the stream that lies in the mailbox, if there is one (R209). -/
def Spb.mailByte (p : Spb) : Option Nat :=
  let lo : Int := Config.mailBase - p.base - (p.bytes : Int) + 1
  let hi : Int := Config.sramBytes - 1 - p.base
  (levelsHit ((8 * lo + p.width - 1) / p.width) ((8 * hi + 7) / p.width) p.levels.reverse 0).map fun o => max Config.mailBase (p.byteOf o).toNat

/-- Byte address and nibble of stream element `i`. -/
def Spb.addr (p : Spb) (i : Nat) : Nat := (p.byteOf (levelOff p.levels i)).toNat
def Spb.odd (p : Spb) (i : Nat) : Bool := decide (levelOff p.levels i % 2 = 1)

/-- The value of stream element `i`, by a way to read a byte (R37, R77). -/
def Spb.read (p : Spb) (byte : Nat → Byte) (i : Nat) : Nat :=
  let a := p.addr i
  if p.width = 4 then bits (byte a).toNat (if p.odd i then 4 else 0) 4
  else leNat ((upto a p.bytes).map byte)
/-- The write of stream element `i`. -/
def Spb.write (p : Spb) (i v : Nat) : List SWrite :=
  let a := p.addr i
  if p.width = 4 then [⟨a, BitVec.ofNat 8 (if p.odd i then v * 16 else v % 16), if p.odd i then 0xF0 else 0x0F⟩]
  else (atAddr a (natLe p.bytes v)).map fun e => ⟨e.1, e.2, 0xFF⟩

/-- First and last byte of each element: the units an access touches (R131). -/
def Spb.ends (p : Spb) (is : List Nat) : List Nat := (is.map fun i => [p.addr i, p.addr i + p.bytes - 1]).flatten

/-- The bytes of elements. -/
def Spb.bytesOf (p : Spb) (is : List Nat) : List Nat := (is.map fun i => upto (p.addr i) p.bytes).flatten
/-- A byte that is read stands, where the read reaches it, in error: the poison fault (R321). -/
def Braid.badErrs (x : Braid) (at_ : Nat → Nat) (bytes : List Nat) : Errs :=
  if x.bad.isEmpty then []
  else match bytes.find? fun y => x.bad.contains (at_ y) with
    | some y => [⟨20, y, false⟩]
    | none => []

/-- Scratchpad bytes outside the job's regions: the overlap fault (R131). -/
def At.regionErrs (a : At) (s : State) (wr : Bool) (addrs : List Nat) : Errs :=
  match a.open_ s with
  | none => []
  | some j =>
    match addrs.find? fun x => inScratch x && !(j.job.regions.any fun r => regionHit r (x - Config.scratchBase) wr) with
    | some x => [⟨6, x, wr⟩]
    | none => []
def At.noteReads (a : At) (s : State) (addrs : List Nat) : State := a.modBank s fun k => addrs.foldl Bank.noteRead k
def At.noteWrites (a : At) (s : State) (addrs : List Nat) : State := a.modBank s fun k => addrs.foldl Bank.noteWrite k

/-- Entries of a queue that open jobs of the bank started before this one still hold reserved (R126). -/
def heldBefore (q bank job : Nat) : List OpenJob → Nat
  | [] => 0
  | j :: r => if j.bank ≠ bank then heldBefore q bank job r else if j.job.num = job then 0 else tget 0 j.resv q + heldBefore q bank job r

/-- Pop the job's next reserved entry of a queue; none beyond its reservation (R126). -/
def At.pop (a : At) (s : State) (q : Nat) : Option (State × Word64) :=
  match a.open_ s with
  | none => none
  | some j =>
    if tget 0 j.resv q = 0 then none
    else
      let l := (s.bank a.b a.bank).queue q
      let i := heldBefore q a.bank a.job (s.braid a.b).jobsOpen
      let s1 := a.modBank s fun k => { k with q := tput k.q q (l.eraseIdx i) }
      some (a.modOpen s1 fun j => { j with resv := tmod 0 j.resv q (· - 1) }, l.getD i 0)

/-- The queue that feeds spb7 of a strand (R118). -/
def feedQueue (k : Nat) : Option Nat := match k with
  | 0 => some 4
  | 2 => some 5
  | 4 => some 6
  | _ => none

/-- A stream as an op opens it: its block, and what failed. -/
structure Opened where
  s : State
  p : Spb
  errs : Errs

/-- Open a stream through an SPB: check it, take a queue-fed base, check its range and that it keeps off the mailbox
(R77, R118, R126, R209). The resolved image is kept for the op's later cycles. -/
def At.openFor (a : At) (wr : Bool) (s : State) (i : Nat) : Opened :=
  let w := tget 0 (a.strand s).spb i
  match parseSpb w with
  | none => ⟨s, ⟨0, 0, []⟩, [bare 1]⟩
  | some p =>
    let done (s : State) (p : Spb) : Opened :=
      let w1 := w / 2 ^ 24 * 2 ^ 24 + p.base
      let s1 := a.noteRegs (s.modStrand a.b a.k fun t => { t with opened := t.opened ++ [w1] }) [regSpb a.k i]
      ⟨s1, p, need p.inRange 2 ++ match p.mailByte with
        | some x => [⟨7, x, wr⟩]
        | none => []⟩
    match if i = 7 then feedQueue a.k else none with
    | none => done s p
    | some q =>
      match a.pop s q with
      | none => ⟨s, p, [bare 5]⟩
      | some (s1, e) => done s1 { p with base := e.toNat % 2 ^ 24 }

/-- Open a stream that the ST strand writes and the others read. -/
def At.openSpb (a : At) (s : State) (i : Nat) : Opened := a.openFor (a.k == 4) s i

/-- A stream the op in progress has opened. -/
def At.stream (a : At) (s : State) (n : Nat) : Spb := (parseSpb ((a.strand s).opened.getD n 0)).getD ⟨0, 0, [(0, 0)]⟩

/-- Read elements of a stream from SRAM as at the start of the cycle, checked by R131 and R321: the state that notes the reads, and the
values. -/
def At.readElems (a : At) (s : State) (p : Spb) (is : List Nat) : Iss (State × List Nat) :=
  let ad := p.ends is
  let x := s.braid a.b
  orFault (a.regionErrs s false ad ++ x.badErrs id (p.bytesOf is)) (.ok (a.noteReads s ad, is.map fun i => p.read x.sramAt i))

/-- Write elements of a stream in cycle `due`, checked by R131 now. -/
def At.writeElems (a : At) (s : State) (p : Spb) (due : Nat) (flags : FlagSet) (aware : Bool) (vs : List (Nat × Nat)) : Iss State :=
  let ad := p.ends (vs.map (·.1))
  orFault (a.regionErrs s true ad)
    (.ok (a.emit (a.noteWrites s ad) due flags (.sram ((vs.map fun e => p.write e.1 e.2).flatten) aware)))

/-- Pack a number of values into one lane, lowest first. -/
def packNat (w : Nat) : List Nat → Nat
  | [] => 0
  | v :: r => v % 2 ^ w + 2 ^ w * packNat w r
/-- Lanes of a beat from values of `w` ≤ 32 bits, `per` to a lane (R157). -/
def packLanes (w per : Nat) : Nat → List Nat → List Word32
  | 0, _ => []
  | n + 1, vs => BitVec.ofNat 32 (packNat w (vs.take per)) :: packLanes w per n (vs.drop per)
/-- The beat of a run (R157); lanes beyond it are 0. -/
def packRun (w : Nat) (vs : List Nat) : List Word32 :=
  if w = 64 then packLanes 32 1 192 ((vs.map fun v => [v % 2 ^ 32, v / 2 ^ 32]).flatten) else packLanes w (32 / w) 192 vs
/-- Run element `j` of a beat (R157). -/
def runElem (w : Nat) (lanes : List Word32) (j : Nat) : Nat :=
  if w = 64 then (wordAt lanes (2 * j)).toNat + 2 ^ 32 * (wordAt lanes (2 * j + 1)).toNat
  else bits (wordAt lanes (j / (32 / w))).toNat (w * (j % (32 / w))) w

/-- Drive a beat in cycle `due` (R110, R112). -/
def At.drive (a : At) (s : State) (due t : Nat) (flags : FlagSet) (lanes : List Word32) (marker : Bool) : State :=
  a.emit s due flags (.track t lanes marker (BitVec.allOnes 192))

end Sys2Proof.Machine
end

