-- ==== Sys2Proof/Machine/Matrix.lean ====
section
/-! DEFINITION. The matrix strand: tile commands, buffers, clearing, draining and the Stopper (02: R49 to R54; 06: R136 to R147, R155, R156). -/

namespace Sys2Proof.Machine

/-- A format word, checked by R76. -/
structure FmtWord where
  afmt : Nat
  bfmt : Nat
  accm : Bool
  cbslot : Nat
  scale : Nat
  rec_ : DrainRec
  deriving DecidableEq, Repr

/-- AFMT and BFMT admit codes 1 to 5, 11 and 12 (R76). -/
def operandFmt (f : Nat) : Bool := decide (1 ≤ f ∧ f ≤ 5) || f == 11 || f == 12
/-- DFMT admits codes 0 to 4 and 7 to 13 (R76). -/
def drainFmt (f : Nat) : Bool := decide (f ≤ 4) || decide (7 ≤ f ∧ f ≤ 13)
def parseFmtWord (w : Nat) : Option FmtWord :=
  let d := bits w 14 4
  if operandFmt (bits w 0 4) && operandFmt (bits w 4 4) && bits w 8 2 ≤ 1 && drainFmt d && bits w 18 3 ≤ 4 && bits w 22 2 = 0 && w / 2 ^ 40 = 0 then
    some ⟨bits w 0 4, bits w 4 4, bitAt w 8, bits w 10 2, bits w 12 2, ⟨d, bits w 18 3, bitAt w 21, bits w 24 16, false⟩⟩
  else none

/-- What a tile command's mnemonic and fields fix (R79 bit 5, R140, R141). -/
structure TileOp where
  acc : Nat
  aop : Nat
  bop : Nat
  k : Nat
  comp : Bool
  fz : Bool
  cplx : Bool
  conja : Bool
  conjb : Bool
  /-- The replacement pair and the admitted codes. -/
  fa : Nat
  fb : Nat
  admits : List Nat
  deriving DecidableEq, Repr

/-- Effective operand formats (R139, R79 bit 5). -/
def TileOp.fmts (o : TileOp) (w : FmtWord) : Nat × Nat :=
  if o.admits.contains w.afmt && o.admits.contains w.bfmt then (w.afmt, w.bfmt) else (o.fa, o.fb)
/-- FP8 or CB4: the formats a block scale applies to (R36). -/
def scalable (f : Nat) : Bool := f == 3 || f == 4 || f == 5
/-- k positions per cycle (R136). -/
def kpcOf (fa fb : Nat) (cplx : Bool) : Nat :=
  if cplx then 1 else if (fa == 3 || fa == 4) && (fb == 3 || fb == 4) then 4 else 2
/-- Issue cycles of a tile command (R113). -/
def TileOp.cycles (o : TileOp) (kpc : Nat) : Nat := (o.k + kpc - 1) / kpc

/-- The even SPB of an operand code 6 or 7 (R137). -/
def pairSpb (code : Nat) : Nat := if code = 6 then 0 else 2
/-- The SPB of an operand's scales (R138). -/
def scaleSpb (code : Nat) (isA : Bool) : Nat := if code = 6 then 1 else if code = 7 then 3 else if isA then 4 else 5
/-- The block of a matrix-strand SPB, which no queue feeds. -/
def At.block (a : At) (s : State) (i : Nat) : Spb := (parseSpb (tget 0 (a.strand s).spb i)).getD ⟨0, 0, [(0, 0)]⟩

/-- The checks an operand meets at issue (R137, R138, R143, R155). -/
def At.openOperand (a : At) (s : State) (o : TileOp) (isA : Bool) (code fmt lanes : Nat) (scaled : Bool) (n : Nat) : State × Errs :=
  let (s1, e1) :=
    if 6 ≤ code then
      let x := a.openSpb s (pairSpb code)
      (x.s, x.errs ++ need (x.p.fmt == fmt && x.p.count == o.k * lanes) 2)
    else if 4 ≤ code then
      (a.noteRegs s [regWb (code - 4)], need (decide (n ≤ (tget {} (s.braid a.b).regs.wb (code - 4)).beats)) 2)
    else (s, [])
  if scaled then
    let x := a.openSpb s1 (scaleSpb code isA)
    (x.s, e1 ++ x.errs ++ need (x.p.fmt == 6 && x.p.count == (o.k + 7) / 8 * lanes) 2)
  else (s1, e1)

/-- Bits of the operand's elements at this cycle's positions, lane by lane (R136, R137). -/
def At.operand (a : At) (s : State) (code fmt lanes kpc np : Nat) (last : Bool) : Iss (State × List (List Nat)) :=
  let w := fmtWidth fmt
  let split (l : List Word32) := (l.take lanes).map fun x => (upto 0 np).map fun j => bits x.toNat (w * j) w
  if 6 ≤ code then do
    let p := a.block s (pairSpb code)
    let (s1, v) ← a.readElems s p (upto (a.q * kpc * lanes) (np * lanes))
    .ok (s1, (upto 0 lanes).map fun i => (upto 0 np).map fun j => v.getD (j * lanes + i) 0)
  else if 4 ≤ code then
    .ok (s, split ((((tget {} (a.strand s).wbAt (code - 4)).data.getD a.q []) ++ List.replicate 192 0)))
  else do
    let l ← a.takeCounted s code last
    .ok (s, split l)

/-- The block scales of an operand: read with the position that begins a block, kept for the block (R138). -/
def At.scales (a : At) (s : State) (code : Nat) (isA : Bool) (lanes kpc : Nat) (scaled : Bool) (old : List Nat) : Iss (State × List Nat) :=
  if scaled && a.q * kpc % 8 == 0 then
    a.readElems s (a.block s (scaleSpb code isA)) (upto (a.q * kpc / 8 * lanes) lanes)
  else .ok (s, old)

/-- The value of an element (R37, R140): judged under .fz in its own format, then scaled. -/
def elemValue (fmt : Nat) (fz : Bool) (cb : List (BitVec 16)) (scale : Option Nat) (w : Nat) : Fp :=
  let v := match fmt with
    | 5 => bf16.read fz (cb.getD w 0).toNat
    | _ => match (Format.ofCode fmt).bind Format.binary with
      | some f => f.read fz w
      | none => .fin false 0 0
  match scale with
  | some c => v.mul (scaleValue c)
  | none => v
/-- Real and imaginary part of a complex element (R39, R140). -/
def complexParts (fmt : Nat) (fz : Bool) (w : Nat) : List Fp :=
  match (Format.ofCode fmt).bind Format.part with
  | some f => [f.read fz (bits w 0 f.width), f.read fz (bits w f.width f.width)]
  | none => []
/-- Values of a lane at the cycle's positions; for a complex lane its two parts. -/
def laneValues (fmt : Nat) (cplx fz : Bool) (cb : List (BitVec 16)) (scale : Option Nat) (l : List Nat) : List Fp :=
  if cplx then complexParts fmt fz (l.getD 0 0) else l.map (elemValue fmt fz cb scale)
/-- Lanes with their scales. -/
def lanesValues (fmt : Nat) (cplx fz : Bool) (cb : List (BitVec 16)) (scaled : Bool) : List (List Nat) → List Nat → List (List Fp)
  | [], _ => []
  | l :: r, sc => laneValues fmt cplx fz cb (if scaled then some (sc.headD 0) else none) l :: lanesValues fmt cplx fz cb scaled r sc.tail

/-- The terms of one step, part by part (R50, R52). -/
def stepTerms (cplx conja conjb : Bool) (x y : List Fp) : List (List Fp) :=
  if cplx then
    match x, y with
    | [ar, ai0], [br, bi0] =>
      let ai := if conja then ai0.neg else ai0
      let bi := if conjb then bi0.neg else bi0
      [[ar.mul br, (ai.mul bi).neg], [ar.mul bi, ai.mul br]]
    | _, _ => []
  else [List.zipWith Fp.mul x y]

/-- One step of the parts of an element: new hi, new lo, flags (R50, R53). -/
def stepParts (comp fz : Bool) : List (List Fp) → List Word32 → List Word32 → List Word32 × List Word32 × FlagSet
  | [], _, _ => ([], [], 0)
  | t :: r, hi, lo =>
    let (h, l, f) :=
      if comp then
        let (p, f) := compStep fz ⟨hi.headD 0, lo.headD 0⟩ t
        (p.hi, p.lo, f)
      else
        let (w, f) := accStep fz (hi.headD 0) t
        (w, 0, f)
    let (hs, ls, fs) := stepParts comp fz r hi.tail lo.tail
    (h :: hs, l :: ls, f ||| fs)
/-- One step of a row against all columns. -/
def stepCols (comp fz : Bool) (terms : List Fp → List (List Fp)) (w : Nat) : List (List Fp) → List Word32 → List Word32 → List Word32 × List Word32 × FlagSet
  | [], _, _ => ([], [], 0)
  | y :: r, hi, lo =>
    let (h, l, f) := stepParts comp fz (terms y) hi lo
    let (hs, ls, fs) := stepCols comp fz terms w r (hi.drop w) (lo.drop w)
    (h ++ hs, l ++ ls, f ||| fs)
/-- One step of the whole tile. -/
def stepRows (comp fz : Bool) (terms : List Fp → List Fp → List (List Fp)) (w : Nat) (cols : List (List Fp)) :
    List (List Fp) → List Word32 → List Word32 → List Word32 × List Word32 × FlagSet
  | [], _, _ => ([], [], 0)
  | x :: r, hi, lo =>
    let (h, l, f) := stepCols comp fz (terms x) w cols hi lo
    let (hs, ls, fs) := stepRows comp fz terms w cols r (hi.drop 192) (lo.drop 192)
    (h ++ hs, l ++ ls, f ||| fs)

/-- The words of a tile. -/
def tileWords (l : List Word32) : List Word32 := if l.isEmpty then List.replicate 6144 0 else l
/-- The accumulators a command writes: the pair, hi even, under COMP (R79 bit 7, R140). -/
def TileOp.pair (o : TileOp) : Nat × Nat := if o.comp then (o.acc / 2 * 2, o.acc / 2 * 2 + 1) else (o.acc, o.acc)

/-- A writer of an accumulator: chained at once, readable no earlier than the previous writer (R142). -/
def At.writeAcc (a : At) (s : State) (acc due : Nat) (flags : FlagSet) (data : List Word32) : State :=
  let x := s.braid a.b
  let ready := max due (tget 0 x.accReady acc)
  let s1 := s.setBraid a.b { x with chain := tput x.chain acc data, accReady := tput x.accReady acc ready }
  a.noteSets (a.emit s1 ready flags (.acc acc data)) [regAcc acc]

/-- The first issue cycle of a tile command: its format word, checks, drain record, snapshots and accumulator (R138 to R142, R155). -/
def At.beginTile (a : At) (s : State) (o : TileOp) : Iss State :=
  match a.pop s 8 with
  | none => .error (bare 4)
  | some (s1, e) =>
    match parseFmtWord e.toNat with
    | none => .error (bare 1)
    | some w =>
      let (fa, fb) := o.fmts w
      let n := o.cycles (kpcOf fa fb o.cplx)
      let sa := bitAt w.scale 0 && scalable fa
      let sb := bitAt w.scale 1 && scalable fb
      let (s2, ea) := a.openOperand s1 o true o.aop fa 32 sa n
      let (s3, eb) := a.openOperand s2 o false o.bop fb (if o.cplx then 96 else 192) sb n
      let (hi, lo) := o.pair
      let x := s3.braid a.b
      let zero := List.replicate 6144 0
      let held := if w.accm then zero ++ (if o.comp then zero else [])
        else tileWords (tget [] x.chain hi) ++ (if o.comp then tileWords (tget [] x.chain lo) else [])
      let r : DrainRec := { w.rec_ with cplx := o.cplx }
      let s4 := s3.setBraid a.b { x with regs := { x.regs with drain := tput (tput x.regs.drain hi r) lo r } }
      let s5 := s4.modStrand a.b a.k fun t => { t with fw := e.toNat, held, heldFlags := 0, wbAt := x.regs.wb, cbAt := x.regs.cb }
      let s6 := a.warnIf s5 (!(o.admits.contains w.afmt && o.admits.contains w.bfmt)) 5
      let s7 := a.warnIf s6 ((bitAt w.scale 0 && !sa) || (bitAt w.scale 1 && !sb)) 6
      let s8 := a.warnIf s7 (o.comp && o.acc % 2 == 1) 7
      let cb := if fa == 5 || fb == 5 then [regCb w.cbslot] else []
      let s9 := a.noteRegs s8 (cb ++ if w.accm then [] else [regAcc hi, regAcc lo])
      orFault (ea ++ eb) (.ok (a.noteSets s9 [regDrain hi, regDrain lo]))

/-- One cycle of a tile command (R136, R140, R141). -/
def At.tileCycle (a : At) (s : State) (o : TileOp) (w : FmtWord) : Iss (State × Bool) := do
  let (fa, fb) := o.fmts w
  let kpc := kpcOf fa fb o.cplx
  let last := a.q + 1 == o.cycles kpc
  let np := min kpc (o.k - a.q * kpc)
  let colsN := if o.cplx then 96 else 192
  let sa := bitAt w.scale 0 && scalable fa
  let sb := bitAt w.scale 1 && scalable fb
  let t := a.strand s
  let (s1, ra) ← a.operand s o.aop fa 32 kpc np last
  let (s2, rb) ← a.operand s1 o.bop fb colsN kpc np last
  let (s3, xa) ← a.scales s2 o.aop true 32 kpc sa t.scaleA
  let (s4, xb) ← a.scales s3 o.bop false colsN kpc sb t.scaleB
  let cb := tget [] t.cbAt w.cbslot
  let rows := lanesValues fa o.cplx o.fz cb sa ra xa
  let cols := lanesValues fb o.cplx o.fz cb sb rb xb
  let (hi, lo, f) := stepRows o.comp o.fz (stepTerms o.cplx o.conja o.conjb) (if o.cplx then 2 else 1) cols rows (t.held.take 6144) (t.held.drop 6144)
  let flags := t.heldFlags ||| f
  let s5 := s4.modStrand a.b a.k fun t => { t with held := hi ++ (if o.comp then lo else []), heldFlags := flags, scaleA := xa, scaleB := xb }
  if last then
    let (h, l) := o.pair
    let s6 := a.writeAcc s5 h (a.now + 10) flags hi
    .ok (if o.comp then a.writeAcc s6 l (a.now + 10) 0 lo else s6, true)
  else .ok (s5, false)

/-- A tile command (R140, R141). -/
def tileForm (o : TileOp) (s : State) : Res :=
  strandForm 1 2 (fun s a => do
    let s1 ← if a.q = 0 then a.beginTile s o else .ok s
    match parseFmtWord (a.strand s1).fw with
    | none => .error (bare 1)
    | some w => a.tileCycle s1 o w) s

def mmaOp (acc : BitVec 2) (aop bop : BitVec 3) (k : BitVec 14) (comp fz : Bool) (fa fb : Nat) (admits : List Nat) : TileOp :=
  ⟨acc.toNat, aop.toNat, bop.toNat, k.toNat + 1, comp, fz, false, false, false, fa, fb, admits⟩
def cmmaOp (acc : BitVec 2) (aop bop : BitVec 3) (k : BitVec 14) (comp fz conja conjb : Bool) (f : Nat) : TileOp :=
  ⟨acc.toNat, aop.toNat, bop.toNat, k.toNat + 1, comp, fz, true, conja, conjb, f, f, [f]⟩

/-- MMA.bf16 (R140). -/
def execMmaBf16 (acc : BitVec 2) (aop bop : BitVec 3) (k : BitVec 14) (comp fz : Bool) (s : State) : Res :=
  tileForm (mmaOp acc aop bop k comp fz 1 1 [1]) s
/-- MMA.fp16 (R140). -/
def execMmaFp16 (acc : BitVec 2) (aop bop : BitVec 3) (k : BitVec 14) (comp fz : Bool) (s : State) : Res :=
  tileForm (mmaOp acc aop bop k comp fz 2 2 [2]) s
/-- MMA.fp8e4 (R140). -/
def execMmaFp8e4 (acc : BitVec 2) (aop bop : BitVec 3) (k : BitVec 14) (comp fz : Bool) (s : State) : Res :=
  tileForm (mmaOp acc aop bop k comp fz 3 3 [3, 4]) s
/-- MMA.fp8e5 (R140). -/
def execMmaFp8e5 (acc : BitVec 2) (aop bop : BitVec 3) (k : BitVec 14) (comp fz : Bool) (s : State) : Res :=
  tileForm (mmaOp acc aop bop k comp fz 4 4 [3, 4]) s
/-- MMA.cb4 (R140). -/
def execMmaCb4 (acc : BitVec 2) (aop bop : BitVec 3) (k : BitVec 14) (comp fz : Bool) (s : State) : Res :=
  tileForm (mmaOp acc aop bop k comp fz 1 5 [1, 5]) s
/-- CMMA.cbf16 (R141). -/
def execCmmaCbf16 (acc : BitVec 2) (aop bop : BitVec 3) (k : BitVec 14) (comp fz conja conjb : Bool) (s : State) : Res :=
  tileForm (cmmaOp acc aop bop k comp fz conja conjb 11) s
/-- CMMA.cfp16 (R141). -/
def execCmmaCfp16 (acc : BitVec 2) (aop bop : BitVec 3) (k : BitVec 14) (comp fz conja conjb : Bool) (s : State) : Res :=
  tileForm (cmmaOp acc aop bop k comp fz conja conjb 12) s

/-- MZERO (R145). -/
def execMzero (acc : BitVec 2) (pair : Bool) (s : State) : Res :=
  strandForm 1 1 (fun s a =>
    let z := List.replicate 6144 (0 : Word32)
    let e := acc.toNat / 2 * 2
    .ok (if pair then a.writeAcc (a.writeAcc s e (a.now + 1) 0 z) (e + 1) (a.now + 1) 0 z else a.writeAcc s acc.toNat (a.now + 1) 0 z, true)) s

/-- The effective drain format of a tile, and whether SAT applies (R79 bits 8 and 11, R146). -/
def DrainRec.eff (r : DrainRec) : Nat :=
  let c := decide (11 ≤ r.fmt)
  if r.cplx && !c then 13 else if !r.cplx && c then 0 else r.fmt
def satIgnored (f : Nat) : Bool := f == 0 || f == 13 || decide (7 ≤ f ∧ f ≤ 10)
/-- Beats of a drain (R146). -/
def drainBeats (f : Nat) : Nat :=
  match fmtWidth f with
  | 64 => if f = 13 then 32 else 64
  | 32 => if f = 11 ∨ f = 12 then 16 else 32
  | 16 => 16
  | _ => 8
/-- Elements of the tile. -/
def DrainRec.count (r : DrainRec) : Nat := if r.cplx then 3072 else 6144

/-- The value of accumulator word `i`, alone or as a pair (R53, R146). -/
def drainValue (pair : Bool) (rdn : Bool) (hi lo : Word32) : Fp := if pair then pairSum rdn ⟨hi, lo⟩ else valW hi
/-- One value in the drain format (R41 to R47, R146). -/
def drainOne (f : Nat) (r : Rounding) (v : Fp) : Nat × FlagSet :=
  match Format.ofCode f with
  | none => (0, 0)
  | some x =>
    match x.binary, x.part, x.intWidth with
    | some b, _, _ => b.round r v
    | _, some b, _ => b.round r v
    | _, _, some n => fpToInt n false r v
    | _, _, _ => (0, 0)
/-- Elements of a tile from word `i` on: `n` elements, with flags. -/
def drainElems (f : Nat) (cplx pair : Bool) (r : Rounding) : Nat → Nat → List Word32 → List Word32 → List Nat × FlagSet
  | _, 0, _, _ => ([], 0)
  | i, n + 1, hi, lo =>
    let one (j : Nat) := drainOne f { r with idx := (i + j) % 65536 } (drainValue pair (r.mode == .rdn) (hi.getD j 0) (lo.getD j 0))
    let w := if cplx then 2 else 1
    let (v, fl) :=
      if cplx then
        let (a, fa) := one 0
        let (b, fb) := one 1
        (a + 2 ^ (fmtWidth f / 2) * b, fa ||| fb)
      else one 0
    let (vs, fs) := drainElems f cplx pair r (i + w) n (hi.drop w) (lo.drop w)
    (v :: vs, fl ||| fs)
/-- The lanes of a drained beat (R146). -/
def drainLanes (f : Nat) (vs : List Nat) : List Word32 :=
  match fmtWidth f with
  | 64 => packRun 64 vs
  | 32 => packRun 32 vs
  | w => (upto 0 192).map fun l => BitVec.ofNat 32 (packNat w ((upto 0 (32 / w)).map fun j => vs.getD (192 * j + l) 0))

/-- Where a drain goes. -/
inductive DrainDest where
  | trk (t : Nat)
  | spd (i : Nat)
  | cp (ch : Nat)
  deriving DecidableEq, Repr

/-- The first cycle of a drain: reads the accumulator once, checks its destination, warns (R79, R142, R146, R155, R263). Bit 11 of
cr.WARN is set here, not by the tile command that popped SAT and DFMT, and on the format in effect after bit 8's fallback (R80, R156; DESIGN
CHOICE, log entry 96). -/
def At.beginDrain (a : At) (s : State) (acc : Nat) (pair : Bool) (d : DrainDest) (r : DrainRec) : Iss State :=
  let x := s.braid a.b
  let f := r.eff
  let e := acc / 2 * 2
  let held := if pair then tileWords (tget [] x.regs.acc e) ++ tileWords (tget [] x.regs.acc (e + 1)) else tileWords (tget [] x.regs.acc acc)
  let s1 := s.modStrand a.b a.k fun t => { t with held }
  let s2 := a.warnIf (a.warnIf s1 (r.cplx != decide (11 ≤ r.fmt)) 8) (r.sat && satIgnored f) 11
  let s3 := a.noteRegs s2 (regDrain acc :: if pair then [regAcc e, regAcc (e + 1)] else [regAcc acc])
  match d with
  | .trk _ => .ok s3
  | .spd i =>
    let o := a.openFor true s3 i
    orFault (o.errs ++ need (o.p.fmt == f && o.p.count == r.count) 2) (.ok o.s)
  | .cp ch =>
    let k := s3.bank a.b a.bank
    if (k.chan ch).tile.isSome then .error (bare 3)
    else .ok (s3.setBank a.b a.bank (k.setChan ch { k.chan ch with tile := some ⟨[], f, false⟩ }))

/-- MDRAIN: a beat per cycle, converted by the drain record (R146). -/
def drainForm (acc : BitVec 2) (pair : Bool) (d : DrainDest) (s : State) : Res :=
  strandForm 1 2 (fun s a => do
    let r := tget {} (s.braid a.b).regs.drain acc.toNat
    let f := r.eff
    let s1 ← if a.q = 0 then a.beginDrain s acc.toNat pair d r else .ok s
    let held := (a.strand s1).held
    let last := a.q + 1 == drainBeats f
    let per := r.count / drainBeats f
    let words := per * if r.cplx then 2 else 1
    let mode := (Rnd.ofCode r.rnd).getD .rne
    let rd : Rounding := ⟨mode, r.sat && !satIgnored f, r.seed, 0, false⟩
    let (vs, fl) := drainElems f r.cplx pair rd (a.q * words) per (held.drop (a.q * words)) ((held.drop 6144).drop (a.q * words))
    let s2 ← match d with
      | .trk t => .ok (a.drive s1 (a.now + 2) t fl (drainLanes f vs) last)
      | .spd _ => a.writeElems s1 (a.stream s1 0) (a.now + 2) fl false ((upto (a.q * per) per).zip vs)
      | .cp ch => .ok (a.emit s1 (a.now + 2) fl (.drain ch ((vs.map (natLe (fmtWidth f / 8))).flatten) last))
    .ok (s2, last)) s

/-- MDRAIN.trk (R146). -/
def execMdrainTrk (acc trk : BitVec 2) (pair : Bool) (s : State) : Res := drainForm acc pair (.trk trk.toNat) s
/-- MDRAIN.spd (R146). -/
def execMdrainSpd (acc : BitVec 2) (spb : BitVec 3) (pair : Bool) (s : State) : Res := drainForm acc pair (.spd spb.toNat) s
/-- MDRAIN.cp (R146, R263). -/
def execMdrainCp (acc ch : BitVec 2) (pair : Bool) (s : State) : Res := drainForm acc pair (.cp ch.toNat) s

/-- A beat that MWL or MCB loads, `n` elements from the even SPB or a beat of a track (R143, R144). -/
def At.loadBeat (a : At) (s : State) (src n : Nat) (last : Bool) : Iss (State × List Word32) :=
  if 6 ≤ src then do
    let (s1, v) ← a.readElems s (a.block s (pairSpb src)) (upto (a.q * n) n)
    .ok (s1, v.map (BitVec.ofNat 32))
  else do
    let l ← a.takeCounted s src last
    .ok (s, l)

/-- MWL (R143, R155). -/
def execMwl (wb : BitVec 1) (src : BitVec 3) (k : BitVec 14) (s : State) : Res :=
  let beats := (k.toNat + 2) / 2
  strandForm 1 2 (fun s a => do
    let s1 ←
      if a.q = 0 then
        let o := if 6 ≤ src.toNat then a.openSpb s (pairSpb src.toNat) else ⟨s, ⟨0, 0, []⟩, []⟩
        orFault (need (decide (beats ≤ 128)) 2 ++ o.errs
            ++ (if 6 ≤ src.toNat then need (o.p.fmt == 0 && o.p.count == beats * 192) 2 else [])) (.ok o.s)
      else .ok s
    let last := a.q + 1 == beats
    let (s2, l) ← a.loadBeat s1 src.toNat 192 last
    let held := (a.strand s2).held ++ l
    if last then
      let data := (upto 0 beats).map fun b => (held.drop (192 * b)).take 192
      .ok (a.noteSets (a.emit s2 (a.now + 4) 0 (.wbuf wb.toNat ⟨beats, data⟩)) [regWb wb.toNat], true)
    else .ok (s2.modStrand a.b a.k fun t => { t with held }, false)) s

/-- MCB (R144, R155). -/
def execMcb (cb : BitVec 2) (src : BitVec 3) (s : State) : Res :=
  strandForm 1 2 (fun s a => do
    let o := if 6 ≤ src.toNat then a.openSpb s (pairSpb src.toNat) else ⟨s, ⟨0, 0, []⟩, []⟩
    let s1 ← orFault (o.errs ++ if 6 ≤ src.toNat then need (o.p.fmt == 1 && o.p.count == 16) 2 else []) (.ok o.s)
    let (s2, l) ← a.loadBeat s1 src.toNat 16 true
    .ok (a.noteSets (a.emit s2 (a.now + 4) 0 (.cbook cb.toNat ((l.take 16).map (·.setWidth 16)))) [regCb cb.toNat], true)) s

/-- A Stopper operand (R147). -/
def stopElem (seed i : Nat) : Fp := bf16.decode (0x3F80 + stochastic seed i % 128)
/-- The Stopper signature (R147). -/
def stopperSig (seed : Nat) : Word32 :=
  let cols := (upto 0 192).map fun n => (stopElem seed (64 + n), stopElem seed (256 + n))
  let rows := (upto 0 32).map fun i => (stopElem seed (2 * i), stopElem seed (2 * i + 1))
  let sums := (rows.map fun x => cols.map fun y => (fl32 false (Fp.sum false [x.1.mul y.1, x.2.mul y.2])).1).flatten
  (sums.foldl (fun (e : Word32 × Nat) w => (e.1 ^^^ w.rotateLeft (e.2 % 32), e.2 + 1)) (0, 0)).1

/-- MSTOP (R147). -/
def execMstop (seed : BitVec 16) (s : State) : Res :=
  strandForm 1 2 (fun s a => .ok (a.noteSets (a.emit s (a.now + 10) 0 (.stopper (stopperSig seed.toNat))) [regStopper], true)) s

end Sys2Proof.Machine
end

