-- ==== Sys2Proof/Machine/Scan.lean ====
section
/-! DEFINITION. The scan strand (02: R55 to R60; 06: R148 to R155; 10: R211). -/

namespace Sys2Proof.Machine

/-- Writes that SC ops of a job have on their way to SRAM, oldest first (R149); the op's own writes of earlier cycles among them
(model's choice: log entry 90). -/
def Braid.scanWrites (x : Braid) (bank job : Nat) : List SWrite :=
  (x.pend.map fun p => if p.pos = 2 ∧ p.bank = bank ∧ p.job = job then (match p.eff with
    | .sram ws _ => ws
    | _ => []) else []).flatten
/-- Braid SRAM as the SC strand reads it: as at the start of the cycle, with the job's SC writes on their way made as they will be
made, into the halves and shadows they reach (R149, R208, R211). -/
def Braid.scanView (x : Braid) (bank job : Nat) : Braid :=
  let y := (x.scanWrites bank job).foldl (fun (y : Braid) w => (y.awarePut bank w).1) { x with sram := x.sramStart }
  { y with sramStart := y.sram }

/-- Words of elements, and elements of words: a complex element is two words, real part first. -/
def wordsOf (cplx : Bool) (vs : List Nat) : List Word32 :=
  if cplx then (vs.map fun v => [BitVec.ofNat 32 v, BitVec.ofNat 32 (v / 2 ^ 32)]).flatten else vs.map (BitVec.ofNat 32)
def elemsOf (cplx : Bool) (ws : List Word32) : List Nat :=
  if cplx then (upto 0 (ws.length / 2)).map fun i => (wordAt ws (2 * i)).toNat + 2 ^ 32 * (wordAt ws (2 * i + 1)).toNat
  else ws.map (·.toNat)

/-- The SC strand reads elements: half-aware, and as earlier SC ops of the job write them (R131, R149, R211). -/
def At.scanRead (a : At) (s : State) (p : Spb) (first n : Nat) : Iss (State × List Word32) :=
  let is := upto first n
  let ad := p.ends is
  let x := (s.braid a.b).scanView a.bank a.job
  orFault (a.regionErrs s false ad ++ x.badErrs (x.awareAddr a.bank) (p.bytesOf is))
    (.ok (a.noteReads s ad, wordsOf (p.fmt == 13) (is.map (p.read (x.awareAt a.bank)))))
/-- The SC strand writes elements from `first` on in cycle `due` (R131, R211). -/
def At.scanWrite (a : At) (s : State) (p : Spb) (due : Nat) (flags : FlagSet) (first : Nat) (ws : List Word32) : Iss State :=
  let vs := elemsOf (p.fmt == 13) ws
  a.writeElems s p due flags true ((upto first vs.length).zip vs)

/-- A decay product: under .fz one below 2^-126 is replaced by +0 (R58). -/
def decayProd (fz : Bool) (v : Fp) : Fp × FlagSet :=
  match v with
  | .fin _ m e =>
    if fz && m != 0 && decide ((Nat.log2 m : Int) + e < -126) then (.fin false 0 0, flagFADE) else (v, 0)
  | _ => (v, 0)
/-- The value a number of one or two words holds, read under .fz (R44, R56): of a pair the exact sum of its members, whatever they are
(model's choice for a hi that is not finite beside a lo that is not +0, which no compensated step leaves: log entry 86). -/
def partVal (comp fz : Bool) (hi lo : Word32) : Fp :=
  if comp then Fp.sum false [readW fz hi, readW fz lo] else readW fz hi
/-- Products of a decay and a state, part by part (R55). -/
def decayTerms (fz : Bool) (x h : List Fp) : List (List Fp) × FlagSet :=
  match x, h with
  | [ar, ai], [hr, hi] =>
    let (p, f0) := decayProd fz (ar.mul hr)
    let (q, f1) := decayProd fz (ai.mul hi)
    let (u, f2) := decayProd fz (ar.mul hi)
    let (w, f3) := decayProd fz (ai.mul hr)
    ([[p, q.neg], [u, w]], f0 ||| f1 ||| f2 ||| f3)
  | [d], [v] =>
    let (p, f) := decayProd fz (d.mul v)
    ([[p]], f)
  | _, _ => ([], 0)
/-- Terms of an input product, part by part (R55, R150). -/
def inputTerms (x c : List Fp) : List (List Fp) :=
  match x, c with
  | [xr, xi], [cr, ci] => [[xr.mul cr, (xi.mul ci).neg], [xr.mul ci, xi.mul cr]]
  | [y], [z] => [[y.mul z]]
  | _, _ => []

/-- Some part is not zero. -/
def nonzero (l : List Fp) : Bool := l.any fun v => !v.isZero
/-- Round one part, plain or into a pair; a decay operation that fades sets FADE (R55 to R57), a result that .fz flushes among them
(model's choice: log entry 87). -/
def roundPart (comp fz decays : Bool) (v : Fp) : (Word32 × Word32) × FlagSet :=
  let ((hi, lo), f) : (Word32 × Word32) × FlagSet :=
    if comp then
      let (p, f) := roundPair fz v
      ((p.hi, p.lo), f)
    else
      let (w, f) := fl32 fz v
      ((w, 0), f)
  let gone := decays && v.isFin && !v.isZero && (valW hi).isZero && (valW lo).isZero
  ((hi, lo), if gone then f ||| flagFADE else f)
/-- Round the parts of one update: decay times state plus terms. -/
def roundParts (comp fz decays : Bool) : List (List Fp) → List (List Fp) → List (Word32 × Word32) × FlagSet
  | [], _ => ([], 0)
  | p :: r, ts =>
    let (w, f) := roundPart comp fz decays (Fp.sum false (p ++ ts.headD []))
    let (ws, fs) := roundParts comp fz decays r ts.tail
    (w :: ws, f ||| fs)
/-- One update fl(a·h + terms) (R55, R56, R59). -/
def updateParts (comp fz : Bool) (x h : List Fp) (ts : List (List Fp)) : List (Word32 × Word32) × FlagSet :=
  let (ps, f0) := decayTerms fz x h
  let (ws, f) := roundParts comp fz (nonzero x && nonzero h) ps ts
  (ws, f0 ||| f)

/-- Values of the words of one element: one word, or two for a complex one. -/
def valuesOf (comp fz : Bool) (hi lo : List Word32) : Nat → List Fp
  | 0 => []
  | w + 1 => partVal comp fz (hi.headD 0) (lo.headD 0) :: valuesOf comp fz hi.tail lo.tail w

/-- One row of updates: decays, states and addends are words, `w` to an element; `term` gives an element's addends. -/
def updateRow (comp fz dcomp : Bool) (w : Nat) (term : List Word32 → List Word32 → List (List Fp)) :
    Nat → (d dlo x xlo hi lo : List Word32) → List (Word32 × Word32) × FlagSet
  | 0, _, _, _, _, _, _ => ([], 0)
  | n + 1, d, dlo, x, xlo, hi, lo =>
    let (ws, f) := updateParts comp fz (valuesOf dcomp fz d dlo w) (valuesOf comp fz hi lo w) (term x xlo)
    let (r, fs) := updateRow comp fz dcomp w term n (d.drop w) (dlo.drop w) (x.drop w) (xlo.drop w) (hi.drop w) (lo.drop w)
    (ws ++ r, f ||| fs)

/-- Row `i` of 192 words. -/
def rowOf (l : List Word32) (i : Nat) : List Word32 := (l.drop (192 * i)).take 192
/-- The rows an updated slot is stored in: one row, or hi and lo. -/
def slotRows (comp : Bool) (r : List (Word32 × Word32)) : List Word32 :=
  if comp then r.map (·.1) ++ r.map (·.2) else r.map (·.1)

/-- Shape of a scan op's arithmetic: plain or comp, .fz, complex. -/
structure ScanOp where
  comp : Bool
  fz : Bool
  cplx : Bool
  deriving DecidableEq, Repr
/-- Elements in a row, words of an element, slots of a block (R148). -/
def ScanOp.cols (o : ScanOp) : Nat := if o.cplx then 96 else 192
def ScanOp.words (o : ScanOp) : Nat := if o.cplx then 2 else 1
def ScanOp.slots (o : ScanOp) : Nat := if o.comp then 4 else 8

/-- Slot `j` from row `first` of a block: updated by decay words `d` and input words `x` with coefficient words `c` (R150, R151). -/
def ScanOp.slot (o : ScanOp) (first : Nat) (blk d x c : List Word32) (j : Nat) : List Word32 × FlagSet :=
  let r := first + if o.comp then 2 * j else j
  let cs := valuesOf false o.fz (c.drop (j * o.words)) [] o.words
  let (ws, f) := updateRow o.comp o.fz false o.words (fun x _ => inputTerms (valuesOf false o.fz x [] o.words) cs) o.cols d [] x []
    (rowOf blk r) (if o.comp then rowOf blk (r + 1) else [])
  (slotRows o.comp ws, f)
/-- All slots of a block. -/
def ScanOp.step (o : ScanOp) (first : Nat) (blk d x c : List Word32) : List Word32 × FlagSet :=
  (upto 0 o.slots).foldl (fun e j =>
    let (ws, f) := o.slot first blk d x c j
    (e.1 ++ ws, e.2 ||| f)) ([], 0)

/-- Consume the two beats of a step (R150, R151). -/
def At.pairOfBeats (a : At) (s : State) (t u : Nat) (last : Bool) : Iss (List Word32 × List Word32) := do
  let d ← a.takeCounted s t last
  let x ← a.takeCounted s u last
  .ok (d, x)
/-- Coefficients of step `t` through the op's stream `n`. -/
def At.coeffs (a : At) (s : State) (o : ScanOp) (n t : Nat) : Iss (State × List Word32) :=
  a.scanRead s (a.stream s n) (t * o.slots) o.slots

/-- SCAN.d and SCAN.c (R150, R155). -/
def scanForm (cplx : Bool) (dtrk xtrk : BitVec 2) (comp fz : Bool) (spb : BitVec 3) (n : BitVec 10) (s : State) : Res :=
  let o : ScanOp := ⟨comp, fz, cplx⟩
  let f := if cplx then 13 else 0
  strandForm 2 2 (fun s a => do
    let s1 ←
      if a.q = 0 then do
        let st := a.openSpb s spb.toNat
        let co := a.openSpb st.s (spb.toNat ^^^ 1)
        let s1 ← orFault (st.errs ++ co.errs
          ++ need (st.p.fmt == f && co.p.fmt == f && st.p.count == 8 * o.cols && co.p.count == (n.toNat + 1) * o.slots) 2) (.ok co.s)
        let (s2, blk) ← a.scanRead s1 st.p 0 (8 * o.cols)
        .ok (s2.modStrand a.b a.k fun t => { t with held := blk })
      else .ok s
    let last := a.q == n.toNat
    let (d, x) ← a.pairOfBeats s1 dtrk.toNat xtrk.toNat last
    let (s2, c) ← a.coeffs s1 o 1 a.q
    let t := a.strand s2
    let (blk, fl) := o.step 0 t.held d x c
    let flags := t.heldFlags ||| fl
    if last then do
      let s3 ← a.scanWrite s2 (a.stream s2 0) (a.now + 8) flags 0 blk
      .ok (s3, true)
    else .ok (s2.modStrand a.b a.k fun t => { t with held := blk, heldFlags := flags }, false)) s

/-- SCAN.d (R150). -/
def execScanD (dtrk xtrk : BitVec 2) (comp fz : Bool) (spb : BitVec 3) (n : BitVec 10) (s : State) : Res :=
  scanForm false dtrk xtrk comp fz spb n s
/-- SCAN.c (R150). -/
def execScanC (dtrk xtrk : BitVec 2) (comp fz : Bool) (spb : BitVec 3) (n : BitVec 10) (s : State) : Res :=
  scanForm true dtrk xtrk comp fz spb n s

/-- Rows of a record (R151). -/
def ScanOp.recRows (o : ScanOp) : Nat := if o.comp then 10 else 9
/-- First row of a record's P slots. -/
def ScanOp.pRow (o : ScanOp) : Nat := if o.comp then 2 else 1
/-- The record before the first position: A = 1.0, P = +0 (R59). -/
def ScanOp.recZero (o : ScanOp) : List Word32 :=
  let one : Word32 := 0x3F800000
  (if o.cplx then (List.replicate 96 [one, 0]).flatten else List.replicate 192 one) ++ List.replicate (192 * (o.recRows - 1)) 0
/-- The record of the next position (R59, R151), by R59's recurrence also at position 1 (log entry 80). -/
def ScanOp.recStep (o : ScanOp) (r d x c : List Word32) : List Word32 × FlagSet :=
  let (ws, f) := updateRow o.comp o.fz false o.words (fun _ _ => []) o.cols d [] [] [] (rowOf r 0) (if o.comp then rowOf r 1 else [])
  let (ps, g) := o.step o.pRow r d x c
  (slotRows o.comp ws ++ ps, f ||| g)

/-- SCHUNK (R151, R155). -/
def execSchunk (dtrk xtrk : BitVec 2) (comp fz : Bool) (spb : BitVec 3) (n : BitVec 10) (s : State) : Res :=
  strandForm 2 2 (fun s a => do
    let len := n.toNat + 1
    let s1 ←
      if a.q = 0 then
        let co := a.openSpb s (spb.toNat ^^^ 1)
        let re := a.openSpb co.s spb.toNat
        let o : ScanOp := ⟨comp, fz, re.p.fmt == 13⟩
        orFault (co.errs ++ re.errs ++ need ((re.p.fmt == 0 || re.p.fmt == 13) && co.p.fmt == re.p.fmt
          && co.p.count == len * o.slots && re.p.count == len * (o.recRows * o.cols)) 2)
          (.ok (re.s.modStrand a.b a.k fun t => { t with held := o.recZero }))
      else .ok s
    let p := a.stream s1 1
    let o : ScanOp := ⟨comp, fz, p.fmt == 13⟩
    let last := a.q == n.toNat
    let (d, x) ← a.pairOfBeats s1 dtrk.toNat xtrk.toNat last
    let (s2, c) ← a.coeffs s1 o 0 a.q
    let (r, f) := o.recStep (a.strand s2).held d x c
    let s3 ← a.scanWrite s2 p (a.now + 8) f (a.q * (o.recRows * o.cols)) r
    .ok (s3.modStrand a.b a.k fun t => { t with held := r }, last)) s

/-- The state a record and the carried-in state give: fl(A·h + P) for every slot (R59, R152). -/
def ScanOp.carry (o : ScanOp) (h r : List Word32) : List Word32 × FlagSet :=
  let lo (l : List Word32) (i : Nat) := if o.comp then rowOf l i else []
  (upto 0 o.slots).foldl (fun e j =>
    let i := if o.comp then 2 * j else j
    let (ws, f) := updateRow o.comp false o.comp o.words (fun x xlo => (valuesOf o.comp false x xlo o.words).map fun v => [v]) o.cols
      (rowOf r 0) (lo r 1) (rowOf r (o.pRow + i)) (lo r (o.pRow + i + 1)) (rowOf h i) (lo h (i + 1))
    (e.1 ++ slotRows o.comp ws, e.2 ||| f)) ([], 0)

/-- SCARRY (R152, R155). -/
def execScarry (spb rspb : BitVec 3) (comp : Bool) (n : BitVec 10) (s : State) : Res :=
  strandForm 2 2 (fun s a => do
    let s1 ←
      if a.q = 0 then do
        let st := a.openSpb s spb.toNat
        let re := a.openSpb st.s rspb.toNat
        let o : ScanOp := ⟨comp, false, st.p.fmt == 13⟩
        let s1 ← orFault (st.errs ++ re.errs ++ need ((st.p.fmt == 0 || st.p.fmt == 13) && re.p.fmt == st.p.fmt
          && st.p.count == 8 * o.cols && re.p.count == (n.toNat + 1) * (o.recRows * o.cols)) 2) (.ok re.s)
        let (s2, h) ← a.scanRead s1 st.p 0 (8 * o.cols)
        .ok (s2.modStrand a.b a.k fun t => { t with held := h })
      else .ok s
    let p := a.stream s1 1
    let o : ScanOp := ⟨comp, false, p.fmt == 13⟩
    let size := o.recRows * o.cols
    let (s2, r) ← a.scanRead s1 p (a.q * size) size
    let (h, f) := o.carry (a.strand s2).held r
    let s3 ← a.scanWrite s2 p (a.now + 8) f (a.q * size + o.pRow * o.cols) h
    if a.q == n.toNat then do
      let s4 ← a.scanWrite s3 (a.stream s3 0) (a.now + 8) 0 0 h
      .ok (s4, true)
    else .ok (s3, false)) s

/-- Pairs of words rounded to FP32 (R53, R153). -/
def pairWords : List Word32 → List Word32 → List Word32 × FlagSet
  | h :: hs, l :: ls =>
    let (w, f) := pairWord ⟨h, l⟩
    let (ws, fs) := pairWords hs ls
    (w :: ws, f ||| fs)
  | _, _ => ([], 0)

/-- SOUT (R153, R155). -/
def execSout (trk : BitVec 2) (spb : BitVec 3) (comp : Bool) (n : BitVec 10) (s : State) : Res :=
  strandForm 2 2 (fun s a => do
    let rows := if comp then 2 else 1
    let s1 ←
      if a.q = 0 then
        let o := a.openSpb s spb.toNat
        let w := if o.p.fmt == 13 then 96 else 192
        orFault (o.errs ++ need ((o.p.fmt == 0 || o.p.fmt == 13) && o.p.count == rows * (n.toNat + 1) * w) 2) (.ok o.s)
      else .ok s
    let p := a.stream s1 0
    let w := if p.fmt == 13 then 96 else 192
    let last := a.q == n.toNat
    let (s2, l) ← a.scanRead s1 p (a.q * rows * w) (rows * w)
    let (lanes, f) := if comp then pairWords (l.take 192) (l.drop 192) else (l, 0)
    .ok (a.drive s2 (a.now + 2) trk.toNat f lanes last, last)) s

/-- SLIN (R154, R155). -/
def execSlin (ktrk vtrk : BitVec 2) (spb : BitVec 3) (comp : Bool) (n : BitVec 10) (s : State) : Res :=
  strandForm 2 2 (fun s a => do
    let s1 ←
      if a.q = 0 then
        let o := a.openSpb s spb.toNat
        orFault (o.errs ++ need (o.p.fmt == 0 && o.p.count == (n.toNat + 1) * 1536) 2) (.ok o.s)
      else .ok s
    let last := a.q == n.toNat
    let (key, v) ← a.pairOfBeats s1 ktrk.toNat vtrk.toNat last
    let p := a.stream s1 0
    let (s2, band) ← a.scanRead s1 p (1536 * a.q) 1536
    let lo (i : Nat) := if comp then rowOf band i else []
    let (out, f) := (upto 0 (if comp then 4 else 8)).foldl (fun (e : List Word32 × FlagSet) j =>
      let i := if comp then 2 * j else j
      let kj := [valW (wordAt key j)]
      let (ws, f) := updateRow comp false false 1 (fun x _ => inputTerms kj (valuesOf false false x [] 1)) 192
        (List.replicate 192 (wordAt key (8 + j))) [] v [] (rowOf band i) (lo (i + 1))
      (e.1 ++ slotRows comp ws, e.2 ||| f)) ([], 0)
    let s3 ← a.scanWrite s2 p (a.now + 8) f (1536 * a.q) out
    .ok (s3, last)) s

end Sys2Proof.Machine
end

