-- ==== Sys2Proof/Machine/LoadStrand.lean ====
section
/-! DEFINITION. The load strand (07: R157, R174 to R177; 10: R209 to R211, R216). -/

namespace Sys2Proof.Machine

/-- Every run fits its beat (R157). -/
def Spb.runFits (p : Spb) : Bool := decide (p.run * p.width ≤ 6144)

/-- LDT and LDB: a run per cycle (R157, R174, R211). -/
def loadForm (aware : Bool) (trk : BitVec 2) (spb : BitVec 3) (s : State) : Res :=
  strandForm 0 2 (fun s a => do
    let s1 ←
      if a.q = 0 then
        let o := a.openSpb s spb.toNat
        orFault (o.errs ++ need o.p.runFits 2) (.ok o.s)
      else .ok s
    let p := a.stream s1 0
    let is := upto (a.q * p.run) p.run
    let ad := p.ends is
    let x := s1.braid a.b
    let last := a.q + 1 == p.runs
    let byte := if aware then x.awareAt a.bank else x.sramAt
    let bad := x.badErrs (if aware then x.awareAddr a.bank else id) (p.bytesOf is)
    let s2 ← orFault (a.regionErrs s1 false ad ++ bad) (.ok (a.noteReads s1 ad))
    .ok (a.drive s2 (a.now + 4) trk.toNat 0 (packRun p.width (is.map (p.read byte))) last, last)) s

/-- LDT (R174). -/
def execLdt (trk : BitVec 2) (spb : BitVec 3) (s : State) : Res := loadForm false trk spb s
/-- LDB (R174, R210). -/
def execLdb (trk : BitVec 2) (spb : BitVec 3) (s : State) : Res := loadForm true trk spb s

/-- LDX: an index run per cycle; the data is read two cycles later (R175). Where both operands name a queue-fed SPB, the index stream
takes the first entry (model's choice: log entry 89). -/
def execLdx (trk : BitVec 2) (ispb dspb : BitVec 3) (s : State) : Res :=
  strandForm 0 2 (fun s a => do
    let s1 ←
      if a.q = 0 then
        let i := a.openSpb s ispb.toNat
        let d := a.openSpb i.s dspb.toNat
        orFault (i.errs ++ d.errs ++ need (i.p.fmt == 9 && decide (i.p.run ≤ 192) && decide (d.p.width ≤ 32)) 2) (.ok d.s)
      else .ok s
    let p := a.stream s1 0
    let (s2, l) ← a.readElems s1 p (upto (a.q * p.run) p.run)
    let last := a.q + 1 == p.runs
    .ok (a.emit s2 (a.now + 2) 0 (.gather trk.toNat ((a.strand s2).opened.getD 1 0) (l.map (BitVec.ofNat 32)) last), last)) s

/-- A beat of one word in every lane. -/
def constBeat (w : Nat) : List Word32 := List.replicate 192 (BitVec.ofNat 32 w)

/-- LDC: the mailbox fault comes before it reads (R176, R209). -/
def execLdc (trk : BitVec 2) (addr : BitVec 24) (s : State) : Res :=
  strandForm 0 2 (fun s a =>
    let l := addr.toNat
    if inMail (l + 3) then .error ⟨7, l, false⟩
    else orFault (a.regionErrs s false (upto l 4) ++ (s.braid a.b).badErrs id (upto l 4))
      (.ok (a.drive (a.noteReads s (upto l 4)) (a.now + 4) trk.toNat 0 (constBeat (leNat ((s.braid a.b).sramRead l 4))) true, true))) s

/-- LDM: six windows, taken whole (R177, R216); the phase is no longer eligible for a re-run (R320). -/
def execLdm (trk : BitVec 2) (win : BitVec 13) (s : State) : Res :=
  strandForm 0 2 (fun s a =>
    let x := s.braid a.b
    let ws := upto (32 * win.toNat) 192
    if ws.all fun w => tget false x.fullStart w && !x.taken.contains w then
      let lanes := ws.map fun w => BitVec.ofNat 32 (leNat (x.sramRead (Config.mailBase + 4 * w) 4))
      let s1 := s.setBraid a.b { x with full := ws.foldl (fun m w => tset false m w false) x.full, taken := ws ++ x.taken }
      .ok (a.drive (a.modBank s1 fun k => { k with inelig := true }) (a.now + 4) trk.toNat 0 lanes true, true)
    else .error (bare 2)) s

end Sys2Proof.Machine
end

