-- ==== Sys2Proof/Machine/StoreStrand.lean ====
section
/-! DEFINITION. The store strand (07: R157, R174, R178, R179; 08: R192; 17: R353, R356). -/

namespace Sys2Proof.Machine

/-- STT and STB: a beat per cycle, written two cycles later (R157, R174, R211). -/
def storeForm (aware : Bool) (trk : BitVec 2) (spb : BitVec 3) (s : State) : Res :=
  strandForm 4 2 (fun s a => do
    let s1 ←
      if a.q = 0 then
        let o := a.openSpb s spb.toNat
        orFault (o.errs ++ need o.p.runFits 2) (.ok o.s)
      else .ok s
    let p := a.stream s1 0
    let last := a.q + 1 == p.runs
    let l ← a.takeCounted s1 trk.toNat last
    let vs := (upto 0 p.run).map fun j => (a.q * p.run + j, runElem p.width l j)
    let s2 ← a.writeElems s1 p (a.now + 2) 0 aware vs
    .ok (s2, last)) s

/-- STT (R174). -/
def execStt (trk : BitVec 2) (spb : BitVec 3) (s : State) : Res := storeForm false trk spb s
/-- STB (R174, R210). -/
def execStb (trk : BitVec 2) (spb : BitVec 3) (s : State) : Res := storeForm true trk spb s

/-- STX: scatters until the beat pair with the marker (R178). -/
def execStx (dtrk itrk : BitVec 2) (spb : BitVec 3) (s : State) : Res :=
  strandForm 4 2 (fun s a => do
    let s1 ←
      if a.q = 0 then
        let o := a.openSpb s spb.toNat
        orFault (o.errs ++ need (decide (o.p.width ≤ 32)) 2) (.ok o.s)
      else .ok s
    let p := a.stream s1 0
    let d ← a.take s1 dtrk.toNat
    let i ← a.take s1 itrk.toNat
    let vs := ((upto 0 192).map fun j => ((wordAt i.lanes j).toInt, (wordAt d.lanes j).toNat % 2 ^ p.width)).filter
      fun e : Int × Nat => decide (0 ≤ e.1 ∧ e.1 < (p.count : Int))
    if d.marker != i.marker then .error (bare 2)
    else do
      let s2 ← a.writeElems s1 p (a.now + 2) 0 false (vs.map fun e => (e.1.toNat, e.2))
      .ok (s2, d.marker)) s

/-- The stops are divided into short rings (R192, R364). -/
def State.divided (s : State) : Bool := s.cfg.rings % 2 ^ 11 != 0 || bitAt s.cfg.rings 11
/-- The last band of the short ring that holds a band, and its first (R364). -/
def ringLast (rings : Nat) : Nat → Nat → Nat
  | 0, b => b
  | n + 1, b => if b < 11 && !bitAt rings b then ringLast rings n (b + 1) else b
def ringFirst (rings : Nat) : Nat → Nat
  | 0 => 0
  | b + 1 => if bitAt rings b then b + 1 else ringFirst rings b
/-- First and last stop of the ring of a stop (R192). -/
def State.ringEnds (s : State) (stop : Nat) : Nat × Nat :=
  (8 * ringFirst s.cfg.rings (stop / 8), 8 * ringLast s.cfg.rings 12 (stop / 8) + 7)

/-- STM's packets of a braid that are on their way to the send queue. -/
def Braid.sendsDue (x : Braid) : Nat := (x.pend.filter fun p => match p.eff with
  | .send _ => true
  | _ => false).length

/-- The sq number of a bank's task (R284). -/
def State.taskSq (s : State) (b bank : Nat) : Nat := ((s.bank b bank).task.map Task.sq).getD 0

/-- STM: a beat to six windows of a stop's mailbox (R179, R192, R353, R356). The stop is an arc number of the task's interface, for
another device too, taken by the arc the interface has on this one (log entry 92). -/
def execStm (trk : BitVec 2) (stop : BitVec 7) (win : BitVec 13) (s : State) : Res :=
  strandForm 4 2 (fun s a =>
    let x := s.braid a.b
    let vi := (s.bank a.b a.bank).vi
    let (xv, xdev) := match a.open_ s with
      | some j => (j.job.xv, j.job.xdev)
      | none => (false, 0)
    let dest := s.physOf vi stop.toNat
    let ends := s.ringEnds a.b
    let stopOk := decide (stop.toNat < 8 * (s.arc vi).2) && (xv || !s.divided || decide (ends.1 ≤ dest ∧ dest ≤ ends.2))
    let room := decide (x.sendQ.length + x.sendsDue < 16)
    match a.beat s trk.toNat with
    | none => orFault (need stopOk 1 ++ [bare 2] ++ need room 3) (.error (bare 2))
    | some beat =>
      let p : Packet := ⟨0, a.b, dest, 0, win.toNat, 7, s.cfg.dev, if xv then xdev else s.cfg.dev,
        .mail ((upto 0 192).map (wordAt beat.lanes)) a.bank (s.taskSq a.b a.bank)⟩
      let s1 := a.modOpen s fun j => { j with stm := j.stm + 1 }
      let s2 := a.modBank s1 fun k => { k with inelig := true }
      orFault (need stopOk 1 ++ need room 3) (.ok (a.emit s2 (a.now + 2) 0 (.send p), true))) s

end Sys2Proof.Machine
end

