-- ==== Sys2Proof/Machine/Flags.lean ====
section
/-! DEFINITION. Scalar floating point with its flags: results and the bits of cr.FLAGS they raise (02: R48; 04: R96 to R100). -/

namespace Sys2Proof.Machine

/-- Canonical FP32 NaN (R32). -/
def nanW : Word32 := 0x7FC00000
def isNanW (w : Word32) : Bool := (valW w).isNaN

/-- Sums and products of FP32 words rounded once (R51, R97, R163). -/
def fAdd (r : Rounding) (a b : Word32) : Word32 × FlagSet := roundW r (Fp.sum (r.mode == .rdn) [valW a, valW b])
def fSub (r : Rounding) (a b : Word32) : Word32 × FlagSet := roundW r (Fp.sum (r.mode == .rdn) [valW a, (valW b).neg])
def fMul (r : Rounding) (a b : Word32) : Word32 × FlagSet := roundW r ((valW a).mul (valW b))
def fFma (r : Rounding) (a b c : Word32) : Word32 × FlagSet := roundW r (Fp.sum (r.mode == .rdn) [(valW a).mul (valW b), valW c])

/-- Order with -0 below +0, for words that are not NaN (R98). -/
def fBelow (a b : Word32) : Bool :=
  if (valW a).isZero && (valW b).isZero then (valW a).sign && !(valW b).sign else (valW a).lt (valW b)
/-- FMIN and FMAX (R98). -/
def fMin (a b : Word32) : Word32 :=
  if isNanW a then (if isNanW b then nanW else b) else if isNanW b then a else if fBelow b a then b else a
def fMax (a b : Word32) : Word32 :=
  if isNanW a then (if isNanW b then nanW else b) else if isNanW b then a else if fBelow a b then b else a
/-- FABS and FNEG (R97). -/
def fAbs (a : Word32) : Word32 := if isNanW a then nanW else a &&& 0x7FFFFFFF
def fNeg (a : Word32) : Word32 := if isNanW a then nanW else a ^^^ 0x80000000
/-- FCMP (R98). -/
def fEq (a b : Word32) : Bool := (valW a).eqv (valW b)
def fLt (a b : Word32) : Bool := (valW a).lt (valW b)
def fLe (a b : Word32) : Bool := (valW a).lt (valW b) || (valW a).eqv (valW b)
def fUn (a b : Word32) : Bool := isNanW a || isNanW b

/-- The FP32 operand of a scalar register (R96). -/
def State.rF (s : State) (r : BitVec 5) : Word32 := (s.rS r).setWidth 32

/-- Floating-point form: rd := f a b c, zero-extended, flags raised as the result is written (R96). -/
def fpu (g : BitVec 4) (d a b : BitVec 5) (f : Word32 → Word32 → Word32 → Word32 × FlagSet) (s : State) : Res :=
  guarded g 4 s fun s =>
    let (w, fl) := f (s.rF a) (s.rF b) (s.rF d)
    (s.raiseFlags fl).result 4 d (w.setWidth 64)
/-- Floating-point compare (R97). -/
def fcmp (g pd : BitVec 4) (a b : BitVec 5) (f : Word32 → Word32 → Bool) (s : State) : Res :=
  guarded g 4 s fun s => s.resultP 4 pd (f (s.rF a) (s.rF b))

/-- One conversion between element formats (R46, R47, R99, R100, R165): the low bits of the source, the destination's bits
(not extended), and flags. A code outside the binary and integer formats gives 0 (never met: decode excludes it). -/
def convert (dst src : Format) (z : Bool) (r : Rounding) (w : Nat) : Nat × FlagSet :=
  match src.binary, src.intWidth, dst.binary, dst.intWidth with
  | some sf, _, some df, _ => df.round r (sf.decode (w % 2 ^ sf.width))
  | some sf, _, _, some n => fpToInt n z r (sf.decode (w % 2 ^ sf.width))
  | _, some m, some df, _ => df.round r (Fp.ofInt (intValue m z w))
  | _, some m, _, some n => ((intValue m z w % 2 ^ n).toNat, 0)
  | _, _, _, _ => (0, 0)

/-- Extend a conversion's result to `n` bits: floats and .z by zeros, integers by sign (R99, R165). -/
def extendTo (n : Nat) (dst : Format) (z : Bool) (w : Nat) : Nat :=
  match dst.intWidth with
  | some m => if z then w % 2 ^ m else (intValue m false w % 2 ^ n).toNat
  | none => w

end Sys2Proof.Machine
end

