-- ==== Sys2Proof/Machine/Transcend.lean ====
section
/-! DEFINITION. The functions of the vector strand, correctly rounded (07: R167): fixed-point values of 640 fraction bits with a sticky bit. -/

namespace Sys2Proof.Machine

/-- Fraction bits of the fixed-point values. Every result that is not exact differs from every rounding boundary by far more
than 2^-500: no argument of FP32 brings one nearer (DEDUCED, log entry 30). -/
def fracBits : Nat := 640
def fxOne : Nat := 2 ^ fracBits
def fxMul (a b : Nat) : Nat := a * b / fxOne
def fxDiv (a b : Nat) : Nat := a * fxOne / b

/-- Sum of an exponential series: terms t·r/i. -/
def expSum (r : Nat) : Nat → Nat → Nat → Nat → Nat
  | 0, _, _, acc => acc
  | n + 1, i, t, acc =>
    let t1 := fxMul t r / i
    expSum r n (i + 1) t1 (acc + t1)
/-- Sum of z^(2i+1)/(2i+1), alternating where `alt`. -/
def oddSum (z2 : Nat) (alt : Bool) : Nat → Nat → Nat → Nat → Nat
  | 0, _, _, acc => acc
  | n + 1, i, p, acc =>
    let t := p / (2 * i + 1)
    oddSum z2 alt n (i + 1) (fxMul p z2) (if alt && i % 2 == 1 then acc - t else acc + t)
/-- atanh z for z up to 1/3. -/
def fxAtanh (z : Nat) : Nat := oddSum (fxMul z z) false 210 0 z 0
/-- atan z for small z. -/
def fxAtan (z : Nat) : Nat := oddSum (fxMul z z) true 210 0 z 0
def fxLn2 : Nat := 2 * fxAtanh (fxOne / 3)
def fxPi : Nat := 16 * fxAtan (fxOne / 5) - 4 * fxAtan (fxOne / 239)

/-- Integer square root by binary digits: `n` digits left, root so far `r`. -/
def sqrtDigits (x : Nat) : Nat → Nat → Nat
  | 0, r => r
  | n + 1, r =>
    let c := r + 2 ^ n
    sqrtDigits x n (if c * c ≤ x then c else r)
def isqrt (x : Nat) : Nat := sqrtDigits x (Nat.log2 x / 2 + 1) 0

/-- m·2^e as a fixed-point value. -/
def fxOf (m : Nat) (e : Int) : Nat :=
  let k := e + fracBits
  if 0 ≤ k then m * 2 ^ k.toNat else m / 2 ^ (-k).toNat
/-- A fixed-point value that is not exact, as a value with a sticky bit. -/
def fxVal (neg : Bool) (x : Nat) : Fp := .fin neg (2 * x + 1) (-(fracBits : Int) - 1)
/-- A magnitude too small to tell from another of its sign under any rounding. -/
def fxTiny (neg : Bool) : Fp := .fin neg 1 (-300)
/-- m·2^e less or more than a trifle. -/
def fxBelow (neg : Bool) (m : Nat) (e : Int) : Fp := .fin neg (m * 2 ^ 400 - 1) (e - 400)
def fxAbove (neg : Bool) (m : Nat) (e : Int) : Fp := .fin neg (m * 2 ^ 400 + 1) (e - 400)

/-- e^x for a fixed-point x ≥ 0, as mantissa and power of two. -/
def fxExp (x : Nat) : Nat × Nat :=
  let n := x / fxLn2
  (expSum (x - n * fxLn2) 140 1 fxOne fxOne, n)
/-- e^-x for a fixed-point x from 0 to 400, fixed point. -/
def fxExpNeg (x : Nat) : Nat :=
  let n := x / fxLn2 + 1
  expSum (n * fxLn2 - x) 140 1 fxOne fxOne / 2 ^ n
/-- ln(1 + t) for t from 0 to 1. -/
def fxLog1p (t : Nat) : Nat := 2 * fxAtanh (fxDiv t (2 * fxOne + t))

/-- |a| = m·2^e is at least n. -/
def magGe (m : Nat) (e : Int) (n : Nat) : Bool := if 0 ≤ e then decide (n ≤ m * 2 ^ e.toNat) else decide (n * 2 ^ (-e).toNat ≤ m)

/-- e^a (R167). -/
def expVal : Fp → Fp
  | .nan _ => .nan false
  | .inf n => if n then .fin false 0 0 else .inf false
  | .fin n m e =>
    if m = 0 then .fin false 1 0
    else if magGe m e 200 then (if n then fxTiny false else .fin false 1 300)
    else if n then fxVal false (fxExpNeg (fxOf m e))
    else
      let (x, k) := fxExp (fxOf m e)
      .fin false (2 * x + 1) ((k : Int) - fracBits - 1)
/-- ln a (R167). -/
def logVal : Fp → Fp
  | .nan _ => .nan false
  | .inf n => if n then .nan true else .inf false
  | .fin n m e =>
    if m = 0 then .inf true
    else if n then .nan true
    else
      let k := Nat.log2 m
      let pw : Int := e + k
      if pw = 0 ∧ m = 2 ^ k then .fin false 0 0
      else
        let d := m - 2 ^ k
        let l : Int := pw * fxLn2 + 2 * fxAtanh (fxDiv d (m + 2 ^ k))
        if l < 0 then fxVal true ((-l).toNat - 1) else fxVal false l.toNat
/-- 1/a, exactly with a sticky bit (R167). -/
def rcpVal : Fp → Fp
  | .nan _ => .nan false
  | .inf n => .fin n 0 0
  | .fin n m e =>
    if m = 0 then .inf n
    else
      let p := Nat.log2 m + 64
      .fin n (2 * (2 ^ p / m) + if 2 ^ p % m = 0 then 0 else 1) (-(p : Int) - e - 1)
/-- 1/√a, exactly with a sticky bit (R167). -/
def rsqVal : Fp → Fp
  | .nan _ => .nan false
  | .inf n => if n then .nan true else .fin false 0 0
  | .fin n m e =>
    if m = 0 then .inf n
    else if n then .nan true
    else
      let m2 := if e % 2 = 0 then m else 2 * m
      let e2 := if e % 2 = 0 then e else e - 1
      let r := isqrt (2 ^ 160 / m2)
      .fin false (2 * r + if r * r * m2 = 2 ^ 160 then 0 else 1) (-80 - e2 / 2 - 1)

/-- 1/(1 + e^-a) for |a| < 200, fixed point. -/
def fxSigmoid (neg : Bool) (m : Nat) (e : Int) : Nat :=
  let t := fxExpNeg (fxOf m e)
  fxDiv (if neg then t else fxOne) (fxOne + t)
/-- a/(1 + e^-a) (R167). -/
def siluVal : Fp → Fp
  | .nan _ => .nan false
  | .inf n => if n then .fin true 0 0 else .inf false
  | .fin n m e =>
    if m = 0 then .fin n 0 0
    else if magGe m e 200 then (if n then fxTiny true else fxBelow false m e)
    else .fin n (m * (2 * fxSigmoid n m e + 1)) (e - fracBits - 1)
/-- 1/(1 + e^-a) (R167). -/
def sigmoidVal : Fp → Fp
  | .nan _ => .nan false
  | .inf n => if n then .fin false 0 0 else .fin false 1 0
  | .fin n m e =>
    if m = 0 then .fin false 1 (-1)
    else if magGe m e 200 then (if n then fxTiny false else fxBelow false 1 0)
    else fxVal false (fxSigmoid n m e)
/-- ln(1 + e^a) (R167). -/
def softplusVal : Fp → Fp
  | .nan _ => .nan false
  | .inf n => if n then .fin false 0 0 else .inf false
  | .fin n m e =>
    if m = 0 then fxVal false fxLn2
    else if magGe m e 200 then (if n then fxTiny false else fxAbove false m e)
    else
      let x := fxOf m e
      let l := fxLog1p (fxExpNeg x)
      fxVal false (if n then l else x + l)
/-- Sum of a^(2i+1)/(2i+1)!!. -/
def phiSum (a2 : Nat) : Nat → Nat → Nat → Nat → Nat
  | 0, _, _, acc => acc
  | n + 1, i, t, acc => phiSum a2 n (i + 1) (fxMul t a2 / (2 * i + 3)) (acc + t)
/-- a·Φ(a) (R167). -/
def geluVal : Fp → Fp
  | .nan _ => .nan false
  | .inf n => if n then .fin true 0 0 else .inf false
  | .fin n m e =>
    if m = 0 then .fin n 0 0
    else if magGe m e 20 then (if n then fxTiny true else fxBelow false m e)
    else
      let x := fxOf m e
      let x2 := fxMul x x
      let root := isqrt (2 * fxPi * fxOne)
      let half := fxMul (fxDiv (fxExpNeg (x2 / 2)) root) (phiSum x2 1200 0 x 0)
      let phi := if n then fxOne / 2 - half else fxOne / 2 + half
      .fin n (m * (2 * phi + 1)) (e - fracBits - 1)

end Sys2Proof.Machine
end

