-- ==== Sys2Proof/Machine/Vector.lean ====
section
/-! DEFINITION. The vector strand (07: R158 to R173; 03: R74, R79). -/

namespace Sys2Proof.Machine

/-- What an op read: lanes of A, of B and of old DST, the marker of its beats, whether it read a beat (R111, R160). -/
structure VxIn where
  s : State
  av : List Word32
  bv : List Word32
  cv : List Word32
  mark : Option Bool
  rnd : Rounding

/-- A source: its register's lanes, or the beat on its track (R160). -/
def At.source (a : At) (s : State) (f : BitVec 5) : Iss (State × List Word32 × Option Bool) :=
  let n := f.toNat
  if n < 16 then .ok (a.noteRegs s [regV n], tget [] (s.braid a.b).regs.v n, none)
  else do
    let x ← a.take s (n - 16)
    .ok (s, x.lanes, some x.marker)
/-- The addend that old DST gives: a register's lanes, or the lanes standing on the track, 0 for an empty beat (R160). -/
def At.addend (a : At) (s : State) (f : BitVec 5) : State × List Word32 :=
  let n := f.toNat
  if n < 16 then (a.noteRegs s [regV n], tget [] (s.braid a.b).regs.v n)
  else (s, match a.beat s (n - 16) with
    | some x => x.lanes
    | none => [])

/-- How an op uses its frame: latency, whether it reads B and old DST, whether it rounds, whether PR is its own (R79, R113). -/
structure VxUse where
  lat : Nat
  readsB : Bool
  readsD : Bool
  rounds : Bool
  pairs : Bool

/-- Rounding of a VX op: the frame's mode, the job's seed (R116, R162). -/
def At.vxRnd (a : At) (s : State) (code : Nat) : Rounding :=
  let seed := match a.open_ s with
    | some j => (tget 0 j.lpImage 15).toNat % 65536
    | none => 0
  ⟨(Rnd.ofCode code).getD .rne, false, seed, 0, false⟩

/-- Read the operands of an op; two beats whose markers disagree are the stream-shape fault (R111, R160). -/
def At.vxRead (a : At) (s : State) (u : VxUse) (f : VxFrame) : Iss VxIn := do
  let (s1, av, ma) ← a.source s f.a
  let (s2, bv, mb) ← if u.readsB then a.source s1 f.b else .ok (s1, [], none)
  let mark ← match ma, mb with
    | some x, some y => if x == y then .ok (some x) else .error (bare 2)
    | some x, none => .ok (some x)
    | none, m => .ok m
  let (s3, cv) := if u.readsD then a.addend s2 f.d else (s2, [])
  let s4 := a.warnIf (a.warnIf s3 (f.pr && !u.pairs) 9) (f.rnd != 0 && !u.rounds) 10
  .ok ⟨s4, av, bv, cv, mark, a.vxRnd s4 f.rnd.toNat⟩

/-- The lanes an op writes (R160). -/
def At.vxMask (a : At) (s : State) (f : VxFrame) : BitVec 192 :=
  if f.me then tget 0 (s.braid a.b).regs.m f.m.toNat else BitVec.allOnes 192
/-- Flags of the lanes that are written (R162). -/
def laneFlags (mask : BitVec 192) : Nat → List (Word32 × FlagSet) → FlagSet
  | _, [] => 0
  | n, e :: r => (if mask.getLsbD n then e.2 else 0) ||| laneFlags mask (n + 1) r

/-- Send an op's lanes to its destination: a register, or a track on which no other VX result is due then (R160). -/
def At.vxWrite (a : At) (s : State) (u : VxUse) (f : VxFrame) (mark : Option Bool) (out : List (Word32 × FlagSet)) : Iss (State × Bool) :=
  let mask := a.vxMask s f
  let s1 := if f.me then a.noteRegs s [regM f.m.toNat] else s
  let lanes := out.map (·.1)
  let flags := laneFlags mask 0 out
  let due := a.now + u.lat
  let d := f.d.toNat
  if d < 16 then
    let s2 := a.emit s1 due flags (.vreg d lanes mask)
    .ok (if f.me then s2 else a.noteSets s2 [regV d], true)
  else
    let busy := (s1.braid a.b).pend.any fun p => p.pos == 3 && p.due == due && match p.eff with
      | .track t _ _ _ => t == d - 16
      | _ => false
    if busy then .error (bare 2) else .ok (a.emit s1 due flags (.track (d - 16) lanes (mark.getD false) mask), true)

/-- An op whose result lanes follow from the lanes it read. -/
def vxForm (u : VxUse) (f : VxFrame) (g : VxIn → List (Word32 × FlagSet)) (s : State) : Res :=
  strandForm 3 2 (fun s a => do
    let x ← a.vxRead s u f
    a.vxWrite x.s u f x.mark (g x)) s

/-- `n` lanes from lane `i`. -/
def lanesFrom (g : Nat → Word32 → Word32 → Word32 → Word32 × FlagSet) : Nat → Nat → List Word32 → List Word32 → List Word32 → List (Word32 × FlagSet)
  | 0, _, _, _, _ => []
  | n + 1, i, p, q, r => g i (p.headD 0) (q.headD 0) (r.headD 0) :: lanesFrom g n (i + 1) p.tail q.tail r.tail
/-- Lane by lane, `g` given the lane number, A, B and old DST. -/
def lanewise (g : Nat → Word32 → Word32 → Word32 → Word32 × FlagSet) (x : VxIn) : List (Word32 × FlagSet) :=
  lanesFrom g 192 0 x.av x.bv x.cv
/-- Lanes without flags. -/
def lanewise0 (g : Word32 → Word32 → Word32 → Word32) : VxIn → List (Word32 × FlagSet) := lanewise fun _ p q r => (g p q r, 0)

/-- A whole lane in FP32, or with PR its two BF16 halves (R162). -/
def halves (pr : Bool) (g : BinFmt → Rounding → Nat → Nat → Nat → Nat × FlagSet) (x : VxIn) : List (Word32 × FlagSet) :=
  lanewise (fun i p q r =>
    if pr then
      let (lo, fl) := g bf16 { x.rnd with idx := i } (p.toNat % 65536) (q.toNat % 65536) (r.toNat % 65536)
      let (hi, fh) := g bf16 { x.rnd with idx := i + 192 } (p.toNat / 65536) (q.toNat / 65536) (r.toNat / 65536)
      (BitVec.ofNat 32 (lo + 65536 * hi), fl ||| fh)
    else
      let (w, fl) := g fp32 { x.rnd with idx := i } p.toNat q.toNat r.toNat
      (BitVec.ofNat 32 w, fl)) x

/-- The smaller or larger of two encodings, −0 below +0, a NaN passed over (R98, R163). -/
def minmax (larger : Bool) (f : BinFmt) (a b : Nat) : Nat :=
  let x := f.decode a
  let y := f.decode b
  if x.isNaN then (if y.isNaN then f.canonicalNaN else b)
  else if y.isNaN then a
  else
    let below (p q : Fp) : Bool := if p.isZero && q.isZero then p.sign && !q.sign else p.lt q
    if larger then (if below x y then b else a) else (if below y x then b else a)

def vxArith : VxUse := ⟨6, true, false, true, true⟩
def vxSum (neg : Bool) (f : BinFmt) (r : Rounding) (a b _c : Nat) : Nat × FlagSet :=
  let y := f.decode b
  f.round r (Fp.sum (r.mode == .rdn) [f.decode a, if neg then y.neg else y])

/-- VADD (R163). -/
def execVadd (f : VxFrame) (s : State) : Res := vxForm vxArith f (halves f.pr (vxSum false)) s
/-- VSUB (R163). -/
def execVsub (f : VxFrame) (s : State) : Res := vxForm vxArith f (halves f.pr (vxSum true)) s
/-- VMUL (R163). -/
def execVmul (f : VxFrame) (s : State) : Res :=
  vxForm vxArith f (halves f.pr fun g r a b _ => g.round r ((g.decode a).mul (g.decode b))) s
/-- VFMA (R163). -/
def execVfma (f : VxFrame) (s : State) : Res :=
  vxForm { vxArith with readsD := true } f
    (halves f.pr fun g r a b c => g.round r (Fp.sum (r.mode == .rdn) [(g.decode a).mul (g.decode b), g.decode c])) s
/-- VMIN (R163). -/
def execVmin (f : VxFrame) (s : State) : Res :=
  vxForm { vxArith with rounds := false } f (halves f.pr fun g _ a b _ => (minmax false g a b, 0)) s
/-- VMAX (R163). -/
def execVmax (f : VxFrame) (s : State) : Res :=
  vxForm { vxArith with rounds := false } f (halves f.pr fun g _ a b _ => (minmax true g a b, 0)) s

def vxOne : VxUse := ⟨6, false, false, false, false⟩
def vxTwo : VxUse := ⟨6, true, false, false, false⟩

/-- VNEG (R163). -/
def execVneg (f : VxFrame) (s : State) : Res := vxForm vxOne f (lanewise0 fun a _ _ => fNeg a) s
/-- VABS (R163). -/
def execVabs (f : VxFrame) (s : State) : Res := vxForm vxOne f (lanewise0 fun a _ _ => fAbs a) s

/-- A mask from lanes. -/
def maskOf : Nat → List Bool → BitVec 192
  | _, [] => 0
  | n, b :: r => (if b then 1#192 <<< n else 0) ||| maskOf (n + 1) r
/-- The comparison an FN names (R164). -/
def vxCompare (fn : Nat) (a b : Word32) : Bool :=
  match fn with
  | 0 => fEq a b
  | 1 => fLt a b
  | 2 => fLe a b
  | _ => fUn a b
/-- VCMP: the mask is readable from c + 6 (R164). -/
def execVcmp (f : VxFrame) (s : State) : Res :=
  strandForm 3 2 (fun s a => do
    let x ← a.vxRead s vxTwo f
    let mask := a.vxMask x.s f
    let s1 := if f.me then a.noteRegs x.s [regM f.m.toNat] else x.s
    let out := maskOf 0 ((upto 0 192).map fun i => vxCompare f.fn.toNat (wordAt x.av i) (wordAt x.bv i))
    let s2 := a.emit s1 (a.now + 6) 0 (.vmask (f.d.toNat % 4) out mask)
    .ok (if f.me then s2 else a.noteSets s2 [regM (f.d.toNat % 4)], true)) s

/-- VSEL (R164). -/
def execVsel (f : VxFrame) (s : State) : Res :=
  strandForm 3 2 (fun s a => do
    let x ← a.vxRead s vxTwo f
    let m := tget 0 (x.s.braid a.b).regs.m f.m.toNat
    a.vxWrite (a.noteRegs x.s [regM f.m.toNat]) vxTwo f x.mark (lanewise (fun i p q _ => (if m.getLsbD i then p else q, 0)) x)) s

/-- VCVT (R165): FN the destination format, B the source format and Z. -/
def execVcvt (f : VxFrame) (s : State) : Res :=
  let z := f.b.getLsbD 4
  vxForm ⟨6, false, false, true, false⟩ f (fun x => lanewise (fun i p _ _ =>
    match Format.ofCode f.fn.toNat, Format.ofCode (f.b.toNat % 16) with
    | some df, some sf =>
      let (w, fl) := convert df sf z { x.rnd with idx := i } (p.toNat % 2 ^ sf.width)
      (BitVec.ofNat 32 (extendTo 32 df z w), fl)
    | _, _ => (0, 0)) x) s

/-- A function op (R167). -/
def vxFun (f : VxFrame) (g : Fp → Fp) (s : State) : Res :=
  vxForm ⟨12, false, false, true, false⟩ f (fun x => lanewise (fun i p _ _ => roundW { x.rnd with idx := i } (g (valW p))) x) s
/-- VEXP (R167). -/
def execVexp (f : VxFrame) (s : State) : Res := vxFun f expVal s
/-- VLOG (R167). -/
def execVlog (f : VxFrame) (s : State) : Res := vxFun f logVal s
/-- VRCP (R167). -/
def execVrcp (f : VxFrame) (s : State) : Res := vxFun f rcpVal s
/-- VRSQ (R167). -/
def execVrsq (f : VxFrame) (s : State) : Res := vxFun f rsqVal s
/-- The function VACT's FN names (R167). -/
def actVal (fn : Nat) : Fp → Fp :=
  match fn with
  | 0 => siluVal
  | 1 => geluVal
  | 2 => softplusVal
  | _ => sigmoidVal
/-- VACT (R167). -/
def execVact (f : VxFrame) (s : State) : Res := vxFun f (actVal f.fn.toNat) s

/-- Complex products, two lanes at a time (R168). -/
def complexMul (r : Rounding) : Nat → Nat → List Word32 → List Word32 → List (Word32 × FlagSet)
  | 0, _, _, _ => []
  | n + 1, i, a, b =>
    let v (l : List Word32) (j : Nat) := valW (l.getD j 0)
    let one (j : Nat) (t : List Fp) := roundW { r with idx := i + j } (Fp.sum (r.mode == .rdn) t)
    one 0 [(v a 0).mul (v b 0), ((v a 1).mul (v b 1)).neg] :: one 1 [(v a 0).mul (v b 1), (v a 1).mul (v b 0)]
      :: complexMul r n (i + 2) (a.drop 2) (b.drop 2)
/-- VCMUL (R168). -/
def execVcmul (f : VxFrame) (s : State) : Res :=
  vxForm ⟨6, true, false, true, false⟩ f (fun x => complexMul x.rnd 96 0 x.av x.bv) s

/-- One level of the reduction tree: node (l, p) of elements p and p + m (R169). -/
def redLevel {α : Type} (node : Nat → α → α → α × FlagSet) : Nat → List α → List α → List α × FlagSet
  | i, x :: xs, y :: ys =>
    let (z, f) := node i x y
    let (zs, fs) := redLevel node (i + 1) xs ys
    (z :: zs, f ||| fs)
  | _, _, _ => ([], 0)
/-- Levels `l` on, each halving. -/
def redLevels {α : Type} (node : Nat → α → α → α × FlagSet) : Nat → Nat → List α → List α × FlagSet
  | 0, _, w => (w, 0)
  | n + 1, l, w =>
    let m := w.length / 2
    let (z, f) := redLevel node (192 * (l - 1)) (w.take m) (w.drop m)
    let (y, fs) := redLevels node n (l + 1) z
    (y, f ||| fs)
/-- The whole tree over 192 leaves (R169). -/
def redTree {α : Type} (d : α) (node : Nat → α → α → α × FlagSet) (w : List α) : α × FlagSet :=
  let (t, f) := redLevels node 6 1 w
  let (y, f7) := node (192 * 6) (t.getD 0 d) (t.getD 1 d)
  let (r, f8) := node (192 * 7) y (t.getD 2 d)
  (r, f ||| f7 ||| f8)
/-- A node of VRED.sum.comp (R54, R169). -/
def pairNode (x y : Pair) : Pair × FlagSet :=
  let v := Fp.sum false [valW x.hi, valW y.hi]
  let (s, f1) := roundHi false v
  if finiteW s then
    let (lo, f2) := fl32 false (Fp.sum false [valW x.lo, valW y.lo, Fp.sum false [v, (valW s).neg]])
    (⟨s, lo⟩, f1 ||| f2)
  else (⟨s, 0⟩, f1)
/-- The 192 leaves of A. -/
def leaves (l : List Word32) : List Word32 := (upto 0 192).map (wordAt l)
/-- One word to every lane. -/
def splat (e : Word32 × FlagSet) : List (Word32 × FlagSet) := List.replicate 192 e

/-- VRED.sum (R169). -/
def execVredSum (f : VxFrame) (s : State) : Res :=
  vxForm ⟨10, false, false, true, false⟩ f (fun x =>
    if f.fn.getLsbD 0 then
      let (p, f1) := redTree ⟨0, 0⟩ (fun _ => pairNode) ((leaves x.av).map fun w => ⟨w, 0⟩)
      let (w, f2) := roundW { x.rnd with idx := 1536 } (pairSum (x.rnd.mode == .rdn) p)
      splat (w, f1 ||| f2)
    else splat (redTree 0 (fun i => fAdd { x.rnd with idx := i }) (leaves x.av))) s
/-- VRED.max (R169). -/
def execVredMax (f : VxFrame) (s : State) : Res :=
  vxForm ⟨10, false, false, false, false⟩ f (fun x => splat (redTree 0 (fun _ a b => (fMax a b, 0)) (leaves x.av))) s

/-- VROT (R170): rotation {B, FN}. -/
def execVrot (f : VxFrame) (s : State) : Res :=
  let r := 16 * f.b.toNat + f.fn.toNat
  vxForm vxOne f (fun x => (upto 0 192).map fun n => (wordAt x.av ((n + 192 - r) % 192), 0)) s

/-- The ordered key of an encoding (R171). -/
def keyOf (f : BinFmt) (w : Nat) : Nat :=
  let all := 2 ^ f.width - 1
  let sign := 2 ^ (f.width - 1)
  if (f.decode w).isNaN then all else if sign ≤ w then all - w else w + sign
/-- VKEY (R171). -/
def execVkey (f : VxFrame) (s : State) : Res :=
  vxForm vxOne f (lanewise0 fun a _ _ =>
    let two (g : BinFmt) := keyOf g (a.toNat % 65536) + 65536 * keyOf g (a.toNat / 65536)
    BitVec.ofNat 32 (match f.fn.toNat with
      | 0 => two fp16
      | 1 => two bf16
      | _ => keyOf fp32 a.toNat)) s

/-- VHIST (R172). -/
def execVhist (f : VxFrame) (s : State) : Res :=
  let sh := 8 * (f.fn.toNat % 4)
  vxForm ⟨8, true, true, false, false⟩ f (fun x =>
    let keys := (leaves x.av).map fun w => w.toNat >>> sh
    lanewise (fun _ _ b c => (c + BitVec.ofNat 32 (keys.filter (· == b.toNat >>> sh)).length, 0)) x) s

/-- VCHK: the Stopper signature against a constant; the fault comes in cycle c + 6 (R173). -/
def execVchk (pr : Bool) (rnd : BitVec 3) (k : BitVec 32) (s : State) : Res :=
  strandForm 3 4 (fun s a =>
    let s1 := a.warnIf (a.warnIf (a.noteRegs s [regStopper]) pr 9) (rnd != 0) 10
    .ok (a.emit s1 (a.now + 6) 0 (if (s1.braid a.b).regs.stopper = k then .nothing else .mismatch), true)) s

/-- VMOV (R170). -/
def execVmov (f : VxFrame) (s : State) : Res := vxForm vxOne f (lanewise0 fun a _ _ => a) s
/-- A bit operation of VBIT (R170). -/
def bitOp (fn : Nat) (a b : Word32) : Word32 :=
  match fn with
  | 0 => a &&& b
  | 1 => a ||| b
  | 2 => a ^^^ b
  | 3 => a <<< (b.toNat % 32)
  | _ => a >>> (b.toNat % 32)
/-- VBIT (R170). -/
def execVbit (f : VxFrame) (s : State) : Res := vxForm vxTwo f (lanewise0 fun a b _ => bitOp f.fn.toNat a b) s
/-- VIADD (R170). -/
def execViadd (f : VxFrame) (s : State) : Res := vxForm vxTwo f (lanewise0 fun a b _ => a + b) s
/-- VIMUL (R170). -/
def execVimul (f : VxFrame) (s : State) : Res := vxForm vxTwo f (lanewise0 fun a b _ => a * b) s

/-- The packed format is one of 8 bits (R166). -/
def pack8 (fn : Nat) : Bool := fn == 3 || fn == 4 || fn == 7
/-- VPACK (R166). -/
def execVpack (f : VxFrame) (s : State) : Res :=
  let p8 := pack8 f.fn.toNat
  vxForm { vxTwo with readsD := p8 } f (lanewise0 fun a b c =>
    if p8 then (c >>> 16) ||| ((a &&& 0xFF) <<< 16) ||| ((b &&& 0xFF) <<< 24) else (a &&& 0xFFFF) ||| (b <<< 16)) s
/-- The element VUNPK takes, as a lane (R166). -/
def unpackElem (fn sel : Nat) (z : Bool) (a : Word32) : Word32 :=
  match Format.ofCode fn with
  | some g =>
    let e := bits a.toNat (g.width * sel) g.width
    match g.binary with
    | some b => (fp32.round .nearest (b.decode e)).1
    | none => BitVec.ofNat 32 (extendTo 32 g z e)
  | none => 0
/-- VUNPK (R166). -/
def execVunpk (f : VxFrame) (s : State) : Res :=
  vxForm vxOne f (lanewise0 fun a _ _ => unpackElem f.fn.toNat (f.b.toNat % 4) (f.b.getLsbD 4) a) s

end Sys2Proof.Machine
end

