-- ==== Sys2Proof/Machine/Jobs.lean ====
section
/-! DEFINITION. Jobs: start, results, rendezvous, overrun, illegal encodings (03: R78; 05: R112, R116, R117, R122, R126, R130 to R133; 10: R209, R214). -/

namespace Sys2Proof.Machine

/-- Counts of one kind on one queue add (R130). -/
def condSum (conds : List Nat) (kind q : Nat) : Nat :=
  (conds.map fun c => if condKind c = kind ∧ condQueue c = q then condCount c else 0).sum

/-- Entries of a queue reserved by the bank's open jobs, and free entries of q7 they reserve. -/
def Braid.reserved4 (x : Braid) (bank q : Nat) : Nat :=
  (x.jobsOpen.map fun j => if j.bank = bank then tget 0 j.resv q else 0).sum
def Braid.reserved7 (x : Braid) (bank : Nat) : Nat := (x.jobsOpen.map fun j => if j.bank = bank then j.resv7 else 0).sum

/-- Queues whose entries a job reserves (R130). -/
def feeds (q : Nat) : Bool := q == 4 || q == 5 || q == 6 || q == 8

/-- A start condition holds (R130, R214). -/
def Braid.condHolds (x : Braid) (bank : Nat) (conds : List Nat) (c : Nat) : Bool :=
  let k := x.bank bank
  let q := condQueue c
  let len := (k.queue q).length
  match condKind c with
  | 1 => decide (condSum conds 1 q + (if feeds q then x.reserved4 bank q else 0) ≤ len)
  | 2 => decide (condSum conds 2 q + (if q = 7 then x.reserved7 bank else 0) + len ≤ qDepth q)
  | 3 => (upto (32 * bits c 0 13) 32).all fun w => tget false x.fullStart w == bitAt c 13
  | _ => true

/-- Two regions share a byte and one of them is written (R131). -/
def regionsClash (r t : Nat) : Bool :=
  bitAt r 31 && bitAt t 31 && (bitAt r 30 || bitAt t 30)
    && decide (bits r 13 13 ≤ bits t 13 13 + bits t 0 13) && decide (bits t 13 13 ≤ bits r 13 13 + bits r 0 13)
/-- A job and an open one overlap (R131). -/
def Braid.jobClashes (x : Braid) (bank : Nat) (j : Job) : Bool :=
  x.jobsOpen.any fun o => o.bank == bank && o.job.regions.any fun r => j.regions.any (regionsClash r)
/-- A store touches a region of the job (R131). -/
def storeTouches (j : Job) (a n : Nat) : Bool :=
  (upto a n).any fun b => inScratch b && j.regions.any fun r => regionHit r (b - Config.scratchBase) false
/-- A context's store to a byte of the job's regions is issued and has not taken effect (R131). -/
def State.storeWaits (s : State) (b bank : Nat) (j : Job) : Bool :=
  [CtxId.L, .X, .S, .T].any fun c => match s.storeNow b bank c with
    | some (a, n) => storeTouches j a n
    | none => false

/-- The SPB images a job loads: strand, number, address (R75, R117). -/
def Job.loads (j : Job) : List (Nat × Nat × Nat) :=
  ((upto 0 5).map fun k => if bitAt j.smask k then
      ((upto 0 8).filter (bitAt (j.spbld.getD k 0))).map fun i => (k, i, j.entry.getD k 0 - 256 + 32 * i)
    else []).flatten

/-- The bank may start jobs: its task runs. -/
def Bank.startsJobs (k : Bank) : Bool := k.mode == .running && k.task.isSome

/-- The head job of a bank may start in this cycle (R130). -/
def State.jobReady (s : State) (b bank : Nat) (j : Job) : Bool :=
  let x := s.braid b
  let k := x.bank bank
  k.startsJobs && ((upto 0 5).all fun p => !bitAt j.smask p || (s.strand b p).job.isNone)
    && s.refsHold b bank j.preds && j.conds.all (x.condHolds bank j.conds) && decide (j.at_ + 4 ≤ s.cycle) && decide (x.gateTill ≤ s.cycle)
    && !s.storeWaits b bank j

/-- What a start fails on: the overlap check (R131), or an image in the mailbox (R209). -/
def State.jobErrs (s : State) (b bank : Nat) (j : Job) : Errs :=
  (if (s.braid b).jobClashes bank j then [bare 6] else [])
    ++ match j.loads.find? fun e => inMail e.2.2 || inMail (e.2.2 + 31) with
      | some e => [⟨7, e.2.2, false⟩]
      | none => []

/-- The job starts: reservations, the image of the loop registers, SPBs, strands (R116, R117, R126, R130); its start condition has
observed the copies it names, an acquire of their bytes (R248). -/
def State.startJob (s : State) (b bank : Nat) (j : Job) : State :=
  let copies := j.preds.filter fun e => decide (e.1 ≤ 3)
  (copies.foldl (fun (st : State) e => st.acquire b bank e.1 e.2) s).modBraid b fun x =>
    let k := x.bank bank
    let o : OpenJob := { job := j, bank, start := s.cycle, joined := [],
                         resv := ([4, 5, 6, 8].map fun q => (q, condSum j.conds 1 q)), resv7 := condSum j.conds 2 7,
                         lpImage := k.lp, sram := x.sramStart, stm := 0 }
    let begin_ (t : Strand) (p : Nat) : Strand :=
      { ({ t with nest := [] } : Strand).leave (j.entry.getD p 0) with job := some j.num, bank, buf := [] }
    let y := (upto 0 5).foldl (fun (y : Braid) p => if bitAt j.smask p then y.modStrand p fun t => begin_ t p else y) x
    let z := j.loads.foldl (fun (y : Braid) (e : Nat × Nat × Nat) => y.modStrand e.1 fun t : Strand => { t with spb := tput t.spb e.2.1 (leNat (x.sramRead e.2.2 32)) }) y
    ({ z with jobsOpen := z.jobsOpen ++ [o] }).setBank bank
      (j.loads.foldl (fun (k : Bank) (e : Nat × Nat × Nat) => k.noteSet (regSpb e.1 e.2.1)) { k with jobs := k.jobs.drop 1 })

/-- JOB_START on braid `a` (R130): the head job of the running bank starts if its conditions hold. A start that fails is X's fault of
the cycle, which L's may still go before (R122, R300). -/
def execJobStart (s : State) : Res :=
  let b := s.agent.1
  let bank := (s.braid b).runBank
  match (s.bank b bank).jobs with
  | [] => .next s
  | j :: _ =>
    if !s.jobReady b bank j then .next s
    else
      match (s.jobErrs b bank j).least with
      | none => .next (s.startJob b bank j)
      | some e => .next (s.defer b bank { code := e.code, src := 0, ctx := .X, epc := j.pc, va := e.va })

/-- Results that land after the strands' reads: SRAM writes, sends, drains, gathers, the Stopper comparison (R123). -/
def Eff.late : Eff → Bool
  | .sram _ _ | .send _ | .drain _ _ _ | .mismatch | .gather _ _ _ _ => true
  | _ => false

/-- Lanes under a mask. -/
def mergeLanes (new old : List Word32) (mask : BitVec 192) : List Word32 :=
  (upto 0 192).map fun i => if mask.getLsbD i then wordAt new i else wordAt old i

/-- Drive a beat at a position, masked lanes from the beat arriving there (R110, R160). -/
def Braid.driveBeat (x : Braid) (pos t : Nat) (lanes : List Word32) (marker : Bool) (mask : BitVec 192) : Braid :=
  let key := 5 * t + pos
  let old := (tget ⟨[], false⟩ x.arriving key).lanes
  { x with driven := tput x.driven key ⟨if mask = BitVec.allOnes 192 then lanes else mergeLanes lanes old mask, marker⟩ }

/-- The job that started in a cycle has one STM packet less to see off; no two jobs of a braid start in one cycle (R130, R179). -/
def stmGone (start : Nat) (l : List OpenJob) : List OpenJob := l.map fun j => if j.start = start then { j with stm := j.stm - 1 } else j

/-- A packet of an STM of the job that started in cycle `start` is placed in the send queue; to its own stop it never enters the
queue, is delivered in the next cycle and holds its job no longer (R179, R194; the last is the model's choice: log entry 91). -/
def State.placeMail (s : State) (b start : Nat) (p : Packet) : State :=
  if p.dest = b ∧ p.ddev = s.cfg.dev then
    (s.later (s.cycle + 1) (packetEvent p)).modBraid b fun x => { x with jobsOpen := stmGone start x.jobsOpen }
  else s.modBraid b fun x =>
    { x with sendQ := x.sendQ ++ [p], sendOf := x.sendOf ++ [start], out := x.out + 1,
             headAt := if x.sendQ.isEmpty then tput x.headAt 0 s.cycle else x.headAt }

/-- The 192 lanes LDX gathers: element x_j, or 0 where x_j is out of range; 0 beyond the index run (R175). -/
def gatherLanes (p : Spb) (byte : Nat → Byte) (idx : List Word32) : List Word32 :=
  (idx.map fun x => if 0 ≤ x.toInt ∧ x.toInt < (p.count : Int) then BitVec.ofNat 32 (p.read byte x.toNat) else 0) ++ List.replicate (192 - idx.length) 0

/-- What one result does, or the fault it raises in place of it (R112, R307, R326). -/
def State.landEff (s : State) (b : Nat) (p : Pend) : Except State State :=
  let x := s.braid b
  let regs (f : StrandRegs → StrandRegs) : Except State State := .ok (s.setBraid b { x with regs := f x.regs })
  match p.eff with
  | .vreg r lanes mask => regs fun g => { g with v := tput g.v r (mergeLanes lanes (tget [] g.v r) mask) }
  | .vmask m val mask => regs fun g => { g with m := tput g.m m ((val &&& mask) ||| (tget 0 g.m m &&& ~~~mask)) }
  | .track t lanes marker mask => .ok (s.setBraid b (x.driveBeat p.pos t lanes marker mask))
  | .acc a data => regs fun g => { g with acc := tput g.acc a data }
  | .wbuf i w => regs fun g => { g with wb := tput g.wb i ⟨w.beats, w.data ++ (tget {} g.wb i).data.drop w.beats⟩ }
  | .cbook i d => regs fun g => { g with cb := tput g.cb i d }
  | .stopper w => regs fun g => { g with stopper := w }
  | .nothing => .ok s
  | .sram ws aware =>
    let step (e : Braid × Option Nat) (w : SWrite) : Braid × Option Nat :=
      if aware then
        let (y, bad) := e.1.awarePut p.bank w
        (y, if bad && e.2.isNone then some w.addr else e.2)
      else (e.1.rawPut w, e.2)
    match ws.foldl step (x, none) with
    | (y, none) => .ok (s.setBraid b y)
    | (_, some a) => .error (s.strandFault b p.pos 6 p.pc a true)
  | .send q =>
    let start := match x.jobsOpen.find? fun j => j.bank == p.bank && j.job.num == p.job with
      | some j => j.start
      | none => 0
    .ok (s.placeMail b start q)
  | .drain ch d last => .ok (s.modBank b p.bank fun k =>
      let h := k.chan ch
      k.setChan ch { h with tile := h.tile.map fun t => { t with data := t.data ++ d, full := last } })
  | .mismatch => .error (s.strandFault b p.pos 19 p.pc 0)
  | .gather t image idx marker =>
    let q := (parseSpb image).getD ⟨0, 0, [(0, 0)]⟩
    let used := (idx.filter fun v : Word32 => decide (0 ≤ v.toInt ∧ v.toInt < (q.count : Int))).map (·.toNat)
    let ad := q.ends used
    let a : At := ⟨b, p.pos, p.bank, 0, s.cycle, p.job, p.pc⟩
    match (a.regionErrs s false ad ++ x.badErrs id (q.bytesOf used)).least with
    | some e => .error (s.strandFault b p.pos e.code p.pc e.va)
    | none => .ok (a.drive (a.noteReads s ad) (s.cycle + 2) t 0 (gatherLanes q x.sramAt idx) marker)
/-- One result lands, and the flags it brings are set; one that faults sets none (R48, R112). -/
def State.land (s : State) (b : Nat) (p : Pend) : State :=
  match s.landEff b p with
  | .ok s1 => s1.modBank b p.bank (·.raise p.flags)
  | .error s1 => s1

/-- Results in the order of their strands, those of one strand in issue order (R123). -/
def byPos (l : List Pend) : List Pend := ((upto 0 5).map fun k => l.filter fun p => p.pos == k).flatten

/-- OP_RESULT: the results of a braid that are due (R112); those of `late` follow the strands' reads of the cycle, LD's first
(third number 1 of the agent: LD's alone). A result whose job a fault has stopped is gone. -/
def execOpResult (b : Nat) (late : Bool) (s : State) : Res :=
  let only := s.agent.2.2 == 1
  let x := s.braid b
  let due (p : Pend) : Bool := decide (p.due ≤ s.cycle) && p.eff.late == late && (!only || p.pos == 0)
  let s1 := s.setBraid b { x with pend := x.pend.filter fun p => !due p }
  .next ((byPos (x.pend.filter due)).foldl (fun st p =>
    if (st.braid b).jobsOpen.any fun j => j.bank == p.bank && j.job.num == p.job then st.land b p else st) s1)

/-- The job's strands have joined and its results are written (R132, R179). -/
def Braid.joinedAll (x : Braid) (j : OpenJob) : Bool :=
  ((upto 0 5).all fun k => !bitAt j.job.smask k || j.joined.contains k) && j.stm == 0
    && !(x.pend.any fun p => p.bank == j.bank && p.job == j.job.num)

/-- Free the strands of a job (R132). -/
def freeStrands (j : OpenJob) (t : Tab Strand) : Tab Strand :=
  t.map fun e => (e.1, if e.2.job = some j.job.num ∧ e.2.bank = j.bank then { e.2 with job := none, nest := [], buf := [] } else e.2)

/-- The open job an event names: braid, bank and number are the agent's numbers. -/
def State.namedJob (s : State) : Option OpenJob :=
  let (b, bank, n) := s.agent
  (s.braid b).jobsOpen.find? fun j => j.bank == bank && j.job.num == n

/-- RENDEZVOUS of the agent's job: q7's word, free strands, reservations settled (R126, R132). -/
def execRendezvous (s : State) : Res :=
  let (b, bank, n) := s.agent
  match s.namedJob with
  | none => .next s
  | some j =>
    if !(s.braid b).joinedAll j then .next s
    else if j.resv.any fun e => 0 < e.2 then .next (s.jobFault b bank 2 j.job 0)
    else
      .next (s.modBraid b fun x =>
        let k := x.bank bank
        let (dn, fin) := settleDone k.jobDone (n :: k.jobFin) (k.jobFin.length + 1)
        let word : Word64 := BitVec.ofNat 64 (n + 2 ^ 32 * (s.cycle - j.start + 1))
        let q := if j.resv7 = 0 then k.q else tput k.q 7 (k.queue 7 ++ [word])
        ({ x with jobsOpen := x.jobsOpen.filter fun o => !(o.bank == bank && o.job.num == n), strands := freeStrands j x.strands }).setBank bank
          { k with q, jobDone := dn, jobFin := fin })

/-- The number of no job, with which OVERRUN is the last act of a bank's cycle in which faults can arise. -/
def lastFault : Nat := 2 ^ 28
/-- OVERRUN of the agent's job: its MAXC + 1st cycle ends before its rendezvous (R133). Under the number of no job, the faults of the
bank's cycle are over, and one of them is recorded (R300). -/
def execOverrun (s : State) : Res :=
  let (b, bank, n) := s.agent
  if n = lastFault then .next (s.settleFaults b bank)
  else
    match s.namedJob with
    | none => .next s
    | some j => if s.cycle - j.start + 1 < j.job.maxc then .next s else .next (s.jobFault b bank 3 j.job 0)

/-- ILLEGAL_ENCODING: what the agent fetched is no instruction or op (R78). -/
def execIllegalEncoding (s : State) : Res :=
  match s.cur with
  | .ctx _ _ _ => .next s.illegal
  | .strand b k => if (s.strand b k).job.isSome then .next (s.strandFault b k 1 (s.strand b k).opPc 0) else .next s
  | _ => .next s

end Sys2Proof.Machine
end

