-- ==== Sys2Proof/Machine/Ring.lean ====
section
/-! DEFINITION. The Hawser: routes, slots and classes, sending, delivery, return words and audits (08: R181 to R192, R207; 17: R332, R335, R336, R357). -/

namespace Sys2Proof.Machine

/-- An odd number of ones. -/
def oddOnes {n : Nat} (v : BitVec n) : Bool := (upto 0 n).foldl (fun p i => p != v.getLsbD i) false
/-- Bits 62 to 0 of the header of flit `f` sent in direction `dir` (R182, R356): SDEV and DDEV, ARG, SEQ, IDX, LAST, TYPE, ESC, VC,
DIR, SRC and DEST. -/
def Flit.fields (f : Flit) (dir : Nat) : BitVec 63 :=
  let p := f.pkt
  BitVec.ofNat 63 (2 ^ 57 * p.sdev + 2 ^ 54 * p.ddev + 2 ^ 41 * (p.arg % 2 ^ 13) + 2 ^ 29 * (p.seq % 2 ^ 12) + 2 ^ 25 * f.idx
    + 2 ^ 21 * (p.flits - 1) + 2 ^ 17 * p.typ + 2 ^ 16 * bit f.esc + 2 ^ 15 * f.vc + 2 ^ 14 * dir + 2 ^ 7 * p.src + p.dest)
/-- The header as the receiver finds it: HP in bit 63 makes the parity even, unless something on the way has spoilt it (R182). -/
def Flit.received (f : Flit) (dir : Nat) (ok : Bool) : BitVec 64 :=
  BitVec.cons (oddOnes (f.fields dir) != !(ok && f.hpOk)) (f.fields dir)
/-- HP is right: even parity over bits 62 to 0 (R182). -/
def headerOk (h : BitVec 64) : Bool := h.msb == oddOnes (h.setWidth 63)

/-- Bits 13 to 0 of a word of the return lane (R190): E1, E0 and SH. -/
def wordLow (w : RetWord) : BitVec 14 := BitVec.ofNat 14 (2 ^ 8 * (w.e1 % 8) + 2 ^ 5 * (w.e0 % 8) + w.sh % 32)
/-- The word as its receiver finds it: AUD, P, and the rest; P makes the parity even, unless something on the way has spoilt it (R190). -/
def wordReceived (w : RetWord) (ok : Bool) : BitVec 16 :=
  BitVec.ofBool w.aud ++ BitVec.ofBool ((w.aud != oddOnes (wordLow w)) != !ok) ++ wordLow w
/-- P is right: even parity over bits 15 to 0 (R190). -/
def wordOk (w : BitVec 16) : Bool := w.getLsbD 14 == (w.getLsbD 15 != oddOnes (w.setWidth 14))

def State.link (s : State) (k : Nat) : Link := tget {} s.links k
def State.modLink (s : State) (k : Nat) (f : Link → Link) : State := { s with links := tmod {} s.links k f }

/-- Links are numbered 2·stop + direction (0 clockwise), the closing link of the short ring that ends at a stop 192 + stop.
Sending stop and direction of a link. -/
def linkStop (k : Nat) : Nat := if 192 ≤ k then k - 192 else k / 2
def linkDir (k : Nat) : Nat := if 192 ≤ k then 0 else k % 2
/-- The stop a link leads to (R181, R192). -/
def State.linkTo (s : State) (k : Nat) : Nat :=
  if 192 ≤ k then (s.ringEnds (k - 192)).1 else if k % 2 = 0 then (k / 2 + 1) % 96 else (k / 2 + 95) % 96
/-- The links that feed a stop's input port. -/
def State.feeders (s : State) (stop dir : Nat) : List Nat :=
  let up := if dir = 0 then 2 * ((stop + 95) % 96) else 2 * ((stop + 1) % 96) + 1
  let e := s.ringEnds stop
  if dir = 0 ∧ s.divided ∧ e.1 = stop then [up, 192 + e.2] else [up]

/-- The crossing a link runs over: 0 A, 1 B (R332). -/
def crossingOf (k : Nat) : Option Nat :=
  if k = 2 * 47 ∨ k = 2 * 48 + 1 then some 0 else if k = 2 * 95 ∨ k = 1 then some 1 else none
def State.crossing (s : State) (c : Nat) : Crossing := tget {} s.crossings c
def State.modCrossing (s : State) (c : Nat) (f : Crossing → Crossing) : State := { s with crossings := tmod {} s.crossings c f }
/-- Latency of a crossing link (R332). -/
def State.crossLat (s : State) (c : Nat) : Nat := if (s.crossing c).width = 1 then 16 else 14
/-- The crossings the closing link of a ring passes. -/
def State.closes (s : State) (stop : Nat) : List Nat :=
  let e := s.ringEnds stop
  if e.1 ≤ 47 ∧ 48 ≤ e.2 then [0] else []
/-- The crossing a link runs over, of a closing link that passes crossing A too (R192, R332). -/
def State.crossOf (s : State) (k : Nat) : Option Nat :=
  match crossingOf k with
  | some c => some c
  | none => if 192 ≤ k ∧ s.closes (k - 192) ≠ [] then some 0 else none
/-- A link's flits go East over its crossing; its words go the other way. -/
def flitsEast (k : Nat) : Bool := decide (linkStop k < 48)
/-- Cycles a closing link takes from its sender to the crossing, and from there on (R192). -/
def State.closingLegs (s : State) (k : Nat) : Nat × Nat :=
  let e := s.ringEnds (k - 192)
  if 192 ≤ k then (e.2 - 48, 47 - e.1) else (0, 0)
/-- Latency of a link (R192, R332). -/
def State.linkLat (s : State) (k : Nat) : Nat :=
  if 192 ≤ k then
    let e := s.ringEnds (k - 192)
    e.2 - e.1 + ((s.closes (k - 192)).map fun c => s.crossLat c - 1).sum
  else
    match crossingOf k with
    | some c => s.crossLat c
    | none => 1
/-- The link holds a dateline (R187). -/
def dateline (k : Nat) : Bool := k == 2 * 95 || k == 1 || decide (192 ≤ k)

/-- Where a packet leaves and enters the ring of this device: stop 72 stands for another device (R357). -/
def State.ringDest (s : State) (p : Packet) : Nat := if p.ddev = s.cfg.dev then p.dest else 72
def State.ringSrc (s : State) (p : Packet) : Nat := if p.sdev = s.cfg.dev then p.src else 72
/-- The link a packet takes from a stop: clockwise within a short ring, else the direction of fewer hops, clockwise at 48
(R179, R192); a packet to another short ring goes as on the undivided ring (DESIGN CHOICE, log entry 25). -/
def State.outLink (s : State) (stop : Nat) (p : Packet) : Option Nat :=
  let d := s.ringDest p
  let e := s.ringEnds stop
  if d = stop then none
  else if s.divided ∧ s.ringEnds (s.ringSrc p) = s.ringEnds d then some (if e.2 = stop then 192 + stop else 2 * stop)
  else some (2 * stop + if (d + 96 - s.ringSrc p) % 96 ≤ 48 then 0 else 1)

/-- The replay buffers of a lane, 128 flits for each of its two modules, have room (R333). -/
def Lane.room (l : Lane) : Bool := decide (l.replay.length < 256)
/-- At 32 lanes a crossing takes 20 of a kind in any 23 cycles (R336). -/
def Crossing.rateOk (x : Crossing) (now : Nat) (recent : List Nat) : Bool :=
  x.width != 1 || decide ((recent.filter fun t => now < t + 23).length < 20)
/-- The sender may send on a link: not quiesced, no retrain under way, the audit after one applied, room in the replay buffers, the
rate of 32 lanes kept (R190, R333, R336, R338). -/
def State.linkOpen (s : State) (k : Nat) : Bool :=
  !(s.link k).quiesced
    && match s.crossOf k with
      | none => true
      | some c =>
        let x := s.crossing c
        let l := if flitsEast k then x.east else x.west
        x.width != 0 && !x.training && !x.auditsDue.contains k && l.room && x.rateOk s.cycle l.recent

/-- Counts of a sender, and its holds, by channel. -/
def Link.esc (l : Link) (vc : Nat) : Nat := if vc = 0 then l.sE0 else l.sE1
def Link.held (l : Link) (vc : Nat) : Bool := if vc = 0 then l.hold0 else l.hold1
def Link.setHold (l : Link) (vc : Nat) (v : Bool) : Link := if vc = 0 then { l with hold0 := v } else { l with hold1 := v }
def Link.takeEsc (l : Link) (vc : Nat) : Link := if vc = 0 then { l with sE0 := l.sE0 - 1 } else { l with sE1 := l.sE1 - 1 }
/-- A slot of the receiving port becomes free: class 0 shared, 1 VC0, 2 VC1 (R190, R207). -/
def Link.free (l : Link) (now cls n : Nat) : Link :=
  let l1 : Link := match cls with
    | 0 => { l with rSh := l.rSh + n }
    | 1 => { l with rE0 := l.rE0 + n }
    | _ => { l with rE1 := l.rE1 + n }
  { l1 with freed := l1.freed ++ [(now, cls, n)] }
/-- Class of the slot a flit stands in. -/
def Flit.cls (f : Flit) : Nat := if f.esc then f.vc + 1 else 0
/-- A slot of the receiving port is taken: a shared head takes those of its whole packet (R186). -/
def Link.take (l : Link) (f : Flit) : Link :=
  if f.esc then (if f.vc = 0 then { l with rE0 := l.rE0 - 1 } else { l with rE1 := l.rE1 - 1 })
  else if f.idx = 0 then { l with rSh := l.rSh - f.pkt.flits } else l

/-- Slots that flits on their way will take at the receiver, by class; those that have arrived stand there already (R191). -/
def Link.inFlight (l : Link) (now cls : Nat) : Nat :=
  (l.fly.map fun e => if now < e.1 ∧ e.2.cls = cls then (if cls = 0 then (if e.2.idx = 0 then e.2.pkt.flits else 0) else 1) else 0).sum

/-- Two packets of one flow (R182, R356). -/
def flowOf (p : Packet) : Nat := ((p.sdev * 128 + p.src) * 8 + p.ddev) * 128 + p.dest

/-- A candidate for a link: what would be sent, and whether its class allows it (R186, R188). -/
structure Cand where
  key : Nat
  x : Sending
  ok : Bool
  deriving DecidableEq, Repr

/-- The class a head takes on a link: shared, escape or none (R186). -/
def Link.classFor (l : Link) (n vc : Nat) : Option Bool :=
  if n ≤ l.sSh then some false else if !l.held vc && decide (1 ≤ l.esc vc) then some true else none

/-- Heads waiting at a stop: flits of the input ports, and the heads of the queues with their ages, once they are heads (R188); a cross-device
packet needs one of the braid's four reservations (R357). -/
def State.waitingHeads (s : State) (stop dir : Nat) : List Sending :=
  let x := s.braid stop
  let ports := ((s.feeders stop dir).map fun k => (s.link k).port).flatten
  let fromPorts := (ports.filter fun f => f.idx == 0 && s.ringDest f.pkt != stop).map fun f => (⟨f.pkt, 0, false, f.head, 0, f.vc⟩ : Sending)
  let q (l : List Packet) (slot rank : Nat) : List Sending :=
    if tget 0 x.headAt slot ≤ s.cycle then (l.take 1).map fun p => (⟨p, 0, false, tget 0 x.headAt slot, rank, 0⟩ : Sending) else []
  let reserved (e : Sending) : Bool := e.pkt.ddev == s.cfg.dev || e.pkt.typ != 0 || e.pkt.sdev != s.cfg.dev || decide (x.xheld < 4)
  fromPorts ++ q x.ctlQ 1 1 ++ (q x.sendQ 0 2).filter reserved ++ q x.memQ 2 3

/-- Ages first, then rank (R188). -/
def Sending.before (a b : Sending) : Bool := decide (a.age < b.age) || (a.age == b.age && decide (a.rank < b.rank))

/-- The links of an output: the physical one, and the closing link. -/
def State.outKeys (s : State) (stop dir : Nat) : List Nat :=
  if dir = 0 ∧ s.divided ∧ (s.ringEnds stop).2 = stop then [2 * stop, 192 + stop] else [2 * stop + dir]

/-- Everything an output could send in this cycle (R186, R188). -/
def State.cands (s : State) (stop dir : Nat) : List Cand :=
  let keys := s.outKeys stop dir
  let ports := ((s.feeders stop dir).map fun k => (s.link k).port).flatten
  let going := (keys.map fun k => (s.link k).sending.map fun x => (k, x)).flatten
  let mid := going.map fun (k, x) =>
    let l := s.link k
    let here := x.rank != 0 || ports.any fun f => f.pkt == x.pkt && f.idx == x.next
    (⟨k, x, s.linkOpen k && here && (!x.esc || decide (1 ≤ l.esc x.vc))⟩ : Cand)
  let heads := (s.waitingHeads stop dir).filter fun h => h.rank == 0 || !(going.any fun e => e.2.rank == h.rank)
  let fresh := heads.filterMap fun h =>
    match s.outLink stop h.pkt with
    | none => none
    | some k =>
      if !keys.contains k then none
      else
        let vc := if dateline k then 1 else h.vc
        let l := s.link k
        let blocked := l.sending.any (fun x => (flowOf x.pkt) == (flowOf h.pkt))
          || heads.any fun o => (flowOf o.pkt) == (flowOf h.pkt) && o != h && o.before h && s.outLink stop o.pkt == some k
        match l.classFor h.pkt.flits vc with
        | some e => some ⟨k, { h with esc := e, vc }, s.linkOpen k && !blocked⟩
        | none => none
  mid ++ fresh

/-- The oldest eligible candidate. -/
def oldest : List Cand → Option Cand
  | [] => none
  | c :: r =>
    match oldest r with
    | none => if c.ok then some c else none
    | some d => if c.ok && !(d.x.before c.x) then some c else some d

/-- A UCIe flit still takes what another carries: two Hawser flits and two words at most (R334). -/
def Carried.fits (c d : Carried) : Bool := decide (c.slots.length + d.slots.length ≤ 2) && decide (c.words.length + d.words.length ≤ 2)
def Carried.join (c d : Carried) : Carried := { c with slots := c.slots ++ d.slots, words := c.words ++ d.words }
/-- SLOTMASK: which slots and words are there, and bits 15 to 4 (R334). -/
def Carried.slotMask (c : Carried) : Nat := (2 ^ c.slots.length - 1) + 4 * (2 ^ c.words.length - 1) + 16 * c.mask
/-- Put flits and words on a crossing's lane: in the UCIe flit that this cycle has begun while it has room, else in a new one; a replayed
flit takes nothing more (R333, R334, R360). -/
def Lane.put (l : Lane) (arrive : Nat) (c : Carried) : Lane :=
  let new : Lane :=
    { l with sent := l.sent + 1, newAt := some arrive, fly := l.fly ++ [(arrive, l.sent, c)], replay := l.replay ++ [(l.sent, c)] }
  match l.fly.getLast? with
  | some (t, k, d) =>
    if l.newAt = some arrive ∧ t = arrive ∧ k + 1 = l.sent ∧ d.fits c then
      { l with fly := l.fly.dropLast ++ [(t, k, d.join c)], replay := l.replay.map fun e => if e.1 = k then (k, d.join c) else e }
    else new
  | none => new
def Crossing.modLane (x : Crossing) (toEast : Bool) (f : Lane → Lane) : Crossing :=
  if toEast then { x with east := f x.east } else { x with west := f x.west }

/-- What a link brings to its crossing boards a UCIe flit: at once, or after the `leg` cycles to the crossing (R192, R334, R360). -/
def Lane.boardIn (l : Lane) (now lat leg : Nat) (c : Carried) : Lane :=
  if leg = 0 then l.put (now + lat) c else { l with board := l.board ++ [(now + leg, c)] }
/-- Put a flit on a link; over a crossing it travels in a UCIe flit as well, and its arrival there is the one that counts. -/
def State.launchFlit (s : State) (k : Nat) (f : Flit) : State :=
  match s.crossOf k with
  | none => s.modLink k fun l => { l with fly := l.fly ++ [(s.cycle + s.linkLat k, f)] }
  | some c => s.modCrossing c fun x => x.modLane (flitsEast k) fun l =>
      { l.boardIn s.cycle (s.crossLat c) (s.closingLegs k).1 { slots := [(k, f)] } with recent := s.cycle :: l.recent.take 22 }

/-- A queue's head has gone: the next one becomes head in the next cycle. -/
def Braid.popQueue (x : Braid) (rank now : Nat) : Braid :=
  match rank with
  | 1 => { x with ctlQ := x.ctlQ.drop 1, headAt := tput x.headAt 1 (now + 1) }
  | 2 => { x with sendQ := x.sendQ.drop 1, sendOf := x.sendOf.drop 1, headAt := tput x.headAt 0 (now + 1),
                  jobsOpen := match x.sendOf with
                    | j :: _ => stmGone j x.jobsOpen
                    | [] => x.jobsOpen }
  | 3 => { x with memQ := x.memQ.drop 1, headAt := tput x.headAt 2 (now + 1) }
  | _ => x

/-- At stop 72 the head of the send queue for another device goes to X1 without the ring, once it holds a reservation (R357). -/
def State.portHead (s : State) (stop dir : Nat) : State :=
  let x := s.braid stop
  match x.sendQ with
  | [] => s
  | p :: _ =>
    if stop = 72 ∧ dir = 0 ∧ p.ddev ≠ s.cfg.dev ∧ x.xheld < 4 then
      (s.toPort 1 p 0).modBraid stop fun y => { y.popQueue 2 s.cycle with xheld := y.xheld + 1 }
    else s

/-- The head of the control queue that is for the stop itself leaves it without an output and is delivered in the next cycle (R188; model's
choice: log entry 39). -/
def State.ownHead (s : State) (stop dir : Nat) : State :=
  let x := s.braid stop
  match x.ctlQ with
  | [] => s
  | p :: _ =>
    if dir = 0 ∧ p.dest = stop ∧ p.ddev = s.cfg.dev ∧ tget 0 x.headAt 1 ≤ s.cycle then
      (s.modBraid stop fun y => y.popQueue 1 s.cycle).later (s.cycle + 1) (packetEvent p)
    else s

/-- An extension port: 0 X0, 1 X1. -/
def State.port (s : State) (n : Nat) : Port := tget {} s.ports n
def State.modPort (s : State) (n : Nat) (f : Port → Port) : State := { s with ports := tmod {} s.ports n f }
def State.modHop (s : State) (n : Nat) (f : Link → Link) : State := s.modPort n fun x => { x with link := f x.link }
/-- Latency of a port hop (R355). -/
def portLat : Nat := 260
/-- A frame leaves on a port, X0 or X1, under its next number, and is kept for replay (R333, R337, R355). -/
def State.sendFrame (s : State) (port : Nat) (flit : Option (Packet × Nat × Nat)) (esc : Bool) (words : List RetWord) : State :=
  let frame : PortFrame := { seq := (s.crossing (3 + port)).east.sent % 65536, flit, maskOk := true, crcOk := true, words, esc }
  let s1 := s.modCrossing (3 + port) fun c => { c with east := { c.east with sent := c.east.sent + 1 } }
  let s2 := s1.modPort port fun x => { x with replay := (x.replay ++ [frame]).drop (x.replay.length - 127) }
  { s2 with hostOut := s2.hostOut ++ [.portFrame port frame] }
/-- The next flit of port X1's first packet leaves in a frame, in the class its head chose (R186, R355); it changes to VC1 on the link
from device N − 1 to device 0 (R357). -/
def State.portSend (s : State) : State :=
  let x := s.port 1
  let c := s.crossing 4
  let l := x.link
  match x.outQ with
  | [] => s
  | (p, vc) :: rest =>
    let vc1 := if s.cfg.dev + 1 = s.cfg.chainN then 1 else vc
    let head := x.sent == 0
    let cls := if head then l.classFor p.flits vc1 else if x.esc then (if 1 ≤ l.esc vc1 then some true else none) else some false
    match cls with
    | none => s
    | some e =>
      if x.broken || c.training || !c.auditsDue.isEmpty || l.quiesced then s
      else
        let last := x.sent + 1 == p.flits
        let f : Flit := ⟨p, x.sent, e, vc1, true, 0⟩
        let l1 := if e then (l.takeEsc vc1).setHold vc1 (!last) else if head then { l with sSh := l.sSh - p.flits } else l
        let y : Port := { x with
          outQ := if last then rest else x.outQ, sent := if last then 0 else x.sent + 1, esc := e,
          link := { l1 with fly := (l1.fly.filter fun g => decide (s.cycle < g.1 + portLat)) ++ [(s.cycle + portLat, f)] } }
        (s.modPort 1 fun _ => y).sendFrame 1 (some (p, x.sent, vc1)) e []

/-- FLIT_SEND: an output (the agent's stop and direction; direction 2 of stop 72 is port X1) sends its oldest eligible flit
(R186 to R188, R207, R355). -/
def execFlitSend (s0 : State) : Res :=
  let (stop, dir, _) := s0.agent
  let s := (s0.portHead stop dir).ownHead stop dir
  if dir = 2 then .next s.portSend else
  match oldest (s.cands stop dir) with
  | none => .next s
  | some c =>
    let k := c.key
    let head := c.x.next == 0
    let fromQueue := c.x.rank != 0
    let seq := if head && fromQueue then tget 0 s.seqs (flowOf c.x.pkt) else c.x.pkt.seq
    let p : Packet := { c.x.pkt with seq }
    let tail := c.x.next + 1 == p.flits
    let s1 := if head && fromQueue then { s with seqs := tput s.seqs (flowOf p) ((seq + 1) % 4096) } else s
    let s2 := s1.launchFlit k ⟨p, c.x.next, c.x.esc, c.x.vc, true, 0⟩
    let s3 := s2.modLink k fun l =>
      let l1 := if c.x.esc then l.takeEsc c.x.vc else if head then { l with sSh := l.sSh - p.flits } else l
      let l2 := if c.x.esc then l1.setHold c.x.vc (!tail) else l1
      let rest := l2.sending.filter fun x => x.pkt != c.x.pkt
      { l2 with sending := if tail then rest else rest ++ [{ c.x with pkt := p, next := c.x.next + 1 }] }
    let drop (s : State) (f : Nat) : State := s.modLink f fun l =>
      match l.port.find? fun x => x.pkt == c.x.pkt && x.idx == c.x.next with
      | none => l
      | some x => { (l.free s.cycle x.cls 1) with port := l.port.filter (· != x) }
    let s4 := if fromQueue then s3 else (s3.feeders stop dir).foldl drop s3
    let s5 := if head && c.x.rank == 2 && p.ddev != s.cfg.dev then s4.modBraid stop fun x => { x with xheld := x.xheld + 1 } else s4
    .next (if tail && fromQueue then s5.modBraid stop fun x => x.popQueue c.x.rank s.cycle else s5)

/-- Error banks of a stop's die: 22 the Hawser (R323). -/
def State.ringError (s : State) (stop typ : Nat) : State := s.noteErr (Braid.isEast stop) 22 true false (stop % 48) typ stop

/-- What is left on a link of a packet that was cut short behind it: its flits and the slots it holds go, its channel is free
(R182; model's choice: log entry 43). -/
def Link.purge (l : Link) (now : Nat) (p : Packet) : Link :=
  match l.sending.find? fun x => x.pkt == p with
  | none => l
  | some x =>
    let away := l.fly.filter fun e => e.2.pkt == p
    let there := (l.port.filter fun f => f.pkt == p).length
    let l1 := away.foldl (fun (l : Link) e => l.take e.2) { l with
      fly := l.fly.filter fun e => e.2.pkt != p, port := l.port.filter fun f => f.pkt != p,
      reasm0 := l.reasm0.filter fun f => f.pkt != p, reasm1 := l.reasm1.filter fun f => f.pkt != p,
      sending := l.sending.filter fun y => y.pkt != p }
    if x.esc then (l1.free now (x.vc + 1) (away.length + there)).setHold x.vc false
    else l1.free now 0 (p.flits - (x.next - away.length - there))
/-- A flit and what it leaves in the port: discarded, its slot returned; with the tail of its packet what of the packet still stands
in the port goes too, and what of it has gone on (R182). -/
def Link.discard (l : Link) (now : Nat) (f : Flit) (first : Bool) : Link :=
  let l1 := l.free now f.cls 1
  if f.idx + 1 == f.pkt.flits then
    let gone := l1.port.filter fun x => x.pkt == f.pkt
    let l2 := gone.foldl (fun (l : Link) (x : Flit) => l.free now x.cls 1) l1
    { l2 with
      port := l2.port.filter fun x => x.pkt != f.pkt, reasm0 := l2.reasm0.filter fun x => x.pkt != f.pkt,
      reasm1 := l2.reasm1.filter fun x => x.pkt != f.pkt, dropping := l2.dropping.filter (· != f.pkt) }
  else if first then { l1 with dropping := f.pkt :: l1.dropping } else l1
/-- The reassembly buffer of a channel. -/
def Link.reasm (l : Link) (vc : Nat) : List Flit := if vc = 0 then l.reasm0 else l.reasm1
def Link.setReasm (l : Link) (vc : Nat) (b : List Flit) : Link := if vc = 0 then { l with reasm0 := b } else { l with reasm1 := b }
/-- A flit of an escape packet at its destination moves into its channel's buffer and frees its slot; while another packet stands in
the buffer, which holds 16 flits, it waits in its slot (R182, R185, R189; the wait is DEDUCED, log entry 93). -/
def Link.toBuffer (l : Link) (now : Nat) (f : Flit) : Link :=
  if (l.reasm f.vc).all fun g => g.pkt == f.pkt then
    let l1 := (l.free now (f.vc + 1) 1).setReasm f.vc (l.reasm f.vc ++ [f])
    if f.idx + 1 == f.pkt.flits then { l1 with complete := l1.complete ++ [⟨f.pkt, now, some f.vc⟩] } else l1
  else { l with port := l.port ++ [f] }
/-- A flit comes into the receiving port of a link (R182, R185, R189): a bad header drops it and the rest of its packet. -/
def State.flitIn (s : State) (k : Nat) (f : Flit) (ok : Bool) : State :=
  let stop := s.linkTo k
  let l := (s.link k).take f
  let tail := f.idx + 1 == f.pkt.flits
  if !headerOk (f.received (linkDir k) ok) || l.dropping.contains f.pkt then
    let first := !l.dropping.contains f.pkt
    let s1 := s.modLink k fun _ => l.discard s.cycle f first
    let s2 : State := if tail then { s1 with links := s1.links.map fun e => (e.1, e.2.purge s.cycle f.pkt) } else s1
    if first then s2.ringError stop 1 else s2
  else if s.ringDest f.pkt = stop then
    s.modLink k fun _ =>
      if f.esc then l.toBuffer s.cycle f
      else
        let l1 : Link := { l with port := l.port ++ [f] }
        if tail then { l1 with complete := l1.complete ++ [⟨f.pkt, s.cycle, none⟩] } else l1
  else s.modLink k fun _ => { l with port := l.port ++ [{ f with head := s.cycle }] }

/-- FLIT: the flit at the head of the link into that input port arrives (R181, R182). -/
def execFlit (stop : Nat) (ccw ok : Bool) (s : State) : Res :=
  let dir := if ccw then 1 else 0
  match (s.feeders stop dir).find? fun k => (s.link k).fly.any fun e => e.1 ≤ s.cycle with
  | none => .next s
  | some k =>
    match (s.link k).fly.find? fun e => e.1 ≤ s.cycle with
    | none => .next s
    | some e => .next ((s.modLink k fun l => { l with fly := l.fly.erase e }).flitIn k e.2 ok)

/-- The packet an input port delivers next: complete in an earlier cycle, its tail first; MAIL and HEAP need room for their
DONE (R189). -/
def State.deliverable (s : State) (stop dir : Nat) : Option (Nat × Complete) :=
  let all := ((s.feeders stop dir).map fun k => (s.link k).complete.map fun c => (k, c)).flatten
  let ready := all.filter fun e : Nat × Complete => decide (e.2.tail < s.cycle)
  let first := ready.foldl (fun (b : Option (Nat × Complete)) e => match b with
    | none => some e
    | some f => if e.2.tail < f.2.tail then some e else some f) none
  match first with
  | none => none
  | some e =>
    let wants := (e.2.pkt.typ == 0 || e.2.pkt.typ == 4) && e.2.pkt.ddev == s.cfg.dev
    if wants && !s.ctlRoom stop then none else some e

/-- PACKET_DELIVERY: the input port named by the agent (stop and direction) delivers a packet (R189): its slots are free, its
number is checked (R182), and its type's event follows; a packet for another device goes to X1 (R357). -/
def execPacketDelivery (s : State) : Res :=
  let (stop, dir, _) := s.agent
  match s.deliverable stop dir with
  | none => .next s
  | some (k, c) =>
    let p := c.pkt
    let s1 := s.modLink k fun l =>
      let l1 : Link := { l with complete := l.complete.filter (· != c), port := l.port.filter fun f => f.pkt != p,
                                reasm0 := l.reasm0.filter fun f => f.pkt != p, reasm1 := l.reasm1.filter fun f => f.pkt != p }
      match c.buf with
      | none => l1.free s.cycle 0 p.flits
      | some vc =>
        let wait := l1.port.filter fun f => f.esc && f.vc == vc && s.ringDest f.pkt == stop
        wait.foldl (fun (l : Link) f => l.toBuffer s.cycle f) { l1 with port := l1.port.filter fun f => !wait.contains f }
    let s2 := if tget 0 s1.seen (flowOf p) = p.seq then s1 else s1.ringError stop 2
    let s3 : State := { s2 with seen := tput s2.seen (flowOf p) ((p.seq + 1) % 4096) }
    if p.ddev = s.cfg.dev then .next (s3.next [packetEvent p])
    else .next (s3.toPort 1 p 0)

/-- Put a return word or audit on a link's return lane; over a crossing it travels in a UCIe flit (R334). -/
def State.launchWord (s : State) (k : Nat) (w : RetWord) : State :=
  match s.crossOf k with
  | none => s.modLink k fun l => { l with words := l.words ++ [(s.cycle + s.linkLat k, w)] }
  | some c => s.modCrossing c fun x => x.modLane (!flitsEast k) fun l =>
      { l.boardIn s.cycle (s.crossLat c) (s.closingLegs k).2 { words := [(k, w)] } with recentW := s.cycle :: l.recentW.take 22 }
/-- X0 sends a word to the previous device's X1 in a frame (R355). -/
def State.hopWord (s : State) (w : RetWord) : State :=
  (s.modHop 0 fun l => { l with words := (l.words.filter fun e => decide (s.cycle < e.1)) ++ [(s.cycle + portLat, w)] }).sendFrame 0 none false [w]
/-- Port X0 carries words now. -/
def State.hopOpen (s : State) : Bool := !s.ports.isEmpty && !(s.crossing 3).training && !(s.port 0).broken

/-- Slots of a class freed before this cycle and not yet reported. -/
def Link.unreported (l : Link) (now cls : Nat) : Nat := (l.freed.map fun e => if e.1 < now ∧ e.2.1 = cls then e.2.2 else 0).sum

/-- The return lane of a link takes a word now: its crossing carries words, and within the rate of 32 lanes (R336, R338). -/
def State.laneOpen (s : State) (k : Nat) : Bool :=
  match s.crossOf k with
  | some c =>
    let x := s.crossing c
    let l := if flitsEast k then x.west else x.east
    !x.training && x.width != 0 && l.room && x.rateOk s.cycle l.recentW
  | none => true
/-- The return word of a port in this cycle (R190, R335). -/
def Link.returns (l : Link) (now : Nat) : RetWord := ⟨false, l.unreported now 0, l.unreported now 1, l.unreported now 2⟩
/-- What a port has reported is no longer to be reported. -/
def Link.reported (l : Link) (now : Nat) : Link := { l with freed := l.freed.filter fun f => !decide (f.1 < now) }
def wordZero (w : RetWord) : Bool := w.sh + w.e0 + w.e1 == 0
/-- Every port with slots to report sends its return word, except in an audit cycle (R190, R191, R335); a word without slots
changes nothing and is left out (log entry 41). A crossing that retrains sends none. -/
def State.sendWords (s : State) : State :=
  if s.cycle % 4096 = 0 then s
  else
    let s1 := s.links.foldl (fun st e =>
      let w := e.2.returns s.cycle
      if !st.laneOpen e.1 || wordZero w then st else (st.modLink e.1 fun l => l.reported s.cycle).launchWord e.1 w) s
    let w := (s1.port 0).link.returns s.cycle
    if !s1.hopOpen || wordZero w then s1 else (s1.modHop 0 fun l => l.reported s.cycle).hopWord w
/-- What comes over a closing link to a crossing boards it (R192, R360). -/
def State.boardLanes (s : State) : State :=
  { s with crossings := s.crossings.map fun e =>
      let lat := if e.2.width = 1 then 16 else 14
      let go (l : Lane) : Lane :=
        let due := l.board.filter fun b => decide (b.1 ≤ s.cycle)
        if due.isEmpty || e.2.training || e.2.width == 0 then l
        else due.foldl (fun (l : Lane) b => l.put (s.cycle + lat) b.2) { l with board := l.board.filter fun b => !decide (b.1 ≤ s.cycle) }
      (e.1, { e.2 with east := go e.2.east, west := go e.2.west }) }

/-- The free counts an audit reports: the port's free slots, less those whose returns it sent in the λ − 1 cycles before and which are
under way, and less those whose return it has yet to send, which the word of the next cycle reports (R191; DEDUCED, log entry 27). -/
def Link.auditWord (l : Link) (now : Nat) : RetWord :=
  let out (f : RetWord → Nat) (cls : Nat) : Nat :=
    (l.words.map fun e => if e.2.aud || decide (e.1 ≤ now) then 0 else f e.2).sum + (l.freed.map fun e => if e.2.1 = cls then e.2.2 else 0).sum
  ⟨true, l.rSh - out RetWord.sh 0, l.rE0 - out RetWord.e0 1, l.rE1 - out RetWord.e1 2⟩
/-- The sums its sender compares them with (R191). -/
def Link.auditSums (l : Link) (now : Nat) : Nat × Nat × Nat :=
  (l.sSh + l.inFlight now 0, l.sE0 + l.inFlight now 1, l.sE1 + l.inFlight now 2)
/-- A link with what its crossing carries for it and has not yet delivered: flits in its direction, words the other way (R337). -/
def State.withCrossing (s : State) (k : Nat) : Link :=
  let l := s.link k
  match s.crossOf k with
  | none => l
  | some c =>
    let x := s.crossing c
    let there := if flitsEast k then x.east else x.west
    let back := if flitsEast k then x.west else x.east
    let all (l : Lane) : List Carried := l.replay.map (fun e => e.2) ++ l.board.map fun e => e.2
    let flits := ((all there).map fun c => c.slots).flatten.filter fun f => f.1 == k
    let words := ((all back).map fun c => c.words).flatten.filter fun w => w.1 == k
    { l with fly := l.fly ++ flits.map fun f => (s.cycle + 1, f.2), words := l.words ++ words.map fun w => (s.cycle + 1, w.2) }
/-- A port sends its audit (R191, R338). -/
def State.sendAudit (s : State) (k : Nat) : State :=
  let l := s.withCrossing k
  let sums := l.auditSums s.cycle
  (s.modLink k fun m => { m with audits := m.audits ++ [(sums.1, sums.2.1, sums.2.2, true)] }).launchWord k (l.auditWord s.cycle)
/-- A port sends an audit in an audit cycle, but for one whose crossing retrains (R191, R360). -/
def State.auditsNow (s : State) (k : Nat) : Bool :=
  match s.crossOf k with
  | some c => !(s.crossing c).training && (s.crossing c).width != 0
  | none => true
/-- X0 sends its audit (R355). -/
def State.hopAudit (s : State) : State := s.hopWord ((s.port 0).link.auditWord s.cycle)

/-- AUDIT_TICK: in each cycle that is a multiple of 4,096 every port sends an audit flit in place of its return word (R191): the cycle's
last act, when what has arrived in it stands in its port or its sender's counts, or has been discarded. Links that stand as at reset
audit to no change and are left out. -/
def execAuditTick (s : State) : Res :=
  if s.cycle % 4096 ≠ 0 then .next s
  else
    let s1 := s.links.foldl (fun st e => if st.auditsNow e.1 then st.sendAudit e.1 else st) s
    .next (if s1.hopOpen then s1.hopAudit else s1)

/-- The link whose return lane brings a word to the sender that feeds an input port. -/
def State.wordLink (s : State) (stop : Nat) (ccw aud : Bool) : Option (Nat × Nat × RetWord) :=
  let dir := if ccw then 1 else 0
  (s.feeders stop dir).findSome? fun k =>
    ((s.link k).words.find? fun e => decide (e.1 ≤ s.cycle) && e.2.aud == aud).map fun e => (k, e.1, e.2)

/-- A return word at its sender: its counts are added at the end of the cycle, or, of bad parity, it is discarded and the link quiesced
(R190, R207). -/
def Link.counted (l : Link) (w : RetWord) (ok : Bool) : Link :=
  if wordOk (wordReceived w ok) then { l with sSh := l.sSh + w.sh, sE0 := l.sE0 + w.e0, sE1 := l.sE1 + w.e1 } else { l with quiesced := true }
/-- RETURN_WORD: the word reaching the sender of that port's link (R190). Where no word is listed it is the word of zeros that the port
sends in such a cycle (log entry 41). -/
def execReturnWord (stop : Nat) (ccw ok : Bool) (s : State) : Res :=
  match s.wordLink stop ccw false with
  | none => .next (if ok then s else (s.feeders stop (if ccw then 1 else 0)).foldl (fun st k => st.modLink k fun l => { l with quiesced := true }) s)
  | some (k, at_, w) => .next (s.modLink k fun l => ({ l with words := l.words.erase (at_, w) } : Link).counted w ok)

/-- A count corrected by an audit: present count plus what the audit has more than the sum (R191). -/
def corrected (now report sum : Nat) : Nat := now + report - sum

/-- The links a packet takes from a stop (R179, R192). -/
def State.route (s : State) (p : Packet) : Nat → Nat → List Nat
  | 0, _ => []
  | n + 1, stop =>
    match s.outLink stop p with
    | none => []
    | some k => k :: s.route p n (s.linkTo k)
/-- A packet's route passes a crossing. -/
def State.routeCrosses (s : State) (p : Packet) (c : Nat) : Bool :=
  (s.route p 96 p.src).any fun k => crossingOf k == some c || (decide (192 ≤ k) && (s.closes (k - 192)).contains c)

/-- An AMO request sent and not yet answered, whose route or answer's route passes a crossing (R361). -/
def State.resend (s : State) (c b : Nat) (x : Ctx) : State :=
  match x.amo, x.amoOld with
  | some q, none =>
    let pa := match q.body with
      | .amo pa _ _ _ _ _ _ _ _ => pa
      | _ => 0
    if !(s.braid b).memQ.contains q && farAmo pa b && (s.routeCrosses q c || s.routeCrosses { q with src := q.dest, dest := q.src } c) then
      s.sendMem 11 q.src q.dest q.arg 1 q.body
    else s
  | _, _ => s
/-- Far AMOs are sent again when the retrain count of a crossing on their route changes (R361). -/
def State.resendAmos (s : State) (c : Nat) : State :=
  s.braids.foldl (fun st e =>
    [e.2.b0, e.2.b1].foldl (fun st k => [k.l, k.x, k.s, k.t].foldl (fun (st : State) x => st.resend c e.1 x) st) st) s

/-- The last sender of a crossing has applied its audit: the retrain counts as completed (R338, R361). -/
def State.auditApplied (s : State) (c k : Nat) : State :=
  let due := (s.crossing c).auditsDue.filter (· != k)
  let s1 := s.modCrossing c fun x => { x with auditsDue := due, retrains := if due.isEmpty then x.retrains + 1 else x.retrains }
  if due.isEmpty then s1.resendAmos c else s1

/-- Counts, of the three, in which an audit and its sums disagree (R191). -/
def disagree (w : RetWord) (sh e0 e1 : Nat) : Nat := bit (sh != w.sh) + bit (e0 != w.e0) + bit (e1 != w.e1)
/-- An audit at its sender: each count that disagrees is corrected and counted, the sums of audits still under way with it, and a quiescence
ends; one of bad parity is discarded and quiesces the link (R190, R191). -/
def Link.audited (l : Link) (w : RetWord) (ok : Bool) : Link :=
  let l1 : Link := { l with audits := l.audits.drop 1 }
  if !wordOk (wordReceived w ok) then { l1 with quiesced := true }
  else
    match l.audits with
    | [] => { l1 with quiesced := false }
    | (sh, e0, e1, _) :: rest =>
      { l1 with
        sSh := corrected l1.sSh w.sh sh, sE0 := corrected l1.sE0 w.e0 e0, sE1 := corrected l1.sE1 w.e1 e1,
        audits := rest.map fun a => (corrected a.1 w.sh sh, corrected a.2.1 w.e0 e0, corrected a.2.2.1 w.e1 e1, a.2.2.2),
        quiesced := false, auditCor := l1.auditCor + disagree w sh e0 e1 }
/-- The audit a link's sender takes next was sent since its crossing last trained (R338). -/
def Link.auditFresh (l : Link) : Bool := match l.audits with
  | a :: _ => a.2.2.2
  | [] => false
/-- AUDIT_FLIT: the audit reaching the sender (R191); with the first one sent since a retrain the retrain is over for it (R338, R361). -/
def execAuditFlit (stop : Nat) (ccw ok : Bool) (s : State) : Res :=
  match s.wordLink stop ccw true with
  | none => .next s
  | some (k, at_, w) =>
    let s1 := s.modLink k fun l => ({ l with words := l.words.erase (at_, w) } : Link).audited w ok
    match s.crossOf k with
    | some c => .next (if ok && (s.link k).auditFresh && (s.crossing c).auditsDue.contains k then s1.auditApplied c k else s1)
    | none => .next s1

end Sys2Proof.Machine
end

