-- ==== Sys2Proof/Machine/Packets.lean ====
section
/-! DEFINITION. What delivered packets do: mail, DONE, barriers, lines, AMOs, commit preparation (08: R183, R189, R194, R195; 10: R213, R228 to R231;
15: R328; 17: R342, R343, R347, R357 to R361). -/

namespace Sys2Proof.Machine

/-- The windows a MAIL packet writes (R179), checked against the writer map of the bank that runs or ran last, which stays until the next
launch loads one there; its stops are those of the interface it was loaded for (R213). A packet of another device is also refused by a
task whose interface has no chain (R358). -/
def State.mailRefused (s : State) (p : Packet) : Bool :=
  let b := p.dest
  let k := s.bank b (s.braid b).runBank
  let bad (w : Nat) : Bool :=
    let m := (tget 0 k.writerMap w).toNat
    bitAt m 7 && (p.sdev != s.cfg.dev || s.physOf k.mapVi (m % 128) != p.src)
  (p.sdev != s.cfg.dev && k.task.any fun t => !(s.ifaceD t.vi).chain) || (upto p.arg 6).any bad

/-- The stop takes no part: fenced, or held by a trap-state fault (R314, R327). -/
def Braid.outOfService (x : Braid) : Bool := x.fencedOff || x.held

/-- The 112 payload bytes of flit `i` of a MAIL packet: words 28i to 28i + 27; those of flit 6 end in 16 zero bytes (R184). -/
def mailPayload (words : List Word32) (i : Nat) : List Byte := ((upto (28 * i) 28).map fun j => natLe 4 (wordAt words j).toNat).flatten
/-- The 768 bytes that the seven flits of a MAIL packet bring (R184). -/
def mailBytes (words : List Word32) : List Byte := (((upto 0 7).map (mailPayload (words.take 192))).flatten).take 768
/-- A beat's 192 words go into the mailbox from window `w` on, and are full (R179, R216). -/
def Braid.mailIn (x : Braid) (w : Nat) (words : List Word32) : Braid :=
  let y := x.sramPuts (Config.mailBase + 128 * w) (mailBytes words)
  { y with full := (upto (32 * w) 192).foldl (fun m i => tset false m i true) y.full }

/-- MAIL (R179, R189, R213, R328, R358). -/
def execMail (p : Packet) (s : State) : Res :=
  let b := p.dest
  let local_ := p.src == b && p.sdev == s.cfg.dev
  let (words, back) : List Word32 × Body := match p.body with
    | .mail w bank sq => (w, .ack bank sq)
    | _ => ([], .empty)
  let done (arg : Nat) (x : State) : State :=
    if local_ then x else x.sendCtl b ⟨1, b, p.src, 0, arg, 1, s.cfg.dev, p.sdev, back⟩
  if (s.braid b).outOfService then .next (done 3 s)
  else if !local_ && s.mailRefused p then .next (done 1 s)
  else .next (done 0 (s.modBraid b fun x => x.mailIn p.arg words))

/-- The bank whose task a refusal is for: the task that sent the mail, none once that has ended (DESIGN CHOICE, log entry 120); where the
packet does not say, as one of another device may not, the running bank's. -/
def State.refusedBank (s : State) (p : Packet) : Option Nat :=
  match p.body with
  | .ack bank sq => if (s.bank p.dest bank).task.any fun t => t.sq == sq then some bank else none
  | _ => some (s.braid p.dest).runBank
/-- DONE: OUT counts one less; a refusal is the sending task's fault (R194, R213, R328, R357). -/
def execDone (p : Packet) (s : State) : Res :=
  let b := p.dest
  let x := s.braid b
  let s0 := if p.sdev = s.cfg.dev then s else s.modBraid b fun y => { y with xheld := y.xheld - 1 }
  if x.outOfService then .next s0
  else
    let s1 := s0.modBraid b fun y => { y with out := y.out - 1 }
    match if bitAt p.arg 0 then s1.refusedBank p else none with
    | some i => .next (s1.fault b i { code := if bitAt p.arg 1 then 27 else 8, src := 5, ctx := .X, epc := (x.bank i).x.pc })
    | none => .next s1

/-- Level and generation of a BARA or BARR (R183). -/
def barLevel (p : Packet) : Nat := bits p.arg 11 2
def barGen (p : Packet) : Nat := p.arg % 2 ^ 11
/-- A bank stands at an arrival of that level and generation whose event has not completed. -/
def Bank.standsAt (k : Bank) (level gen : Nat) : Bool :=
  match k.arrive with
  | some a => a.level == level && a.gen == gen && !a.released
  | none => false
/-- The running bank, then the other. -/
def Braid.banksInOrder (x : Braid) : List Nat := [x.runBank, 1 - x.runBank]

/-- The launch a BARA counts for: that of the source's task that stands at the barrier and has its root at the packet's stop. -/
def State.baraLaunch (s : State) (p : Packet) : Option Nat :=
  (s.braid p.src).banksInOrder.findSome? fun i =>
    match (s.bank p.src i).task with
    | none => none
    | some t =>
      if (s.bank p.src i).standsAt (barLevel p) (barGen p) && (s.members p.src i (barLevel p)).headD p.src == p.dest then some t.launch else none

/-- BARA: the root's braid notes the arrival, whether or not a task of the launch stands in a bank of it (R193, R195). -/
def execBara (p : Packet) (s : State) : Res :=
  if (s.braid p.dest).outOfService then .next s
  else
    match s.baraLaunch p with
    | none => .next s
    | some u => .next (s.modBraid p.dest fun x => { x with baras := x.baras ++ [(u, barLevel p, barGen p, p.src)] })

/-- BARR: the waiting member retires in the next cycle (R195). -/
def execBarr (p : Packet) (s : State) : Res :=
  if (s.braid p.dest).outOfService then .next s
  else
    let hit := (s.braid p.dest).banksInOrder.find? fun i =>
      (s.bank p.dest i).standsAt (barLevel p) (barGen p) && (s.members p.dest i (barLevel p)).headD p.dest == p.src
    match hit with
    | none => .next s
    | some i => .next (s.modBank p.dest i fun k => { k with arrive := k.arrive.map fun a => { a with released := true } })

/-- RESERVED_PACKET: discarded and recorded (R183). -/
def execReservedPacket (p : Packet) (s : State) : Res := .next (s.ringError p.dest 3)

/-- RDREQ at the home slice: the line goes back; a host line not held is asked of the host first (R342, R347, R359). In inserted idle
cycles it waits (R368). -/
def execRdreq (p : Packet) (s : State) : Res :=
  match p.body with
  | .lineReq pa vi bank c na =>
    let line := pa / 64
    if s.cycle < s.boot.gapTill (Braid.isEast p.dest) then .next (s.later (s.boot.gapTill (Braid.isEast p.dest)) (packetEvent p))
    else if isHost pa && !s.mem.holds line then
      let s1 := if na then s.askHostNa line else s.askHost line false
      .next { s1 with mem := { s1.mem with hostWait := s1.mem.hostWait ++ [⟨64 * line, p⟩] } }
    else
      .next ((s.readLine vi line na).sendMem 9 p.dest p.src p.arg 1
        (.line (64 * line) bank c (s.homeBytes vi (64 * line) 64) (s.linePoison line)))
  | _ => .next s

/-- RDRSP: the line stands ready for the context that asked; one asked for by an access that is over or began anew is dropped (R238, R342). -/
def execRdrsp (p : Packet) (s : State) : Res :=
  match p.body with
  | .line pa bank c data poison =>
    let x := (s.bank p.dest bank).ctx c
    if x.stale.contains (pa / 64) then
      .next (s.modBank p.dest bank fun k => k.setCtx c { x with stale := x.stale.erase (pa / 64) })
    else if x.missing.contains (pa / 64) then
      .next (s.modBank p.dest bank fun k => k.setCtx c
        { x with fills := tput x.fills (pa / 64) ⟨data, poison⟩, missing := x.missing.filter (· ≠ pa / 64) })
    else .next s
  | _ => .next s

/-- PREP: writes of an event stand prepared at their home, which reports so (R340, R342). -/
def execPrep (p : Packet) (s : State) : Res :=
  match p.body with
  | .prep e _ => .next (s.sendMem 15 p.dest p.src p.arg 1 (.prepared e))
  | _ => .next s
/-- REDENT: a reduction entry stands prepared at its home (R340, R342). -/
def execRedent (p : Packet) (s : State) : Res :=
  match p.body with
  | .red e _ _ _ => .next (s.sendMem 15 p.dest p.src p.arg 1 (.prepared e))
  | _ => .next s

/-- The pairs a slice keeps for a far braid (R343, R359). -/
def pairKey (slice b : Nat) : Nat := 128 * slice + b
/-- AMOREQ: applied at the home once, answered with the old value (R243, R343); of LPDDR6, not in inserted idle cycles (R368). -/
def execAmoreq (p : Packet) (s : State) : Res :=
  match p.body with
  | .amo pa op wide z x e vi bank c =>
    let n := if wide then 8 else 4
    let key := pairKey p.dest p.src
    let pairs := tget [] s.mem.amoPairs key
    let answer (t : State) (old : Word64) : State := t.sendMem 12 p.dest p.src p.arg 1 (.amoOld old bank c)
    if s.cycle < s.boot.gapTill (Braid.isEast p.dest) && isLpddr pa then .next (s.later (s.boot.gapTill (Braid.isEast p.dest)) (packetEvent p))
    else match if farAmo pa p.src then pairs.find? (fun q : Nat × Word64 => q.1 == p.arg) else none with
    | some q => .next (answer s q.2)
    | none =>
      let old := s.homeNat vi pa n
      let s1 := s.homePuts vi (atAddr pa (natLe n (amoNew op n z old x.toNat e.toNat)))
      let s2 := if farAmo pa p.src then
          { s1 with mem := { s1.mem with amoPairs := tput s1.mem.amoPairs key (((p.arg, BitVec.ofNat 64 old) :: pairs).take 16) } }
        else s1
      .next (answer s2 (BitVec.ofNat 64 old))
  | _ => .next s

/-- AMORSP: the old value for the AMO that awaits its tag from that slice; any other is discarded (R361). -/
def execAmorsp (p : Packet) (s : State) : Res :=
  match p.body with
  | .amoOld old bank c =>
    let x := (s.bank p.dest bank).ctx c
    if x.amoOld.isNone && (match x.amo with
        | some q => q.arg == p.arg && q.dest == p.src
        | none => false) then
      .next (s.modBank p.dest bank fun k => k.setCtx c { x with amoOld := some old })
    else .next s
  | _ => .next s

/-- A slice reads the lines a piece asks for (R228, R342). -/
def State.readLines (s : State) (vi : Nat) (l : List Nat) : State × List (Nat × List Byte × Bool) :=
  (l.foldl (fun (st : State) ln => st.readLine vi ln false) s, l.map fun ln => (ln, s.homeBytes vi (64 * ln) 64, s.linePoison ln))
/-- The answer to a channel's request of a tag has come: it counts for the piece that asked, or for the last piece of a removed command;
any other is dropped (R260, R342). -/
def Chan.answered (h : Chan) (ask : Nat) (got : List (Nat × List Byte × Bool)) : Chan :=
  let add (m : Tab Fill) : Tab Fill := got.foldl (fun m e => tput m e.1 (⟨e.2.1, e.2.2⟩ : Fill)) m
  { h with
    awaits := if h.asked && h.ask == ask then h.awaits - 1 else h.awaits,
    lines := if h.asked && h.ask == ask then add h.lines else h.lines,
    lasts := h.lasts.map fun p => if p.ask = ask then { p with awaits := p.awaits - 1, lines := add p.lines } else p }
/-- ENGINE: a slice answers a request with its lines, which of host memory have to come first, and locks those of a tile load; what the
Reeve brings to its home it only reports; an answer counts for its command (R249, R342, R347). In inserted idle cycles no line is read (R368). -/
def execEngine (p : Packet) (s : State) : Res :=
  match p.body with
  | .engine b bank ch ask vi load answer lines =>
    if !answer then
      if s.cycle < s.boot.gapTill (Braid.isEast p.dest) && !lines.isEmpty then .next (s.later (s.boot.gapTill (Braid.isEast p.dest)) (packetEvent p))
      else
        let asked := (lines.filter fun e => e.2.1.isEmpty).map fun e => e.1
        match s.hostAway (asked.map fun ln => 64 * ln) with
        | [] =>
          let (s1, got) := s.readLines vi asked
          let locks := if load then asked.map fun ln => (⟨ln, b, bank, ch, ask⟩ : LineLock) else []
          .next (({ s1 with mem := { s1.mem with locks := s1.mem.locks ++ locks } } : State).sendMem 14 p.dest p.src p.arg (flitsFor (64 * asked.length))
            (.engine b bank ch ask vi load true got))
        | ln :: r =>
          let s1 := (ln :: r).foldl (fun (st : State) x => st.askHost x false) s
          .next { s1 with mem := { s1.mem with hostWait := s1.mem.hostWait ++ [⟨64 * ln, p⟩] } }
    else if ch = 4 then .next (s.modBank b bank fun k => { k with rv := { k.rv with awaits := k.rv.awaits - 1 } })
    else .next (s.modBank b bank fun k => k.setChan ch ((k.chan ch).answered ask lines))
  | _ => .next s

end Sys2Proof.Machine
end

