-- ==== Sys2Proof/Machine/CopyEngine.lean ====
section
/-! DEFINITION. Copy commands as the channels run them (12: R253, R259 to R266, R277; 11: R248 to R250; 10: R231; 15: R300, R305, R321, R322). -/

namespace Sys2Proof.Machine

/-- The channel of the acting agent: braid, bank, channel. -/
def State.agentChan (s : State) : Chan := (s.bank s.agent.1 s.agent.2.1).chan s.agent.2.2

/-- The bank is to be saved, or its task stopped, after the rendezvous of its open job (R289, R305, R316). -/
def State.untilRendezvous (s : State) (b bank : Nat) : Bool :=
  let k := s.bank b bank
  (k.mode == .suspending || k.mode == .preempting || k.mode == .switching || k.mode == .cancelling) && s.jobIn b bank
/-- A bank's channels run: its task runs, in the running bank, or has still to reach the rendezvous after which they stop (R305, R306,
R316). -/
def State.chansRun (s : State) (b bank : Nat) : Bool :=
  let k := s.bank b bank
  (k.mode == .running || s.untilRendezvous b bank) && k.task.isSome && (s.braid b).runBank == bank

/-- Coordinates of an element by its image index (R259): box sizes from dimension 0 on. -/
def coords : List Nat → Nat → List Nat
  | [], _ => []
  | b :: r, f => f % (b + 1) :: coords r (f / (b + 1))
/-- The element is inside the tensor (R259). -/
def CopyCmd.inside (c : CopyCmd) (f : Nat) : Bool :=
  ((c.org.zip (coords c.box f)).zip c.ext).all fun (e : (Int × Nat) × Nat) =>
    decide (0 ≤ e.1.1 + (e.1.2 : Int) ∧ e.1.1 + (e.1.2 : Int) ≤ (e.2 : Int))
/-- Element offset in the tensor (R259). -/
def CopyCmd.offset (c : CopyCmd) (f : Nat) : Int :=
  (((c.org.zip (coords c.box f)).zip c.str).map fun (e : (Int × Nat) × Int) => (e.1.1 + (e.1.2 : Int)) * e.2).sum
/-- Bits of an element. -/
def CopyCmd.bits_ (c : CopyCmd) : Nat := fmtWidth c.fmt
/-- Bytes of an element; a CB4 element takes part of one. -/
def CopyCmd.bytes_ (c : CopyCmd) : Nat := (c.bits_ + 7) / 8
/-- Virtual address of an element and whether it takes the high nibble (R259, R37). -/
def CopyCmd.elemAt (c : CopyCmd) (f : Nat) : Nat × Bool :=
  let e := c.offset f
  let a := ((c.base : Int) + e * (c.bits_ : Int) / 8) % (2 ^ 48 : Int)
  (a.toNat, c.bits_ == 4 && decide (e % 2 ≠ 0))
/-- Virtual addresses of an element's bytes. -/
def CopyCmd.elemBytes (c : CopyCmd) (f : Nat) : List Nat := (upto 0 c.bytes_).map fun i => ((c.elemAt f).1 + i) % 2 ^ 48

/-- Pieces of a command (R260). -/
def CopyCmd.pieces (c : CopyCmd) : Nat := (c.size + 24575) / 24576
/-- Image indexes of the elements of piece `q`: those whose first bit it holds. -/
def CopyCmd.pieceElems (c : CopyCmd) (q : Nat) : List Nat :=
  let per := 24576 * 8 / c.bits_
  upto (per * q) (min per (c.count - per * q))
def CopyCmd.pieceInside (c : CopyCmd) (q : Nat) : List Nat := (c.pieceElems q).filter c.inside

/-- What a command does to a page (R261). -/
def CopyCmd.access (c : CopyCmd) : Acc := if !c.isOut then .copyIn else if c.op = 1 then .copyAdd else .copyOut
/-- A fault of a running command, in the context that issued it (R277). -/
def CopyCmd.fault (c : CopyCmd) (code va : Nat) : FaultInfo :=
  { code, src := 0, ctx := c.ctx, epc := c.pc, va, write := c.isOut, engine := true }
/-- An engine's fault: one of the cycle's faults of the task that issued its command; where that task runs no more in the bank, it is
recorded only, for the command's interface (R277, R300, R301). -/
def State.engineFault (s : State) (b bank vi : Nat) (owner : Option Nat) (f : FaultInfo) : State :=
  if owner.isSome && (s.bank b bank).task.map Task.sq == owner then s.defer b bank f
  else s.postDevice (faultRecord f false (s.arcNo vi b) bank vi 0xFFFFFFFF 0 s.clock.slot 0 0)

/-- One address of each page touched, in the order met. -/
def firstPages : List Nat → List Nat → List Nat
  | _, [] => []
  | seen, a :: r => if seen.contains (a / 65536) then firstPages seen r else a :: firstPages (a / 65536 :: seen) r

/-- Translate the pages of a command through its channel's TLB, the next page of each too; light faults are served in the walk
(R224, R261): the TLB, and the pages' physical addresses and leaves or why it stops. -/
def State.walkPages (s : State) (vi b : Nat) (a : Acc) : List Nat → List TlbEntry → State × List TlbEntry × Except Stop (List (Nat × Nat × Nat))
  | [], tlb => (s, tlb, .ok [])
  | va :: r, tlb =>
    if isLocal va then (s, tlb, .error (.fault va 11))
    else
      let s0 := match s.lookup vi b 4 a va tlb with
        | (.light entry w, _, _) => s.serveLight vi entry w
        | _ => s
      match s0.lookup vi b 4 a va tlb with
      | (.ok pa leaf, t, hit) =>
        let s1 := if hit then s0 else s0.walked vi va
        let (ahead, t2, near) := s1.lookup vi b 4 a ((r.headD va)) t
        let fetched := match ahead with
          | .ok _ _ => if near then s1 else s1.walked vi (r.headD va)
          | _ => s1
        let (s2, t3, rest) := fetched.walkPages vi b a r t2
        (s2, t3, rest.map fun l => (va / 65536, pa - va % 65536, leaf) :: l)
      | (.fault c, t, _) => (s0, t, .error (.fault va c))
      | (.light _ _, t, _) => (s0, t, .error (.fault va 10))
      | (.away l, t, _) => (s0.askHost l false, t, .error (.away l))

/-- Physical address and leaf of a byte of the running command, as its start translated them (R261). -/
def Chan.copyPa (h : Chan) (va : Nat) : Option (Nat × Nat) :=
  (h.pages.find? fun p => p.1 == va / 65536).map fun p => (p.2.1 + va % 65536, p.2.2)

/-- Update the acting agent's channel. -/
def State.modChan (s : State) (f : Chan → Chan) : State :=
  let (b, bank, ch) := s.agent
  s.modBank b bank fun k => k.setChan ch (f (k.chan ch))

/-- COPY_START on the agent's channel (braid, bank, channel): the head command begins once the one before it has retired, its
predecessors hold and, with SRC = 1, its drain tile stands (R253, R255, R260, R261, R263). A fault it meets is taken in the channel's
turn of this cycle (R300). -/
def execCopyStart (s : State) : Res :=
  let (b, bank, _) := s.agent
  let h := s.agentChan
  match h.queue with
  | [] => .next s
  | c :: _ =>
    let tile := match h.tile with
      | some t => t.full
      | none => false
    if h.running || h.stalled || !s.chansRun b bank || !s.refsHold b bank c.preds || (c.src && !tile) then .next s
    else
      let misfit := c.src && match h.tile with
        | some t => t.fmt != c.fmt || 8 * t.data.length != c.count * c.bits_
        | none => true
      if misfit then .next (s.modChan fun h => { h with failing := some (c.fault 2 0) })
      else
        let vas := ((upto 0 c.count).filter c.inside).map c.elemBytes
        match s.walkPages c.vi b c.access (firstPages [] vas.flatten) h.tlb with
        | (s1, tlb, .error (.fault va code)) => .next (s1.modChan fun h => { h with tlb, failing := some (c.fault code va) })
        | (s1, tlb, .error (.away _)) => .next (s1.modChan fun h => { h with tlb })
        | (s1, tlb, .ok pages) => .next (s1.modChan fun h =>
            { h with tlb, pages, running := true, pieces := 0, asked := false, awaits := 0, lines := [], pinned := [] })

/-- A copy of stream `sid` sees a write in any case: of its stream, joined, or a copy's once acquired (R248). -/
def OldByte.sureCopy (sid : Nat) (o : OldByte) : Bool := (o.covered && o.copy.isSome) || (o.copy.isNone && (o.tag == sid || o.j))
/-- The own byte of the task that issued a command, while it runs in the bank (R238). -/
def State.ownOf (s : State) (b bank : Nat) (c : CopyCmd) (pa : Nat) : Option MByte :=
  if (s.bank b bank).task.map Task.sq = some c.owner then s.own b bank pa else none
/-- The home's value of a byte in the lines that came (R342). -/
def Chan.homeByte (h : Chan) (pa : Nat) : Byte := (tget ⟨[], false⟩ h.lines (pa / 64)).data.getD (pa % 64) 0
/-- The value of a byte that a CPIN reads: own bytes of the issuing task, by stream, else the home's; `pick` chooses where both are
allowed (R238, R248). -/
def State.copyByte (s : State) (b bank : Nat) (h : Chan) (c : CopyCmd) (pa leaf pick : Nat) : Byte :=
  let home := h.homeByte pa
  if leafKind leaf = 3 then home
  else
    match s.ownOf b bank c pa with
    | none => home
    | some m =>
      match seenOf (OldByte.sureCopy c.sid) m.writes with
      | ([v], false) => v
      | (vals, bare) => vals.getD (pick % (vals.length + bit bare)) home

/-- Pin a superblock that a piece reads, from the cycle in which the promotion begins to fill it (R231, R264): what could be pinned is the
task's. -/
def State.pinOne (s : State) (b bank tag : Nat) : State :=
  let east := homeEast (256 * tag)
  let s1 := s.l2Bring tag 0 0
  let l := s1.l2 east
  let here := (l.filter fun x => x.tag == tag).map L2Sb.pins
  let pinned := (l.filter fun x => l2Set x.tag == l2Set tag && x.pins != 0).length
  let n := here.headD 0
  if (n = 0 ∧ 12 ≤ pinned) ∨ 255 ≤ n then s1.countHint east
  else
    (s1.setL2 east (l.map fun x => if x.tag = tag then { x with pins := x.pins + 1 } else x)).modBank b bank fun k =>
      { k with task := k.task.map fun t => { t with pins := tag :: t.pins } }

/-- Bytes of a piece in device memory: virtual and physical address, and leaf. -/
def CopyCmd.pieceBytes (c : CopyCmd) (h : Chan) (q : Nat) : List (Nat × Nat × Nat) :=
  ((c.pieceInside q).map c.elemBytes).flatten.filterMap fun va => (h.copyPa va).map fun e => (va, e.1, e.2)

/-- Ask the slices for a piece's lines, pinning each superblock the command reads once under PIN (R264, R342, R359). A CPIN, and a CPOUT
of CB4 for the nibbles it leaves, read them; a CPIN's piece is a tile load (R249). A piece without a byte in memory needs no answer. -/
def State.askPiece (s : State) (b bank : Nat) (c : CopyCmd) (q : Nat) : State :=
  let h := s.agentChan
  let lines := linesOf ((c.pieceBytes h q).map fun e => e.2.1)
  let tags := if c.pin then (distinct (lines.map (· / 4))).filter fun t => !h.pinned.contains t else []
  let s1 := tags.foldl (fun (st : State) t => st.pinOne b bank t) s
  let runs := sliceRuns lines
  let reads := !c.isOut || c.bits_ == 4
  let ask := h.ask + 1
  let s2 := s1.modChan fun h => { h with asked := true, ask, awaits := runs.length, lines := [], pinned := tags ++ h.pinned }
  runs.foldl (fun (st : State) r => st.sendMem 14 b r.1 0 (flitsFor ((if c.isOut then 64 else 8) * r.2.length))
    (.engine b bank s.agent.2.2 ask c.vi (!c.isOut) false (if reads then r.2.map fun ln => (ln, [], false) else []))) s2

/-- The SRAM writes of an element of a CPIN. -/
def elemWrites (c : CopyCmd) (f : Nat) (v : List Byte) (high : Bool) : List SWrite :=
  if c.bits_ = 4 then
    let n : Byte := if high then (v.getD 0 0) >>> 4 else (v.getD 0 0) &&& 15
    [⟨c.local_ + f / 2, if f % 2 = 0 then n else n <<< 4, if f % 2 = 0 then 15 else 240⟩]
  else (upto 0 c.bytes_).map fun i => ⟨c.local_ + f * c.bytes_ + i, v.getD i 0, 255⟩

/-- The piece is done: progress, and the command's retirement after its last one (R253, R263, R265). -/
def State.pieceDone (s : State) (c : CopyCmd) (q : Nat) : State :=
  s.modChan fun h =>
    let h1 := { h with pieces := q + 1, asked := false, awaits := 0, lines := [] }
    if q + 1 < c.pieces then h1
    else { h1 with queue := h.queue.drop 1, running := false, pieces := 0, tile := if c.src then none else h.tile, done := c.num }
/-- The head command met a fault: its piece under way is to be asked for anew; a resumable one holds the channel (R277, R305). -/
def State.chanFault (s : State) (b bank : Nat) (c : CopyCmd) (f : FaultInfo) : State :=
  (s.modChan fun h => { h with failing := none, stalled := f.resumes, asked := false, awaits := 0, lines := [] }).engineFault b bank c.vi (some c.owner) f
/-- A tile load is over: the slices that hold its lines are told to release their locks (R249, R342). -/
def State.unlockPiece (s : State) (b bank ch ask : Nat) (lines : Tab Fill) : State :=
  (distinct (lines.map fun e => sliceStop (64 * e.1))).foldl (fun (st : State) stop => st.sendMem 15 b stop 0 1 (.unlock b bank ch ask)) s

/-- A piece of a CPIN, of the lines that came: source bytes read as the task reads them, image bytes into braid SRAM; or why it stops
(R260, R321). -/
def State.loadPiece (s : State) (b bank : Nat) (h : Chan) (c : CopyCmd) (q : Nat) : State × Option FaultInfo :=
  let (pick, s0) := s.draw
  let read := (c.pieceBytes h q).map fun e =>
    (e.1, e.2.1, e.2.2, (tget ⟨[], false⟩ h.lines (e.2.1 / 64)).poison && (leafKind e.2.2 == 3 || (s0.ownOf b bank c e.2.1).isNone))
  match s0.consume c.vi read with
  | (s1, some (code, va, line)) => (s1, some { c.fault code va with line })
  | (s1, none) =>
    let value (f : Nat) : List Byte :=
      if c.inside f then (c.elemBytes f).map fun va => match h.copyPa va with
        | some (pa, leaf) => s1.copyByte b bank h c pa leaf (pickAt pick pa)
        | none => 0
      else List.replicate 8 0
    let ws := ((c.pieceElems q).map fun f => elemWrites c f (value f) (c.inside f && (c.elemAt f).2)).flatten
    let s2 := s1.modBraid b fun x => ws.foldl Braid.rawPut x
    (if (s.bank b bank).task.map Task.sq = some c.owner then s2.modBank b bank fun k => ws.foldl (fun (k : Bank) w => k.noteWrite w.addr) k
     else s2, none)
/-- The running CPIN's piece, whose answers have come (R260). -/
def State.pieceIn (s : State) (b bank : Nat) (c : CopyCmd) (q : Nat) : State :=
  let h := s.agentChan
  let s1 := if h.lines.isEmpty then s else s.unlockPiece b bank s.agent.2.2 h.ask h.lines
  match s1.loadPiece b bank h c q with
  | (s2, some f) => s2.chanFault b bank c f
  | (s2, none) => s2.pieceDone c q
/-- The last pieces of removed commands whose answers have come are done (R253, R265, R289). -/
def State.lastPieces (s : State) (b bank : Nat) : State :=
  let h := s.agentChan
  let one (st : State) (p : LastPiece) : State :=
    match (st.unlockPiece b bank st.agent.2.2 p.ask p.lines).loadPiece b bank { h with lines := p.lines, pages := p.pages } p.cmd p.piece with
    | (s2, some f) => s2.engineFault b bank p.cmd.vi none f
    | (s2, none) => s2
  match h.lasts.filter fun p => p.awaits == 0 with
  | [] => s
  | ready => ready.foldl one (s.modChan fun h => { h with lasts := h.lasts.filter fun p => p.awaits != 0 })

/-- A bank's drain tile or SRAM byte at an image offset (R263). -/
def State.imageByte (s : State) (b : Nat) (c : CopyCmd) (i : Nat) : Byte :=
  if c.src then
    match s.agentChan.tile with
    | some t => t.data.getD i 0
    | none => 0
  else (s.braid b).sramAt (c.local_ + i)
/-- The bytes of an element in the image; a CB4 element in the low nibble. -/
def State.imageElem (s : State) (b : Nat) (c : CopyCmd) (f : Nat) : List Byte :=
  if c.bits_ = 4 then
    let v := s.imageByte b c (f / 2)
    [if f % 2 = 0 then v &&& 15 else v >>> 4]
  else (upto 0 c.bytes_).map fun i => s.imageByte b c (f * c.bytes_ + i)

/-- Put a byte into a piece's lines; the bytes it does not write carry its stream too (R262). -/
def putLine (lines : List MLine) (pa : Nat) (m : MByte) (mark : Nat) (page : PageTag) : List MLine :=
  let pl := pa / 64 * 64
  if lines.any fun l => l.pa == pl then lines.map fun l => if l.pa = pl then { l with bytes := tput l.bytes (pa % 64) m } else l
  else lines ++ [{ pa := pl, bytes := [(pa % 64, m)], mark, na := false, page }]

/-- The lines of a piece of a plain CPOUT and the conflicts it meets; a nibble that CB4 leaves keeps the task's own value, what an
earlier piece staged among it, else the home's (R241, R250, R262). -/
def State.pieceLines (s : State) (b bank : Nat) (c : CopyCmd) (q : Nat) : List MLine × List Nat :=
  let h := s.agentChan
  let step (acc : List MLine × List Nat) (e : Nat × Byte × Bool) : List MLine × List Nat :=
    match h.copyPa e.1 with
    | none => acc
    | some (pa, leaf) =>
      let old := s.own b bank pa
      let fresh := (acc.1.find? fun l => l.pa == pa / 64 * 64).bind fun l => lineByte pa l
      let under : Byte := match fresh with
        | some m => m.val
        | none => (old.map MByte.val).getD (h.homeByte pa)
      let v : Byte := if c.bits_ = 4 then (if e.2.2 then (under &&& 15) ||| (e.2.1 <<< 4) else (under &&& 240) ||| (e.2.1 &&& 15)) else e.2.1
      let clash := match old with
        | some m => m.tag != c.sid && !m.j
        | none => false
      let m : MByte := ⟨v, c.sid, false, c.ctx, false, some (s.agent.2.2, c.num), (old.map MByte.under).getD []⟩
      (putLine acc.1 pa m c.k (pageTag leaf), if clash && fresh.isNone then pa :: acc.2 else acc.2)
  let cells := ((c.pieceInside q).map fun f =>
    ((c.elemBytes f).zip (s.imageElem b c f)).map fun e => (e.1, e.2, (c.elemAt f).2)).flatten
  cells.foldl step ([], [])

/-- The 128-byte entry of a staged line: its stream ids are all the command's (R262). -/
def stagedImage (l : MLine) (group k sid : Nat) : List Byte :=
  let img := lineImage l group k
  img.take 80 ++ List.replicate 32 (BitVec.ofNat 8 (17 * sid)) ++ img.drop 112
/-- Write a piece's lines to entries of the overflow area (R226, R262). -/
def State.areaPuts (s : State) (b bank group k sid : Nat) : List (MLine × Nat) → State × Option Stop
  | [] => (s, none)
  | e :: r => andThen (s.areaPut b bank e.2 (stagedImage e.1 group k sid)) fun s1 => s1.areaPuts b bank group k sid r

/-- Stage a piece of a plain CPOUT as one tile store (R249, R262); where the overflow area is not mapped, the command is held (R305). -/
def State.pieceOut (s : State) (b bank : Nat) (c : CopyCmd) (q : Nat) : State :=
  let (lines, bad) := s.pieceLines b bank c q
  let k := s.bank b bank
  let group := match k.task with
    | some t => t.groups + 1
    | none => 1
  let placed := lines.zip (k.freeEntries lines.length)
  match s.areaPuts b bank group c.k c.sid placed with
  | (s1, some (.fault va code)) => s1.chanFault b bank c { c.fault code va with write := true }
  | (s1, some (.away _)) => s1
  | (s1, none) =>
    let held := placed.map fun e => ({ e.1 with slot := some e.2 } : MLine)
    (s1.modBank b bank fun k =>
      { k with staged := if lines.isEmpty then k.staged else k.staged ++ [⟨c.k, q, s.agent.2.2, c.num, held⟩], conflicts := bad ++ k.conflicts,
               task := k.task.map fun t => { t with groups := group } }).pieceDone c q

/-- The reduction an element of an atomic add becomes (R262): its bytes are those of the addresses' list, at most two pages. -/
def addEntry (fmt : Nat) (at_ : List (Nat × Nat)) (v : List Byte) : RedEntry :=
  let op := if fmt = 0 then 3 else if fmt = 13 then 4 else 0
  let pa := (at_.headD (0, 0)).1
  let near := ((at_.zip (upto 0 8)).takeWhile fun e => e.1.1 == pa + e.2).length
  { pa, op, wide := fmt == 10 || fmt == 13, z := false, comp := false, x := BitVec.ofNat 64 (leNat v),
    level := at_.foldl (fun m e => max m (leafOlev e.2)) 0, cut := if near = at_.length then 8 else near,
    far := ((at_.drop near).headD (0, 0)).1 }

/-- Stage a piece of an atomic-add CPOUT: one reduction entry for each inside element, in image order (R262). -/
def State.pieceAdd (s : State) (b bank : Nat) (c : CopyCmd) (q : Nat) : State :=
  let h := s.agentChan
  let items := (c.pieceInside q).map fun f =>
    ({ place := c.place, red := addEntry c.fmt ((c.elemBytes f).filterMap h.copyPa) (s.imageElem b c f), copied := true } : RedItem)
  (s.modBank b bank fun k => { k with reds := k.reds ++ items }).pieceDone c q

/-- COPY_PIECE on the agent's channel: last pieces of removed commands are done, a fault that a start met is taken, and the running
command asks its homes for its next piece, and does it when the answers have come (R260, R265, R277, R342); the channel of a bank that is
to stop does the piece under way and asks for no other; in inserted idle cycles no piece begins (R305, R316, R368). -/
def execCopyPiece (s0 : State) : Res :=
  let (b, bank, _) := s0.agent
  let s := s0.lastPieces b bank
  let h := s.agentChan
  match h.queue with
  | [] => .next s
  | c :: _ =>
    match h.failing with
    | some f => .next (s.chanFault b bank c f)
    | none =>
      let q := h.pieces
      if !h.running then .next s
      else if !h.asked then .next (if s.chansRun b bank && !h.stalled && s.boot.gapTill (Braid.isEast b) ≤ s.cycle then s.askPiece b bank c q else s)
      else if h.awaits ≠ 0 then .next s
      else if !c.isOut then .next (s.pieceIn b bank c q)
      else if c.op = 0 then .next (s.pieceOut b bank c q)
      else .next (s.pieceAdd b bank c q)

end Sys2Proof.Machine
end

