-- ==== Sys2Proof/Machine/Reeve.lean ====
section
/-! DEFINITION. The Reeve: frames into the state banks and out to the frame store (12: R253, R268, R271, R272, R275, R277; 13: R285; 15: R316, R321). -/

namespace Sys2Proof.Machine

/-- The Reeve's channel of the acting agent (braid, bank). -/
def State.agentRv (s : State) : Rv := (s.bank s.agent.1 s.agent.2.1).rv
def State.modRv (s : State) (f : Rv → Rv) : State := s.modBank s.agent.1 s.agent.2.1 fun k => { k with rv := f k.rv }

/-- The Reeve of a bank starts commands: the bank is not suspended or preempted, or has still to reach the rendezvous after which it stops
(R305, R316). -/
def State.reeveRuns (s : State) (b bank : Nat) : Bool :=
  match (s.bank b bank).mode with
  | .idle | .starting | .running => true
  | _ => s.untilRendezvous b bank

/-- Drop the head command: it counts as retired (R253). -/
def Rv.retire (r : Rv) : Rv :=
  match r.queue with
  | [] => r
  | c :: q => { r with queue := q, done := c.num, running := false, img := none, asked := false, awaits := 0, failing := none, made := none }

/-- A fault of a Reeve command, in the context that issued it (R277); the command is over. A resident check's launch ends faulted, and the
braid is reserved no longer (R285). -/
def State.reeveFault (s : State) (c : ReeveCmd) (code : Nat) (line : Nat := 0) : State :=
  let (b, bank, _) := s.agent
  let s1 := s.modRv Rv.retire
  let s2 := match c.launch with
    | some uid => (s1.modLaunch uid fun l => { l with status := 4, live := [], deliver := [], doomed := true }).modBraid b fun x =>
        { x with reserved := if x.reserved = some uid then none else x.reserved }
    | none => s1
  s2.engineFault b bank c.vi c.owner { code, src := 0, ctx := c.ctx, epc := c.pc, write := c.isOut, line, engine := true }

/-- 2 MiB granules carved for an interface's frame store, ascending (R346). -/
def MemSide.carved (m : MemSide) (v : Nat) : List Nat := (m.frameGranules.filter fun e => e.2 == v).map fun e => e.1
/-- Physical address of a slot of a frame store (R268, R346). -/
def MemSide.slotPa (m : MemSide) (v n : Nat) : Nat := (m.carved v).getD (n / 512) 0 * 2 ^ 21 + n % 512 * 4096

/-- Slots of an image that a range of state granules touches. -/
def Image.touched (m : Image) (sg cnt : Nat) : List Nat :=
  (upto (sg / 64) ((sg + cnt) / 64 - sg / 64 + 1)).filterMap fun i => m.slots.getD i none

/-- Lines of the frame store, of an interface's slots. -/
def MemSide.slotLines (m : MemSide) (v : Nat) (slots : List Nat) : List Nat := (slots.map fun n => upto (m.slotPa v n / 64) 64).flatten
/-- The Reeve's packets to the homes of lines, with the bytes it brings there, or none where it asks for theirs; it awaits their answers
(R342, R359). -/
def State.reeveSend (s : State) (b bank vi : Nat) (lines : List Nat) (bytes : Nat → List Byte) : State :=
  let runs := sliceRuns lines
  let out (r : Nat × List Nat) : List (Nat × List Byte × Bool) := r.2.map fun ln => (ln, bytes ln, false)
  runs.foldl (fun (st : State) r => st.sendMem 14 b r.1 0 (flitsFor ((out r).map fun e => max 8 e.2.1.length).sum) (.engine b bank 4 0 vi false false (out r)))
    (s.modRv fun v => { v with awaits := runs.length })

/-- REEVE_START on the agent's braid and bank: the head command starts, takes a reference to the session's image, and asks the
home (R253, R255, R271, R342). A fault it meets is taken in the Reeve's turn of this cycle (R300). -/
def execReeveStart (s : State) : Res :=
  let (b, bank, _) := s.agent
  let r := s.agentRv
  match r.queue with
  | [] => .next s
  | c :: _ =>
    if r.running || s.cycle < s.boot.gapTill (Braid.isEast b) || !s.reeveRuns b bank || !s.refsHold b bank c.preds then .next s
    else
      let i := s.ifaceD c.vi
      let cur := (i.session c.sid).cur
      let taken := match cur with
        | none => some i
        | some m => i.takeImage m
      match taken with
      | none => .next (s.modRv fun r => { r with failing := some 17 })
      | some j =>
        let slots := match cur with
          | none => []
          | some m => (i.image m).touched c.sg c.cnt
        let s1 := (s.modIface c.vi fun _ => j).modRv fun r => { r with running := true, img := cur, asked := true }
        .next (s1.reeveSend b bank c.vi (s.mem.slotLines c.vi slots) fun _ => [])

/-- A tag's range and a command's share a granule (R285). -/
def RTag.meets (t : RTag) (c : ReeveCmd) : Bool :=
  t.bank == c.bank && decide (t.first ≤ c.first + c.cnt ∧ c.first ≤ t.first + t.cnt)
/-- The tag a resident check leaves (R285). -/
def ReeveCmd.tag (c : ReeveCmd) (epoch : Nat) : RTag := ⟨c.sid, c.vi, epoch, c.bank, c.first, c.cnt, c.sg⟩

/-- The first line in error of the slots an RVIN reads (R321). -/
def State.rvinPoison (s : State) (c : ReeveCmd) (m : Image) : Option Nat :=
  ((upto c.sg (c.cnt + 1)).filterMap fun sg =>
    if sg < m.len then (m.slots.getD (sg / 64) none).map fun n => (s.mem.slotPa c.vi n + 64 * (sg % 64)) / 64 else none).find? s.linePoison

/-- RVIN_RETIRE (R271, R285): half H of each granule takes its state granule; tags its range meets are cleared; a resident
check's tag is set. -/
def execRvinRetire (s : State) : Res :=
  let (b, _, _) := s.agent
  let r := s.agentRv
  match r.failing.isSome || (r.running && r.awaits == 0), r.queue with
  | true, c :: _ =>
    if c.isOut then .next s
    else if r.failing.isSome then .next (s.reeveFault c (r.failing.getD 0))
    else
      let i := s.ifaceD c.vi
      let m : Image := match r.img with
        | some n => i.image n
        | none => ⟨[], 0, 0⟩
      let s1 := s.modIface c.vi fun i => i.dropOpt r.img
      match s.rvinPoison c m with
      | some line => .next (s1.reeveFault c 20 line)
      | none =>
        let write (x : Braid) (k : Nat) : Braid :=
          let g := 24576 * c.bank + c.first + k
          x.sramPuts (halfBase g (tget false x.h g)) (i.granule m (c.sg + k))
        let s2 := s1.modBraid b fun x =>
          let y := (upto 0 (c.cnt + 1)).foldl write x
          let tags := y.tags.filter fun t => !t.meets c
          { y with tags := match c.launch with
              | some _ => (c.tag (i.session c.sid).epoch :: tags).take 16
              | none => tags }
        let s3 := match c.launch with
          | some uid => s2.modLaunch uid fun l => { l with resident := true }
          | none => s2
        .next (s3.modRv Rv.retire)
  | _, _ => .next s

/-- Take free slots, lowest first; none where they run out (R268). -/
def Iface.takeFresh (i : Iface) : Nat → Option (Iface × List Nat)
  | 0 => some (i, [])
  | n + 1 =>
    match i.freeSlot with
    | none => none
    | some x =>
      match ({ i with slotRefs := tput i.slotRefs x 1 } : Iface).takeFresh n with
      | none => none
      | some (j, l) => some (j, x :: l)

/-- The new image of an RVOUT (R271): fresh slots where the range touches, the base's others shared; none without a free slot
or at the largest count. -/
def Iface.writeOut (i : Iface) (base : Image) (c : ReeveCmd) (data : Nat → List Byte) : Option (Iface × Nat) := do
  let lo := c.sg / 64
  let hi := (c.sg + c.cnt) / 64
  let (i1, fresh) ← i.takeFresh (hi - lo + 1)
  let len := max base.len (c.sg + c.cnt + 1)
  let entry (k : Nat) : Option Nat := if lo ≤ k ∧ k ≤ hi then fresh[k - lo]? else base.slots.getD k none
  let slots := (upto 0 ((len + 63) / 64)).map entry
  let i2 ← i1.takeSlots ((upto 0 ((len + 63) / 64)).map fun k => if lo ≤ k ∧ k ≤ hi then none else base.slots.getD k none)
  let gran (sg : Nat) : List Byte := if c.sg ≤ sg ∧ sg ≤ c.sg + c.cnt then data sg else i.granule base sg
  let i3 := (upto lo (hi - lo + 1)).foldl (fun (j : Iface) k =>
    (upto 0 64).foldl (fun (j : Iface) n => j.storePuts (4096 * fresh.getD (k - lo) 0 + 64 * n) (gran (64 * k + n))) j) i2
  some ({ i3 with images := tput i3.images i3.imageNext ⟨slots, len, 1⟩, imageNext := i3.imageNext + 1 }, i3.imageNext)

/-- The image a running command of the Reeve has taken a reference to; the empty one of a session without. -/
def Rv.base (r : Rv) (i : Iface) : Image := match r.img with
  | some n => i.image n
  | none => ⟨[], 0, 0⟩
/-- A running RVOUT has its base: it makes the new image, and its fresh slots set out for their homes (R271, R342). -/
def State.reeveMakes (s : State) (b bank : Nat) (c : ReeveCmd) : State :=
  let r := s.agentRv
  let i := s.ifaceD c.vi
  let x := s.braid b
  let data (sg : Nat) : List Byte :=
    let g := 24576 * c.bank + c.first + (sg - c.sg)
    x.sramRead (halfBase g (tget false x.h g)) 64
  match i.writeOut (r.base i) c data with
  | none => (s.modIface c.vi fun i => i.dropOpt r.img).reeveFault c 17
  | some (j, n) =>
    let m := j.image n
    let slots := m.touched c.sg c.cnt
    let granule (ln : Nat) : List Byte := match slots.findIdx? fun x => s.mem.slotPa c.vi x / 4096 == ln / 64 with
      | some k => j.granule m (64 * (c.sg / 64 + k) + ln % 64)
      | none => []
    ((s.modIface c.vi fun _ => j).modRv fun r => { r with made := some n }).reeveSend b bank c.vi (s.mem.slotLines c.vi slots) granule

/-- RVOUT_RETIRE (R271, R275): once its base has come the command makes its new image; once that stands at its homes, the image becomes
current if the session's epoch still stands, else it is dropped. -/
def execRvoutRetire (s : State) : Res :=
  let (b, bank, _) := s.agent
  let r := s.agentRv
  match r.failing.isSome || (r.running && r.awaits == 0), r.queue with
  | true, c :: _ =>
    if !c.isOut then .next s
    else if r.failing.isSome then .next (s.reeveFault c (r.failing.getD 0))
    else
      match r.made with
      | none => .next (s.reeveMakes b bank c)
      | some n =>
        let j := s.ifaceD c.vi
        let y := j.session c.sid
        let j1 := if y.epoch = c.epoch then (j.setSession c.sid { y with cur := some n }).dropOpt y.cur else j.dropImage n
        .next ((s.modIface c.vi fun _ => j1.dropOpt r.img).modRv Rv.retire)
  | _, _ => .next s

end Sys2Proof.Machine
end

