-- ==== Sys2Proof/Machine/Commit.lean ====
section
/-! DEFINITION. Commit events: checks, preparation, application, completion (11: R234 to R237, R241, R245, R246, R249 to R251; 12: R262;
17: R340; 08: R195; 15: R303). -/

namespace Sys2Proof.Machine

/-- Participants in the order of R235. -/
def Part.before (a b : Part) : Bool :=
  decide (a.tid < b.tid) || (a.tid == b.tid && (decide (a.braid < b.braid) || (a.braid == b.braid && decide (a.started ≤ b.started))))
/-- What a bank brings to an event, the lines among it that its suspension could not spill (R234, R235, R237, R305). -/
def State.partOf (s : State) (b bank : Nat) : Part :=
  let x := s.braid b
  let k := x.bank bank
  { braid := b, bank, tid := (k.task.map Task.tid).getD 0, started := (k.task.map Task.started).getD 0,
    lines := (if x.runBank = bank then x.merge else []) ++ k.parked ++ k.spilled, tiles := k.staged, reds := k.reds, conflicts := k.conflicts }

/-- A group's place among its participant's writes: key, piece, its lines (R262). -/
abbrev Group := Nat × Nat × List MLine
/-- A participant's groups in the order they are applied (R249, R250, R262). -/
def Part.groups (p : Part) : List Group :=
  let gs : List Group := p.lines.map (fun l => (2 * l.mark + 1, 0, [l])) ++ p.tiles.map fun t => (2 * t.k, t.piece, t.lines)
  sortBy (fun (a b : Group) => decide (a.1 < b.1) || (a.1 == b.1 && decide (a.2.1 ≤ b.2.1))) gs
/-- Every line a participant writes. -/
def Part.allLines (p : Part) : List MLine := p.lines ++ (p.tiles.map fun t => t.lines).flatten
/-- Bytes of a line with their physical addresses. -/
def MLine.cells (l : MLine) : List (Nat × Byte) := l.bytes.map fun e => (l.pa + e.1, e.2.val)
def Part.bytes_ (p : Part) : List Nat := (p.allLines.map fun l => l.bytes.map fun e => l.pa + e.1).flatten
/-- A participant's reductions in program order (R235, R262). -/
def Part.redsInOrder (p : Part) : List RedEntry :=
  (sortBy (fun (a b : RedItem) => decide (a.place ≤ b.place)) p.reds).map RedItem.red

/-- Least number of a list. -/
def least : List Nat → Option Nat
  | [] => none
  | a :: r => match least r with
    | none => some a
    | some b => some (min a b)

/-- The lowest byte of a participant that an event of a level may not apply (R234). -/
def Part.region (p : Part) (level : Nat) : Option Nat :=
  let bad := (p.allLines.filter fun l => l.page.kind == 1 && decide (level < l.page.olev)).map fun l => l.bytes.map fun e => l.pa + e.1
  least (bad.flatten ++ (p.reds.filter fun r => decide (level < r.red.level)).map fun r => r.red.pa)
/-- The first participant with a region condition and its byte (R234). -/
def regionOf (level : Nat) : List Part → Option (Part × Nat)
  | [] => none
  | p :: r => match p.region level with
    | some a => some (p, a)
    | none => regionOf level r

/-- Bytes of a reduction's element. -/
def redSize (e : RedEntry) : Nat := if e.op = 4 then 8 else if e.op = 3 then 4 else if e.wide then 8 else 4
/-- Physical addresses of a reduction's bytes. -/
def redAddrs (e : RedEntry) : List Nat := (upto 0 (redSize e)).map fun i => if i < e.cut then e.pa + i else e.far + (i - e.cut)
/-- The lowest byte two reductions share while they disagree (R246). -/
def redClash (a b : RedEntry) : Option Nat :=
  if a.op != b.op || redSize a != redSize b then least ((redAddrs a).filter fun x => (redAddrs b).contains x) else none
/-- Bytes two participants both write (R236). -/
def overlap (p q : Part) : List Nat :=
  (p.allLines.map fun l =>
    ((q.allLines.filter fun m => m.pa == l.pa).map fun m => (l.bytes.filter fun e => thas m.bytes e.1).map fun e => l.pa + e.1).flatten).flatten
/-- A conflict: two task ids in order and a byte (R236). -/
abbrev Clash := Nat × Nat × Nat
def clashOf (t u a : Nat) : Clash := (min t u, max t u, a)
def Clash.le (a b : Clash) : Bool :=
  decide (a.1 < b.1) || (a.1 == b.1 && (decide (a.2.1 < b.2.1) || (a.2.1 == b.2.1 && decide (a.2.2 ≤ b.2.2))))
/-- Disagreements among the reductions of a list, each with its task id. -/
def redClashes : List (Nat × RedEntry) → List Clash
  | [] => []
  | e :: r => (r.filterMap fun f => (redClash e.2 f.2).map fun a => clashOf e.1 f.1 a) ++ redClashes r
/-- All conflicts of an event's participants. -/
def partClashes : List Part → List Clash
  | [] => []
  | p :: r =>
    p.conflicts.map (fun a => (p.tid, p.tid, a))
      ++ (r.map fun q => (overlap p q).map fun a => clashOf p.tid q.tid a).flatten ++ partClashes r
def clashes (ps : List Part) : List Clash :=
  partClashes ps ++ redClashes ((ps.map fun p => p.redsInOrder.map fun e => (p.tid, e)).flatten)
/-- The one a record names (R236). -/
def leastClash : List Clash → Option Clash
  | [] => none
  | c :: r => match leastClash r with
    | none => some c
    | some d => some (if c.le d then c else d)

/-- What an event finds before it applies anything: the participant at fault, and the fault (R234, R236). -/
def eventCheck (level : Nat) (ps : List Part) : Option (Part × FaultInfo) :=
  match regionOf level ps with
  | some (p, a) => some (p, { code := 11, src := 0, ctx := .X, epc := 0, va := a, write := true })
  | none => (leastClash (clashes ps)).bind fun c => (ps.find? fun p => p.tid == c.1).map fun p =>
      (p, { code := 14, src := 0, ctx := .X, epc := 0, va := c.2.2, write := true, tid2 := c.2.1 })

/-- Lines in runs of 16, each as one PREP packet's writes. -/
def runsOf (n : Nat) : Nat → List MLine → List (List MLine)
  | 0, _ => []
  | _, [] => []
  | f + 1, l => l.take n :: runsOf n f (l.drop n)
/-- The packets that bring a participant's writes to their homes: stop, type, flits, contents (R340, R342, R359). -/
def Part.packets (p : Part) (id : Nat) : List (Nat × Nat × Nat × Body) :=
  let ls := p.allLines
  let stops := distinct (ls.map fun l => sliceStop l.pa)
  let preps := (stops.map fun st =>
    let mine := ls.filter fun l => sliceStop l.pa == st
    (runsOf 16 mine.length mine).map fun r => (st, 10, r.length, Body.prep id ((r.map MLine.cells).flatten))).flatten
  preps ++ (sortBy (fun (a b : RedItem) => decide (a.place ≤ b.place)) p.reds).map fun r =>
    (sliceStop r.red.pa, 13, 1, Body.red id p.tid r.place r.red)

/-- An event begins its preparation: its writes set out for their homes (R340). -/
def State.openEvent (s : State) (level vi : Nat) (round : Option (Nat × Nat)) (ps : List Part) : State :=
  let id := s.eventNext
  let sends := (ps.map fun p => (p.packets id).map fun q => (p.braid, q)).flatten
  let e : Event := { level, vi, round, parts := ps, begun := false, left := sends.length }
  let s1 : State := { s with events := tput s.events id e, eventNext := id + 1 }
  sends.foldl (fun (st : State) q => st.sendMem q.2.2.1 q.1 q.2.1 0 q.2.2.2.1 q.2.2.2.2) s1

/-- Members of the level-k domain other than the root. -/
def State.others (s : State) (b bank k : Nat) : List Nat := (s.members b bank k).filter (· ≠ b)
/-- Every member but the root has arrived at the root's barrier (R195). -/
def State.allHere (s : State) (b bank k gen : Nat) : Bool :=
  let held := (s.braid b).baras
  let uid := ((s.bank b bank).task.map Task.launch).getD 0
  (s.members b bank k).headD b == b && (s.others b bank k).all fun m => held.contains (uid, k, gen, m)
/-- The banks that take part in an event a root or a lone task begins. -/
def State.partBanks (s : State) (b bank k : Nat) : List (Nat × Nat) :=
  let uid := ((s.bank b bank).task.map Task.launch).getD 0
  (b, bank) :: (s.others b bank k).map fun m => (m, (s.bankOf m uid).getD 0)

/-- COMMIT_EVENT: the agent's bank (braid, bank) stands at a commit whose participants have all arrived; the checks are made, and
the event begins its preparation or its fault is raised (R234 to R236, R195). -/
def execCommitEvent (s : State) : Res :=
  let (b, bank, _) := s.agent
  let k := s.bank b bank
  match k.arrive, k.task with
  | some a, some t =>
    let level := a.level
    if a.event.isSome || a.passed || k.mode != .running || !s.allHere b bank level a.gen then .next s
    else
      let banks := s.partBanks b bank level
      let ps := sortBy Part.before (banks.map fun e => s.partOf e.1 e.2)
      match eventCheck level ps with
      | some (p, f) => .next (s.raise p.braid p.bank { f with epc := (s.bank p.braid p.bank).x.pc })
      | none =>
        let s1 := banks.foldl (fun (st : State) e => st.modBank e.1 e.2 fun k =>
          { k with arrive := k.arrive.map fun a => { a with event := some s.eventNext } }) s
        let s2 := s1.modBraid b fun x => { x with baras := x.baras.filter fun r => !(r.1 == t.launch && r.2.1 == level && r.2.2.1 == a.gen) }
        .next (s2.openEvent level t.vi none ps)
  | _, _ => .next s

/-- The new word of an integer reduction (R245). -/
def redNew (e : RedEntry) (old : Nat) : Nat :=
  let n := (redSize e)
  let x := e.x.toNat
  let le := intValue (8 * n) e.z old ≤ intValue (8 * n) e.z x
  match e.op with
  | 0 => (old + x) % 2 ^ (8 * n)
  | 1 => if le then old else x
  | _ => if le then x else old

/-- An event under application: the pairs of the words it adds to, by first byte, with each word's addresses and the bank of its last
entry (R246). -/
structure Apply where
  s : State
  pairs : Tab (Pair × Nat × Nat × List Nat)

/-- Set flags in the task of a bank, where its task still stands (R246). -/
def Apply.flag (a : Apply) (tasks : Bool) (b bank : Nat) (f : FlagSet) : Apply :=
  if tasks then { a with s := a.s.modBank b bank (·.raise f) } else a
/-- One FP32 entry of the sequence of a word at these addresses (R246). -/
def Apply.add (a : Apply) (vi : Nat) (tasks : Bool) (p : Part) (at_ : List Nat) (x : Word32) (comp : Bool) : Apply :=
  let m : Word32 := BitVec.ofNat 32 (leNat (at_.map (a.s.homeByte vi)))
  let pair := (tget (⟨m, 0⟩, 0, 0, []) a.pairs (at_.headD 0)).1
  let (q, f) := if comp then compStep false pair [valW x]
    else
      let (w, f) := fl32 false (Fp.sum false [valW pair.hi, valW pair.lo, valW x])
      (⟨w, 0⟩, f)
  { a.flag tasks p.braid p.bank f with pairs := tput a.pairs (at_.headD 0) (q, p.braid, p.bank, at_) }
/-- One reduction (R246). -/
def Apply.red (a : Apply) (vi : Nat) (tasks : Bool) (p : Part) (e : RedEntry) : Apply :=
  let at_ := redAddrs e
  match e.op with
  | 3 => a.add vi tasks p at_ (e.x.setWidth 32) e.comp
  | 4 => (a.add vi tasks p (at_.take 4) (e.x.setWidth 32) e.comp).add vi tasks p (at_.drop 4) ((e.x >>> 32).setWidth 32) e.comp
  | _ => { a with s := a.s.homePuts vi (at_.zip (natLe (redSize e) (redNew e (leNat (at_.map (a.s.homeByte vi)))))) }
/-- The final rounding of a sequence, and its word's write (R246). -/
def Apply.round (a : Apply) (vi : Nat) (tasks : Bool) (e : Nat × Pair × Nat × Nat × List Nat) : Apply :=
  let (w, f) := pairWord e.2.1
  let a1 := a.flag tasks e.2.2.1 e.2.2.2.1 f
  { a1 with s := a1.s.homePuts vi (e.2.2.2.2.zip (natLe 4 w.toNat)) }
/-- The sequences that a predicate selects come to their end (R246). -/
def Apply.rounds (a : Apply) (vi : Nat) (tasks : Bool) (p : Nat × Pair × Nat × Nat × List Nat → Bool) : Apply :=
  (a.pairs.filter p).foldl (fun (a : Apply) e => a.round vi tasks e) { a with pairs := a.pairs.filter fun e => !p e }
/-- One group (R249). A word of it that entries of an earlier participant are being added to takes their sum first, and then the group's
bytes, in the order of R235. -/
def Apply.group (a : Apply) (vi : Nat) (tasks : Bool) (g : Group) : Apply :=
  let cells := (g.2.2.map MLine.cells).flatten
  let a1 := a.rounds vi tasks fun e => e.2.2.2.2.any fun x => cells.any fun c => c.1 == x
  { a1 with s := a1.s.homeWrite vi (fun ln => g.2.2.any fun l => l.pa / 64 == ln && l.na) cells }
/-- One participant: its groups, then its reductions (R235). -/
def Apply.part (a : Apply) (vi : Nat) (tasks : Bool) (p : Part) : Apply :=
  p.redsInOrder.foldl (fun (a : Apply) e => a.red vi tasks p e) (p.groups.foldl (fun (a : Apply) g => a.group vi tasks g) a)
/-- The end of every sequence (R246). -/
def Apply.finish (a : Apply) (vi : Nat) (tasks : Bool) : State := (a.rounds vi tasks fun _ => true).s

/-- A participant's own bytes go into a line its L1 holds, which is dirty until the event has completed at its home (R227). -/
def L1Line.overlay (l : L1Line) (ls : List MLine) : L1Line :=
  { l with dirty := l.dirty || ls.any fun m => m.pa == l.pa, data := (upto 0 64).map fun i =>
      (ls.foldl (fun (d : Byte) (m : MLine) => match lineByte (l.pa + i) m with
        | some b => b.val
        | none => d) (l.data.getD i 0)) }
/-- A braid's L1 line by line. -/
def Braid.mapL1 (x : Braid) (f : L1Line → L1Line) : Braid :=
  { x with l1 := x.l1.map fun sb => { sb with lines := sb.lines.map fun e => (e.1, f e.2) } }
/-- The home has applied a participant's lines: they are dirty in its L1 no more (R227). -/
def State.l1Clean (s : State) (p : Part) : State :=
  s.modBraid p.braid fun x => x.mapL1 fun l => { l with dirty := l.dirty && !p.allLines.any fun m => m.pa == l.pa }
/-- A participant's buffers are empty after its event, its next phase's writes count anew, and an access in progress reads its lines anew
(R226, R234, R235, R238, R262). -/
def State.emptied (s : State) (p : Part) : State :=
  s.modBraid p.braid fun x =>
    let ls := ((p.groups.map fun g => g.2.2).flatten)
    let y : Braid := { x.mapL1 (·.overlay ls) with merge := if x.runBank = p.bank then [] else x.merge }
    let k := y.bank p.bank
    y.setBank p.bank { k with
      spilled := [], parked := [], staged := [], reds := [], conflicts := [],
      l := k.l.renewed, x := k.x.renewed, s := k.s.renewed, t := k.t.renewed,
      task := k.task.map fun t => { t with copies := 0, groups := 0, place := 0 } }

/-- A tile load holds the lock of a line that an event writes (R249). -/
def State.tileLocked (s : State) (e : Event) : Bool :=
  s.mem.locks.any fun k => e.parts.any fun p => p.allLines.any fun l => l.pa / 64 == k.line
/-- EVENT_PREPARED of the agent's event: the whole write set stands prepared, and once no tile load holds a lock of its lines the event
is applied, whole (R235, R249, R340). -/
def execEventPrepared (s : State) : Res :=
  let id := s.agent.1
  match s.events.find? fun e => e.1 == id with
  | none => .next s
  | some (_, e) =>
    if e.begun || e.left ≠ 0 || s.tileLocked e then .next s
    else
      let tasks := e.round.isNone
      let s1 := e.parts.foldl (fun (a : Apply) p => a.part e.vi tasks p) ⟨s, []⟩ |>.finish e.vi tasks
      let s2 := if tasks then e.parts.foldl State.emptied s1 else s1
      .next { (s2.modIface e.vi fun i => { i with begun := (i.begun + 1) % 2 ^ 32 }) with
              events := tput s2.events id { e with begun := true } }

/-- A BARR for a member (R195). -/
def State.barr (s : State) (b m level gen : Nat) : State := s.sendCtl b (s.packet 3 b m (2048 * level + gen) 1 .empty)
/-- The root places the BARRs there is room for, in ascending order; with the last one its own BAR retires (R188, R195). -/
def State.sendBarrs (s : State) (b bank level gen : Nat) : List Nat → State
  | [] => s.modBank b bank fun k => { k with arrive := k.arrive.map fun a => { a with barr := [], released := true } }
  | m :: r =>
    if s.ctlRoom b then (s.barr b m level gen).sendBarrs b bank level gen r
    else s.modBank b bank fun k => { k with arrive := k.arrive.map fun a => { a with barr := m :: r } }
/-- The root goes on placing BARRs once its event has completed. -/
def State.release (s : State) (b bank : Nat) : State :=
  match (s.bank b bank).arrive with
  | some a => if a.passed && !a.released && (s.members b bank a.level).headD b == b then s.sendBarrs b bank a.level a.gen a.barr else s
  | none => s

/-- First and last completed event a braid took part in since its last test (R329). -/
def Iface.took (i : Iface) (b : Nat) : Iface :=
  { i with parts := tput i.parts b (if thas i.parts b then ((tget (0, 0) i.parts b).1, i.ended) else (i.ended, i.ended)) }
/-- Every TLB of an interface's braids is empty; `stable`: STABLE leases end too (R223, R224). -/
def State.emptyTlbs (s : State) (v : Nat) (stable : Bool) : State :=
  let clear (k : Bank) : Bank := { k with chans := k.chans.map fun e => (e.1, { e.2 with tlb := [] }), rv := { k.rv with tlb := [] } }
  (upto (s.physOf v 0) (8 * (s.arc v).2)).foldl (fun (st : State) b =>
    if thas st.braids b then
      st.modBraid b fun x => { x with tlb := [], l1 := if stable then dropL1 x.l1 (·.kind == 2) else x.l1, b0 := clear x.b0, b1 := clear x.b1 }
    else st) s
/-- A level-3 commit of an interface: its TLBs are empty, and STABLE leases end where a STABLE entry of its table has changed since the
last one (R223, R224). -/
def State.level3Done (s : State) (v : Nat) : State :=
  let now := s.stableLeaves v
  (s.emptyTlbs v (now != (s.ifaceD v).stable)).modIface v fun i => { i with stable := now }

/-- A round's commit counts as one more commit of the tasks of its launch that stand on a member's braid (R193, R199
step 4; DEDUCED, log entry 97). -/
def State.phaseUp (s : State) (b uid : Nat) : State :=
  let up (k : Bank) : Bank := { k with task := k.task.map fun t => if t.launch = uid then { t with phase := t.phase + 1 } else t }
  s.modBraid b fun x => { x with b0 := up x.b0, b1 := up x.b1 }
/-- EVENT_COMPLETE: the agent's event (number, 0, 0) has been applied, and one of level 3 has the lines of its interface's table: it is
counted, its participants' commits may retire, and the root begins to release the others; or the agent's root (braid, bank, 1) goes on releasing (R195, R223, R235, R251, R347). -/
def execEventComplete (s : State) : Res :=
  let (id, bank, more) := s.agent
  if more = 1 then .next (s.release id bank)
  else
    match s.events.find? fun e => e.1 == id with
    | none => .next s
    | some (_, e) =>
      let missing := if e.level = 3 && e.begun && !s.admin.linkDown then s.stableAway e.vi else []
      if !e.begun then .next s
      else if !missing.isEmpty then .next (missing.foldl (fun (st : State) ln => st.askHost ln false) s)
      else
        let s1 := s.modIface e.vi fun i => e.parts.foldl (fun (i : Iface) p => i.took p.braid) { i with ended := (i.ended + 1) % 2 ^ 32 }
        let s2 : State := { s1 with events := tdel s1.events id }
        let s3 := e.parts.foldl State.l1Clean (if e.level = 3 then s2.level3Done e.vi else s2)
        match e.round with
        | some (die, h) =>
          let key := 16 * die + h
          let (members, uid) := match s3.heaps.find? fun x => x.1 == key with
            | some (_, h) => (h.members, h.launch)
            | none => ([], 0)
          let s4 := members.foldl (fun (st : State) b => st.phaseUp b uid) s3
          .next { s4 with heaps := s4.heaps.map fun x => if x.1 = key then (key, { x.2 with committing := false, updating := x.2.committing, parts := [] }) else x }
        | none =>
          let mine (k : Bank) : Bool := match k.arrive with
            | some a => a.event == some id
            | none => false
          let pass (st : State) (p : Part) : State :=
            if mine (st.bank p.braid p.bank) then
              let rest := st.others p.braid p.bank e.level
              st.modBank p.braid p.bank fun k => { k with arrive := k.arrive.map fun a => { a with passed := true, barr := rest } }
            else st
          let s4 := e.parts.foldl pass s3
          .next (e.parts.foldl (fun (st : State) p => if mine (st.bank p.braid p.bank) then st.release p.braid p.bank else st) s4)

end Sys2Proof.Machine
end

