-- ==== Sys2Proof/Machine/Compare.lean ====
section
/-! DEFINITION. CMP, CMPI and PRED (04: R94, R95). -/

namespace Sys2Proof.Machine

/-- CMP.eq (R94). -/
def execCmpEq (g pd : BitVec 4) (a b : BitVec 5) (s : State) : Res :=
  cmpRR g pd a b (fun a b => a == b) s

/-- CMP.ne (R94). -/
def execCmpNe (g pd : BitVec 4) (a b : BitVec 5) (s : State) : Res :=
  cmpRR g pd a b (fun a b => a != b) s

/-- CMP.lt (R94). -/
def execCmpLt (g pd : BitVec 4) (a b : BitVec 5) (s : State) : Res :=
  cmpRR g pd a b ltS s

/-- CMP.le (R94). -/
def execCmpLe (g pd : BitVec 4) (a b : BitVec 5) (s : State) : Res :=
  cmpRR g pd a b leS s

/-- CMP.lo (R94). -/
def execCmpLo (g pd : BitVec 4) (a b : BitVec 5) (s : State) : Res :=
  cmpRR g pd a b ltU s

/-- CMP.ls (R94). -/
def execCmpLs (g pd : BitVec 4) (a b : BitVec 5) (s : State) : Res :=
  cmpRR g pd a b leU s

/-- CMPI.eq (R94). -/
def execCmpiEq (g pd : BitVec 4) (a : BitVec 3) (imm : BitVec 11) (s : State) : Res :=
  cmpRI g pd a imm (fun a b => a == b) s

/-- CMPI.ne (R94). -/
def execCmpiNe (g pd : BitVec 4) (a : BitVec 3) (imm : BitVec 11) (s : State) : Res :=
  cmpRI g pd a imm (fun a b => a != b) s

/-- CMPI.lt (R94). -/
def execCmpiLt (g pd : BitVec 4) (a : BitVec 3) (imm : BitVec 11) (s : State) : Res :=
  cmpRI g pd a imm ltS s

/-- CMPI.le (R94). -/
def execCmpiLe (g pd : BitVec 4) (a : BitVec 3) (imm : BitVec 11) (s : State) : Res :=
  cmpRI g pd a imm leS s

/-- CMPI.lo (R94). -/
def execCmpiLo (g pd : BitVec 4) (a : BitVec 3) (imm : BitVec 11) (s : State) : Res :=
  cmpRI g pd a imm ltU s

/-- CMPI.ls (R94). -/
def execCmpiLs (g pd : BitVec 4) (a : BitVec 3) (imm : BitVec 11) (s : State) : Res :=
  cmpRI g pd a imm leU s

/-- PAND (R95). -/
def execPand (g pd ps1 ps2 : BitVec 4) (s : State) : Res :=
  predForm g pd (fun c => c.getP ps1 && c.getP ps2) s

/-- POR (R95). -/
def execPor (g pd ps1 ps2 : BitVec 4) (s : State) : Res :=
  predForm g pd (fun c => c.getP ps1 || c.getP ps2) s

/-- PXOR (R95). -/
def execPxor (g pd ps1 ps2 : BitVec 4) (s : State) : Res :=
  predForm g pd (fun c => c.getP ps1 != c.getP ps2) s

/-- PNOT (R95). -/
def execPnot (g pd ps1 : BitVec 4) (s : State) : Res :=
  predForm g pd (fun c => !c.getP ps1) s

/-- PMOV (R95). -/
def execPmov (g pd ps1 : BitVec 4) (s : State) : Res :=
  predForm g pd (fun c => c.getP ps1) s

end Sys2Proof.Machine
end

