-- ==== Sys2Proof/Machine/Float.lean ====
section
/-! DEFINITION. FPU and FCVT (04: R96 to R100). -/

namespace Sys2Proof.Machine

/-- FADD (R97). -/
def execFadd (g : BitVec 4) (d a b : BitVec 5) (s : State) : Res := fpu g d a b (fun x y _ => fAdd .nearest x y) s
/-- FSUB (R97). -/
def execFsub (g : BitVec 4) (d a b : BitVec 5) (s : State) : Res := fpu g d a b (fun x y _ => fSub .nearest x y) s
/-- FMUL (R97). -/
def execFmul (g : BitVec 4) (d a b : BitVec 5) (s : State) : Res := fpu g d a b (fun x y _ => fMul .nearest x y) s
/-- FFMA: old rd is the addend, one rounding (R97). -/
def execFfma (g : BitVec 4) (d a b : BitVec 5) (s : State) : Res := fpu g d a b (fun x y c => fFma .nearest x y c) s
/-- FMIN (R98). -/
def execFmin (g : BitVec 4) (d a b : BitVec 5) (s : State) : Res := fpu g d a b (fun x y _ => (fMin x y, 0)) s
/-- FMAX (R98). -/
def execFmax (g : BitVec 4) (d a b : BitVec 5) (s : State) : Res := fpu g d a b (fun x y _ => (fMax x y, 0)) s
/-- FABS (R97). -/
def execFabs (g : BitVec 4) (d a : BitVec 5) (s : State) : Res := fpu g d a 0 (fun x _ _ => (fAbs x, 0)) s
/-- FNEG (R97). -/
def execFneg (g : BitVec 4) (d a : BitVec 5) (s : State) : Res := fpu g d a 0 (fun x _ _ => (fNeg x, 0)) s
/-- FCMP.eq (R97, R98). -/
def execFcmpEq (g pd : BitVec 4) (a b : BitVec 5) (s : State) : Res := fcmp g pd a b fEq s
/-- FCMP.lt (R97, R98). -/
def execFcmpLt (g pd : BitVec 4) (a b : BitVec 5) (s : State) : Res := fcmp g pd a b fLt s
/-- FCMP.le (R97, R98). -/
def execFcmpLe (g pd : BitVec 4) (a b : BitVec 5) (s : State) : Res := fcmp g pd a b fLe s
/-- FCMP.un (R97, R98). -/
def execFcmpUn (g pd : BitVec 4) (a b : BitVec 5) (s : State) : Res := fcmp g pd a b fUn s

/-- FCVT (R99, R100): the IEEE column of R43; Z without an integer format sets cr.WARN bit 1 (R79). -/
def execFcvt (g df sf : BitVec 4) (z : Bool) (rnd : BitVec 2) (d a : BitVec 5) (s : State) : Res :=
  guarded g 4 s fun s =>
    match Format.ofCode df.toNat, Format.ofCode sf.toNat, Rnd.ofCode rnd.toNat with
    | some dst, some src, some mode =>
      let noInt := dst.intWidth.isNone && src.intWidth.isNone
      let (w, fl) := convert dst src (z && !noInt) ⟨mode, false, 0, 0, false⟩ (s.rS a).toNat
      ((s.warnIf (z && noInt) 1).raiseFlags fl).result 4 d (BitVec.ofNat 64 (extendTo 64 dst (z && !noInt) w))
    | _, _, _ => s.illegal

end Sys2Proof.Machine
end

