-- ==== Sys2Proof/Machine/Launch.lean ====
section
/-! DEFINITION. Launch queues, records, selection and completion (13: R278 to R283, R286, R288, R290, R293, R295; 14: R297; 15: R315, R318, R327;
17: R353, R354). -/

namespace Sys2Proof.Machine

/-- The slot counter of a die (R341). -/
def State.slotOf (s : State) (east : Bool) : Nat := if east then s.clock.slotE.toNat else s.clock.slot.toNat
/-- Queues 8 to 15 are East's (R278). -/
def queueEast (q : Nat) : Bool := decide (8 ≤ q)
def Launch.east (l : Launch) : Bool := queueEast l.queue

/-- A launch record with the fields read from its bytes (R280, R295); the rest as not started. -/
def parseRecord (r : List Byte) (uid vi queue num now : Nat) : Launch :=
  let w := fieldLe r 0 8
  let h := fieldLe r 8 4
  { uid, vi, queue, num, kind := bits w 48 2, entry := bits w 0 48, m1 := bitAt w 50, m2 := bitAt w 51, m3 := bitAt w 52,
    prio := bits w 53 4, pre := bitAt w 57, braid0 := bits h 0 7, nb := bits h 7 7 + 1, sid := bits h 16 16, ovfs := fieldLe r 12 4,
    release := fieldLe r 16 8, deadline := fieldLe r 24 8, argp := fieldLe r 32 6, ovfb := fieldLe r 40 6, auxp := fieldLe r 48 6,
    tspb := fieldLe r 56 6, tsps := fieldLe r 62 2, arrival := now, args := [], wmap := 0, tvec := 0, frame := [], heap := [],
    op := bits w 50 2, n := bits h 0 16, handle := fieldLe r 12 4, hlist := fieldLe r 32 6, res := fieldLe r 40 6,
    hash := BitVec.ofNat 64 (fieldLe r 48 8),
    hashes := [], phys := [], issued := false, issueSlot := 0, status := 0, stopSlot := 0, discards := [], hstatus := 0, preempted := false,
    requests := [], live := [], deliver := [], pendingSpawns := 0, spill := [], resident := false, finished := false, doomed := false }

/-- Reserved and excluded fields of a record of KIND 0 to 2 (R280, R282, R315, R353). -/
def recordOk (r : List Byte) (l : Launch) (arcBraids : Nat) : Bool :=
  bits (fieldLe r 0 8) 58 6 == 0 && l.entry % 2 == 0 && bits (fieldLe r 8 4) 14 2 == 0 && fieldLe r 38 2 == 0 && fieldLe r 46 2 == 0
    && fieldLe r 54 2 == 0 && l.argp % 64 == 0 && decide (l.braid0 + l.nb ≤ 96) && decide (l.braid0 + l.nb ≤ arcBraids)
    && (l.kind == 1 || l.sid == 0) && (l.kind != 1 || l.nb == 1) && (l.kind != 0 || l.auxp == 0)
/-- Reserved and excluded fields of a record of KIND 3 (R295). -/
def prefixOk (r : List Byte) (l : Launch) : Bool :=
  bits (fieldLe r 0 8) 57 7 == 0 && bits (fieldLe r 0 8) 52 1 == 0 && fieldLe r 0 6 == 0 && fieldLe r 10 2 == 0 && decide (l.op < 3) && l.n != 0
    && fieldLe r 38 2 == 0 && fieldLe r 46 2 == 0 && fieldLe r 56 8 == 0 && l.res % 64 == 0
    && (if l.op = 0 then l.handle == 0 && l.hash == 0 else l.hlist == 0) && (l.op == 1 || l.handle == 0)

/-- The heap descriptor's own checks (R197). -/
def heapOk (d : List Byte) : Bool :=
  let a := fieldLe d 0 4
  let b := fieldLe d 4 4
  let tol := fieldLe d 8 4
  let level := bits a 4 2
  bits a 20 12 == 0 && (level == 1 || level == 2) && decide (bits a 6 4 < if level = 1 then 12 else 2) && decide (bits a 10 10 + 1 ≤ 1024)
    && !bitAt b 15 && !bitAt b 31 && decide (bits b 0 15 + bits b 16 15 + 1 ≤ 32768)
    && (decide (tol ≤ 0x7F800000) || tol == 0x80000000) && fieldLe d 12 4 != 0
    && fieldLe d 16 6 % 64 == 0 && fieldLe d 22 2 == 0 && leNat ((d.drop 24).take 40) == 0
/-- Level and physical unit of a descriptor: a band by arc number, a die as it is (R193, R197, R353). -/
def State.heapUnit (s : State) (v : Nat) (d : List Byte) : Nat × Nat :=
  let a := fieldLe d 0 4
  let level := bits a 4 2
  (level, if level = 1 then (s.arc v).1 + bits a 6 4 else bits a 6 4)
/-- Physical braids a record names (R281, R353). -/
def State.named (s : State) (l : Launch) : List Nat := upto (s.physOf l.vi l.braid0) l.nb
/-- Members of the heap's domain among the record's braids (R197, R282). -/
def State.heapMembers (s : State) (l : Launch) (d : List Byte) : List Nat :=
  let (level, unit) := s.heapUnit l.vi d
  if (level == 1 && l.m1) || (level == 2 && l.m2) then (s.named l).filter fun b => unitOf level b == unit else []

/-- What taking a record comes to: the launch as read, a bad record, or a wait for a line of host memory that has been asked for
(R282, R347). -/
inductive Taken where
  | got (l : Launch) | bad | waits
  deriving DecidableEq, Repr
def Stop.taken : Stop → Taken
  | .fault .. => .bad
  | .away _ => .waits

/-- A record with its argument block and auxiliary records (R280 to R282, R297). -/
def State.readAux (s : State) (l : Launch) : State × Taken :=
  let (s1, args) := if l.argp = 0 then (s, .ok (List.replicate 128 0)) else s.seqRead l.vi l.argp 128
  match args with
  | .error e => (s1, e.taken)
  | .ok a =>
    let l1 : Launch := { l with args := (upto 0 12).map fun i => BitVec.ofNat 64 (fieldLe a (8 * i) 8), wmap := fieldLe a 96 6, tvec := fieldLe a 102 6 }
    let (s2, map) := if l1.wmap = 0 then (s1, .ok []) else s1.seqRead l.vi l1.wmap 8192
    match map with
    | .error e => (s2, e.taken)
    | .ok _ =>
      if leNat (a.drop 108) ≠ 0 then (s2, .bad)
      else if l.kind = 0 then (s2, .got l1)
      else
        match s2.seqRead l.vi l.auxp 64 with
        | (s3, .error e) => (s3, e.taken)
        | (s3, .ok x) =>
          if l.kind = 1 then
            let ok := (parseFrame x false 0 0 .X false (fun _ => 0) l.vi).isSome && fieldLe x 0 2 == l.sid && (s3.ifaceD l.vi).hasSession l.sid
            (s3, if ok then .got { l1 with frame := x } else .bad)
          else (s3, if heapOk x && !(s3.heapMembers l x).isEmpty then .got { l1 with heap := x } else .bad)

/-- The result line of a prefix operation lies in a writable SYNC page (R296): none while a table entry is away. -/
def State.resOk (s : State) (v va : Nat) : Option Bool :=
  match s.walk v va with
  | .got (e, big, _) => some (leafKind e == 3 && bitAt e 4 && (let pa := leafPa e big va; !isLpddr pa || s.owns v pa))
  | .absent => some false
  | .away _ => none
/-- Ask for the table entry that a walk lacks (R221, R347). -/
def State.askWalk (s : State) (v va : Nat) : State :=
  match s.walk v va with
  | .away ln => s.askHost ln false
  | _ => s
/-- A prefix record with its hash list (R295 to R297). -/
def State.readHashes (s : State) (l : Launch) : State × Taken :=
  match s.resOk l.vi l.res with
  | none => (s.askWalk l.vi l.res, .waits)
  | some false => (s, .bad)
  | some true =>
    if l.op ≠ 0 then (s, .got l)
    else
      match s.seqRead l.vi l.hlist (8 * l.n) with
      | (s1, .error e) => (s1, e.taken)
      | (s1, .ok hs) => (s1, .got { l with hashes := hs })

/-- A record as checked when it is taken (R282): finished with status 3 where it is bad; none while what it names is away (R347). -/
def State.checked (s : State) (r : List Byte) (l : Launch) : State × Option Launch :=
  let bad : Launch := { l with status := 3, finished := true, stopSlot := s.slotOf l.east }
  let fields := if l.kind = 3 then prefixOk r l else recordOk r l (8 * (s.arc l.vi).2)
  if !fields then (s, some bad)
  else
    match if l.kind = 3 then s.readHashes l else s.readAux l with
    | (s1, .waits) => (s1, none)
    | (s1, .bad) => (s1, some bad)
    | (s1, .got l1) => (s1, some (if l.kind = 3 then l1 else { l1 with phys := s1.named l1 }))

/-- A queue stops by an error of R279 or R290. -/
def Iface.queue (i : Iface) (q : Nat) : LQueue := tget {} i.queues q
def Iface.setQueue (i : Iface) (q : Nat) (x : LQueue) : Iface := { i with queues := tput i.queues q x }
def Iface.queueErr (i : Iface) (q : Nat) : Iface := i.setQueue q { i.queue q with en := false, err := true }

/-- The producer index at the home, on a SYNC page (R279); absent where it cannot be read, away where its line or a table entry is. -/
def State.readPi (s : State) (v pia : Nat) : State × Found Nat :=
  match s.walk v pia with
  | .got (e, _, _) =>
    if leafKind e = 3 then
      match s.seqRead v pia 4 with
      | (s1, .ok l) => (s1, .got (leNat l))
      | (s1, .error (.fault ..)) => (s1, .absent)
      | (s1, .error (.away ln)) => (s1, .away ln)
    else (s, .absent)
  | .absent => (s, .absent)
  | .away ln => (s.askHost ln false, .away ln)

/-- A record of a queue comes into its sequencer's hands, already past its deadline or not (R279, R282, R288). -/
def State.takeRecord (s : State) (v q : Nat) (l : Launch) : State :=
  let late := !l.finished && l.deadline ≠ 0 && l.deadline ≤ s.slotOf l.east
  let l1 := if late then { l with status := 2, finished := true, stopSlot := s.slotOf l.east } else l
  ({ s with launches := s.launches ++ [l1], launchNext := s.launchNext + 1 } : State).modIface v fun i =>
    i.setQueue q { i.queue q with ci := ((i.queue q).ci + 1) % 2 ^ 32 }

/-- RECORD_TAKE on the agent's queue (interface, queue): at most one record, checked as it is taken; while a line of host memory that
it needs is away, none (R279, R282, R347). -/
def execRecordTake (s : State) : Res :=
  let (v, q, _) := s.agent
  match s.iface v with
  | none => .next s
  | some i =>
    let d := i.queue q
    if !d.en || d.logn < 4 || 12 < d.logn || !s.boot.ready || s.admin.linkDown then .next s
    else
      match s.readPi v d.pia with
      | (s1, .away _) => .next s1
      | (s1, .absent) => .next (s1.modIface v fun i => i.queueErr q)
      | (s1, .got p) =>
        let n := (p + 2 ^ 32 - d.ci) % 2 ^ 32
        if 2 ^ d.logn < n then .next (s1.modIface v fun i => i.queueErr q)
        else if n = 0 || (d.ci + 2 ^ 32 - d.cci) % 2 ^ 32 == 2 ^ d.logn then .next s1
        else
          let record (r : List Byte) : Launch := parseRecord r s1.launchNext v q d.ci s1.cycle
          match s1.seqRead v (d.ring + 64 * (d.ci % 2 ^ d.logn)) 64 with
          | (s2, .error (.away _)) => .next s2
          | (s2, .error (.fault ..)) =>
            .next (s2.takeRecord v q { record (List.replicate 64 0) with status := 3, finished := true, stopSlot := s.slotOf (queueEast q) })
          | (s2, .ok r) =>
            match s2.checked r (record r) with
            | (s3, none) => .next s3
            | (s3, some l) => .next (s3.takeRecord v q l)

/-- A launch of KIND 2 keeps its braids until it ends, unless preempted (R199, R283). -/
def State.keptByHeap (s : State) (b uid : Nat) : Bool :=
  s.launches.any fun l => l.uid != uid && l.kind == 2 && l.issued && !l.finished && !l.preempted && l.status == 0 && l.phys.contains b
/-- A braid is free for a launch (R283, R306, R314, R329). -/
def State.freeFor (s : State) (b uid : Nat) : Bool :=
  let x := s.braid b
  !x.outOfService && x.reserved.isNone && x.taskQ.isEmpty && !x.b0.mode.occupies && !x.b1.mode.occupies
    && (x.b0.task.isNone || x.b1.task.isNone) && x.testEnd.isNone && !x.testAsked && !s.keptByHeap b uid
/-- A RELEASE slot has begun, nine cycles ago or more (R288). -/
def State.released (s : State) (l : Launch) : Bool :=
  let slot := s.slotOf l.east
  let at_ := if l.east then s.clock.cycleE else s.clock.cycleW
  decide (l.release = 0) || decide (l.release < slot) || (decide (l.release = slot) && decide (at_ + 9 ≤ s.cycle))

/-- The launch stands in its sequencer's ready set (R283, R318). -/
def Launch.inReady (l : Launch) : Bool := !l.finished && (!l.issued || l.preempted)
/-- The banks of a launch's tasks. -/
def State.banksOf (s : State) (l : Launch) : List (Nat × Nat) :=
  (l.phys.map fun b => ((upto 0 2).filter fun i => match (s.bank b i).task with
    | some t => t.launch == l.uid
    | none => false).map fun i => (b, i)).flatten
/-- A preempted launch may go on: its requests have reached its braids, which are in service, and no other task runs there (R314, R316,
R318). -/
def State.mayResume (s : State) (l : Launch) : Bool :=
  l.requests.isEmpty && (s.banksOf l).all (fun e => (s.bank e.1 e.2).mode == .preempted || (s.bank e.1 e.2).mode == .suspended)
    && l.phys.all fun b =>
      let x := s.braid b
      !x.b0.mode.occupies && !x.b1.mode.occupies && x.reserved.isNone && x.testEnd.isNone && !x.outOfService && !s.keptByHeap b l.uid
/-- The tag that a step's frame record matches on its braid (R285). -/
def State.residentTag (s : State) (l : Launch) (b bank : Nat) : Option RTag :=
  let k := s.bank b bank
  let i := s.ifaceD l.vi
  match parseFrame l.frame false 0 0 .X k.curBank (fun sid => (i.session sid).epoch) l.vi with
  | none => none
  | some c => (s.braid b).tags.find? fun t =>
      t.sid == c.sid && t.vi == l.vi && t.epoch == c.epoch && t.bank == c.bank && t.first == c.first && t.cnt == c.cnt && t.sg == c.sg
/-- The bank that a task of a launch takes on a braid: one without a task (R306); where neither holds one and another launch that
names the braid is pre-empted, the one that did not run last (R316). -/
def State.emptyBank (s : State) (b uid : Nat) : Nat :=
  let x := s.braid b
  let aside := s.launches.any fun l => l.uid != uid && l.preempted && l.phys.contains b
  if x.b0.task.isNone && x.b1.task.isNone && aside then 1 - x.runBank
  else if x.b0.task.isNone then 0 else 1
/-- The residence check of a session step may begin: its state is resident, or its braid's rv queue takes its RVIN (R253, R283, R285). -/
def State.mayReside (s : State) (l : Launch) : Bool :=
  let b := l.phys.headD 0
  let bank := s.emptyBank b l.uid
  l.kind != 1 || (s.residentTag l b bank).isSome || decide ((s.bank b bank).rv.queue.length < 32)
/-- Eligible (R283, R318). -/
def State.eligible (s : State) (l : Launch) : Bool :=
  l.inReady && s.released l && !s.admin.linkDown
    && (if l.kind = 3 then true
        else if l.preempted then s.mayResume l
        else (l.phys.all fun b => s.freeFor b l.uid) && s.mayReside l)

/-- Use of an interface over the last 2^21 cycles: the cycles in which its tasks occupied braids (R354). -/
def State.useOf (s : State) (v : Nat) : Nat :=
  let lo := s.cycle - 2 ^ 21
  let past := ((s.ifaceD v).use.map fun e => e.2 - max lo e.1).sum
  let now := (s.braids.map fun e => ([e.2.b0, e.2.b1].map fun k => match k.task with
    | some t => if t.vi = v && k.mode.occupies then s.cycle - max lo t.from_ else 0
    | none => 0).sum).sum
  past + now

/-- Selection order of two records (R283, R354). -/
def State.ranks (s : State) (a b : Launch) : Bool :=
  let dl (l : Launch) := if l.deadline = 0 then 2 ^ 64 else l.deadline
  let ia := s.ifaceD a.vi
  let ib := s.ifaceD b.vi
  let ua := if ia.mode = 1 && ib.mode = 1 then s.useOf a.vi * ib.share else 0
  let ub := if ia.mode = 1 && ib.mode = 1 then s.useOf b.vi * ia.share else 0
  let keys : List (Nat × Nat) := [(a.prio, b.prio), (ua, ub), (dl a, dl b), (a.arrival, b.arrival), (a.vi, b.vi), (a.queue, b.queue), (a.num, b.num)]
  match keys.find? fun e => e.1 != e.2 with
  | some e => decide (e.1 < e.2)
  | none => true
/-- The first of a list in the selection order. -/
def State.firstOf (s : State) : List Launch → Option Launch
  | [] => none
  | l :: r => match s.firstOf r with
    | none => some l
    | some m => some (if s.ranks l m then l else m)
/-- The record a die's sequencer issues in this cycle (R283). -/
def State.chosen (s : State) (east : Bool) : Option Launch := s.firstOf (s.launches.filter fun l => l.east == east && s.eligible l)

/-- A launch is over without running: status and slot (R282, R288, R327). -/
def State.endLaunch (s : State) (uid status : Nat) : State :=
  s.modLaunch uid fun l => { l with status, finished := true, stopSlot := s.slotOf l.east, deliver := [], issueSlot := if status = 3 then 0 else l.issueSlot }

/-- A session step's residence: its tag becomes the most recently matched, or an RVIN of its frame is issued on the braid (R285). -/
def State.makeResident (s : State) (l : Launch) : State :=
  let b := l.phys.headD 0
  let bank := s.emptyBank b l.uid
  match s.residentTag l b bank with
  | some t => (s.modBraid b fun x => { x with tags := t :: x.tags.filter (· ≠ t) }).modLaunch l.uid fun l => { l with resident := true }
  | none =>
    s.modBank b bank fun k =>
      let num := (k.rv.newest + 1) % 2 ^ 28
      match parseFrame l.frame false num 0 .X k.curBank (fun sid => ((s.ifaceD l.vi).session sid).epoch) l.vi with
      | none => k
      | some c => { k with rv := { k.rv with queue := k.rv.queue ++ [{ c with launch := some l.uid }], newest := num } }

/-- Delivery begins: the braids are reserved; each starts 81 cycles on, 24 more on the other die, and later where the argument
block has to be fetched (R286). -/
def State.sendOut (s : State) (l : Launch) : State :=
  let line := match s.seqTouch l.vi .seqRead l.argp 1 with
    | (_, .ok (pa :: _)) => some (pa / 64)
    | _ => none
  let hit := l.argp = 0 || match line with
    | some x => homeEast (64 * x) == l.east && (s.l2State x).1
    | none => false
  let (n, s1) := if hit then (0, s) else s.draw
  let at_ (b : Nat) := s.cycle + 81 + (if Braid.isEast b == l.east then 0 else 24) + n
  let s2 := l.phys.foldl (fun (st : State) b => st.modBraid b fun x => { x with reserved := some l.uid }) s1
  s2.modLaunch l.uid fun m =>
    { m with issued := true, issueSlot := s.slotOf l.east, deliver := l.phys.map fun b => (b, at_ b) }

/-- Entries in heap order: larger gains first, then lower task ids (R198). -/
def heapOrder (l : List HEntry) : List HEntry :=
  sortBy (fun (a b : HEntry) => decide (b.gain.toNat < a.gain.toNat) || (a.gain == b.gain && decide (a.tid ≤ b.tid))) l
/-- Two heaps of one unit share entries (R197, R206). -/
def State.heapOverlap (s : State) (key base cap : Nat) : Bool :=
  s.heaps.any fun e => e.1 != key && e.1 / 16 == key / 16 && decide (base < e.2.base + e.2.cap ∧ e.2.base < base + cap)
/-- Install a launch's heap (R206): none where it is bad at issue (R282). -/
def State.installHeap (s : State) (l : Launch) : Option State :=
  let d := l.heap
  let a := fieldLe d 0 4
  let b := fieldLe d 4 4
  let (level, unit) := s.heapUnit l.vi d
  let die := if level = 1 then unit / 6 else unit
  let key := 16 * die + bits a 0 4
  let base := bits b 0 15
  let cap := bits b 16 15 + 1
  let old := s.heap key
  let busy := match old with
    | some h => h.st != .done
    | none => false
  if busy || s.heapOverlap key base cap then none
  else
    let fresh : Heap :=
      { st := .fill, level, unit, k := bits a 10 10 + 1, base, cap, tol := BitVec.ofNat 32 (fieldLe d 8 4), maxr := fieldLe d 12 4,
        doneAt := fieldLe d 16 6, vi := l.vi, launch := l.uid, entries := [], resid := ⟨0, 0⟩, round := 0, r := 0, heldOps := [],
        popped := [], started := [], ended := [], roundOpen := false, committing := false, updating := false, paused := false,
        members := s.heapMembers l d, status := 0, parts := [], tries := 0, voided := [] }
    let h := match old with
      | some o =>
        if o.level = level ∧ o.unit = unit ∧ o.base = base ∧ o.cap = cap then
          { fresh with
            entries := o.entries.map fun e => { e with popped := false }, heldOps := o.heldOps,
            resid := ((heapOrder o.entries).foldl (fun (p : Pair) e => (compStep false p [valW e.gain]).1) ⟨0, 0⟩) }
        else fresh
      | none => fresh
    some { s with heaps := tput s.heaps key h }

/-- The operation of a prefix launch (R295). -/
def prefixInstr (op : Nat) : Instr := if op = 0 then .prefixLookup else if op = 1 then .prefixInsert else .prefixUnpin
/-- A sequencer has issued in this cycle: a pre-empted launch of its die does not resume in it (R283). -/
def State.issuedNow (s : State) (east : Bool) : State :=
  s.setTodo (s.todo.filter fun a => !decide (a = .event .launchResume (bit east) 0 0))

/-- A record in the ready set that names a fenced braid ends at once, whatever else it waits for (R327); its fault record, which names no
task, goes to its interface's ring (R301; DESIGN CHOICE, log entry 114). -/
def State.endFenced (s : State) (east : Bool) : State :=
  (s.launches.filter fun l => l.east == east && !l.issued && !l.finished).foldl (fun (st : State) (l : Launch) =>
    match l.phys.find? fun b => (st.braid b).fencedOff with
    | none => st
    | some b =>
      let f : FaultInfo := { code := 27, src := 0, ctx := .X, epc := 0 }
      (st.post l.vi (faultRecord f false (st.arcNo l.vi b) 0 l.vi 0xFFFFFFFF l.num st.clock.slot 0 0)).endLaunch l.uid 4) s

/-- LAUNCH_ISSUE of the agent's die (0 West, 1 East): records that name a fenced braid end (R327); the first eligible record that is not a
preempted one's issues (R283); a prefix operation is applied at once (R288). West goes first: where it takes a braid that East's first
record names, East issues its next eligible record in that cycle (DESIGN CHOICE, log entry 110). -/
def execLaunchIssue (st : State) : Res :=
  let east := st.agent.1 == 1
  let s0 := st.endFenced east
  match s0.chosen east with
  | none => .next s0
  | some l =>
    let s := s0.issuedNow east
    if l.issued || s0.cycle < s0.boot.gapTill east then .next s0
    else if l.kind = 3 then
      match s.resOk l.vi l.res with
      | none => .next (s.askWalk l.vi l.res)
      | some _ =>
        let s1 := s.modLaunch l.uid fun m => { m with issued := true, issueSlot := s.slotOf east }
        .next (s1.setTodo (.event (prefixInstr l.op) l.uid 0 0 :: s1.todo))
    else if l.kind = 2 then
      match s.installHeap l with
      | none => .next (s.endLaunch l.uid 3)
      | some s1 => .next (s1.sendOut l)
    else if l.kind = 1 then .next ((s.sendOut l).makeResident l)
    else .next (s.sendOut l)

/-- The launch's heap has completed, or it has none (R290). -/
def State.heapDone (s : State) (l : Launch) : Bool :=
  l.kind != 2 || !(s.heaps.any fun e => e.2.launch == l.uid && e.2.st != .done)
/-- Nothing of the launch is left to run (R290, R293). -/
def State.launchOver (s : State) (l : Launch) : Bool :=
  l.deliver.isEmpty && (s.banksOf l).isEmpty && !(s.braids.any fun e => e.2.taskQ.any fun r => r.launch == l.uid)
    && (l.finished || (l.issued && l.kind != 3 && l.pendingSpawns == 0 && l.spill.isEmpty && s.heapDone l))

/-- The 64 bytes of a completion record (R290). -/
def completion (l : Launch) : List Byte :=
  natLe 4 l.num ++ natLe 4 (l.status + 16 * l.kind) ++ natLe 8 l.issueSlot ++ natLe 8 l.stopSlot ++ natLe 4 l.discards.length ++ natLe 4 l.hstatus
    ++ List.replicate 32 0

/-- LAUNCH_COMPLETE of the agent's launch: its completion record is written and CPI counts it (R290); it waits for a table entry in a
line of host memory that is away (R347). -/
def execLaunchComplete (s : State) : Res :=
  match s.launch s.agent.1 with
  | none => .next s
  | some l =>
    if !s.launchOver l then .next s
    else
      let q := (s.ifaceD l.vi).queue l.queue
      let s0 : State := { s with launches := s.launches.filter fun m => m.uid != l.uid }
      let bump (i : Iface) : Iface := i.setQueue l.queue { i.queue l.queue with cpi := ((i.queue l.queue).cpi + 1) % 2 ^ 32 }
      match s0.seqWrite l.vi (q.cring + 64 * (q.cpi % 2 ^ q.logn)) (completion l) with
      | (s1, .ok _) => .next (s1.modIface l.vi bump)
      | (_, .error (.away ln)) => .next (s.askHost ln false)
      | (s1, .error (.fault va code)) =>
        let f : FaultInfo := { code, src := 0, ctx := .X, epc := 0, va, write := true }
        let s2 := s1.postDevice (faultRecord f false 0 0 l.vi 0xFFFFFFFF l.num s.clock.slot 0 0)
        .next (s2.modIface l.vi fun i => (bump i).queueErr l.queue)

end Sys2Proof.Machine
end

