-- ==== Sys2Proof/Machine/Tasks.lean ====
section
/-! DEFINITION. Starting tasks: launched, spawned and of a Capstan round; task records on their way (05: R119, R120, R135; 07: R158, R159;
08: R200; 12: R267; 13: R281, R284, R291 to R293; 10: R210, R224; 17: R342). -/

namespace Sys2Proof.Machine

/-- What a task starts with (R120, R200, R281, R291). -/
structure Start where
  task : Task
  /-- s2 to s16. -/
  args : List Word64
  deriving DecidableEq, Repr

/-- A context as a task finds it: arguments from s2 on, the rest zero (R12, R26, R120). -/
def freshCtx (args : List Word64) (pc : Addr) : Ctx :=
  { s := ((upto 2 args.length).zip args).foldl (fun (m : Tab Word64) e => tset 0 m e.1 e.2) [], p := 0, pc }

/-- Load the writer map at an address, 8,192 bytes, those of windows without V left out, and go on with it once its lines are there
(R213, R281, R347); one that cannot be read any more holds no window. -/
def State.withMap (s : State) (v va : Nat) (f : State → Tab Byte → State) : State :=
  if va = 0 then f s []
  else
    match s.seqRead v va 8192 with
    | (s1, .ok l) => f s1 (((upto 0 8192).zip l).filter fun e => e.2 != 0)
    | (s1, .error (.fault ..)) => f s1 []
    | (s1, .error (.away _)) => s1

/-- The lines whose values belong to a phase leave the L1: at a change of bank, and as a task's first phase begins (R238, R306). -/
def Braid.dropLeases (x : Braid) : Braid := { x with l1 := dropL1 x.l1 fun l => l.kind == 1 || l.kind == 4 }

/-- A bank as a task finds it (R119, R120, R128, R158, R159, R267): what is kept across tasks are the copy and Reeve channels'
numbers and cr.BANK. -/
def Bank.fresh (k : Bank) (t : Task) (args : List Word64) (map : Tab Byte) (now : Nat) : Bank :=
  { chans := k.chans.map fun e => (e.1, ({ newest := e.2.newest, done := e.2.done, ask := e.2.ask, lasts := e.2.lasts } : Chan)),
    rv := { k.rv with tlb := [] }, curBank := k.curBank,
    l := freshCtx args 0, x := freshCtx args (BitVec.ofNat 48 t.entry.toNat), s := freshCtx args 0,
    mode := .starting, task := some t, writerMap := map, mapVi := t.vi, startAt := now + 5 }

/-- A task starts on a bank of a braid (R135, R284): strand registers cleared, W of the bank cleared, TLBs of the interface's
braids emptied; the context vector is read next. -/
def State.startTask (s : State) (b bank : Nat) (w : Start) (map : Tab Byte) : State :=
  (s.emptyTlbs w.task.vi false).modBraid b fun x =>
    let sq := (x.sqNext + 1) % 2 ^ 28
    let t : Task := { w.task with sq, started := x.started, from_ := s.cycle }
    let y : Braid := { x.dropLeases with
      runBank := bank, regs := {}, chain := [], accReady := [], strands := [], merge := [], sqNext := sq, started := x.started + 1 }
    y.setBank bank ((y.bank bank).fresh t w.args map s.cycle)

/-- A task of a launch, its place in the launch yet to be filled in. -/
def Launch.task (l : Launch) (tid rank entry : Nat) : Task :=
  { tid, vi := l.vi, launch := l.uid, entry := BitVec.ofNat 48 entry, m1 := l.m1, m2 := l.m2, m3 := l.m3, phase := 0, bars := [], rank,
    spawned := false, round := none, gain := 0, tvec := BitVec.ofNat 48 l.tvec, wmap := l.wmap, copies := 0, groups := 0, place := 0, gops := 0,
    areaBase := 0, pins := [], started := 0, from_ := 0, sq := 0 }

/-- The launched task of a braid: ENTRY, ARG 0 to 11, the rank, SID, the slot counter at issue (R281). -/
def Launch.start (l : Launch) (rank : Nat) : Start :=
  { task := l.task rank rank l.entry, args := l.args ++ [BitVec.ofNat 64 rank, BitVec.ofNat 64 (if l.kind = 1 then l.sid else 0), BitVec.ofNat 64 l.issueSlot] }

/-- The pins that the sequencer takes for the weight pages of a launch as its task starts, and that go with the task (R231): which of the
superblocks of STABLE pages they are is a free value (log entry 105). -/
def State.weightPins (s : State) (b bank v : Nat) : State :=
  match s.stableBlocks v with
  | [] => s
  | tags => (tags.filter (Config.weightPin s.free)).foldl (fun (st : State) t => st.pinOne b bank t) { s with free := s.free + 1 }

/-- A launched task's delivery has come: it starts, once its step's state is resident (R281, R285, R286). -/
def State.deliverTask (s : State) (uid b : Nat) : State :=
  match s.launch uid with
  | none => s
  | some l =>
    if !(l.deliver.any fun e => e.1 == b && decide (e.2 ≤ s.cycle)) || (l.kind == 1 && !l.resident) || l.preempted then s
    else
      let bank := s.emptyBank b uid
      s.withMap l.vi l.wmap fun s map =>
        let s1 := (s.startTask b bank (l.start (s.arcNo l.vi b - l.braid0)) map).weightPins b bank l.vi
        (s1.modBraid b fun x => { x with reserved := none }).modLaunch uid fun l =>
          { l with deliver := l.deliver.filter fun e => e.1 != b, live := l.live ++ [(b, bank)] }

/-- The spawned task at the head of a braid's device task queue starts (R291 to R293): the braid runs no task and holds none of the
launch, whose tasks there run one after another (DEDUCED, log entry 117), the record's predecessors hold, and 679 cycles have passed
since its TASK retired. -/
def State.startSpawn (s : State) (b : Nat) : State :=
  let x := s.braid b
  match x.taskQ with
  | [] => s
  | r :: rest =>
    match s.launch r.launch with
    | none => s.setBraid b { x with taskQ := rest }
    | some l =>
      let bank := s.emptyBank b l.uid
      if x.outOfService || x.testEnd.isSome || x.b0.mode.occupies || x.b1.mode.occupies || !(x.b0.task.isNone || x.b1.task.isNone) || x.reserved.isSome
          || (s.bankOf b l.uid).isSome || s.cycle < r.retired + 679 || !s.refsHold b x.runBank r.record.preds || l.preempted then s
      else
        let rank := s.arcNo l.vi b - l.braid0
        let slot := if Braid.isEast b then s.clock.slotE else s.clock.slot
        let w : Start := { task := { l.task r.record.tid rank r.record.entry with spawned := true },
                           args := r.record.args ++ [BitVec.ofNat 64 r.record.tid, r.record.gain.setWidth 64, slot] }
        s.withMap l.vi l.wmap fun s map =>
          ((s.modBraid b fun x => { x with taskQ := rest }).startTask b bank w map).modLaunch l.uid fun l =>
            { l with pendingSpawns := l.pendingSpawns - 1, live := l.live ++ [(b, bank)] }

/-- The bank's contexts that run, from the context vector: those whose entry is not 0 (R120); of an entry pc takes bits 47 to 1 (R13). -/
def Bank.vector (k : Bank) (v : List Byte) : Bank :=
  let entry (o : Nat) : Addr := BitVec.ofNat 48 (fieldLe v o 8) &&& ~~~1#48
  let set (c : Ctx) (o : Nat) : Ctx := { c.retired with pc := entry o, began := fieldLe v o 8 != 0 }
  { k with l := set k.l 0, s := set k.s 8, x := { k.x.retired with began := true } }

/-- The braid's part of a start (R120, R135): X's first access reads the context vector; in the sixth cycle the contexts that run
have their issue slots and fetch, the first phase's checkpoint stands, and their first instructions issue in the twelfth (R135 says
by then: DESIGN CHOICE, log entry 115). The vector of an entry below 16 wraps to the top of the 48-bit
space, and its bytes past the end read zero (DESIGN CHOICE, log entry 95). -/
def State.goOn (s : State) (b bank : Nat) : State :=
  let k := s.bank b bank
  if k.mode != .starting || (s.braid b).runBank != bank then s
  else
    let s1 :=
      if k.x.began then s
      else
        match (s.setCur (.ctx b bank .X)).ctxRead ((k.x.pc.toNat + 2 ^ 48 - 16) % 2 ^ 48) 16 0 false with
        | (t, none) => t
        | (t, some v) => t.modBank b bank fun k => k.vector v
    let k1 := s1.bank b bank
    if k1.mode = .starting && k1.x.began && k1.startAt ≤ s.cycle then
      let run (c : Ctx) : Ctx := { c with run := c.began, issueAt := s.cycle + 6 }
      s1.modBank b bank fun k => ({ k with l := run k.l, x := run k.x, s := run k.s, mode := .running } : Bank).checkpoint
    else s1

/-- TASK_START: a launched task on a braid (agent: launch, braid, 0), the head of a device task queue (braid, 0, 1), or the
braid's part of a start (braid, bank, 2) (R120, R135, R281, R291). -/
def execTaskStart (s : State) : Res :=
  let (a, b, c) := s.agent
  match c with
  | 0 => .next (s.deliverTask a b)
  | 1 => .next (s.startSpawn a)
  | _ => .next (s.goOn a b)

/-- The 128 bytes of a task record (R202). -/
def taskImage (r : TaskRec) : List Byte :=
  natLe 4 r.tid ++ natLe 4 r.gain.toNat ++ natLe 6 r.entry ++ natLe 2 (r.heap + 16 * r.kind)
    ++ (r.preds.map fun e => natLe 4 (e.2 + 2 ^ 29 * e.1)).flatten ++ (r.args.map fun a => natLe 8 a.toNat).flatten

/-- A fault that a task record meets after its TASK has retired (R292): in X of the spawner; where the spawner has ended, it ends the
launch, and its record names no task (DESIGN CHOICE, log entry 100). -/
def State.spawnerFault (s : State) (l : Launch) (r : Spawn) (code va : Nat) : State :=
  let f : FaultInfo := { code, src := 0, ctx := .X, epc := 0, va, write := true }
  let k := s.bank r.spawner r.spawnerBank
  match k.task.filter fun t => t.launch == r.launch && t.sq == r.sq with
  | some _ => s.fault r.spawner r.spawnerBank { f with epc := k.x.pc }
  | none => (s.post l.vi (faultRecord f false (s.arcNo l.vi r.spawner) r.spawnerBank l.vi 0xFFFFFFFF l.num s.clock.slot 0 0)).doomLaunch l.uid 256 0 4 6

/-- A record comes to its target: into the device task queue, or the launch's spill area (R291, R292). One of a launch that is cancelled
or discarded, or of a discarded round, goes (R289, R302, R317). A spill whose area is not mapped, or whose table is away, is tried again. -/
def State.queueTask (s : State) (p : Packet) (r : Spawn) : State :=
  let again (x : State) : State := x.later (x.cycle + 64) (ev (.ctrl p))
  match s.launch r.launch with
  | none => s
  | some l =>
    let later := l.spill.any fun q => q.target == r.target
    let void := match r.round with
      | some (key, n) => s.heaps.any fun e => e.1 == key && e.2.launch == l.uid && e.2.voided.contains n
      | none => false
    if l.status ≠ 0 || l.doomed || void then s.modLaunch l.uid fun l => { l with pendingSpawns := l.pendingSpawns - 1 }
    else if (s.braid r.target).taskQ.length < 64 && !later then s.modBraid r.target fun x => { x with taskQ := x.taskQ ++ [r] }
    else if l.tsps * 1024 < 128 * (l.spill.length + 1) then s.spawnerFault l r 3 0
    else
      match s.seqTouch l.vi .seqWrite (l.tspb + 128 * l.spill.length) 128 with
      | (s1, .error (.away _)) => again s1
      | (s1, .error (.fault va 9)) => again (s1.spawnerFault l r 9 va)
      | (s1, .error (.fault va code)) => s1.spawnerFault l r code va
      | (s1, .ok l1) => (s1.homePuts l.vi (l1.zip (taskImage r.record))).modLaunch l.uid fun l => { l with spill := l.spill ++ [r] }

/-- CTRL: a home's report of a prepared packet (R340), the release of a tile load's locks (R249), or a task record (R291, R342). -/
def execCtrl (p : Packet) (s : State) : Res :=
  match p.body with
  | .prepared id => .next { s with events := s.events.map fun e => if e.1 = id then (id, { e.2 with left := e.2.left - 1 }) else e }
  | .unlock b bank ch ask =>
    let held (k : LineLock) : Bool := k.braid == b && k.bank == bank && k.ch == ch && k.ask == ask && sliceStop (64 * k.line) == p.dest
    .next { s with mem := { s.mem with locks := s.mem.locks.filter fun k => !held k } }
  | .spawn r => .next (s.queueTask p r)
  | _ => .next s

/-- TASK_SPILL_RETURN of the agent's launch: the first spilled record whose target's queue has room returns to it (R291). -/
def execTaskSpillReturn (s : State) : Res :=
  match s.launch s.agent.1 with
  | none => .next s
  | some l =>
    match l.spill.find? fun r => decide ((s.braid r.target).taskQ.length < 64) with
    | none => .next s
    | some r =>
      .next ((s.modBraid r.target fun x => { x with taskQ := x.taskQ ++ [r] }).modLaunch l.uid fun l => { l with spill := l.spill.erase r })

end Sys2Proof.Machine
end

