-- ==== Sys2Proof/Machine/HeapUnit.lean ====
section
/-! DEFINITION. The heap units: gain operations, rounds, their tasks and commits (08: R197 to R205; 11: R237; 15: R303, R317). -/

namespace Sys2Proof.Machine

def State.modHeap (s : State) (key : Nat) (f : Heap → Heap) : State :=
  { s with heaps := s.heaps.map fun e => if e.1 = key then (key, f e.2) else e }

/-- HEAP: the operation reaches the heap unit, which answers DONE and holds it, or refuses it (R189, R194, R198, R201). An operation of a
round task belongs to one opening of its round, and goes with it (R302, R317, R331). -/
def execHeap (p : Packet) (s : State) : Res :=
  match p.body with
  | .gain o =>
    let s1 := if p.src = p.dest then s else s.sendCtl p.dest (s.packet 1 p.dest p.src 0 1 .empty)
    let key := 16 * o.die + o.heap
    let (n, s2) := s1.draw
    let refuse : State := s2.later (s.cycle + 1 + n) (ev (.gainRefusal o))
    match s.heap key with
    | none => .next refuse
    | some h =>
      let hold : State := s1.modHeap key fun h => { h with heldOps := h.heldOps ++ [o] }
      match o.round with
      | some r => .next (if h.st == .run && h.roundOpen && !h.paused && r == h.tries && o.launch == h.launch then hold else s1)
      | none => .next (if h.st = .run then refuse else hold)
  | _ => .next s

/-- GAIN_REFUSAL: the invalid-gain fault in the task that issued the operation (R201). -/
def execGainRefusal (o : HeapOp) (s : State) : Res :=
  match (s.bank o.braid o.bank).task with
  | some t =>
    if t.launch = o.launch ∧ t.tid = o.issuer then .next (s.fault o.braid o.bank { code := 18, src := 0, ctx := .X, epc := o.pc })
    else .next s
  | none => .next s

/-- A gain is legal: a number, not negative but for −0 (R201). -/
def gainOk (w : Word32) : Bool := decide (w.toNat ≤ 0x7F800000) || w == 0x80000000
/-- −0 is stored as +0. -/
def plusZero (w : Word32) : Word32 := if w = 0x80000000 then 0 else w
/-- The new gain (R201). -/
def newGain (o : HeapOp) (g : Word32) : Word32 :=
  plusZero (match o.kind with
    | .add => (fl32 false (Fp.sum false [valW g, valW o.x])).1
    | .max => if g.toNat < (plusZero o.x).toNat then o.x else g
    | _ => o.x)
/-- Set a gain, and change the residual by it (R198); also where the new gain is the old one (DESIGN CHOICE, log entry 109). -/
def Heap.regain (h : Heap) (tid : Nat) (g : Word32) : Heap :=
  let old := match h.entries.find? fun e => e.tid == tid with
    | some e => e.gain
    | none => 0
  { h with entries := h.entries.map fun e => if e.tid = tid then { e with gain := g } else e,
           resid := (compStep false h.resid [valW g, (valW old).neg]).1 }
/-- Apply one operation whose operand is legal; none where it would overfill the heap (R201, R202). -/
def Heap.applyOp (h : Heap) (o : HeapOp) : Option Heap :=
  let here := h.entries.any fun e => e.tid == o.target
  match o.kind, o.record with
  | .insert, some r =>
    let x := plusZero r.gain
    if here then
      some (({ h with entries := h.entries.map fun e => if e.tid = o.target then { e with entry := r.entry, args := r.args } else e } : Heap).regain o.target x)
    else if h.cap ≤ h.entries.length then none
    else some (({ h with entries := h.entries ++ [⟨o.target, 0, r.entry, r.args, false⟩] } : Heap).regain o.target x)
  | _, _ =>
    match h.entries.find? fun e => e.tid == o.target with
    | none => some h
    | some e => some (h.regain o.target (newGain o e.gain))
/-- Apply operations in order: the heap, or the one that overfills it. -/
def Heap.applyEach (h : Heap) : List HeapOp → Except HeapOp Heap
  | [] => .ok h
  | o :: r => match h.applyOp o with
    | some h1 => h1.applyEach r
    | none => .error o
/-- Apply a batch: every operation is checked before anything is applied, so that one that is invalid (status 3) goes before one that
overfills (status 4); the heap, or the failure's status and operation (R201, R202). From gains that are legal a legal operand makes
a legal gain, so the operand alone decides. -/
def Heap.applyAll (h : Heap) (l : List HeapOp) : Except (Nat × HeapOp) Heap :=
  match l.find? fun o => !gainOk o.x with
  | some o => .error (3, o)
  | none => match h.applyEach l with
    | .ok h1 => .ok h1
    | .error o => .error (4, o)
/-- A batch in its order (R201). -/
def batchOrder (l : List HeapOp) : List HeapOp :=
  sortBy (fun (a b : HeapOp) => decide (a.issuer < b.issuer) || (a.issuer == b.issuer && decide (a.place ≤ b.place))) l

/-- A batch that cannot be applied: the heap completes, its launch ends faulted, and a record names the operation's issuer (R303). -/
def State.batchFails (s : State) (key status : Nat) (o : HeapOp) : State :=
  match s.heap key with
  | none => s
  | some h =>
    let num := match s.launch h.launch with
      | some l => l.num
      | none => 0
    let f : FaultInfo := { code := if status = 3 then 18 else 3, src := 0, ctx := .X, epc := 0 }
    let s1 := s.post h.vi (faultRecord f false (s.arcNo h.vi o.braid) o.bank h.vi o.issuer num s.clock.slot 0 0)
    (s1.modLaunch h.launch fun l => { l with status := 4 }).completeHeap key status o.issuer o.place

/-- The first entries in heap order with a gain above 0 (R198, R199). -/
def Heap.pop (h : Heap) : List HEntry :=
  (heapOrder (h.entries.filter fun e => decide (0 < e.gain.toNat))).take h.k
/-- A round begins: the pop, placed by task id (R199). -/
def Heap.open_ (h : Heap) : Heap :=
  let p := h.pop
  { h with
    entries := h.entries.map fun e => if p.any fun q => q.tid == e.tid then { e with popped := true } else e,
    popped := (sortBy (fun (a b : HEntry) => decide (a.tid ≤ b.tid)) p).map fun e => (e.tid, e.gain, e.entry, e.args),
    started := [], ended := [], parts := [], roundOpen := true, tries := h.tries + 1 }

/-- The launch's own tasks on the heap's members have ended (R198). -/
def State.fillOver (s : State) (h : Heap) : Bool :=
  match s.launch h.launch with
  | none => true
  | some l =>
    l.issued && !(l.deliver.any fun e => h.members.contains e.1) && h.members.all fun b => (upto 0 2).all fun i =>
      match (s.bank b i).task with
      | some t => t.launch != l.uid || t.spawned
      | none => true

/-- The round's commit event begins, or its fault ends the launch (R199, R234, R236, R303). -/
def State.commitRound (s : State) (key : Nat) (h : Heap) : State :=
  let ps := sortBy Part.before h.parts
  match eventCheck h.level ps with
  | none => (s.openEvent h.level h.vi (some (key / 16, key % 16)) ps).modHeap key fun h => { h with committing := true }
  | some (p, f) =>
    let num := match s.launch h.launch with
      | some l => l.num
      | none => 0
    let s1 := s.post h.vi (faultRecord f false (s.arcNo h.vi p.braid) p.bank h.vi p.tid num s.clock.slot 0 0)
    s1.doomLaunch h.launch p.braid p.bank 4 6

/-- Round step 5 and 6: the batch, the count, the tests (R199, R203). -/
def State.updateRound (s : State) (key : Nat) (h : Heap) : State :=
  match h.applyAll (batchOrder h.heldOps) with
  | .error (status, o) => s.batchFails key status o
  | .ok h1 =>
    let r := (pairWord h1.resid).1
    let h2 : Heap := { h1 with heldOps := [], updating := false, roundOpen := false, popped := [], started := [], ended := [], round := h1.round + 1, r }
    let s1 := s.modHeap key fun _ => h2
    let below := match valW r, valW h.tol with
      | .nan _, _ => false
      | a, b => Fp.lt a b
    if below then s1.completeHeap key 0 0 0
    else if h2.round = h2.maxr then s1.completeHeap key 2 0 0
    else s1

/-- HEAP_RUN of the agent's heap (die, number): from FILL into RUN, then from step to step of its rounds (R198, R199). A round may still be
popped between the boundary that pre-empts the launch and the request that pauses the heap (R315, R331; DESIGN CHOICE, log entry 116). -/
def execHeapRun (s : State) : Res :=
  let key := 16 * s.agent.1 + s.agent.2.1
  match s.heap key with
  | none => .next s
  | some h =>
    match h.st with
    | .done => .next s
    | .fill =>
      if !s.fillOver h then .next s
      else
        match h.applyAll (batchOrder h.heldOps) with
        | .error (status, o) => .next (s.batchFails key status o)
        | .ok h1 => .next (s.modHeap key fun _ => { h1 with st := .run, heldOps := [], r := (pairWord h1.resid).1 })
    | .run =>
      if h.updating then .next (s.updateRound key h)
      else if h.committing || h.paused then .next s
      else if !h.roundOpen then
        if h.pop.isEmpty then .next (s.completeHeap key 1 0 0)
        else .next (s.modHeap key Heap.open_)
      else if h.ended.length = h.popped.length then .next (s.commitRound key h)
      else .next s

/-- The first entry of a member's overflow area beyond those that its halted round tasks hold (R237). -/
def areaUsed (l : List Part) : Nat :=
  ((l.map fun p => p.lines ++ (p.tiles.map fun t => t.lines).flatten).flatten.filterMap MLine.slot).foldl (fun m e => max m (e + 1)) 0
/-- ROUND_TASK_START of the agent's place (die, heap, place): after the member's task before it has ended, on its free braid; member j's
tasks use the overflow area of rank j (R199, R200, R237, R331). -/
def execRoundTaskStart (s : State) : Res :=
  let (die, n, i) := s.agent
  let key := 16 * die + n
  match s.heap key with
  | none => .next s
  | some h =>
    match s.launch h.launch, h.popped[i]? with
    | some l, some (tid, gain, entry, args) =>
      let m := h.members.length
      let j := i % m
      let b := h.members.getD j 0
      let x := s.braid b
      let ready := h.roundOpen && !h.committing && !h.updating && !h.paused && !h.started.contains i && (i < m || h.ended.contains (i - m))
        && !l.doomed && !l.preempted && !x.outOfService && !x.b0.mode.occupies && !x.b1.mode.occupies && (x.b0.task.isNone || x.b1.task.isNone)
        && (s.bankOf b l.uid).isNone
      if !ready then .next s
      else
        let t : Task := { l.task tid j entry with
          m1 := l.m1 || h.level == 1, m2 := l.m2 || h.level == 2, round := some (die, n, i), gain, areaBase := areaUsed (h.parts.filter fun p => p.braid == b) }
        let w : Start := { task := t, args := args ++ [BitVec.ofNat 64 tid, gain.setWidth 64, BitVec.ofNat 64 h.round] }
        let bank := s.emptyBank b l.uid
        .next (s.withMap l.vi l.wmap fun s map =>
          ((s.startTask b bank w map).modHeap key fun h => { h with started := i :: h.started }).modLaunch l.uid fun l =>
            { l with live := l.live ++ [(b, bank)] })
    | _, _ => .next s

end Sys2Proof.Machine
end

