-- ==== Sys2Proof/Machine/Prefix.lean ====
section
/-! DEFINITION. The prefix table and its operations (13: R295, R296; 14: R297, R298). -/

namespace Sys2Proof.Machine

/-- Table entries of an interface: number and entry (R295). -/
def State.prefixOf (s : State) (v : Nat) : List (Nat × PEntry) := s.prefix_.filter fun e => e.1 / 64 == v
/-- The entry that holds a hash and an index. -/
def State.prefixFind (s : State) (v : Nat) (h : Word64) (i : Nat) : Option (Nat × PEntry) :=
  (s.prefixOf v).find? fun e => e.2.h == h && e.2.index == i
def State.prefixPut (s : State) (n : Nat) (e : PEntry) : State := { s with prefix_ := tput s.prefix_ n e }

/-- The result line (R296, R298). -/
def resultLine (rstat : Nat) : Option PEntry → List Byte
  | none => natLe 4 rstat ++ List.replicate 60 0
  | some e => natLe 4 rstat ++ natLe 4 e.index ++ natLe 4 e.handle ++ natLe 4 e.hits ++ natLe 8 e.h.toNat ++ List.replicate 40 0

/-- The sequencer's FREEH: no effect on a handle no longer held (R296). -/
def Iface.freeQuiet (i : Iface) (h : Nat) : Iface := match i.freehOp h with
  | .ok (j, _) => j
  | .error _ => i
/-- The interface holds a handle; the empty handle always is (R268). -/
def Iface.holdsHandle (i : Iface) (h : Nat) : Bool := h == emptyHandle || thas i.handles h

/-- The longest hit of a hash list: entries tried from the largest index down. -/
def State.longest (s : State) (v : Nat) (hs : List Byte) : Nat → Option (Nat × PEntry)
  | 0 => none
  | n + 1 => match s.prefixFind v (BitVec.ofNat 64 (fieldLe hs (8 * n) 8)) (n + 1) with
    | some e => some e
    | none => s.longest v hs n

/-- An operation's end: its result line and its launch's status (R290, R296). -/
def State.prefixDone (s : State) (l : Launch) (rstat : Nat) (e : Option PEntry) : State :=
  match s.seqWrite l.vi l.res (resultLine rstat e) with
  | (s1, .ok _) => s1.endLaunch l.uid 0
  | (s1, .error _) => s1.endLaunch l.uid 3

/-- The launch of a prefix operation of one kind that has issued and is not over. -/
def State.prefixLaunch (s : State) (op : Nat) : Option Launch :=
  (s.launch s.agent.1).filter fun l => l.kind == 3 && l.issued && !l.finished && l.op == op

/-- PREFIX_LOOKUP of the agent's launch (R296). -/
def execPrefixLookup (s : State) : Res :=
  match s.prefixLaunch 0 with
  | none => .next s
  | some l =>
    if s.resOk l.vi l.res ≠ some true then .next (s.endLaunch l.uid 3)
    else
      match s.longest l.vi l.hashes l.n with
      | none => .next (s.prefixDone l 1 none)
      | some (n, e) =>
        if e.pin = 65535 then .next (s.prefixDone l 3 none)
        else
          let e1 : PEntry := { e with pin := e.pin + 1, hits := (e.hits + 1) % 2 ^ 32 }
          .next ((s.prefixPut n e1).prefixDone l 0 (some e1))

/-- The number of the entry a new pair takes: the lowest free one, else the unpinned one of least HITS, then lowest number (R296). -/
def State.prefixSlot (s : State) (v : Nat) : Option Nat :=
  match (upto (64 * v) 64).find? fun n => !thas s.prefix_ n with
  | some n => some n
  | none =>
    ((s.prefixOf v).filter fun e => e.2.pin == 0).foldl (fun (best : Option (Nat × Nat)) e => match best with
      | none => some (e.1, e.2.hits)
      | some b => if e.2.hits < b.2 then some (e.1, e.2.hits) else some b) none |>.map Prod.fst

/-- PREFIX_INSERT of the agent's launch (R296). -/
def execPrefixInsert (s : State) : Res :=
  match s.prefixLaunch 1 with
  | none => .next s
  | some l =>
    if s.resOk l.vi l.res ≠ some true then .next (s.endLaunch l.uid 3)
    else if !(s.ifaceD l.vi).holdsHandle l.handle then .next (s.prefixDone l 4 none)
    else
      match s.prefixFind l.vi l.hash l.n with
      | some (_, e) => .next ((s.modIface l.vi fun i => i.freeQuiet l.handle).prefixDone l 0 (some e))
      | none =>
        match s.prefixSlot l.vi with
        | none => .next (s.prefixDone l 2 none)
        | some n =>
          let s1 := if thas s.prefix_ n then s.modIface l.vi fun i => i.freeQuiet (tget ⟨0, 0, emptyHandle, 0, 0⟩ s.prefix_ n).handle else s
          let e : PEntry := ⟨l.hash, l.n, l.handle, 0, 0⟩
          .next ((s1.prefixPut n e).prefixDone l 0 (some e))

/-- PREFIX_UNPIN of the agent's launch (R296). -/
def execPrefixUnpin (s : State) : Res :=
  match s.prefixLaunch 2 with
  | none => .next s
  | some l =>
    if s.resOk l.vi l.res ≠ some true then .next (s.endLaunch l.uid 3)
    else
      match s.prefixFind l.vi l.hash l.n with
      | none => .next (s.prefixDone l 4 none)
      | some (n, e) =>
        if e.pin = 0 then .next (s.prefixDone l 4 none)
        else
          let e1 : PEntry := { e with pin := e.pin - 1 }
          .next ((s.prefixPut n e1).prefixDone l 0 (some e1))

end Sys2Proof.Machine
end

