-- ==== Sys2Proof/Machine/Banks.lean ====
section
/-! DEFINITION. Suspension, resumption, bank switches, preemption, cancellation, discard, braid stall (13: R289; 15: R302 to R308, R313, R316 to R319;
17: R349). -/

namespace Sys2Proof.Machine

/-- Save area of a braid and bank (R313, R364). -/
def State.saveArea (s : State) (b bank : Nat) : Nat := s.cfg.saveBase + Config.saveBytes * (2 * b + bank)
/-- Write the strand registers to the save area, under the key of the task's interface: bytes 0 to 63 and from 1,408 on (R232, R313). -/
def State.saveRegs (s : State) (b bank : Nat) : State :=
  let x := s.braid b
  let v := (s.bank b bank).vi
  let a := s.saveArea b bank
  (s.homePuts v (atAddr a (saveHead [] x.regs))).homePuts v (atAddr (a + 1408) (saveTail x.regs x.spbs))
/-- Read them back (R306, R313). -/
def State.restoreRegs (s : State) (b bank : Nat) : State :=
  let a := s.saveArea b bank
  let v := (s.bank b bank).vi
  let (r, spb) := loadImage (s.homeBytes v a 64) (s.homeBytes v (a + 1408) (Config.saveBytes - 1408))
  s.modBraid b fun x => x.loadRegs r spb

/-- Serve the light fault an access would take (R222); whether its table entries are there. -/
def State.serveAt (s : State) (v b : Nat) (a : Acc) (va : Nat) : State × Bool :=
  match s.translate v b a va with
  | .light entry w => (s.serveLight v entry w, true)
  | .away ln => (s.askHost ln false, false)
  | _ => (s, true)
/-- Spill a bank's merge buffer, least recently written first (R226, R305); light faults on the area are served; the first other stop. -/
def State.spillAll (s : State) (b bank : Nat) : List MLine → State × Option Stop
  | [] => (s, none)
  | l :: r =>
    let k := s.bank b bank
    andThen ((s.serveAt k.vi b .area ((s.areaOf k).1 + 128 * k.freeEntry)).1.spill b bank l) fun st => st.spillAll b bank r

/-- An instruction in progress counts as not issued (R305), but an AMO that has been sent is sent once (R244). -/
def Ctx.unissued (c : Ctx) : Ctx := { c.retired with amo := c.amo, amoOld := c.amoOld }
def Bank.unissued (k : Bank) : Bank := { k with l := k.l.unissued, x := k.x.unissued, s := k.s.unissued, t := k.t.unissued }
/-- Something of a bank that is to be saved is still under way: a job, an instruction short of its boundary, a copy's piece, the Reeve's
command; the cycle of its fault itself is not over (R300, R305, R316). -/
def State.bankBusy (s : State) (b bank : Nat) : Bool :=
  let k := s.bank b bank
  ((s.braid b).jobsOpen.any fun j => j.bank == bank) || k.l.midway || k.x.midway || k.s.midway || k.t.midway
    || (k.chans.any fun e => e.2.asked) || k.rv.running || (k.mode == .suspending && k.susp.any fun u => u.cycle == s.cycle)

/-- SUSPEND of the agent's braid and bank: once nothing of it is under way, the bank is saved (R305, R316). Lines whose area is not mapped
stay with the bank, which is suspended by the area's own fault; while the area's table is away, it waits. -/
def execSuspend (s : State) : Res :=
  let (b, bank, _) := s.agent
  let x := s.braid b
  let k := x.bank bank
  let goes := k.mode == .suspending || k.mode == .preempting || k.mode == .switching
  let aside (st : State) (m : Mode) (u : Option Susp) : State :=
    let st1 := (st.closeUse b bank).modBraid b fun x =>
      x.setBank bank ({ x.bank bank with
        mode := m, susp := u, parked := if x.runBank = bank then x.merge else (x.bank bank).parked,
        preempts := if k.mode = .preempting then k.preempts + 1 else k.preempts } : Bank).unissued
    st1.modBraid b fun x => if x.runBank = bank then { x with merge := [] } else x
  if !goes || s.bankBusy b bank then .next s
  else
    match (s.saveRegs b bank).spillAll b bank (if x.runBank = bank then x.merge.reverse else []) with
    | (s1, none) => .next (aside s1 (if k.mode = .suspending then .suspended else .preempted) k.susp)
    | (s1, some (.away _)) => .next s1
    | (s1, some (.fault va code)) =>
      let f : FaultInfo := { code, src := 0, ctx := .X, epc := k.x.pc, va, write := true }
      if resumable code then
        let u : Susp := { code, src := 0, ctx := .X, epc := k.x.pc, write := true, va, token := none, posted := false, answered := false, cycle := s.cycle }
        .next (aside (s1.contend k.vi f) .suspended (some (k.susp.getD u)))
      else .next (s1.raise b bank f)

/-- The fault a bank is suspended by. -/
def Susp.info (u : Susp) : FaultInfo := { code := u.code, src := u.src, ctx := u.ctx, epc := u.epc, va := u.va, write := u.write }
/-- The host refuses, or the record cannot be posted: the host-refusal fault in the held instruction's context (R305, R349). -/
def State.refuse (s : State) (b bank : Nat) (u : Susp) : State := s.raise b bank { u.info with code := 28 }
def State.modSusp (s : State) (b bank : Nat) (f : Susp → Susp) : State := s.modBank b bank fun k => { k with susp := k.susp.map f }

/-- TOKEN_RECORD_POST of the agent's braid and bank: the record of a page-not-present fault goes to the host with a TOKEN; it
waits for ring space (R305, R349). -/
def execTokenRecordPost (s : State) : Res :=
  let (b, bank, _) := s.agent
  let k := s.bank b bank
  match k.susp with
  | none => .next s
  | some u =>
    if k.mode ≠ .suspended || u.code ≠ 9 || u.posted then .next s
    else
      let v := k.vi
      let tok := u.token.getD (s.ifaceD v).token
      let s1 := if u.token.isSome then s else
        (s.modIface v fun i => { i with token := (tok + 1) % 2 ^ 32 }).modSusp b bank fun u => { u with token := some tok }
      match s1.postTry v (s1.recordFault b bank u.info tok) with
      | (s2, .done) => .next (s2.modSusp b bank fun u => { u with posted := true })
      | (s2, .dropped) => .next (s2.refuse b bank u)
      | (s2, _) => .next s2

/-- The suspended bank whose unanswered TOKEN a number is (R349). -/
def State.tokenBank (s : State) (v tok : Nat) : Option (Nat × Nat × Susp) :=
  s.braids.findSome? fun e => (upto 0 2).findSome? fun i =>
    let k := e.2.bank i
    match k.susp with
    | some u => if k.mode = .suspended && k.vi = v && u.token = some tok && u.posted && !u.answered then some (e.1, i, u) else none
    | none => none
/-- TOKEN_RETRY: the bank may run again (R305). -/
def execTokenRetry (v tok : Nat) (s : State) : Res :=
  match s.tokenBank v tok with
  | none => .next s
  | some (b, i, _) => .next (s.modSusp b i fun u => { u with answered := true })
/-- TOKEN_REFUSE (R305). -/
def execTokenRefuse (v tok : Nat) (s : State) : Res :=
  match s.tokenBank v tok with
  | none => .next s
  | some (b, i, u) => .next (s.refuse b i u)

/-- What a bank's held access is, for its light fault. -/
def Susp.access (u : Susp) : Acc := if u.write then .seqWrite else .seqRead
/-- LIGHT_FAULT of the agent's braid and bank: the home's memory processor sets A, or A and D; the bank may run again (R222, R305). -/
def execLightFault (s : State) : Res :=
  let (b, bank, _) := s.agent
  let k := s.bank b bank
  match k.susp with
  | none => .next s
  | some u =>
    if k.mode ≠ .suspended || u.code ≠ 10 || u.answered then .next s
    else
      match s.serveAt k.vi b u.access u.va with
      | (s1, true) => .next (s1.modSusp b bank fun u => { u with answered := true })
      | (s1, false) => .next s1

/-- A bank runs again: its strand registers come back, with the lines its spill has left; DOMAIN and HOST lines leave the L1; a channel
that a resumable fault has stopped tries its piece again (R305, R306). -/
def State.resumeBank (s : State) (b bank : Nat) : State :=
  (s.restoreRegs b bank).modBraid b fun x =>
    let y : Braid := { (if x.runBank = bank then x else x.dropLeases) with runBank := bank, merge := (x.bank bank).parked }
    let k := y.bank bank
    y.setBank bank { k with
      mode := if k.x.began then .running else .starting, susp := none, yielded := false, startAt := s.cycle, parked := [],
      chans := k.chans.map fun e => (e.1, { e.2 with stalled := false }),
      task := k.task.map fun t => { t with from_ := s.cycle } }

/-- Of two banks, the one whose task started first (R306). -/
def Braid.firstBank (x : Braid) : Nat :=
  match x.b0.task, x.b1.task with
  | some a, some b => if b.started < a.started then 1 else 0
  | none, some _ => 1
  | _, _ => 0

/-- Of two runnable banks, the one to run: the one whose task started first (R306), but after a YIELD the other one (R311; DEDUCED, log
entry 101). -/
def Braid.nextBank (x : Braid) : Nat :=
  if (x.bank x.runBank).yielded then 1 - x.runBank
  else if (x.bank x.firstBank).yielded then 1 - x.firstBank
  else x.firstBank

/-- BANK_SWITCH on the agent's braid: a runnable bank runs where none does; and one whose task started first displaces the other (R306). -/
def execBankSwitch (s : State) : Res :=
  let b := s.agent.1
  let x := s.braid b
  let r0 := s.runnable b 0
  let r1 := s.runnable b 1
  if x.outOfService || x.reserved.isSome || x.testAsked || x.testEnd.isSome then .next s
  else if !x.b0.mode.occupies && !x.b1.mode.occupies then
    if r0 && r1 then .next (s.resumeBank b x.nextBank)
    else if r0 then .next (s.resumeBank b 0)
    else if r1 then .next (s.resumeBank b 1)
    else .next s
  else
    let first := x.firstBank
    let k := x.bank (1 - first)
    if (if first = 0 then r0 else r1) && !(x.bank first).yielded && k.mode == .running && k.task.isSome then
      .next (s.modBank b (1 - first) fun k => { k with mode := .switching, yielded := true })
    else .next s

/-- The heap of a launch that has not completed. -/
def State.heapOf (s : State) (uid : Nat) : Option (Nat × Heap) := s.heaps.find? fun e => e.2.launch == uid && e.2.st != .done
/-- A bank's open phase goes and its task with it, without a fault (R289, R317). -/
def State.stopTask (s : State) (b bank : Nat) : State :=
  ((s.modBank b bank Bank.stopAll).dropPhase b bank).endTask b bank
/-- Task records of a launch that no target has started go (R302). -/
def State.dropSpawns (s : State) (uid : Nat) (p : Spawn → Bool) : State :=
  let gone (r : Spawn) : Bool := r.launch == uid && p r
  let queued := (s.braids.map fun e => (e.2.taskQ.filter gone).length).sum
  ({ s with braids := s.braids.map fun e => (e.1, { e.2 with taskQ := e.2.taskQ.filter fun r => !gone r }) } : State).modLaunch uid fun l =>
    { l with spill := l.spill.filter fun r => !gone r, pendingSpawns := l.pendingSpawns - queued - (l.spill.filter gone).length }
/-- R317, R331: the round of a preempted launch is discarded on every member, the task records of its tasks with it, and will run again. -/
def State.pauseRound (s : State) (uid : Nat) : State :=
  match s.heapOf uid with
  | none => s
  | some (key, h) =>
    if h.paused then s
    else
      let tasks := match s.launch uid with
        | some l => (s.banksOf l).filter fun (e : Nat × Nat) => match (s.bank e.1 e.2).task with
          | some t => t.round.isSome
          | none => false
        | none => []
      let s1 := tasks.foldl (fun (st : State) e => st.stopTask e.1 e.2) s
      let applied := s1.events.any fun e => e.2.begun && e.2.round == some (key / 16, key % 16)
      let s2 : State := if applied then s1 else
        { s1 with events := s1.events.filter fun e => e.2.round != some (key / 16, key % 16) }
      let pause (h : Heap) : Heap := { h with paused := true }
      if applied || h.updating then s2.modHeap key pause
      else
        let void (h : Heap) : Heap :=
          { pause h with roundOpen := false, committing := false, popped := [], started := [], ended := [], parts := [],
                         heldOps := h.heldOps.filter fun o => o.round.isNone, voided := if h.roundOpen then h.tries :: h.voided else h.voided }
        (s2.dropSpawns uid fun r => r.round == some (key, h.tries)).modHeap key void

/-- PREEMPTION of the agent's launch on one of its braids (R316, R317): a task whose bank is saved already, or is being saved for another
reason, counts the pre-emption at once; the others when they are saved. -/
def execPreemption (s : State) : Res :=
  let (uid, b, _) := s.agent
  let s1 := (s.modLaunch uid fun l => { l with requests := l.requests.filter (· ≠ b) }).pauseRound uid
  let s2 := s1.modBraid b fun x => { x with reserved := if x.reserved = some uid then none else x.reserved }
  match s2.bankOf b uid with
  | none => .next s2
  | some i => .next (s2.modBank b i fun k =>
      if k.mode = .running || k.mode = .starting || k.mode = .switching then { k with mode := .preempting }
      else { k with preempts := k.preempts + 1 })

/-- LAUNCH_RESUME of the agent's die: the preempted launch it selects goes on where it stopped (R318). -/
def execLaunchResume (s : State) : Res :=
  let east := s.agent.1 == 1
  match s.chosen east with
  | none => .next s
  | some l =>
    if !l.issued then .next s
    else
      let s1 := s.modLaunch l.uid fun m => { m with preempted := false }
      let s2 := (s.banksOf l).foldl (fun (st : State) e => if (st.bank e.1 e.2).mode = .preempted then st.resumeBank e.1 e.2 else st) s1
      let s3 := l.deliver.foldl (fun (st : State) e => st.modBraid e.1 fun x => { x with reserved := some l.uid }) s2
      match s3.heapOf l.uid with
      | some (key, _) => .next (s3.modHeap key fun h => { h with paused := false })
      | none => .next s3

/-- A cancelled task stops: its open phase goes and one record with code 25 is posted (R289, R304, R319). -/
def State.cancelTask (s : State) (b bank : Nat) : State :=
  let k := s.bank b bank
  match k.task with
  | none => s
  | some t =>
    let f : FaultInfo := { code := 25, src := 0, ctx := .X, epc := k.x.pc }
    let s1 := s.post t.vi (s.recordFault b bank f 0)
    let s2 := s1.modLaunch t.launch (·.lose b)
    (s2.stopTask b bank).idleRest b bank

/-- CANCELLATION reaching one of a launch's braids (agent: launch, braid, 0): nothing further starts there, and a task with no job
open, or a trapped one, stops at once; a task whose job was open (agent: braid, bank, 1) stops once it has reached its rendezvous (R289,
R319). -/
def execCancellation (s : State) : Res :=
  let (a, b, again) := s.agent
  if again = 1 then
    .next (if (s.bank a b).mode == .cancelling && !s.jobIn a b then s.cancelTask a b else s)
  else
    let s0 := match s.heapOf a with
      | some (key, _) => s.completeHeap key 5 0 0
      | none => s
    let s1 := s0.modBraid b fun x =>
      { x with reserved := if x.reserved = some a then none else x.reserved, taskQ := x.taskQ.filter fun r => r.launch != a }
    let s2 := s1.modLaunch a fun l =>
      { l with deliver := l.deliver.filter fun e => e.1 != b, spill := [], pendingSpawns := 0, stopSlot := s.slotOf l.east }
    match s2.bankOf b a with
    | none => .next s2
    | some i =>
      if s2.jobIn b i && !(s2.bank b i).tActive then .next (s2.modBank b i fun k => { k with mode := .cancelling })
      else .next (s2.cancelTask b i)

/-- DISCARD reaching a task of a faulted launch (agent: launch, braid): it stops, and its open phase goes (R302, R303). -/
def execDiscard (s : State) : Res :=
  let (uid, b, _) := s.agent
  match s.bankOf b uid with
  | none => .next s
  | some i => .next (((s.modLaunch uid (·.lose b)).stopTask b i).idleRest b i)

/-- A context that counts toward a stall (R308). -/
def Ctx.stalls (c : Ctx) : Bool := !c.run || (match c.wait with
  | .queue | .jobSpace | .jobWait | .halt => true
  | _ => false)
/-- A channel's queue is empty (R308). -/
def Bank.idleChannel (k : Bank) (ch : Nat) : Bool := if ch = 4 then k.rv.queue.isEmpty else (k.chan ch).queue.isEmpty
/-- The conditions of R308 in this cycle. -/
def State.stalled (s : State) (b : Nat) : Bool :=
  let x := s.braid b
  let bank := x.runBank
  let k := x.bank bank
  let ctxs := if k.tActive then [k.t] else [k.l, k.x, k.s]
  let head := match k.jobs with
    | [] => true
    | j :: _ =>
      (j.conds.all fun c => condKind c != 3 || x.condHolds bank j.conds c)
        && (j.preds.all fun e => s.refHolds b bank e.1 e.2 || e.1 == 5 || (decide (e.1 ≤ 4) && k.idleChannel e.1))
  k.mode == .running && k.task.isSome && ctxs.any (·.run) && ctxs.all Ctx.stalls && !s.jobIn b bank && head
    && (k.chans.all fun e => e.2.queue.isEmpty) && k.rv.queue.isEmpty

/-- BRAID_STALL on the agent's braid: counts the cycles its running bank has stalled; the 4,096th raises the fault in X (R308). -/
def execBraidStall (s : State) : Res :=
  let b := s.agent.1
  let bank := (s.braid b).runBank
  let k := s.bank b bank
  if !s.stalled b then .next (if k.stall = 0 then s else s.modBank b bank fun k => { k with stall := 0 })
  else if k.stall + 1 < 4096 then .next (s.modBank b bank fun k => { k with stall := k.stall + 1 })
  else .next ((s.modBank b bank fun k => { k with stall := 0 }).raise b bank { code := 22, src := 0, ctx := .X, epc := k.x.pc })

end Sys2Proof.Machine
end

