-- ==== Sys2Proof/Machine/SlotClock.lean ====
section
/-! DEFINITION. The slot clock: boundaries, SLOTREF, announcements to East, deadlines and preemption at a boundary (13: R287 to R289; 15: R315; 17: R341). -/

namespace Sys2Proof.Machine

/-- Reference time of the present cycle in ns (R9, R367). -/
def State.nowNs (s : State) : Nat := s.cycle * 10 / 23
/-- Crossing A carries messages now. -/
def State.crossingUp (s : State) : Bool := (s.crossing 0).width != 0 && !(s.crossing 0).training

/-- West's next boundary (R287, R341): the announced instant if East has acknowledged it 100 ns before, else PERIOD after the last. -/
def State.dueW (s : State) : Nat :=
  let c := s.clock
  let plain := c.lastW + s.cfg.period
  match c.announced, c.acked with
  | some (n, t), some (m, at_) => if n = c.slot.toNat + 1 ∧ m = n ∧ at_ + Config.nsCycles 100 ≤ Config.nsCycles t then t else plain
  | _, _ => plain
/-- East's next boundary, and whether an announcement names it (R341). -/
def State.dueE (s : State) : Nat × Bool :=
  let c := s.clock
  match c.heard with
  | some (n, t) => if n = c.slotE.toNat + 1 then (t, true) else (c.lastE + s.cfg.period, false)
  | none => (c.lastE + s.cfg.period, false)

/-- West sends East the next boundary's number and instant over crossing A; over a crossing that is down or retrains it is lost (R341). -/
def State.announce (s : State) : State :=
  let c := s.clock
  let num := c.slot.toNat + 1
  let tick := (((c.lastW + s.cfg.period : Nat) : Int) + c.slew).toNat
  let s1 : State := { s with clock := { c with announced := some (num, tick), slew := 0 } }
  if s.crossingUp then s1.later (s.cycle + s.crossLat 0) (ev (.slotAnnouncement num tick)) else s1

/-- What a boundary does to a launch of its sequencer (R288): expiry before issue, or cancellation nine cycles on. -/
def State.deadline (s : State) (slot : Nat) (l : Launch) : State :=
  if l.finished || l.deadline = 0 || slot < l.deadline then s
  else if !l.issued then s.endLaunch l.uid 2
  else if l.kind = 3 || l.status ≠ 0 || s.launchOver l then s
  else
    let s1 := s.modLaunch l.uid fun m => { m with status := 1 }
    l.phys.foldl (fun (st : State) b => st.later (st.cycle + 9) (.event .cancellation l.uid b 0)) s1

/-- Launches that occupy a braid. -/
def State.occupants (s : State) (b : Nat) : List Nat :=
  let x := s.braid b
  let of (k : Bank) : List Nat := match k.task with
    | some t => if k.mode.occupies then [t.launch] else []
    | none => []
  let res := match x.reserved with
    | some u => [u]
    | none => []
  let kept := (s.launches.filter fun l => l.kind == 2 && l.issued && !l.finished && !l.preempted && l.phys.contains b).map fun l => l.uid
  distinct (of x.b0 ++ of x.b1 ++ res ++ kept)
/-- The launches that a record of the ready set preempts, if it may (R315, R318). A braid whose device task queue is not empty is not
merely occupied (DESIGN CHOICE, log entry 119); a bank that holds a task of the record's own launch, itself pre-empted before, is not
free (log entry 118). -/
def State.preempts (s : State) (l : Launch) (slot : Nat) : Option (List Launch) :=
  let ready := l.inReady && l.kind != 3 && decide (l.release ≤ slot) && !s.admin.linkDown && !l.doomed && l.status == 0 && l.requests.isEmpty
  let uids := distinct ((l.phys.map s.occupants).flatten)
  let ls := uids.filterMap s.launch
  let banksFree := l.phys.all fun b => let x := s.braid b; x.b0.task.isNone || x.b1.task.isNone
  let onlyBusy := l.phys.all fun b => let x := s.braid b; !x.outOfService && (l.issued || x.taskQ.isEmpty) && x.testEnd.isNone && !x.testAsked
  if ready && !uids.isEmpty && banksFree && onlyBusy && ls.all fun m => m.pre && decide (l.prio < m.prio) && !m.preempted && m.status == 0 then some ls
  else none
/-- At a boundary, the first such record's request goes to every braid of the launches it preempts, nine cycles on (R315, R316). -/
def State.preemptAt (s : State) (east : Bool) (slot : Nat) : State :=
  match s.firstOf (s.launches.filter fun l => l.east == east && (s.preempts l slot).isSome) with
  | none => s
  | some l =>
    match s.preempts l slot with
    | none => s
    | some ls => ls.foldl (fun (st : State) (m : Launch) =>
        m.phys.foldl (fun (st : State) b => st.later (st.cycle + 9) (.event .preemption m.uid b 0))
          (st.modLaunch m.uid fun m => { m with preempted := true, requests := m.phys })) s

/-- A boundary for a die's sequencer. -/
def State.atBoundary (s : State) (east : Bool) : State :=
  let slot := s.slotOf east
  let mine := s.launches.filter fun l => l.east == east
  (mine.foldl (fun (st : State) l => st.deadline slot l) s).preemptAt east slot

/-- SLOT_BOUNDARY of the agent's die (0 West, 1 East): where its instant has come, the counter increases (R287, R288, R341). -/
def execSlotBoundary (s : State) : Res :=
  let c := s.clock
  if !s.boot.ready then .next s
  else if s.agent.1 = 0 then
    let t := s.dueW
    if s.cycle < Config.nsCycles t then .next s
    else
      let s1 : State := { s with clock := { c with slot := c.slot + 1, lastW := t, cycleW := s.cycle } }
      .next (s1.announce.atBoundary false)
  else
    let (t, told) := s.dueE
    if s.cycle < Config.nsCycles t then .next s
    else
      let s1 : State := { s with clock := { c with slotE := c.slotE + 1, lastE := t, cycleE := s.cycle, errE := c.errE || !told } }
      .next (s1.atBoundary true)

/-- SLOTREF: an edge slews the next boundary by at most 10 ns; one more than 1,000 ns off records the error (R287). -/
def execSlotref (offset : Int) (s : State) : Res :=
  if s.cfg.dmode = 0 then .next s
  else
    let bad := decide (1000 < offset.natAbs)
    let slew : Int := if bad then 0 else max (-10) (min 10 offset)
    .next { s with clock := { s.clock with errW := bad, slew, lastEdge := s.cycle } }

/-- SLOTREF_TIMEOUT: no edge within 2·PERIOD (R287). -/
def execSlotrefTimeout (s : State) : Res :=
  if s.cfg.dmode = 1 && s.boot.ready && decide (s.clock.lastEdge + Config.nsCycles (2 * s.cfg.period) < s.cycle) && !s.clock.errW then
    .next { s with clock := { s.clock with errW := true, slew := 0 } }
  else .next s

/-- SLOT_ANNOUNCEMENT reaches East, which acknowledges it; one that agrees with its counter ends SLOTERR (R341). -/
def execSlotAnnouncement (num tick : Nat) (s : State) : Res :=
  let c := s.clock
  let s1 : State := { s with clock := { c with heard := some (num, tick), errE := c.errE && num != c.slotE.toNat + 1 } }
  .next (if s.crossingUp then s1.later (s.cycle + s.crossLat 0) (ev (.slotAck num)) else s1)

/-- SLOT_ACK reaches West (R341). -/
def execSlotAck (num : Nat) (s : State) : Res := .next { s with clock := { s.clock with acked := some (num, s.cycle) } }

end Sys2Proof.Machine
end

