-- ==== Sys2Proof/Machine/Reliability.lean ====
section
/-! DEFINITION. Scrubbing, the in-field test, clearing an error bank (15: R323 to R325, R327, R329). -/

namespace Sys2Proof.Machine

/-- A corrected or uncorrectable line met by a scrub: recorded in its package's bank; an uncorrectable one is marked poisoned (R325). -/
def State.scrubbed (s : State) (east : Bool) (e : Nat × Bool) : State :=
  let pa := 64 * e.1
  let s1 := s.noteErr east (bits pa 13 3) e.2 e.2 0 0 pa
  if e.2 && !s1.mem.poison.contains e.1 then { s1 with mem := { s1.mem with poison := e.1 :: s1.mem.poison } } else s1
/-- ROW_REFRESH: an activation of a row scrubs the eighth of it numbered by the activation's count mod 8; `bad` names the lines in
error with whether each is uncorrectable, of which it meets those of the eighth. The spec says no lines of an eighth: a free value
(R325; log entry 99). -/
def execRowRefresh (die row : Nat) (bad : List (Nat × Bool)) (s : State) : Res :=
  let east := die == 1
  let eighth := (tget 0 s.mem.rows (2 * row + die % 2) + 1) % 8
  let s1 : State := { s with mem := { s.mem with rows := tmod 0 s.mem.rows (2 * row + die % 2) fun n => n + 1 } }
  .next ((bad.filter fun e => isLpddr (64 * e.1) && homeEast (64 * e.1) == east && Config.rowEighth die row eighth e.1).foldl (fun (st : State) e => st.scrubbed east e) s1)

/-- L2_SCRUB: the L2 visits a superblock; an error it finds in a line is corrected and recorded, and the line, if dirty, is written
back, one of host memory to the host (R325). -/
def execL2Scrub (die sb : Nat) (err : Option Nat) (s : State) : Res :=
  match err with
  | none => .next s
  | some i =>
    let east := die == 1
    let line := 4 * sb + i % 4
    let bit_ := 2 ^ (i % 4)
    let dirty := (s.l2 east).any fun x => x.tag == sb && bitAt x.dirty (i % 4)
    let s1 := s.setL2 east ((s.l2 east).map fun x => if x.tag = sb then { x with dirty := x.dirty &&& (15 - bit_) } else x)
    let s2 : State := if !dirty then s1 else ({ s1 with
      mem := { (if isLpddr (64 * line) then s1.mem.wroteBack line else s1.mem) with hostDirty := s1.mem.hostDirty.filter (· ≠ line) } } : State).toHost
        (if s1.mem.hostDirty.contains line then [.writeBack (64 * line) (tget [] s1.mem.hostLines line)] else [])
    .next (s2.noteErr east (8 + bits sb 0 3) false false 0 0 (64 * line))

/-- Cycles of an in-field test (R329). -/
def testCycles : Nat := 4600000
/-- A braid's in-field test falls due: its period has passed since the last (R329), or a mismatch asked for it (R326). -/
def State.testDue (s : State) (b : Nat) : Bool :=
  let x := s.braid b
  s.boot.ready && !x.fencedOff && x.testEnd.isNone && (x.testAsked || decide (max x.testAt s.boot.since + 2300000000 * s.cfg.ifter ≤ s.cycle))
/-- IN_FIELD_TEST of the agent's braid: a test that has fallen due starts at the braid's next free moment; until it has ended the
braid takes no work (R326, R329). -/
def execInFieldTest (s : State) : Res :=
  let b := s.agent.1
  if !s.testDue b then .next s
  else
    let x := s.braid b
    let free := !x.held && x.reserved.isNone && x.taskQ.isEmpty && !x.b0.mode.occupies && !x.b1.mode.occupies && !s.keptByHeap b s.launchNext
    .next (s.modBraid b fun x =>
      if free then { x with testAsked := false, testEnd := some (s.cycle + testCycles) } else { x with testAsked := true })

/-- The suspect-interval notice (R329). -/
def suspectNotice (b v first last pass fail : Nat) : List Byte :=
  natLe 4 (0xF0 + 256 * b + 2 ^ 24 * v) ++ natLe 4 first ++ natLe 4 last ++ natLe 8 pass ++ natLe 8 fail ++ List.replicate 36 0
/-- IN_FIELD_TEST_END: the braid returns to service, or is fenced and the suspect intervals are posted (R329). -/
def execInFieldTestEnd (b : Nat) (pass : Bool) (s : State) : Res :=
  match (s.braid b).testEnd with
  | none => .next s
  | some t =>
    if s.cycle < t then .next s
    else
      let slot := s.clock.slot.toNat
      let x := s.braid b
      let s1 := s.modBraid b fun x => { x with testEnd := none, testAt := s.cycle }
      if pass then
        let clean : Tab Iface := s1.ifaces.map fun e => (e.1, { e.2 with parts := tdel e.2.parts b })
        .next ({ s1 with ifaces := clean }.modBraid b fun x => { x with testPass := slot })
      else
        let hit := s1.ifaces.filter fun e => thas e.2.parts b
        let post (st : State) (e : Nat × Iface) : State :=
          let p := tget (0, 0) e.2.parts b
          st.post e.1 (suspectNotice b e.1 p.1 p.2 x.testPass slot)
        .next ((hit.foldl post s1).fence b)

/-- ERRBANK_CLEAR: the host's zero to bytes 0 to 3 empties the bank (R323). -/
def execErrbankClear (die bank : Nat) (s : State) : Res :=
  let clear (t : Tab ErrBank) : Tab ErrBank := tmod {} t bank fun e => { e with v := false, uc := false, ovf := false, poison := false, ue := 0, ce := 0 }
  .next (if 32 ≤ bank then s
    else { s with mem := if die = 1 then { s.mem with errE := clear s.mem.errE } else { s.mem with errW := clear s.mem.errW } })

end Sys2Proof.Machine
end

