-- ==== Sys2Proof/Machine/Links.lean ====
section
/-! DEFINITION. The Splice, the host link's training and the extension ports (17: R333 to R340, R344, R355, R357). -/

namespace Sys2Proof.Machine

/-- The links a crossing carries: from West, from East (R332). -/
def crossingLinks (c : Nat) : List Nat := if c = 0 then [94, 97] else if c = 1 then [1, 190] else []
/-- Those and the closing link that passes it (R192, R332). -/
def State.linksOver (s : State) (c : Nat) : List Nat :=
  let e := s.ringEnds 47
  crossingLinks c ++ if c = 0 ∧ s.divided ∧ 48 ≤ e.2 then [192 + e.2] else []
def Crossing.lane (x : Crossing) (toEast : Bool) : Lane := if toEast then x.east else x.west

/-- A Hawser flit off a crossing arrives at its port, at once or after the rest of a closing link (R192, R334, R337). -/
def State.offFlit (s : State) (e : Nat × Flit) : State :=
  let rest := (s.closingLegs e.1).2
  let s1 := s.modLink e.1 fun l => { l with fly := l.fly ++ [(s.cycle + rest, e.2)] }
  if rest = 0 then s1.next [ev (.flit (s.linkTo e.1) (linkDir e.1 == 1) true)] else s1
/-- A return word or audit off a crossing arrives at its sender, before the cycle's own audits are sent (R191). -/
def State.offWord (s : State) (e : Nat × RetWord) : State :=
  let rest := (s.closingLegs e.1).1
  let s1 := s.modLink e.1 fun l => { l with words := l.words ++ [(s.cycle + rest, e.2)] }
  let ccw := linkDir e.1 == 1
  let tick (a : Act) : Bool := decide (a = ev .auditTick)
  if rest = 0 then
    s1.setTodo (s1.todo.filter (fun a => !tick a)
      ++ [ev (if e.2.aud then .auditFlit (s.linkTo e.1) ccw true else .returnWord (s.linkTo e.1) ccw true)] ++ s1.todo.filter tick)
  else s1
/-- What an accepted UCIe flit carries goes on: slot 0 before slot 1, word 0 before word 1 (R334, R337). -/
def State.unpack (s : State) (c : Carried) : State :=
  c.words.foldl State.offWord (c.slots.reverse.foldl State.offFlit s)

/-- SPLICE_FLIT: the next UCIe flit in order comes in on a crossing. One whose CRC fails, or whose mask is not legal, is
discarded with every later one of its module, and asks for a replay (R333, R334, R337). -/
def execSpliceFlit (cr : Nat) (toEast ok : Bool) (s : State) : Res :=
  let l := (s.crossing cr).lane toEast
  let put (st : State) (f : Lane → Lane) : State := st.modCrossing cr fun x => x.modLane toEast f
  match l.fly.find? fun e => decide (e.1 ≤ s.cycle) && e.2.1 == l.taken with
  | none => .next s
  | some (_, k, c) =>
    if ok && c.slotMask < 16 then
      let s1 := put s fun l => { l with taken := k + 1, fly := l.fly.filter fun e => k < e.2.1, replay := l.replay.filter fun e => k < e.1 }
      .next (s1.unpack c)
    else
      let s1 := put s fun l => { l with fly := l.fly.filter fun e => !(k ≤ e.2.1 && e.2.1 % 2 == k % 2), nak := some k }
      .next (s1.noteErr toEast 23 false false cr 1 k)

/-- Send flits of a replay buffer again, one a cycle. -/
def resent (at_ : Nat) : List (Nat × Carried) → List (Nat × Nat × Carried)
  | [] => []
  | (k, c) :: r => (at_, k, { c with mask := 0 }) :: resent (at_ + 1) r
/-- FLIT_REPLAY of the agent's crossing and direction (0 to West, 1 to East): the failed flit and every later one of its module
come again, in order (R337). -/
def execFlitReplay (s : State) : Res :=
  let (cr, d, _) := s.agent
  let x := s.crossing cr
  match (x.lane (d == 1)).nak with
  | none => .next s
  | some k =>
    if x.training || x.width = 0 then .next s
    else
      let (n, s1) := s.draw
      let at_ := s.cycle + s.crossLat cr + n
      .next (s1.modCrossing cr fun x => x.modLane (d == 1) fun l =>
        { l with nak := none, fly := l.fly ++ resent at_ (l.replay.filter fun e => k ≤ e.1 && e.1 % 2 == k % 2) })

/-- A link (0 crossing A, 1 B, 2 the host link, 3 X0, 4 X1) starts to train: what was under way is lost and stands in the
replay buffers (R338). -/
def State.retrain (s : State) (c : Nat) (restore : Bool) : State :=
  let x := s.crossing c
  if x.training || x.width = 0 || s.admin.linkDown || 4 < c then s
  else s.modCrossing c fun x =>
    { x with training := true, since := s.cycle, restore,
             east := { x.east with fly := [], nak := none, newAt := none }, west := { x.west with fly := [], nak := none, newAt := none } }
/-- RETRAIN of the agent's link (R338). -/
def execRetrain (s : State) : Res := .next (s.retrain s.agent.1 false)
/-- SPLICE_RETRAIN_A, SPLICE_RETRAIN_B, HOST_LINK_RETRAIN: the host asks (R336, R348). -/
def execSpliceRetrainA (s : State) : Res := .next (s.retrain 0 true)
/-- The same of crossing B. -/
def execSpliceRetrainB (s : State) : Res := .next (s.retrain 1 true)
/-- The same of the host link. -/
def execHostLinkRetrain (s : State) : Res := .next (s.retrain 2 true)

/-- Width after a training: 64 lanes where both modules trained all and the width was not degraded or the host asked for it;
32 where each trained at least one half; none where it has not succeeded (R336). -/
def trainedWidth (lanes0 lanes1 width : Nat) (restore : Bool) : Option Nat :=
  if lanes0 < 32 || lanes1 < 32 then none
  else if lanes0 = 64 && lanes1 = 64 && (restore || width == 2) then some 2
  else some 1
/-- The replay buffers of a crossing send what was not acknowledged (R338). -/
def State.replayAll (s : State) (c : Nat) : State :=
  let at_ := s.cycle + s.crossLat c
  let go (l : Lane) : Lane := { l with fly := resent at_ l.replay }
  s.modCrossing c fun x => { x with east := go x.east, west := go x.west }
/-- At the end of a retrain a sender's counts are those of reset (R185); the audit that follows makes them what they are (R338), and
none that was under way before does. -/
def Link.retrained (l : Link) : Link :=
  { l with sSh := 24, sE0 := 4, sE1 := 4, audits := l.audits.map fun a => (a.1, a.2.1, a.2.2.1, false) }
/-- What was under way on a port's hop when it began to train, and was lost, is on its way again (R338, R355). -/
def Link.hopAgain (l : Link) (since now : Nat) : Link :=
  { l with fly := l.fly.map (fun e => if since < e.1 then (now + portLat, e.2) else e),
           words := l.words.map fun e => if since < e.1 then (now + portLat, e.2) else e }
/-- The frames of a port's replay buffer go again (R338, R355). -/
def State.replayFrames (s : State) (port : Nat) : State :=
  { s with hostOut := s.hostOut ++ (tget {} s.ports port).replay.map fun f => .portFrame port f }
/-- A port's retrain ends: its frames are sent again; X0 sends its audit at once, X1 sends no flit before it has applied the neighbour's
(R338, R355). -/
def State.portRetrained (s : State) (port : Nat) : State :=
  let s1 := s.modCrossing (3 + port) fun x =>
    { x with training := false, auditsDue := if port = 1 then [0] else [], retrains := if port = 1 then x.retrains else x.retrains + 1 }
  let s2 := s1.replayFrames port
  let since := (s.crossing (3 + port)).since
  if port = 1 then s2.modHop 1 fun l => { (l.hopAgain since s.cycle).retrained with words := [] }
  else (s2.modHop 0 fun l => l.hopAgain since s.cycle).hopAudit
/-- A retrain with fewer lanes than before is a corrected error of type lane loss in error bank 23 of both dies (R323, R360). -/
def State.laneLoss (s : State) (link : Nat) (fewer : Bool) : State :=
  if fewer && link < 2 then (s.noteErr false 23 false false link 2 0).noteErr true 23 false false link 2 0 else s
/-- RETRAIN_COMPLETE: the width is set, the crossing's ports send their audits at once, and the replay buffers send again (R338);
what waited for the host link goes with the next cycle (R344); a port's link has 16 lanes (R355). -/
def execRetrainComplete (link lanes0 lanes1 : Nat) (s : State) : Res :=
  let x := s.crossing link
  if !x.training then .next s
  else if 3 ≤ link then .next (if lanes0 = 16 then s.portRetrained (link - 3) else s)
  else
    match trainedWidth lanes0 lanes1 x.width x.restore with
    | none => .next s
    | some w =>
      let due := s.linksOver link
      let s1 := s.modCrossing link fun x =>
        { x with width := w, training := false, restore := false, auditsDue := due, retrains := if due.isEmpty then x.retrains + 1 else x.retrains }
      let s2 := due.foldl (fun (st : State) k => st.modLink k Link.retrained) (s1.replayAll link)
      .next ((due.foldl State.sendAudit s2).laneLoss link (w < x.width))

/-- The link-down fault in every task of the interfaces that a predicate names, and the end of their launches (R339, R355). -/
def State.linkDownFor (s : State) (p : Nat → Bool) : State :=
  let f (st : State) (b bank : Nat) : State := match (st.bank b bank).task with
    | some t => if p t.vi then st.endByFault b bank { code := 26, src := 0, ctx := .X, epc := (st.bank b bank).x.pc } else st
    | none => st
  let s1 := s.braids.foldl (fun (st : State) e => f (f st e.1 0) e.1 1) s
  let left (l : Launch) : Bool := l.issued && !l.finished && !l.doomed && l.kind != 3 && p l.vi
  (s1.launches.filter left).foldl (fun (st : State) (l : Launch) => st.doomLaunch l.uid 256 0 4 6) s1
/-- Cycles a retrain may take (R339). -/
def retrainLimit : Nat := 230000
/-- LINK_DOWN of the agent's link: its retrain has not succeeded in 100 µs (R339, R344, R355). -/
def execLinkDown (s : State) : Res :=
  let c := s.agent.1
  let x := s.crossing c
  if !x.training || s.cycle < x.since + retrainLimit then .next s
  else
    let s1 := s.modCrossing c fun x => { x with training := false, width := 0 }
    if 3 ≤ c then
      let s2 : State := { s1 with ports := tmod {} s1.ports (c - 3) fun x => { x with broken := true } }
      .next (s2.linkDownFor fun v => (s2.ifaceD v).chain)
    else .next (({ s1 with admin := { s1.admin with linkDown := true } }).linkDownFor fun _ => true)

/-- A packet whole in port X0: for this device it is injected at stop 72 on VC0, else it passes to X1 on its channel (R357). -/
def State.portArrive (s : State) (p : Packet) (vc : Nat) : State :=
  if p.ddev ≠ s.cfg.dev then s.toPort 1 p vc
  else if p.dest = 72 then s.later (s.cycle + 1) (packetEvent p)
  else s.modBraid 72 fun x =>
    { x with memQ := x.memQ ++ [p], headAt := if x.memQ.isEmpty then tput x.headAt 2 s.cycle else x.headAt }
/-- What X1's audit is compared with: the sum as it stood when the audit left the neighbour, a hop's latency ago, from the counts as they
stand, the flits sent since and then under way, and the returns counted since (R191, R355). -/
def Link.hopSums (l : Link) (now : Nat) : Nat × Nat × Nat :=
  let out (cls : Nat) : Nat := (l.fly.map fun e =>
    if now < e.1 + portLat ∧ e.2.cls = cls then (if cls = 0 then (if e.2.idx = 0 then e.2.pkt.flits else 0) else 1) else 0).sum
  let back (f : RetWord → Nat) : Nat := (l.words.map fun e => if now ≤ e.1 + portLat then f e.2 else 0).sum
  (l.sSh + out 0 - back RetWord.sh, l.sE0 + out 1 - back RetWord.e0, l.sE1 + out 2 - back RetWord.e1)
/-- The words a frame brings to X1 change the counts of its link to the next device (R190, R191, R355). -/
def State.portWord (s : State) (w : RetWord) : State :=
  if !w.aud then s.modHop 1 fun l =>
    ({ l with words := (l.words.filter fun e => decide (s.cycle ≤ e.1 + portLat)) ++ [(s.cycle, w)] } : Link).counted w true
  else
    let s1 := s.modHop 1 fun l =>
      let sums := l.hopSums s.cycle
      ({ l with audits := [(sums.1, sums.2.1, sums.2.2, false)] } : Link).audited w true
    if (s.crossing 4).auditsDue.isEmpty then s1 else s1.auditApplied 4 0
/-- A flit in port X0 (R186, R189, R355): an escape flit frees its slot at once, a shared packet's slots are free when it is delivered. -/
def Link.portFlit (l : Link) (now : Nat) (f : Flit) : Link :=
  let l1 := l.take f
  if f.esc then l1.free now (f.vc + 1) 1 else if f.idx + 1 == f.pkt.flits then l1.free now 0 f.pkt.flits else l1
/-- PORT_FRAME: a frame of a bad CRC or mask is discarded and recorded; one that is not the next in number is discarded; the
packet of a tail has come (R355). Packets come in on X0 only (R357), words on X1. -/
def execPortFrame (port : Nat) (fr : PortFrame) (s : State) : Res :=
  let c := 3 + port
  let x := s.crossing c
  if x.training || (tget {} s.ports port).broken then .next s
  else if !fr.crcOk || !fr.maskOk then .next (s.noteErr true 24 false false port 1 fr.seq)
  else if fr.seq ≠ x.west.taken % 65536 then .next s
  else
    let s1 := s.modCrossing c fun x => { x with west := { x.west with taken := x.west.taken + 1 } }
    let s2 := if port = 1 then fr.words.foldl State.portWord s1 else s1
    match fr.flit with
    | some (p, i, vc) =>
      if port = 0 && (p.typ == 0 || p.typ == 1) then
        let s3 := s2.modHop 0 fun l => l.portFlit s.cycle ⟨p, i, fr.esc, vc, true, 0⟩
        .next (if i + 1 == p.flits then s3.portArrive p vc else s3)
      else .next s2
    | none => .next s2

end Sys2Proof.Machine
end

