-- ==== Sys2Proof/Machine/HostLink.lean ====
section
/-! DEFINITION. What the host does over CXL.mem and CXL.cache (17: R345, R347). -/

namespace Sys2Proof.Machine

/-- The interface exists and owns every byte of a request (R345). -/
def State.ownsAll (s : State) (v off n : Nat) : Bool :=
  thas s.ifaces v && (upto off n).all fun pa => isLpddr pa && s.owns v pa
/-- A request to a foreign granule, recorded in error bank 24 of West (R323, R345). -/
def State.foreign (s : State) (off : Nat) : State := s.noteErr false 24 false false 0 2 off

/-- CXL_MEM_READ: in the interface's granules the bytes under its key; else all ones with the poison bit (R345). -/
def execCxlMemRead (v off n : Nat) (s : State) : Res :=
  if s.ownsAll v off n then
    let poison := (linesOf (upto off n)).any s.linePoison
    let s1 := (linesOf (upto off n)).foldl (fun (st : State) ln => st.readLine v ln false) s
    .next (s1.toHost [.memRead v off (s.homeBytes v off n) poison])
  else .next ((s.foreign off).toHost [.memRead v off (List.replicate n 0xFF) true])

/-- CXL_MEM_WRITE: in the interface's granules applied at once, as one group, which on a SYNC page is the swap of each word as
well; once a quarantined page has no poisoned line its quarantine is lifted (R322, R345). -/
def execCxlMemWrite (v off : Nat) (data : List Byte) (s : State) : Res :=
  if s.ownsAll v off data.length then
    let s1 := s.homePuts v (atAddr off data)
    let bad (q : Nat × Nat) : Bool := !(decide (q.1 < off + data.length) && decide (off < q.1 + q.2))
      || (s1.mem.poison ++ s1.mem.l2Poison).any fun line => decide (q.1 ≤ 64 * line) && decide (64 * line < q.1 + q.2)
    .next { s1 with mem := { s1.mem with quarantine := s1.mem.quarantine.filter bad } }
  else .next (s.foreign off)

/-- SNOOP: a clean line leaves the L2 and every L1; a dirty one is written back first (R347). -/
def execSnoop (pa : Nat) (s : State) : Res :=
  let line := pa / 64
  let dirty := s.mem.holds line && s.mem.hostDirty.contains line
  let s1 := s.dropHost line
  let clear (t : Tab Braid) : Tab Braid := t.map fun e => (e.1, { e.2 with l1 := dropL1 e.2.l1 fun l => l.pa / 64 == line })
  let l2 := s1.mem.l2w.map fun x => if x.tag = line / 4 ∧ !isLpddr (64 * line) then
      { x with valid := x.valid &&& (15 - 2 ^ (line % 4)), dirty := x.dirty &&& (15 - 2 ^ (line % 4)) } else x
  let s2 : State := { s1 with braids := clear s1.braids, mem := { s1.mem with l2w := l2 } }
  .next (if dirty then s2 else s2.toHost [.snoopClean (64 * line)])

/-- CXL_CACHE_RESPONSE: a line the device asked for comes; bytes written meanwhile stand over it; the reads that waited go on. A line
that only no-allocate accesses asked for is kept nowhere, and what they wrote is written back at once (R230, R347). -/
def execCxlCacheResponse (pa : Nat) (data : List Byte) (s : State) : Res :=
  let line := pa / 64
  if !s.mem.hostAsked.contains line || !isHost (64 * line) then .next s
  else
    let wrote := s.mem.hostOver.filter fun e => e.1 / 64 == line
    let bytes := (upto (64 * line) 64).map fun a => if thas wrote a then tget 0 wrote a else data.getD (a % 64) 0
    let mine := s.mem.hostWait.filter fun w => w.pa / 64 == line
    let passing (w : HostWait) : Bool := match w.req.body with
      | .lineReq _ _ _ _ na => na
      | _ => false
    let keeps := !s.mem.hostNa.contains line || !mine.all passing
    let serve (st : State) (w : HostWait) : State := match w.req.body with
      | .lineReq _ _ bank c _ => st.sendMem 9 w.req.dest w.req.src w.req.arg 1 (.line (64 * line) bank c bytes false)
      | _ => st
    let m : MemSide := { s.mem with
      hostLines := if keeps then tput s.mem.hostLines line bytes else s.mem.hostLines,
      hostDirty := if wrote.isEmpty || !keeps then s.mem.hostDirty else line :: s.mem.hostDirty,
      hostOver := s.mem.hostOver.filter fun e => e.1 / 64 != line,
      hostAsked := s.mem.hostAsked.filter fun x => x != line,
      hostNa := s.mem.hostNa.filter fun x => x != line,
      hostOwn := s.mem.hostOwn.filter fun x => x != line,
      hostWait := s.mem.hostWait.filter fun w => w.pa / 64 != line }
    if keeps then .next (((s.setMem m).l2Take 64 line (!wrote.isEmpty)).next (mine.map fun w => packetEvent w.req))
    else .next (mine.foldl serve ((s.setMem m).toHost (if wrote.isEmpty then [] else [.writeBack (64 * line) bytes])))

end Sys2Proof.Machine
end

