-- ==== Sys2Proof/Machine/Sha.lean ====
section
/-! DEFINITION. SHA-512, the digest R365, R366 and R369 name (PRESUMED: FIPS 180-4, log entry 29), and RSASSA-PSS with SHA-512, MGF1
and a 64-byte salt under RSA-4096, the signature of R363 and R366 (R4; PRESUMED: RFC 8017, log entry 104). -/

namespace Sys2Proof.Machine

/-- The largest `r` below 2^bits more than `acc` with `r ^ k ≤ n`. -/
def rootFrom (k n : Nat) : Nat → Nat → Nat
  | 0, acc => acc
  | b + 1, acc => rootFrom k n b (if (acc + 2 ^ b) ^ k ≤ n then acc + 2 ^ b else acc)
/-- The first 80 primes. -/
def shaPrimes : List Nat := (upto 2 408).filter fun n => (upto 2 18).all fun d => decide (n ≤ d) || n % d != 0
/-- Round constants: the fractional bits of the cube roots of the primes. -/
def shaK : List Word64 := shaPrimes.map fun p => BitVec.ofNat 64 (rootFrom 3 (p * 2 ^ 192) 72 0)
/-- Initial hash: the fractional bits of the square roots of the first eight. -/
def shaInit : List Word64 := (shaPrimes.take 8).map fun p => BitVec.ofNat 64 (rootFrom 2 (p * 2 ^ 128) 72 0)

/-- Word `i` of a list. -/
def shaAt (l : List Word64) (i : Nat) : Word64 := l.getD i 0
/-- The next word of the message schedule, of which the last sixteen are given, newest first. -/
def shaNext (w : List Word64) : Word64 :=
  let a := shaAt w 14
  let b := shaAt w 1
  let s0 := a.rotateRight 1 ^^^ a.rotateRight 8 ^^^ (a >>> 7)
  let s1 := b.rotateRight 19 ^^^ b.rotateRight 61 ^^^ (b >>> 6)
  s1 + shaAt w 6 + s0 + shaAt w 15
/-- Extend the schedule by `n` words, newest first. -/
def shaSchedule : Nat → List Word64 → List Word64
  | 0, w => w
  | n + 1, w => shaSchedule n (shaNext w :: w)
/-- One round. -/
def shaRound (h : List Word64) (kw : Word64 × Word64) : List Word64 :=
  let a := shaAt h 0
  let e := shaAt h 4
  let t1 := shaAt h 7 + (e.rotateRight 14 ^^^ e.rotateRight 18 ^^^ e.rotateRight 41)
    + ((e &&& shaAt h 5) ^^^ (~~~e &&& shaAt h 6)) + kw.1 + kw.2
  let t2 := (a.rotateRight 28 ^^^ a.rotateRight 34 ^^^ a.rotateRight 39)
    + ((a &&& shaAt h 1) ^^^ (a &&& shaAt h 2) ^^^ (shaAt h 1 &&& shaAt h 2))
  [t1 + t2, a, shaAt h 1, shaAt h 2, shaAt h 3 + t1, e, shaAt h 5, shaAt h 6]
/-- One block of 128 bytes. -/
def shaBlock (h : List Word64) (block : List Byte) : List Word64 :=
  let w := (upto 0 16).map fun i => BitVec.ofNat 64 (leNat ((block.drop (8 * i)).take 8).reverse)
  let all := (shaSchedule 64 w.reverse).reverse
  let r := (shaK.zip all).foldl shaRound h
  (h.zip r).map fun e => e.1 + e.2
/-- `n` blocks. -/
def shaBlocks (h : List Word64) : Nat → List Byte → List Word64
  | 0, _ => h
  | n + 1, m => shaBlocks (shaBlock h (m.take 128)) n (m.drop 128)
/-- SHA-512 of a message: 64 bytes. -/
def sha512 (m : List Byte) : List Byte :=
  let zeros := (239 - m.length % 128) % 128
  let padded := m ++ [0x80] ++ List.replicate zeros 0 ++ (natLe 16 (8 * m.length)).reverse
  ((shaBlocks shaInit (padded.length / 128) padded).map fun w => (natLe 8 w.toNat).reverse).flatten

/-- A number as `n` bytes, most significant first, and back. -/
def natBe (n v : Nat) : List Byte := (natLe n v).reverse
def beNat (l : List Byte) : Nat := leNat l.reverse
/-- MGF1 with SHA-512: `n` bytes of mask. -/
def mgf1 (seed : List Byte) (n : Nat) : List Byte := ((upto 0 ((n + 63) / 64)).map fun i => sha512 (seed ++ natBe 4 i)).flatten.take n
def xorBytes (a b : List Byte) : List Byte := (a.zip b).map fun e => e.1 ^^^ e.2
/-- The top bit of the first byte cleared: an encoded message has 4,095 bits. -/
def clearTop : List Byte → List Byte
  | [] => []
  | b :: r => (b &&& 0x7F#8) :: r
/-- The hash of a message with its salt. -/
def pssHash (m salt : List Byte) : List Byte := sha512 (List.replicate 8 0 ++ sha512 m ++ salt)
/-- What stands before the salt. -/
def pssPad : List Byte := List.replicate 382 0 ++ [1]
/-- EMSA-PSS: a message encoded with a 64-byte salt, in 512 bytes. -/
def pssEncode (m salt : List Byte) : List Byte :=
  let h := pssHash m salt
  clearTop (xorBytes (pssPad ++ salt) (mgf1 h 447)) ++ h ++ [0xBC#8]
/-- An encoded message is one of the message, for the salt it holds. -/
def pssVerify (m em : List Byte) : Bool :=
  let masked := em.take 447
  let h := (em.drop 447).take 64
  let db := clearTop (xorBytes masked (mgf1 h 447))
  em.length == 512 && em.drop 511 == [0xBC#8] && clearTop masked == masked && db.take 383 == pssPad && pssHash m (db.drop 383) == h
/-- A power by an exponent of so many bits, modulo `n`. -/
def modPow (b n : Nat) : Nat → Nat → Nat
  | 0, _ => 1 % n
  | k + 1, e =>
    let r := modPow b n k (e / 2)
    if e % 2 = 1 then r * r % n * b % n else r * r % n
/-- Sign under a private key: modulus and exponent. -/
def rsaSign (key : Nat × Nat) (m salt : List Byte) : List Byte := natBe 512 (modPow (beNat (pssEncode m salt)) key.1 4096 key.2)
/-- A signature of 512 bytes verifies under a public key: modulus and exponent. -/
def rsaVerify (key : Nat × Nat) (m sig : List Byte) : Bool :=
  sig.length == 512 && decide (beNat sig < key.1) && pssVerify m (natBe 512 (modPow (beNat sig) key.1 4096 key.2))

end Sys2Proof.Machine
end

