-- ==== Sys2Proof/Machine/Admin.lean ====
section
/-! DEFINITION. The admin page, its commands, and the interface pages (17: R345, R346, R348 to R351, R353; 19: R366, R369). -/

namespace Sys2Proof.Machine

/-- A task of an interface stands in some bank (R348). -/
def State.taskOf (s : State) (v : Nat) : Bool :=
  s.braids.any fun e => [e.2.b0, e.2.b1].any fun k => match k.task with
    | some t => t.vi == v
    | none => false

/-- A command is done, or fails with a status, after some cycles; BUSY meanwhile (R348). -/
def State.command (s : State) (status : Nat) : State :=
  let (n, s1) := s.draw
  { s1 with admin := { s1.admin with busy := true, due := some (s.cycle + 1 + n, status) } }
/-- A command is taken only by a device that is ready and not BUSY; else it is refused and changes nothing (R348, R362, R366). -/
def State.takes (s : State) : Bool := s.boot.ready && !s.admin.busy
/-- ADMIN_COMMAND_COMPLETE (R348): BUSY clears; a migration's copy has been made: `v`, source, destination, size (R351). -/
def State.finishCommand (s : State) (status : Nat) : State :=
  { s with admin := { s.admin with busy := false, due := none, status, migrate := none, migrateVoid := false } }

/-- LPDDR6 granules of 2 MiB, and those that the save areas take (R345, R364). -/
def granules : Nat := Config.lpddrBytes / 2 ^ 21
def State.saveGranule (s : State) (g : Nat) : Bool :=
  decide (s.cfg.saveBase < 2 ^ 21 * (g + 1)) && decide (2 ^ 21 * g < s.cfg.saveBase + 192 * Config.saveBytes)
/-- A granule that no interface owns, no frame store takes and no save area meets (R346). -/
def State.freeGranule (s : State) (g : Nat) : Bool :=
  tget 64 s.mem.owner g == 64 && !thas s.mem.frameGranules g && !s.saveGranule g
/-- The `n` highest free granules below a bound; none where there are too few (DESIGN CHOICE, log entry 33). -/
def State.carve (s : State) : Nat → Nat → Option (List Nat)
  | _, 0 => some []
  | 0, _ + 1 => none
  | g + 1, n + 1 => if s.freeGranule g then (s.carve g n).map fun l => g :: l else s.carve g (n + 1)
/-- Granules a frame store of so many 4 KiB slots takes. -/
def storeGranules (slots : Nat) : Nat := (slots + 511) / 512

/-- Numbers that follow each other. -/
def consecutive : List Nat → Bool
  | a :: b :: r => b == a + 1 && consecutive (b :: r)
  | _ => true
/-- The operands of CREATE hold (R348, R353). -/
def State.createOk (s : State) (v : Nat) (c : CreateArgs) : Bool :=
  let bands := upto c.firstBand c.bands
  let left := (upto 0 12).filter fun b => !s.owned b && !(c.mode == 0 && bands.contains b)
  let shared := c.mode == 1 || s.ifaces.any fun e => e.2.mode == 1
  decide (v < 64) && !thas s.ifaces v && decide (1 ≤ c.share ∧ c.share ≤ 255) && decide (1 ≤ c.nsess ∧ c.nsess ≤ 65536)
    && decide ((s.ifaces.map fun e => e.2.nsess).sum + c.nsess ≤ 65536)
    && (c.mode == 1 || (c.mode == 0 && decide (1 ≤ c.bands ∧ c.firstBand + c.bands ≤ 12) && bands.all fun b => !s.owned b))
    && consecutive left && (!shared || !left.isEmpty)

/-- CREATE: an interface with its arc, its keys, its frame store and its sessions (R232, R268, R269, R348, R353). -/
def execCreate (v : Nat) (c : CreateArgs) (s : State) : Res :=
  if !s.takes then .next s
  else if !s.createOk v c then .next (s.command 1)
  else
    match s.carve granules (storeGranules c.slots) with
    | none => .next (s.command 1)
    | some gs =>
      let i : Iface := { mode := c.mode, first := c.firstBand, bands := c.bands, share := c.share, chain := c.chain, nsess := c.nsess,
                         slots := c.slots, key := s.mem.keyNext }
      let m : MemSide := { s.mem with
        keyNext := s.mem.keyNext + 1, frameGranules := gs.foldl (fun t g => tput t g v) s.mem.frameGranules }
      .next ((({ s with ifaces := tput s.ifaces v i }).setMem m).command 0)

/-- DESTROY: refused while a task of the interface stands; else the interface goes with its keys (R232, R348). -/
def execDestroy (v : Nat) (s : State) : Res :=
  if !s.takes then .next s
  else if !thas s.ifaces v then .next (s.command 1)
  else if s.taskOf v then .next (s.command 2)
  else
    let s0 := s.emptyTlbs v true
    let m : MemSide := { s0.mem with frameGranules := s0.mem.frameGranules.filter fun e => e.2 != v }
    let s1 : State := { s0 with
      ifaces := tdel s0.ifaces v, mem := m, launches := s0.launches.filter fun l => l.vi != v,
      prefix_ := s0.prefix_.filter fun e => e.1 / 64 != v, heaps := s0.heaps.filter fun e => e.2.vi != v,
      braids := s0.braids.map fun e => (e.1, { e.2 with tags := e.2.tags.filter fun t => t.vi != v }) }
    .next (s1.command 0)

/-- ASSIGN: granules come to an interface, or to none (64); never a frame store's or a save area's (R345, R346, R364). -/
def execAssign (v first count : Nat) (s : State) : Res :=
  if !s.takes then .next s
  else
    let gs := upto first (if first + count ≤ granules then count else 0)
    let ok := (v == 64 || thas s.ifaces v) && decide (first + count ≤ granules)
      && gs.all fun g => !thas s.mem.frameGranules g && !s.saveGranule g
    if !ok then .next (s.command 1)
    else .next ((s.setMem { s.mem with owner := gs.foldl (fun t g => tset 64 t g v) s.mem.owner }).command 0)

/-- A page-not-present fault of the interface with an unanswered TOKEN meets a range (R351). -/
def State.awaited (s : State) (v pa n : Nat) : Bool :=
  s.braids.any fun e => [e.2.b0, e.2.b1].any fun k => match k.susp with
    | some u => k.vi == v && k.mode == .suspended && u.code == 9 && !u.answered && u.token.isSome && s.faultMeets v u.va pa n
    | none => false
/-- Cycles a contended page's migration is deferred (R351). -/
def deferCycles : Nat := 2300000
/-- The operands of MIGRATE hold (R351). -/
def State.migrateOk (s : State) (v src dst size : Nat) : Bool :=
  let lp (a : Nat) : Bool := isLpddr (a + size - 1) && s.owns v a
  thas s.ifaces v && (size == 65536 || size == 2 ^ 21) && src % size == 0 && dst % size == 0
    && ((isHost src && lp dst) || (lp src && isHost dst))
/-- MIGRATE: not performed where the page is contended; else its copy begins (R351). -/
def execMigrate (v src dst size : Nat) (s : State) : Res :=
  if !s.takes then .next s
  else if !s.migrateOk v src dst size then .next (s.command 1)
  else
    let recent := s.admin.contended.any fun e => decide (e.1 < src + size) && decide (src < e.1 + 65536) && decide (s.cycle < e.2 + deferCycles)
    let now := isHost dst && s.awaited v src size
    let s1 : State := if now then s.nowContended src size else s
    if now || recent then .next (s1.command 3)
    else
      let s2 := s1.command 0
      .next { s2 with admin := { s2.admin with migrate := some (v, src, dst, size), migrateVoid := false } }

/-- MEAS: SHA-512 of the digests of the three parts (R366). -/
def measured (parts : List (List Byte)) : List Byte := sha512 ((parts.map sha512).flatten)
/-- The verified configuration image (R363). -/
def State.part3 (s : State) : List Byte := s.boot.parts.getD 2 []
/-- The helper data for the dies' responses that a configuration image holds (R365; DESIGN CHOICE, log entry 35). -/
def helperOf (d : List Byte) : List Byte := d.drop 24
/-- The device's key pair: of the seed of both dies' corrected responses, the same at every boot whatever the helper data that corrects
them (R365). -/
def identity : Nat × Nat × Nat := Config.deviceKey (Config.deviceSeed (Config.pufResponse false) (Config.pufResponse true))
/-- The device id: SHA-512 of the public key's modulus, in 512 bytes, most significant first (R365; log entry 104). -/
def deviceId : List Byte := sha512 (natBe 512 identity.1)
/-- The attestation report and its signature under the identity key, whose salt is a free value (R366). -/
def State.attestation (s : State) (nonce : List Byte) : List Byte :=
  let ver (i : Nat) : Nat := s.boot.versions.getD i 0
  let report := (nonce ++ List.replicate 32 0).take 32 ++ natLe 4 (ver 0) ++ natLe 4 (ver 1) ++ natLe 4 (ver 2) ++ natLe 4 s.boot.count
    ++ natLe 8 s.clock.slot.toNat ++ List.replicate 8 0
  report ++ rsaSign (identity.1, identity.2.2) (report ++ measured s.boot.parts) (natLe 64 s.draw.1)
/-- ATTEST: the signed report is written to host memory (R366). -/
def execAttest (addr : Nat) (nonce : List Byte) (s : State) : Res :=
  if !s.takes then .next s
  else if addr % 64 ≠ 0 || !isHost addr || !isHost (addr + 575) then .next (s.command 1)
  else .next ((s.draw.2.homePuts 64 (atAddr addr (s.attestation nonce))).command 0)

/-- ADMIN_COMMAND_COMPLETE: BUSY clears and the status is set; a migration has copied its page, whose lines of host memory had to
come first (R348, R351). -/
def execAdminCommandComplete (s : State) : Res :=
  match s.admin.due with
  | none => .next s
  | some (at_, status) =>
    if s.cycle < at_ then .next s
    else
      match s.admin.migrate with
      | none => .next (s.finishCommand status)
      | some (v, src, dst, size) =>
        let away := if isHost src then (upto (src / 64) (size / 64)).filter fun l => !s.mem.holds l else []
        if !away.isEmpty then .next (away.foldl (fun (st : State) x => st.askHost x false) s)
        else
          let s1 := s.homePuts v (atAddr dst (s.homeBytes v src size))
          .next (s1.finishCommand (if s.admin.migrateVoid then 3 else status))

/-- HOLDREL: a braid held by a trap-state fault is released (R314, R348). -/
def execHoldrel (b : Nat) (s : State) : Res :=
  .next (if s.boot.ready && decide (b < 96) && thas s.braids b then s.modBraid b fun x => { x with held := false } else s)

/-- PTROOT: ignored while a task of the interface stands (R348). -/
def execPtroot (v val : Nat) (s : State) : Res :=
  .next (if s.taskOf v then s else s.modIface v fun i => { i with ptroot := bits val 12 34 * 4096, ptv := bitAt val 0 })

/-- TLBSYNC: reads 1 until every TLB of the interface's braids is empty, some cycles later (R348, R350; the agent (0, 0, 1) is
that moment). -/
def execTlbsync (v : Nat) (s : State) : Res :=
  if s.agent.2.2 = 1 then .next ((s.emptyTlbs v false).modIface v fun i => { i with tlbsync := false })
  else
    let (n, s1) := s.draw
    .next ((s1.modIface v fun i => { i with tlbsync := true }).later (s.cycle + 1 + n) (.event (.tlbsync v) 0 0 1))

/-- CAP: in range it takes effect at the next evaluation (R368, R369). -/
def execCap (watts : Nat) (s : State) : Res :=
  .next (if 450 ≤ watts ∧ watts ≤ 1050 then { s with boot := { s.boot with capNext := watts } } else s)

/-- A 64-bit write into a queue descriptor (R278). -/
def LQueue.write (d : LQueue) (off val : Nat) : LQueue :=
  match off with
  | 0 => { d with ring := bits val 0 48, logn := bits val 48 4, en := bitAt val 52 }
  | 8 => { d with pia := bits val 0 48 }
  | 16 => { d with cring := bits val 0 48 }
  | 32 => { d with cci := bits val 0 32 }
  | _ => d
/-- A write into an interface page; reserved, read-only and unlisted offsets are ignored (R278, R348, R349). -/
def State.ifaceWrite (s : State) (v off val : Nat) : State :=
  if 0x40 ≤ off ∧ off < 0x440 then
    let q := (off - 0x40) / 64
    s.modIface v fun i => i.setQueue q ((i.queue q).write ((off - 0x40) % 64) val)
  else match off with
    | 0x480 => s.modIface v fun i => { i with fring := bits val 0 48, flog := bits val 48 4, fset := true }
    | 0x490 => s.modIface v fun i => { i with fci := bits val 0 32 }
    | _ => s

/-- A byte of the command record. -/
def Admin.cmdByte (a : Admin) (i : Nat) : Byte := tget 0 a.cmd i
/-- `n` bytes of the command record as a number. -/
def Admin.cmdNat (a : Admin) (i n : Nat) : Nat := leNat ((upto i n).map a.cmdByte)
/-- The command a record holds; operands of commands 1 to 4 stand where the model puts them (DESIGN CHOICE, log entry 31), those of
ATTEST where R366 says; none: a bad command. -/
def Admin.command (a : Admin) : Option Instr :=
  let v := a.cmdNat 1 1
  match a.cmdNat 0 1 with
  | 1 => some (.create v ⟨a.cmdNat 2 1, a.cmdNat 3 1, a.cmdNat 4 1, a.cmdNat 5 1, a.cmdNat 8 8, bitAt (a.cmdNat 6 1) 0, a.cmdNat 16 4⟩)
  | 2 => some (.destroy v)
  | 3 => some (.assign v (a.cmdNat 8 8) (a.cmdNat 16 8))
  | 4 => some (.migrate v (a.cmdNat 8 8) (a.cmdNat 16 8) (a.cmdNat 24 8))
  | 6 => some (.attest (a.cmdNat 8 8) ((upto 16 32).map a.cmdByte))
  | _ => none
/-- A write into the admin page outside BOOTSTAT, RESET and ERRBANK (R348, R369): what follows at once, and what it changes. -/
def State.adminWrite (s : State) (off val : Nat) : State :=
  let a := s.admin
  if 0x100 ≤ off ∧ off < 0x140 then
    let cmd := (atAddr (off - 0x100) (natLe 8 val)).foldl (fun t e => tset 0 t e.1 e.2) a.cmd
    let s1 : State := { s with admin := { a with cmd } }
    if off ≠ 0x138 then s1
    else
      match s1.admin.command with
      | some i => s1.next [ev i]
      | none => if s1.takes then s1.command 1 else s1
  else match off with
    | 0x008 => s.next ((if bitAt val 4 then [ev .spliceRetrainA] else []) ++ (if bitAt val 5 then [ev .spliceRetrainB] else [])
        ++ (if bitAt val 6 then [ev .hostLinkRetrain] else []))
    | 0x040 => { s with admin := { a with dfring := bits val 0 48, dflog := bits val 48 4, dfset := true } }
    | 0x050 => { s with admin := { a with dfci := bits val 0 32 } }
    | 0x200 => s.next [ev (.holdrel (bits val 0 7))]
    | 0x480 => s.next [ev (.cap (bits val 0 11))]
    | _ => s
/-- REGISTER_WRITE: a 64-bit write to page `v` (64 the admin page). A register that has an event of its own takes that event;
before READY only RESET and ERRBANK take writes (R348, R362). -/
def execRegisterWrite (v off val : Nat) (s : State) : Res :=
  if off % 8 ≠ 0 then .next s
  else if v < 64 then
    .next (if !s.boot.ready then s else
      match off with
      | 0x440 => s.next [ev (.ptroot v val)]
      | 0x448 => if bitAt val 0 then s.next [ev (.tlbsync v)] else s
      | 0x4C0 => s.next [ev (if bitAt val 32 then .tokenRefuse v (bits val 0 32) else .tokenRetry v (bits val 0 32))]
      | _ => s.ifaceWrite v off val)
  else if v ≠ 64 || s.boot.step < 4 then .next s
  else if off = 0x20 then .next (s.next [ev (.reset val)])
  else if 0x1000 ≤ off ∧ off < 0x1800 then
    let die := (off - 0x1000) / 1024
    .next (if off % 32 = 0 && bits val 0 32 == 0 then s.next [ev (.errbankClear die ((off - 0x1000) % 1024 / 32))] else s)
  else .next (if s.boot.ready then s.adminWrite off val else s)

/-- The 32 bytes of an error bank record (R323). -/
def ErrBank.image (e : ErrBank) : List Byte :=
  natLe 4 (bit e.v + 2 * bit e.uc + 4 * bit e.ovf + 8 * bit e.poison + 256 * e.ue + 65536 * e.ce) ++ natLe 4 (e.unit % 256 + 256 * e.typ)
    ++ natLe 8 e.addr ++ natLe 8 e.slot ++ natLe 8 0
/-- What the host reads at an offset of an interface page; reserved and write-only offsets read 0 (R251, R278, R348). -/
def State.ifaceRead (s : State) (v off : Nat) : Nat :=
  let i := s.ifaceD v
  if 0x40 ≤ off ∧ off < 0x440 then
    let d := i.queue ((off - 0x40) / 64)
    match (off - 0x40) % 64 with
    | 0 => d.ring + 2 ^ 48 * d.logn + 2 ^ 52 * bit d.en + 2 ^ 53 * bit d.err
    | 8 => d.pia
    | 16 => d.cring
    | 24 => d.ci + 2 ^ 32 * d.cpi
    | 32 => d.cci
    | _ => 0
  else match off with
    | 0x000 => i.ended + 2 ^ 32 * i.begun
    | 0x440 => i.ptroot + bit i.ptv
    | 0x448 => bit i.tlbsync
    | 0x480 => i.fring + 2 ^ 48 * i.flog
    | 0x488 => i.fpi
    | 0x490 => i.fci
    | 0x498 => i.flost
    | 0x4D0 => s.viReg v 0
    | _ => 0
/-- What the host reads at an offset of the admin page (R348, R362, R369): before READY only BOOTSTAT and ERRBANK answer. -/
def State.adminRead (s : State) (off : Nat) : Nat :=
  let a := s.admin
  let w (c : Nat) : Nat := (s.crossing c).width
  if off = 0x18 then bit s.boot.ready + 2 * s.boot.code
  else if 0x1000 ≤ off ∧ off < 0x1800 then
    let t := if off < 0x1400 then s.mem.errW else s.mem.errE
    leNat (((tget {} t ((off - 0x1000) % 1024 / 32)).image.drop (off % 32)).take 8)
  else if !s.boot.ready then 0
  else if 0x100 ≤ off ∧ off < 0x140 then a.cmdNat (off - 0x100) 8
  else if 0x400 ≤ off ∧ off < 0x440 then (if s.boot.idReady then leNat ((deviceId.drop (off - 0x400)).take 8) else 0)
  else if 0x440 ≤ off ∧ off < 0x480 then leNat (((measured s.boot.parts).drop (off - 0x440)).take 8)
  else match off with
    | 0x00 => bit a.linkDown + 2 * bit s.clock.errW + 4 * bit s.clock.errE + 8 * bit (1 < s.cfg.chainN) + 16 * s.cfg.dev + 128 * (s.cfg.chainN - 1)
    | 0x08 => w 0 + 4 * w 1
    | 0x10 => bit a.busy + 256 * a.status
    | 0x40 => a.dfring + 2 ^ 48 * a.dflog
    | 0x48 => a.dfpi
    | 0x50 => a.dfci
    | 0x58 => a.dflost
    | 0x480 => s.boot.capNext
    | 0x488 => s.boot.power
    | 0x490 => s.boot.tempW + 256 * s.boot.tempE
    | 0x498 => s.boot.closures + 2 ^ 32 * (s.boot.idles / 1024 % 2 ^ 32)
    | 0x4A0 => s.mem.hintW.toNat + 2 ^ 32 * s.mem.hintE.toNat
    | 0x4A8 => ((s.links.map fun e => e.2.auditCor).sum + (s.ports.map fun e => e.2.link.auditCor).sum) % 2 ^ 32
    | _ => 0

end Sys2Proof.Machine
end

