-- ==== Sys2Proof/Machine/Boot.lean ====
section
/-! DEFINITION. Device reset, boot steps, power (19: R362 to R365, R367 to R369). -/

namespace Sys2Proof.Machine

/-- A device reset discards everything and begins the boot (R362); what stays is the world outside, the boot count and the pin. -/
def State.deviceReset (s : State) : State :=
  { State.reset with
    cycle := s.cycle, inputs := s.inputs, seqErrs := s.seqErrs, free := s.free, hostOut := s.hostOut,
    boot := { State.reset.boot with count := s.boot.count, resetLow := s.boot.resetLow } }
/-- RESET: the host writes 1 to admin register RESET, which answers from step 4 on (R362, R369). -/
def execReset (val : Nat) (s : State) : Res :=
  .next (if bitAt val 0 && decide (4 ≤ s.boot.step) then s.deviceReset else s)
/-- THERMAL_TRIP: a junction at 115 °C resets the device (R368). -/
def execThermalTrip (s : State) : Res := .next s.deviceReset

/-- Cycles of 1 µs, rounded up (R362). -/
def resetCycles : Nat := 2300
/-- RESET_N falls or rises; low for 1 µs (the agent (0, 0, 1) is that moment) it resets the device (R362). -/
def execResetN (low : Bool) (s : State) : Res :=
  if s.agent.2.2 = 1 then
    match s.boot.resetLow with
    | some t => .next (if t + resetCycles ≤ s.cycle then s.deviceReset else s)
    | none => .next s
  else if low then
    if s.boot.resetLow.isSome then .next s
    else .next ({ s with boot := { s.boot with resetLow := some s.cycle } }.later (s.cycle + resetCycles) (.event (.resetN true) 0 0 1))
  else .next { s with boot := { s.boot with resetLow := none } }

/-- The configuration image's fields lie in their ranges (R364). -/
def configOk (c : ConfigImage) : Bool :=
  decide (c.rings < 4096) && decide (1000 ≤ c.period ∧ c.period ≤ 10000000) && decide (c.dmode < 2) && decide (1 ≤ c.ifter ∧ c.ifter ≤ 3600)
    && decide (1 ≤ c.chainN ∧ c.chainN ≤ 8) && decide (c.dev < c.chainN) && c.saveBase % 65536 == 0
    && decide (c.saveBase + 192 * Config.saveBytes ≤ Config.lpddrBytes) && decide (450 ≤ c.cap0 ∧ c.cap0 ≤ 1050)
    && decide (85 ≤ c.talarm ∧ c.talarm ≤ 100)
/-- The settings a configuration image's bytes hold; where each stands is the model's choice (R364; DESIGN CHOICE, log entry 35). -/
def configOf (d : List Byte) : ConfigImage :=
  { rings := fieldLe d 0 2, dmode := fieldLe d 2 1, chainN := fieldLe d 3 1, dev := fieldLe d 4 1, talarm := fieldLe d 5 1, cap0 := fieldLe d 6 2,
    period := fieldLe d 8 4, ifter := fieldLe d 12 4, saveBase := fieldLe d 16 8 }
/-- The bundle's header: type, version, offset and length of each part, in 64 bytes; its layout is the model's (R363; log entry 32). -/
def bundleHeader (parts : List BootPart) : List Byte :=
  let lens := parts.map fun p => p.data.length
  ((upto 0 parts.length).map fun i =>
    let p := parts.getD i ⟨0, 0, []⟩
    natLe 4 p.typ ++ natLe 4 p.version ++ natLe 4 (64 + (lens.take i).sum) ++ natLe 4 p.data.length).flatten ++ List.replicate 16 0
/-- The ROM accepts a bundle: each part present exactly once, and the signature verifies (R363). -/
def bundleOk (img : BootImage) : Bool :=
  img.parts.length == 3 && ([1, 2, 3].all fun t => (img.parts.filter fun p => p.typ == t).length == 1)
    && rsaVerify Config.rootKey (bundleHeader img.parts ++ (img.parts.map fun p => p.data).flatten) img.signature
/-- The part of a type. -/
def partOf (img : BootImage) (t : Nat) : BootPart := (img.parts.find? fun p => p.typ == t).getD ⟨t, 0, []⟩

def State.modBoot (s : State) (f : Boot → Boot) : State := { s with boot := f s.boot }
/-- A step has succeeded. -/
def State.stepOn (s : State) : State := s.modBoot fun b => { b with step := b.step + 1, code := 0 }
/-- A step has failed: its code stands in BOOTSTAT, and the device stays in it (R362). -/
def State.stepFails (s : State) (code : Nat) : State := s.modBoot fun b => { b with code }
/-- A crossing or the host link after its training: none where either module trained fewer than half its lanes (R336). -/
def bootWidth (lanesA lanesB : Nat) : Option Nat := trainedWidth lanesA lanesB 2 false

/-- What step 7 sets: the configuration, and on both dies H, mailboxes, cr.BANK and the slot counter (R362, R364). -/
def State.configure (s : State) (c : ConfigImage) : State :=
  let fresh (e : Nat × Braid) : Nat × Braid :=
    (e.1, { e.2 with h := [], full := [], fullStart := [], b0 := { e.2.b0 with curBank := false }, b1 := { e.2.b1 with curBank := false } })
  let now := s.nowNs
  { s with
    cfg := c, braids := s.braids.map fresh,
    clock := { lastW := now, lastE := now, cycleW := s.cycle, cycleE := s.cycle, lastEdge := s.cycle },
    boot := { s.boot with cap := c.cap0, capNext := c.cap0, since := s.cycle } }

/-- Both dies' helper data correct their responses (R365). -/
def State.identityOk (s : State) : Bool :=
  let h := helperOf s.part3
  Config.pufCorrects false s.boot.count h && Config.pufCorrects true s.boot.count h

/-- BOOT_STEP: the step the device stands in completes, or fails, and then the device stays in it (R362, R363, R364, R365). Nothing
happens while RESET_N is low. What is applied is the verified part of the bundle; the first boundary after it is announced (R341). -/
def execBootStep (ok : Bool) (img : BootImage) (s : State) : Res :=
  if s.boot.resetLow.isSome || s.boot.code ≠ 0 then .next s
  else match s.boot.step with
  | 1 => .next ((s.modBoot fun b => { b with count := b.count + 1 }).stepOn)
  | 2 =>
    match ok, bootWidth img.lanesA img.lanesA, bootWidth img.lanesB img.lanesB with
    | true, some a, some b => .next ((((s.modCrossing 0 fun x => { x with width := a }).modCrossing 1 fun x => { x with width := b })).stepOn)
    | _, _, _ => .next (s.stepFails 1)
  | 3 =>
    match ok, bootWidth img.lanesH img.lanesH with
    | true, some h => .next (s.modCrossing 2 fun x => { x with width := h }).stepOn
    | _, _ => .next s
  | 4 =>
    if ok && bundleOk img then
      .next ((s.modBoot fun b => { b with
        versions := [1, 2, 3].map fun t => (partOf img t).version, parts := [1, 2, 3].map fun t => (partOf img t).data }).stepOn)
    else .next (s.stepFails 2)
  | 5 => .next (if ok && s.identityOk then (s.modBoot fun b => { b with idReady := true }).stepOn else s.stepFails 3)
  | 6 => .next (if ok then (s.setMem { s.mem with mem := [], keyOf := [], poison := [], l2w := [], l2e := [], l2Data := [], l2Key := [], l2Poison := [] }).stepOn else s.stepFails 4)
  | 7 => .next (if ok && configOk (configOf s.part3) then (s.configure (configOf s.part3)).announce.stepOn else s.stepFails 5)
  | 8 => .next (if s.boot.ready then s else s.modBoot fun b => { b with ready := true })
  | _ => .next s

/-- What an evaluation settles for one die: how far its target is lowered, further each time its temperature is above TALARM, and the idle
cycles inserted where the power is above the target: in them the die's sequencer issues no launch, its braids begin no engine piece and
its slices serve no LPDDR6 request. Of the amounts no rule speaks: free values (R368; log entry 67). -/
def State.throttle (s : State) (mw temp low : Nat) : Nat × Nat × State :=
  let (more, s1) := if s.cfg.talarm < temp then s.draw else (0, s)
  let low1 := if s.cfg.talarm < temp then low + 1 + more else 0
  let (n, s2) := if 1000 * s.boot.capNext < mw + low1 then s1.draw else (0, s1)
  (low1, n, s2)
/-- POWER_EVALUATION: every 1 ms the loop takes the power and the temperatures, and a written CAP takes effect. It lowers targets and
inserts idle cycles on each die; those of the evaluation before that have not passed yet are not inserted, and not counted. At 115 °C
the device trips (R368, R369). -/
def execPowerEvaluation (mw tempW tempE : Nat) (s : State) : Res :=
  let (lowW, nW, s1) := s.throttle mw tempW s.boot.lowW
  let (lowE, nE, s2) := s1.throttle mw tempE s.boot.lowE
  let s3 := s2.modBoot fun b => { b with
    power := mw % 2 ^ 32, tempW := tempW % 256, tempE := tempE % 256, cap := b.capNext,
    lowW, lowE, gapW := s.cycle + nW, gapE := s.cycle + nE, idles := b.idles + nW + nE - (b.gapW - s.cycle) - (b.gapE - s.cycle) }
  .next (if 115 ≤ tempW ∨ 115 ≤ tempE then s3.next [ev .thermalTrip] else s3)

/-- POWER_GATE_DECISION: a closed gate delays the braid's job starts, by at most 1,024 cycles; 0 opens it (R368). -/
def execPowerGateDecision (b cycles : Nat) (s : State) : Res :=
  let n := min cycles 1024
  let s1 := s.modBraid b fun x => { x with gateTill := s.cycle + n }
  .next (if n = 0 then s1 else s1.modBoot fun b => { b with closures := (b.closures + 1) % 2 ^ 32 })

end Sys2Proof.Machine
end

