-- ==== Sys2Proof/Machine/Timing.lean ====
section
/-! DEFINITION. How long an instruction occupies its context (04: R108; 05: R134; 08: R204; 10: R217, R229; 11: R252; 12: R276;
13: R294; 15: R330). No result depends on it. -/

namespace Sys2Proof.Machine

/-- Bytes of an access that are translated. -/
def translatedOf (va n : Nat) : List Nat := (upto va n).filter fun a => !isLocal a && decide (a < 2 ^ 48)
/-- The issuing context's translation of a byte where its TLB holds the page. -/
def State.tlbByte (s : State) (a : Acc) (va : Nat) : Option (Nat × Nat) :=
  let (b, _, _) := s.me
  match s.lookup s.myBank.vi b 64 a va s.myBraid.tlb with
  | (.ok pa leaf, _, true) => some (pa, leaf)
  | _ => none

/-- Cycles of a load: in braid SRAM; with every byte in the merge buffer or the L1, none in a spilled line, and a TLB hit; else not
fixed (R108, R229). -/
def State.loadCycles (s : State) (va n near hit far : Nat) : Nat × Bool :=
  let x := s.myBraid
  let found (a : Nat) : Bool := match s.tlbByte .load a with
    | some (pa, leaf) => leafKind leaf != 3 && (s.myBank.entriesOf pa).isEmpty && ((ownByte x.merge [] [] pa).isSome || (l1Find x.l1 (pa / 64)).isSome)
    | none => false
  match translatedOf va n with
  | [] => (near, false)
  | l => if hit ≠ 0 && l.all found then (hit, false) else (far, true)
/-- Cycles of a store: with its line of the present copy mark in the buffer, or a line free and none to be read back, and a TLB hit; else
not fixed (R108, R226, R229). -/
def State.storeCycles (s : State) (va n : Nat) : Nat × Bool :=
  let x := s.myBraid
  let found (a : Nat) : Bool := match s.tlbByte .store a with
    | some (pa, _) =>
      let line := pa / 64 * 64
      let m := s.myBank.mark
      match x.merge.find? fun l => l.pa == line with
      | some l => l.mark == m
      | none => decide (x.merge.length < 2048) && !(s.myBank.spilled.any fun l => l.pa == line && l.mark == m)
    | none => false
  match translatedOf va n with
  | [] => (2, false)
  | l => if l.all found then (3, false) else (40, true)
/-- Cycles of a RED (R252). -/
def State.redCycles (s : State) (va : Nat) : Nat × Bool := if (s.tlbByte .red va).isSome then (3, false) else (60, true)
/-- Cycles of an instruction that reads a record (R134, R204, R276): in braid SRAM, or not fixed and at least 60. -/
def State.recordCycles (s : State) (va n near : Nat) : Nat × Bool := s.loadCycles va n near 0 60
/-- Cycles of CPIN and CPOUT: of the command record and the shape record it names (R257, R276). -/
def State.copyCycles (s : State) (va : Nat) : Nat × Bool :=
  match s.recordCycles va 64 12 with
  | (_, false) => s.recordCycles (leNat (s.myBraid.sramRead (va + 8) 6)) 64 12
  | r => r

/-- Cycles from fetch to retirement under a true guard, and whether the count is a least one; waits come on top. YIELD, TSAVE and TRSTR
count theirs after their waits (`afterWait`, R330). -/
def State.cyclesOf (s : State) (i : Instr) : Nat × Bool :=
  let at_ (a : BitVec 5) : Nat := addrOf (s.rS a)
  match i with
  | .mul .. | .mulh .. | .mulhz .. => (3, false)
  | .div .. | .divz .. | .rem .. | .remz .. => (34, false)
  | .fadd .. | .fsub .. | .fmul .. | .ffma .. | .fmin .. | .fmax .. | .fabs .. | .fneg .. | .fcmpEq .. | .fcmpLt .. | .fcmpLe .. | .fcmpUn ..
  | .fcvt .. => (4, false)
  | .ldB _ _ _ _ _ a => s.loadCycles (at_ a) 1 4 8 40
  | .ldH _ _ _ _ _ a => s.loadCycles (at_ a) 2 4 8 40
  | .ldW _ _ _ _ _ a => s.loadCycles (at_ a) 4 4 8 40
  | .ldD _ _ _ _ _ a => s.loadCycles (at_ a) 8 4 8 40
  | .cLdD _ a => s.loadCycles (at_ a) 8 4 8 40
  | .stB _ _ _ a _ => s.storeCycles (at_ a) 1
  | .stH _ _ _ a _ => s.storeCycles (at_ a) 2
  | .stW _ _ _ a _ => s.storeCycles (at_ a) 4
  | .stD _ _ _ a _ => s.storeCycles (at_ a) 8
  | .cStD a _ => s.storeCycles (at_ a) 8
  | .ldf .. | .ste .. => (2, false)
  | .amoAdd .. | .amoSwap .. | .amoCas .. | .amoMin .. | .amoMax .. | .amoAnd .. | .amoOr .. => (60, true)
  | .redAdd _ _ _ _ a _ | .redMin _ _ _ _ a _ | .redMax _ _ _ _ a _ | .redFadd _ _ _ _ a _ | .redCfadd _ _ _ _ a _ => s.redCycles (at_ a)
  | .br .. | .jal .. | .jalr .. | .cBr .. => (2, false)
  | .job _ _ a => s.recordCycles (at_ a) 64 4
  | .cpin _ _ _ a | .cpout _ _ _ a => s.copyCycles (at_ a)
  | .rvin _ _ a | .rvout _ _ a => s.recordCycles (at_ a) 64 8
  | .snap .. | .fork .. | .rollb .. | .freeh .. => (40, true)
  | .task _ a => s.recordCycles (at_ a) 128 8
  | .hmix _ _ _ b => s.recordCycles (at_ b) 64 17
  | .trap .. | .rte .. => (8, false)
  | _ => (1, false)

/-- The occupancy of a fetched instruction: 1 under a false guard; a least count is lengthened by a free number (R108). -/
def State.occupancy (s : State) (ps : List Parcel) (i : Instr) : State × Nat :=
  if !s.myCtx.getP (guardOf ps) then (s, 1)
  else
    match s.cyclesOf i with
    | (n, false) => (s, n)
    | (n, true) =>
      let (m, s1) := s.draw
      (s1, n + m)

end Sys2Proof.Machine
end

