-- ==== Sys2Proof/Machine/Fetch.lean ====
section
/-! DEFINITION. Fetching: which context or strand issues, what it reads, and what it has to execute in this cycle (01: R17 to R19;
03: R70, R71, R78; 05: R113 to R115, R119, R120; 11: R235; 15: R309). -/

namespace Sys2Proof.Machine

/-- What the acting context has to execute now: the instruction in progress once its cycles are over, or the one fetched; none
while it has no slot, waits or counts down; ILLEGAL_ENCODING where the map assigns no instruction (R19, R78). -/
def State.ctxNext (s : State) : State × Option Instr :=
  if !s.ctxIssues then (s, none)
  else
    let due (st : State) (i : Instr) : State × Option Instr :=
      if (st.myCtx.retireAt.getD 0) ≤ st.cycle && !st.barred i then (st, some i) else (st, none)
    match s.myCtx.ins with
    | some i => due s i
    | none =>
      match s.fetchParcels with
      | (s1, none) => (s1, none)
      | (s1, some ps) =>
        match decodeCtl ps with
        | .error _ => (s1, some .illegalEncoding)
        | .ok (i, _) =>
          let (s2, n) := s1.occupancy ps i
          let t := s.myCtx.retireAt.getD (max s.cycle s.myCtx.issueAt + n - 1)
          let store := if s.cycle < t then s1.storeOf i else none
          due (s2.modMyCtx fun c => { c with ins := some i, retireAt := some t, wait := .none, store }) i

/-- A parcel of a strand's stream: from the loop buffer, or from braid SRAM as at the job's start or now, which is either where the
two differ (R115); in the mailbox there is none (R209). -/
def State.strandParcel (s : State) (b k a : Nat) : State × Option Parcel :=
  let t := s.strand b k
  let x := s.braid b
  if inMail a then (s, none)
  else if thas t.buf a then (s, some (tget 0 t.buf a))
  else
    let parcel (m : Tab Byte) : Parcel := BitVec.ofNat 16 (leNat ((upto a 2).map fun i => if i < Config.sramBytes then tget 0 m i else 0))
    let first := match x.jobsOpen.find? fun j => j.bank == t.bank && some j.job.num == t.job with
      | some j => parcel j.sram
      | none => parcel x.sramStart
    let now := parcel x.sramStart
    let (old, s1) := if first = now then (true, s) else s.flip
    let p := if old then first else now
    (s1.modStrand b k fun t => { t with buf := tput t.buf a p }, some p)
/-- `n` parcels from an address on. -/
def State.strandParcels (s : State) (b k a : Nat) : Nat → State × Option (List Parcel)
  | 0 => (s, some [])
  | n + 1 =>
    match s.strandParcel b k a with
    | (s1, none) => (s1, none)
    | (s1, some p) =>
      match s1.strandParcels b k (a + 2) n with
      | (s2, some l) => (s2, some (p :: l))
      | (s2, none) => (s2, none)

/-- The strand at a position of the row (R6). -/
def strandAt (k : Nat) : StrandId :=
  match k with
  | 0 => .ld
  | 1 => .mx
  | 2 => .sc
  | 3 => .vx
  | _ => .st
/-- Parcels of the op that a first parcel begins (R70, R173). -/
def opParcels (k : Nat) (p : Parcel) : Nat := if p.toNat < 32768 then 1 else if k = 3 ∧ bits p.toNat 10 5 = 24 then 4 else 2
/-- The op that begins at a parcel: none where the stream holds none there, with the code of the fault (R78, R209, R321). -/
def State.strandOp (s : State) (b k a : Nat) : State × Except Nat Instr :=
  match s.strandParcel b k a with
  | (s1, none) => (s1, .error 7)
  | (s1, some p) =>
    let n := opParcels k p
    let bad := (upto a (2 * n)).any fun x => (s.braid b).bad.contains x && !thas (s.strand b k).buf (x / 2 * 2)
    match s1.strandParcels b k a n with
    | (s2, none) => (s2, .error 7)
    | (s2, some l) =>
      if bad then (s2, .error 20) else
      match decodeStrand (strandAt k) l with
      | .ok (i, _) => (s2, .ok i)
      | .error _ => (s2, .error 1)

/-- What the acting strand has to execute in this cycle: the op in progress, or the next of its stream; none without a job or after
JOIN. An op that begins in a block's body and runs beyond its end is executed, and the strand then faults with it for an encoding, at
that op's parcel (R71, R72, R113, R114; DESIGN CHOICE, log entry 107). -/
def State.strandNext (s : State) : State × Option Instr :=
  let (b, k) := s.here 0
  let t := s.strand b k
  let joined := (s.braid b).jobsOpen.any fun j => j.bank == t.bank && some j.job.num == t.job && j.joined.contains k
  let past := match t.nest with
    | o :: _ => decide (o.stop < t.pc)
    | [] => false
  if t.job.isNone || joined then (s, none)
  else
    match t.op with
    | some i => (s, some i)
    | none =>
      if past then (s, some .illegalEncoding)
      else
        let begun (st : State) (o : Option Instr) : State := st.modStrand b k fun t => { t with op := o, opPc := t.pc, q := 0 }
        match s.strandOp b k t.pc with
        | (s1, .ok i) => (begun s1 (some i), some i)
        | (s1, .error code) =>
          if code = 1 then (begun s1 none, some .illegalEncoding) else ((begun s1 none).strandFault b k code t.pc t.pc, none)

/-- The parcels of a table word as the stream stores them: a strand op's first parcel is its high half (R17, R70). -/
def tableParcels (nbits w : Nat) (strand : Bool) : List Parcel :=
  let p (i : Nat) : Parcel := BitVec.ofNat 16 (w / 2 ^ (16 * i))
  if strand && decide (16 < nbits) && decide (nbits ≤ 32) then [p 1, p 0, 0, 0] else [p 0, p 1, p 2, p 3]
/-- The bytes of parcels. -/
def parcelBytes (l : List Parcel) : List Byte := (l.map fun p => natLe 2 p.toNat).flatten

/-- Where the code of `withFetchWord` stands. -/
def codeBase : Nat := 0x1000
/-- A task to run an instruction for. -/
def bareTask : Task :=
  { tid := 0, vi := 0, launch := 0, entry := BitVec.ofNat 48 codeBase, m1 := false, m2 := false, m3 := false, phase := 0, bars := [], rank := 0,
    spawned := false, round := none, gain := 0, tvec := 0, wmap := 0, copies := 0, groups := 0, place := 0, gops := 0, areaBase := 0, pins := [],
    started := 0, from_ := 0, sq := 1 }
/-- The context an instruction is assigned to: T for RTE, TSAVE and TRSTR, else X (R310, R311, R313). -/
def homeCtx (i : Option Instr) : CtxId :=
  match i with
  | some (.rte _) | some (.tsave _ _) | some (.trstr _ _) => .T
  | _ => .X
/-- Braid 0 holds bytes at the code base. -/
def State.withCode (s : State) (l : List Byte) : State :=
  s.modBraid 0 fun x => { x with runBank := 0, sram := (x.sramPuts codeBase l).sram, sramStart := (x.sramPuts codeBase l).sram }
/-- A task runs on braid 0, whose context is about to fetch at the code base, in the slot that comes next. -/
def State.asContext (s : State) (c : CtxId) : State :=
  (s.modBank 0 0 fun k =>
    ({ k with mode := .running, task := some (k.task.getD bareTask), tActive := c == .T, tActiveStart := c == .T, arrive := none } : Bank).setCtx c
      { (k.ctx c).retired with pc := BitVec.ofNat 48 codeBase, run := true, halt := false, retireAt := some s.cycle }).setTodo [.ctx 0 0 c]
/-- A job for a strand. -/
def bareJob (k : Nat) : Job :=
  { num := 1, pc := BitVec.ofNat 48 codeBase, ctx := .X, at_ := 0, smask := 2 ^ k, maxc := 65535, entry := [], spbld := [], preds := [],
    conds := [], regions := [], xv := false, xdev := 0, raw := [] }
/-- A job is open on braid 0, whose strand `k` is about to fetch at the code base, in the slot that comes next. -/
def State.asStrand (s : State) (k : Nat) : State :=
  ((s.asContext .X).modBraid 0 fun x =>
    let o : OpenJob := { job := bareJob k, bank := 0, start := s.cycle, joined := [], resv := [], resv7 := 0, lpImage := [], sram := x.sramStart, stm := 0 }
    ({ x with jobsOpen := o :: x.jobsOpen.filter fun j => !(j.bank == 0 && j.job.num == 1) }).modStrand k fun t =>
      { t with job := some 1, bank := 0, pc := codeBase, op := none, q := 0, nest := [], buf := [] }).setTodo [.strand 0 k]
/-- Position of a strand. -/
def strandPos : StrandId → Nat
  | .ld => 0
  | .mx => 1
  | .sc => 2
  | .vx => 3
  | .st => 4
/-- The state in which the next step fetches and runs the instruction of a table word. -/
def State.placed (s : State) (nbits w : Nat) : State :=
  match decodeTable nbits w with
  | some (some k, _) => (s.withCode (parcelBytes (tableParcels nbits w true))).asStrand (strandPos k)
  | o => (s.withCode (parcelBytes (tableParcels nbits w false))).asContext (homeCtx (o.map fun e => e.2))

end Sys2Proof.Machine
end

