-- ==== Sys2Proof/Machine/Schedule.lean ====
section
/-! DEFINITION. A cycle of the device: what happens in it and in which order (01: R9, R23; 05: R110, R123; and the rules of every
agent). One step of the model does one of these actions. -/

namespace Sys2Proof.Machine

/-- The beats of a track a cycle later: driven ones, or those that arrived, one position to the east (R110). -/
def nextBeats (arriving driven : Tab Beat) : Tab Beat :=
  let on (m : Tab Beat) (e : Nat × Beat) : Tab Beat := if e.1 % 5 < 4 then tput m (e.1 + 1) e.2 else m
  driven.foldl on (arriving.foldl on [])
/-- A braid as a cycle begins: sticky bits settle, and reads see what stands now (R23, R105, R110, R125, R216). -/
def Braid.tick (x : Braid) : Braid :=
  { x with
    b0 := x.b0.settle, b1 := x.b1.settle, sramStart := x.sram, fullStart := x.full, sqStart := x.sqDone, taken := [], stored := [],
    arriving := nextBeats x.arriving x.driven, driven := [] }

/-- The acts of a list that are due, and the rest. -/
def dueActs (now : Nat) (l : List (Nat × Act)) : List Act := (l.filter fun e => decide (e.1 ≤ now)).map fun e => e.2
def laterActs (now : Nat) (l : List (Nat × Act)) : List (Nat × Act) := l.filter fun e => !decide (e.1 ≤ now)
/-- The act is a packet's delivery to its own stop, which comes where ring deliveries do (R179, R216). -/
def Act.isPacket : Act → Bool
  | .event (.mail _) _ _ _ | .event (.done _) _ _ _ | .event (.bara _) _ _ _ | .event (.barr _) _ _ _ | .event (.heap _) _ _ _
  | .event (.rdreq _) _ _ _ | .event (.rdrsp _) _ _ _ | .event (.prep _) _ _ _ | .event (.amoreq _) _ _ _ | .event (.amorsp _) _ _ _
  | .event (.redent _) _ _ _ | .event (.engine _) _ _ _ | .event (.ctrl _) _ _ _ | .event (.reservedPacket _) _ _ _ => true
  | _ => false
/-- An act of an agent, if a condition holds. -/
def onlyIf (c : Bool) (l : List Act) : List Act := if c then l else []
def byAgent (i : Instr) (a b c : Nat) : Act := .event i a b c

/-- In-field tests: those that fall due, and those whose time is over, with their outcome (R329). -/
def State.testActs (s : State) : State × List Act :=
  let start := ((upto 0 96).filter s.testDue).map fun b => byAgent .inFieldTest b 0 0
  let ended := s.braids.filter fun e => match e.2.testEnd with
    | some t => decide (t ≤ s.cycle)
    | none => false
  let (good, s1) := if ended.isEmpty then (true, s) else s.flip
  (s1, start ++ ended.map fun e => byAgent (.inFieldTestEnd e.1 good) e.1 0 0)
/-- Deliveries of launches, device task queues, and banks that start (R281, R286, R291, R135). -/
def State.startActs (s : State) : List Act :=
  ((s.launches.map fun l => (l.deliver.filter fun e => decide (e.2 ≤ s.cycle)).map fun e => byAgent .taskStart l.uid e.1 0).flatten)
    ++ ((s.braids.filter fun e => !e.2.taskQ.isEmpty).map fun e => byAgent .taskStart e.1 0 1)
    ++ ((s.braids.map fun e => (upto 0 2).map fun i => (e.1, i)).flatten).map fun e => byAgent .taskStart e.1 e.2 2
/-- Launches issue and resume (R283, R318). -/
def State.issueActs (s : State) : List Act :=
  onlyIf (!s.launches.isEmpty) ((upto 0 2).map fun d => [byAgent .launchIssue d 0 0, byAgent .launchResume d 0 0]).flatten
/-- UCIe flits that arrive on the crossings (R333). -/
def State.spliceActs (s : State) : List Act :=
  (s.crossings.map fun e =>
    let due (l : Lane) : List Nat := (l.fly.filter fun f => decide (f.1 ≤ s.cycle)).map fun _ => 0
    (due e.2.east).map (fun _ => ev (.spliceFlit e.1 true true)) ++ (due e.2.west).map fun _ => ev (.spliceFlit e.1 false true)).flatten
/-- Flits that arrive (R185). -/
def State.flitActs (s : State) : List Act :=
  (s.links.map fun e => (e.2.fly.filter fun f => decide (f.1 ≤ s.cycle)).map fun _ => ev (.flit (s.linkTo e.1) (linkDir e.1 == 1) true)).flatten
/-- A braid's own part of a cycle: results, the start of a job, contexts and strands in the order of R123. -/
def braidActs (b : Nat) (x : Braid) : List Act :=
  let i := x.runBank
  let k := x.bank i
  let busy := !x.jobsOpen.isEmpty || !k.jobs.isEmpty || !x.pend.isEmpty
  onlyIf (k.task.isSome || busy)
    (onlyIf busy [byAgent (.opResult b false) b 0 0, byAgent .jobStart b 0 0]
      ++ [.ctx b i .L, .ctx b i .X, .ctx b i .S]
      ++ onlyIf busy ([.strand b 0, byAgent (.opResult b true) b 0 1, .strand b 1, .strand b 2, .strand b 3, byAgent (.opResult b true) b 0 0, .strand b 4])
      ++ [.ctx b i .T])
/-- Stops that may send or deliver. -/
def State.stops (s : State) : List Nat := distinct (s.braids.map (fun e => e.1) ++ s.links.map fun e => s.linkTo e.1)
/-- Outputs send (R188, R355). -/
def State.sendActs (s : State) : List Act :=
  ((s.stops.map fun n => [byAgent .flitSend n 0 0, byAgent .flitSend n 1 0]).flatten) ++ onlyIf (!s.ports.isEmpty) [byAgent .flitSend 72 2 0]
/-- Rendezvous and overruns: of the open jobs, and of the one that may start in this cycle (R132, R133). -/
def jobActs (b : Nat) (x : Braid) : List Act :=
  let jobs := x.jobsOpen.map (fun j => (j.bank, j.job.num)) ++ ((x.bank x.runBank).jobs.take 1).map fun j => (x.runBank, j.num)
  jobs.map (fun e => byAgent .rendezvous b e.1 e.2) ++ jobs.map fun e => byAgent .overrun b e.1 e.2
/-- Input ports deliver, the counter-clockwise one last (R189). -/
def State.deliverActs (s : State) : List Act :=
  ((distinct ((s.links.filter fun e => !e.2.complete.isEmpty).map fun e => s.linkTo e.1)).map fun n =>
    [byAgent .packetDelivery n 0 0, byAgent .packetDelivery n 1 0]).flatten
/-- Return words and audits that reach their senders (R190, R191). -/
def State.wordActs (s : State) : List Act :=
  (s.links.map fun e => (e.2.words.filter fun w => decide (w.1 ≤ s.cycle)).map fun w =>
    ev (if w.2.aud then .auditFlit (s.linkTo e.1) (linkDir e.1 == 1) true else .returnWord (s.linkTo e.1) (linkDir e.1 == 1) true)).flatten
/-- Banks that hold a task. -/
def State.taskBanks (s : State) : List (Nat × Nat × Bank) :=
  (s.braids.map fun e => ((upto 0 2).filter fun i => (e.2.bank i).task.isSome).map fun i => (e.1, i, e.2.bank i)).flatten
/-- Commit events: their ends, their application, and what arrived tasks wait for (R234, R235, R340). -/
def State.eventActs (s : State) : List Act :=
  (s.events.map (fun e => byAgent .eventComplete e.1 0 0)) ++ (s.taskBanks.map fun e => byAgent .eventComplete e.1 e.2.1 1)
    ++ (s.events.map fun e => byAgent .eventPrepared e.1 0 0) ++ s.taskBanks.map fun e => byAgent .commitEvent e.1 e.2.1 0
/-- Commands of copy channels and of the Reeve start, before anything of the cycle retires: no earlier than the cycle after their
references hold (R253, R255, R271). A fault that a start meets is taken with the engines' others, after the contexts' (R300). -/
def State.engineStarts (s : State) : List Act :=
  (s.braids.map fun e => ((upto 0 2).map fun i =>
    let k := e.2.bank i
    (((upto 0 4).filter fun c => !(tget {} k.chans c).queue.isEmpty).map fun c => byAgent .copyStart e.1 i c)
      ++ onlyIf (!k.rv.queue.isEmpty) [byAgent .reeveStart e.1 i 0]).flatten).flatten
/-- Copy channels and the Reeve go on (R253, R265, R271). -/
def State.engineActs (s : State) : List Act :=
  (s.braids.map fun e => ((upto 0 2).map fun i =>
    let k := e.2.bank i
    (((upto 0 4).filter fun c => !(tget {} k.chans c).queue.isEmpty || !(tget {} k.chans c).lasts.isEmpty).map fun c => byAgent .copyPiece e.1 i c)
      ++ onlyIf (!k.rv.queue.isEmpty) [byAgent .rvinRetire e.1 i 0, byAgent .rvoutRetire e.1 i 0]).flatten).flatten
/-- The banks in which faults of the cycle may stand: each records one of them now (R300). -/
def State.faultActs (s : State) : List Act :=
  (s.braids.map fun e => ((upto 0 2).filter fun i =>
    let k := e.2.bank i
    k.task.isSome || !k.rv.queue.isEmpty || k.chans.any fun c => !c.2.queue.isEmpty).map fun i => byAgent .overrun e.1 i lastFault).flatten
/-- Heaps and their rounds (R198 to R200). -/
def State.heapActs (s : State) : List Act :=
  (s.heaps.map fun e => onlyIf (e.2.st != .done) (byAgent .heapRun (e.1 / 16) (e.1 % 16) 0
    :: (upto 0 e.2.popped.length).map fun i => byAgent .roundTaskStart (e.1 / 16) (e.1 % 16) i)).flatten
/-- Launch queues, spilled task records, launches that end (R279, R290, R291). -/
def State.queueActs (s : State) : List Act :=
  (s.ifaces.map fun e => (e.2.queues.filter fun q => q.2.en).map fun q => byAgent .recordTake e.1 q.1 0).flatten
    ++ (s.launches.map fun l =>
      onlyIf (!l.spill.isEmpty) [byAgent .taskSpillReturn l.uid 0 0] ++ [byAgent .launchComplete l.uid 0 0]).flatten
/-- Banks that stop, wait for an answer, give way or stall (R222, R289, R305, R306, R308, R349). -/
def State.bankActs (s : State) : List Act :=
  (s.taskBanks.map fun e =>
    onlyIf (e.2.2.mode == .cancelling) [byAgent .cancellation e.1 e.2.1 1]
      ++ onlyIf (e.2.2.mode != .running) [byAgent .suspend e.1 e.2.1 0, byAgent .tokenRecordPost e.1 e.2.1 0, byAgent .lightFault e.1 e.2.1 0]).flatten
    ++ ((distinct (s.taskBanks.map fun e => e.1)).map fun b => [byAgent .bankSwitch b 0 0, byAgent .braidStall b 0 0]).flatten
/-- Links that replay or fail, admin commands that end, slot boundaries (R287, R337, R339, R348). -/
def State.linkActs (s : State) : List Act :=
  (s.crossings.map fun e =>
    onlyIf e.2.training [byAgent .linkDown e.1 0 0] ++ onlyIf e.2.west.nak.isSome [byAgent .flitReplay e.1 0 0]
      ++ onlyIf e.2.east.nak.isSome [byAgent .flitReplay e.1 1 0]).flatten
    ++ onlyIf s.admin.due.isSome [ev .adminCommandComplete]
    ++ onlyIf s.boot.ready [byAgent .slotBoundary 0 0 0, byAgent .slotBoundary 1 0 0, ev .slotrefTimeout]

/-- An act comes over the host link: a request, answer or snoop of CXL, or a write of a register (R344, R348). -/
def Act.byHost : Act → Bool
  | .event (.cxlMemRead ..) _ _ _ | .event (.cxlMemWrite ..) _ _ _ | .event (.snoop ..) _ _ _ | .event (.cxlCacheResponse ..) _ _ _
  | .event (.registerWrite ..) _ _ _ | .event (.create ..) _ _ _ | .event (.destroy ..) _ _ _ | .event (.assign ..) _ _ _
  | .event (.migrate ..) _ _ _ | .event (.attest ..) _ _ _ | .event (.holdrel ..) _ _ _ | .event (.errbankClear ..) _ _ _
  | .event (.ptroot ..) _ _ _ | .event (.tlbsync ..) _ _ _ | .event (.cap ..) _ _ _ | .event (.reset ..) _ _ _
  | .event (.tokenRetry ..) _ _ _ | .event (.tokenRefuse ..) _ _ _ | .event .spliceRetrainA _ _ _ | .event .spliceRetrainB _ _ _
  | .event .hostLinkRetrain _ _ _ => true
  | _ => false
/-- Inputs that may come in: none over the host link while it trains or is down (R338, R339, R344). -/
def State.heard (s : State) : List (Nat × Act) :=
  let x := s.crossing 2
  if x.training || x.width == 0 then s.inputs.filter fun e => !e.2.byHost else s.inputs
/-- Inputs that are due and wait for the host link to have trained (R338, R344). -/
def State.held (s : State) (now : Nat) : List (Nat × Act) :=
  if (s.crossing 2).training then s.inputs.filter fun e => decide (e.1 ≤ now) && e.2.byHost else []

/-- Writes of the device that wait for a line of host memory are tried again (R221, R347). -/
def State.retryPuts (s : State) : State :=
  (s.ifaces.filter fun e => !e.2.unposted.isEmpty).foldl (fun (st : State) e => st.putWaiting e.1) s

/-- Errors of sequencer and memory-processor SRAM that have come are recorded in bank 25 of their die (R323, R324; what brings them is
outside the rules, log entry 103). -/
def State.seqErrors (s : State) : State :=
  (s.seqErrs.filter fun e => decide (e.cycle ≤ s.cycle)).foldl (fun (st : State) (e : SeqErr) => st.noteErr e.east 25 e.uc false e.unit 0 e.addr)
    { s with seqErrs := s.seqErrs.filter fun e => !decide (e.cycle ≤ s.cycle) }

/-- A cycle begins: what is under way moves on, and its actions are laid out. -/
def State.beginCycle (s : State) : State :=
  let now := s.cycle + 1
  let s1 : State := { s with
    cycle := now, cur := .nobody, braids := s.braids.map (fun e => (e.1, e.2.tick)),
    inputs := s.held now ++ laterActs now s.inputs, pending := laterActs now s.pending }
  let s2 := (((s1.boardLanes.sendWords).sendUnsent).retryPuts).seqErrors
  let (s3, tests) := s2.testActs
  s3.setTodo (dueActs now s.heard ++ (dueActs now s.pending).filter (fun a => !a.isPacket) ++ tests
    ++ s3.engineStarts ++ s3.startActs ++ s3.issueActs ++ s3.spliceActs ++ s3.flitActs
    ++ (s3.braids.map fun e => braidActs e.1 e.2).flatten ++ s3.sendActs ++ (s3.braids.map fun e => jobActs e.1 e.2).flatten
    ++ (dueActs now s.pending).filter Act.isPacket ++ s3.deliverActs ++ s3.wordActs ++ s3.eventActs ++ s3.engineActs ++ s3.faultActs ++ s3.heapActs ++ s3.queueActs ++ s3.bankActs ++ s3.linkActs
    ++ onlyIf (now % 4096 == 0) [ev .auditTick])

end Sys2Proof.Machine
end

