-- ==== Sys2Proof/Machine/Dispatch.lean ====
section
/-! DEFINITION. The dispatcher: one arm for each constructor of Instr. -/

namespace Sys2Proof.Machine

/-- What an instruction or event does. -/
def exec (i : Instr) (s : State) : Host.Outcome State Fault Refusal :=
  match i with
  | .add g d a b => Sys2Proof.Machine.execAdd g d a b s
  | .sub g d a b => Sys2Proof.Machine.execSub g d a b s
  | .mul g d a b => Sys2Proof.Machine.execMul g d a b s
  | .mulh g d a b => Sys2Proof.Machine.execMulh g d a b s
  | .mulhz g d a b => Sys2Proof.Machine.execMulhz g d a b s
  | .div g d a b => Sys2Proof.Machine.execDiv g d a b s
  | .divz g d a b => Sys2Proof.Machine.execDivz g d a b s
  | .rem g d a b => Sys2Proof.Machine.execRem g d a b s
  | .remz g d a b => Sys2Proof.Machine.execRemz g d a b s
  | .and g d a b => Sys2Proof.Machine.execAnd g d a b s
  | .or g d a b => Sys2Proof.Machine.execOr g d a b s
  | .xor g d a b => Sys2Proof.Machine.execXor g d a b s
  | .andn g d a b => Sys2Proof.Machine.execAndn g d a b s
  | .shl g d a b => Sys2Proof.Machine.execShl g d a b s
  | .shr g d a b => Sys2Proof.Machine.execShr g d a b s
  | .sra g d a b => Sys2Proof.Machine.execSra g d a b s
  | .min g d a b => Sys2Proof.Machine.execMin g d a b s
  | .max g d a b => Sys2Proof.Machine.execMax g d a b s
  | .minz g d a b => Sys2Proof.Machine.execMinz g d a b s
  | .maxz g d a b => Sys2Proof.Machine.execMaxz g d a b s
  | .clz g d a => Sys2Proof.Machine.execClz g d a s
  | .popc g d a => Sys2Proof.Machine.execPopc g d a s
  | .bfx g d a b => Sys2Proof.Machine.execBfx g d a b s
  | .bfi g d a b => Sys2Proof.Machine.execBfi g d a b s
  | .sel g d a b => Sys2Proof.Machine.execSel g d a b s
  | .addi g d imm => Sys2Proof.Machine.execAddi g d imm s
  | .andi g d imm => Sys2Proof.Machine.execAndi g d imm s
  | .ori g d imm => Sys2Proof.Machine.execOri g d imm s
  | .xori g d imm => Sys2Proof.Machine.execXori g d imm s
  | .shli g d sh => Sys2Proof.Machine.execShli g d sh s
  | .shri g d sh => Sys2Proof.Machine.execShri g d sh s
  | .srai g d sh => Sys2Proof.Machine.execSrai g d sh s
  | .movi g d imm => Sys2Proof.Machine.execMovi g d imm s
  | .movhi g d imm => Sys2Proof.Machine.execMovhi g d imm s
  | .cmpEq g pd a b => Sys2Proof.Machine.execCmpEq g pd a b s
  | .cmpNe g pd a b => Sys2Proof.Machine.execCmpNe g pd a b s
  | .cmpLt g pd a b => Sys2Proof.Machine.execCmpLt g pd a b s
  | .cmpLe g pd a b => Sys2Proof.Machine.execCmpLe g pd a b s
  | .cmpLo g pd a b => Sys2Proof.Machine.execCmpLo g pd a b s
  | .cmpLs g pd a b => Sys2Proof.Machine.execCmpLs g pd a b s
  | .cmpiEq g pd a imm => Sys2Proof.Machine.execCmpiEq g pd a imm s
  | .cmpiNe g pd a imm => Sys2Proof.Machine.execCmpiNe g pd a imm s
  | .cmpiLt g pd a imm => Sys2Proof.Machine.execCmpiLt g pd a imm s
  | .cmpiLe g pd a imm => Sys2Proof.Machine.execCmpiLe g pd a imm s
  | .cmpiLo g pd a imm => Sys2Proof.Machine.execCmpiLo g pd a imm s
  | .cmpiLs g pd a imm => Sys2Proof.Machine.execCmpiLs g pd a imm s
  | .pand g pd ps1 ps2 => Sys2Proof.Machine.execPand g pd ps1 ps2 s
  | .por g pd ps1 ps2 => Sys2Proof.Machine.execPor g pd ps1 ps2 s
  | .pxor g pd ps1 ps2 => Sys2Proof.Machine.execPxor g pd ps1 ps2 s
  | .pnot g pd ps1 => Sys2Proof.Machine.execPnot g pd ps1 s
  | .pmov g pd ps1 => Sys2Proof.Machine.execPmov g pd ps1 s
  | .fadd g d a b => Sys2Proof.Machine.execFadd g d a b s
  | .fsub g d a b => Sys2Proof.Machine.execFsub g d a b s
  | .fmul g d a b => Sys2Proof.Machine.execFmul g d a b s
  | .ffma g d a b => Sys2Proof.Machine.execFfma g d a b s
  | .fmin g d a b => Sys2Proof.Machine.execFmin g d a b s
  | .fmax g d a b => Sys2Proof.Machine.execFmax g d a b s
  | .fabs g d a => Sys2Proof.Machine.execFabs g d a s
  | .fneg g d a => Sys2Proof.Machine.execFneg g d a s
  | .fcmpEq g pd a b => Sys2Proof.Machine.execFcmpEq g pd a b s
  | .fcmpLt g pd a b => Sys2Proof.Machine.execFcmpLt g pd a b s
  | .fcmpLe g pd a b => Sys2Proof.Machine.execFcmpLe g pd a b s
  | .fcmpUn g pd a b => Sys2Proof.Machine.execFcmpUn g pd a b s
  | .fcvt g df sf z rnd d a => Sys2Proof.Machine.execFcvt g df sf z rnd d a s
  | .ldB g na z sid d a => Sys2Proof.Machine.execLdB g na z sid d a s
  | .ldH g na z sid d a => Sys2Proof.Machine.execLdH g na z sid d a s
  | .ldW g na z sid d a => Sys2Proof.Machine.execLdW g na z sid d a s
  | .ldD g na z sid d a => Sys2Proof.Machine.execLdD g na z sid d a s
  | .stB g na sid a b => Sys2Proof.Machine.execStB g na sid a b s
  | .stH g na sid a b => Sys2Proof.Machine.execStH g na sid a b s
  | .stW g na sid a b => Sys2Proof.Machine.execStW g na sid a b s
  | .stD g na sid a b => Sys2Proof.Machine.execStD g na sid a b s
  | .ldf g d a => Sys2Proof.Machine.execLdf g d a s
  | .ste g a b => Sys2Proof.Machine.execSte g a b s
  | .mbclr g a => Sys2Proof.Machine.execMbclr g a s
  | .mbstat g d a => Sys2Proof.Machine.execMbstat g d a s
  | .amoAdd g z wide d a b => Sys2Proof.Machine.execAmoAdd g z wide d a b s
  | .amoSwap g z wide d a b => Sys2Proof.Machine.execAmoSwap g z wide d a b s
  | .amoCas g z wide d a b => Sys2Proof.Machine.execAmoCas g z wide d a b s
  | .amoMin g z wide d a b => Sys2Proof.Machine.execAmoMin g z wide d a b s
  | .amoMax g z wide d a b => Sys2Proof.Machine.execAmoMax g z wide d a b s
  | .amoAnd g z wide d a b => Sys2Proof.Machine.execAmoAnd g z wide d a b s
  | .amoOr g z wide d a b => Sys2Proof.Machine.execAmoOr g z wide d a b s
  | .redAdd g z comp wide a b => Sys2Proof.Machine.execRedAdd g z comp wide a b s
  | .redMin g z comp wide a b => Sys2Proof.Machine.execRedMin g z comp wide a b s
  | .redMax g z comp wide a b => Sys2Proof.Machine.execRedMax g z comp wide a b s
  | .redFadd g z comp wide a b => Sys2Proof.Machine.execRedFadd g z comp wide a b s
  | .redCfadd g z comp wide a b => Sys2Proof.Machine.execRedCfadd g z comp wide a b s
  | .fenceS g sid => Sys2Proof.Machine.execFenceS g sid s
  | .fenceJ g a => Sys2Proof.Machine.execFenceJ g a s
  | .br g off => Sys2Proof.Machine.execBr g off s
  | .jal g off => Sys2Proof.Machine.execJal g off s
  | .jalr g d a imm => Sys2Proof.Machine.execJalr g d a imm s
  | .qput g q a => Sys2Proof.Machine.execQput g q a s
  | .qget g d q => Sys2Proof.Machine.execQget g d q s
  | .lpw g lp a => Sys2Proof.Machine.execLpw g lp a s
  | .fmt g a => Sys2Proof.Machine.execFmt g a s
  | .job g d a => Sys2Proof.Machine.execJob g d a s
  | .jwait g a => Sys2Proof.Machine.execJwait g a s
  | .cpin g d ch a => Sys2Proof.Machine.execCpin g d ch a s
  | .cpout g d ch a => Sys2Proof.Machine.execCpout g d ch a s
  | .waitx g ch a => Sys2Proof.Machine.execWaitx g ch a s
  | .rvin g d a => Sys2Proof.Machine.execRvin g d a s
  | .rvout g d a => Sys2Proof.Machine.execRvout g d a s
  | .commit g => Sys2Proof.Machine.execCommit g s
  | .commitSwap g => Sys2Proof.Machine.execCommitSwap g s
  | .snap g d a => Sys2Proof.Machine.execSnap g d a s
  | .fork g d a => Sys2Proof.Machine.execFork g d a s
  | .rollb g a b => Sys2Proof.Machine.execRollb g a b s
  | .freeh g a => Sys2Proof.Machine.execFreeh g a s
  | .bar g k => Sys2Proof.Machine.execBar g k s
  | .task g a => Sys2Proof.Machine.execTask g a s
  | .gadd g a b => Sys2Proof.Machine.execGadd g a b s
  | .gset g a b => Sys2Proof.Machine.execGset g a b s
  | .gmax g a b => Sys2Proof.Machine.execGmax g a b s
  | .resid g d => Sys2Proof.Machine.execResid g d s
  | .hmix g d a b => Sys2Proof.Machine.execHmix g d a b s
  | .trap g code => Sys2Proof.Machine.execTrap g code s
  | .rte g => Sys2Proof.Machine.execRte g s
  | .crr g d n => Sys2Proof.Machine.execCrr g d n s
  | .crw g n a => Sys2Proof.Machine.execCrw g n a s
  | .tsave g a => Sys2Proof.Machine.execTsave g a s
  | .trstr g a => Sys2Proof.Machine.execTrstr g a s
  | .yield g => Sys2Proof.Machine.execYield g s
  | .halt g => Sys2Proof.Machine.execHalt g s
  | .cMov d a => Sys2Proof.Machine.execCMov d a s
  | .cAdd d a => Sys2Proof.Machine.execCAdd d a s
  | .cAddi d imm => Sys2Proof.Machine.execCAddi d imm s
  | .cLdD d a => Sys2Proof.Machine.execCLdD d a s
  | .cStD a b => Sys2Proof.Machine.execCStD a b s
  | .cQput q a => Sys2Proof.Machine.execCQput q a s
  | .cQget d q => Sys2Proof.Machine.execCQget d q s
  | .cBr off => Sys2Proof.Machine.execCBr off s
  | .cLpw lp a => Sys2Proof.Machine.execCLpw lp a s
  | .cNop => Sys2Proof.Machine.execCNop s
  | .idle n => Sys2Proof.Machine.execIdle n s
  | .join => Sys2Proof.Machine.execJoin s
  | .blk depth rsrc len rep => Sys2Proof.Machine.execBlk depth rsrc len rep s
  | .mmaBf16 acc aop bop k comp fz => Sys2Proof.Machine.execMmaBf16 acc aop bop k comp fz s
  | .mmaFp16 acc aop bop k comp fz => Sys2Proof.Machine.execMmaFp16 acc aop bop k comp fz s
  | .mmaFp8e4 acc aop bop k comp fz => Sys2Proof.Machine.execMmaFp8e4 acc aop bop k comp fz s
  | .mmaFp8e5 acc aop bop k comp fz => Sys2Proof.Machine.execMmaFp8e5 acc aop bop k comp fz s
  | .mmaCb4 acc aop bop k comp fz => Sys2Proof.Machine.execMmaCb4 acc aop bop k comp fz s
  | .cmmaCbf16 acc aop bop k comp fz conja conjb => Sys2Proof.Machine.execCmmaCbf16 acc aop bop k comp fz conja conjb s
  | .cmmaCfp16 acc aop bop k comp fz conja conjb => Sys2Proof.Machine.execCmmaCfp16 acc aop bop k comp fz conja conjb s
  | .mzero acc pair => Sys2Proof.Machine.execMzero acc pair s
  | .mdrainTrk acc trk pair => Sys2Proof.Machine.execMdrainTrk acc trk pair s
  | .mdrainSpd acc spb pair => Sys2Proof.Machine.execMdrainSpd acc spb pair s
  | .mdrainCp acc ch pair => Sys2Proof.Machine.execMdrainCp acc ch pair s
  | .mwl wb src k => Sys2Proof.Machine.execMwl wb src k s
  | .mcb cb src => Sys2Proof.Machine.execMcb cb src s
  | .mstop seed => Sys2Proof.Machine.execMstop seed s
  | .scanD dtrk xtrk comp fz spb n => Sys2Proof.Machine.execScanD dtrk xtrk comp fz spb n s
  | .scanC dtrk xtrk comp fz spb n => Sys2Proof.Machine.execScanC dtrk xtrk comp fz spb n s
  | .schunk dtrk xtrk comp fz spb n => Sys2Proof.Machine.execSchunk dtrk xtrk comp fz spb n s
  | .scarry spb rspb comp n => Sys2Proof.Machine.execScarry spb rspb comp n s
  | .sout trk spb comp n => Sys2Proof.Machine.execSout trk spb comp n s
  | .slin ktrk vtrk spb comp n => Sys2Proof.Machine.execSlin ktrk vtrk spb comp n s
  | .vadd f => Sys2Proof.Machine.execVadd f s
  | .vsub f => Sys2Proof.Machine.execVsub f s
  | .vmul f => Sys2Proof.Machine.execVmul f s
  | .vfma f => Sys2Proof.Machine.execVfma f s
  | .vmin f => Sys2Proof.Machine.execVmin f s
  | .vmax f => Sys2Proof.Machine.execVmax f s
  | .vneg f => Sys2Proof.Machine.execVneg f s
  | .vabs f => Sys2Proof.Machine.execVabs f s
  | .vcmp f => Sys2Proof.Machine.execVcmp f s
  | .vsel f => Sys2Proof.Machine.execVsel f s
  | .vcvt f => Sys2Proof.Machine.execVcvt f s
  | .vexp f => Sys2Proof.Machine.execVexp f s
  | .vlog f => Sys2Proof.Machine.execVlog f s
  | .vrcp f => Sys2Proof.Machine.execVrcp f s
  | .vrsq f => Sys2Proof.Machine.execVrsq f s
  | .vact f => Sys2Proof.Machine.execVact f s
  | .vcmul f => Sys2Proof.Machine.execVcmul f s
  | .vredSum f => Sys2Proof.Machine.execVredSum f s
  | .vredMax f => Sys2Proof.Machine.execVredMax f s
  | .vrot f => Sys2Proof.Machine.execVrot f s
  | .vkey f => Sys2Proof.Machine.execVkey f s
  | .vhist f => Sys2Proof.Machine.execVhist f s
  | .vchk pr rnd k => Sys2Proof.Machine.execVchk pr rnd k s
  | .vmov f => Sys2Proof.Machine.execVmov f s
  | .vbit f => Sys2Proof.Machine.execVbit f s
  | .viadd f => Sys2Proof.Machine.execViadd f s
  | .vimul f => Sys2Proof.Machine.execVimul f s
  | .vpack f => Sys2Proof.Machine.execVpack f s
  | .vunpk f => Sys2Proof.Machine.execVunpk f s
  | .ldt trk spb => Sys2Proof.Machine.execLdt trk spb s
  | .ldx trk ispb dspb => Sys2Proof.Machine.execLdx trk ispb dspb s
  | .ldm trk win => Sys2Proof.Machine.execLdm trk win s
  | .ldc trk addr => Sys2Proof.Machine.execLdc trk addr s
  | .ldb trk spb => Sys2Proof.Machine.execLdb trk spb s
  | .stt trk spb => Sys2Proof.Machine.execStt trk spb s
  | .stx dtrk itrk spb => Sys2Proof.Machine.execStx dtrk itrk spb s
  | .stm trk stop win => Sys2Proof.Machine.execStm trk stop win s
  | .stb trk spb => Sys2Proof.Machine.execStb trk spb s
  | .jobStart => Sys2Proof.Machine.execJobStart s
  | .opResult b late => Sys2Proof.Machine.execOpResult b late s
  | .rendezvous => Sys2Proof.Machine.execRendezvous s
  | .overrun => Sys2Proof.Machine.execOverrun s
  | .taskStart => Sys2Proof.Machine.execTaskStart s
  | .flit stop ccw ok => Sys2Proof.Machine.execFlit stop ccw ok s
  | .returnWord stop ccw ok => Sys2Proof.Machine.execReturnWord stop ccw ok s
  | .auditTick => Sys2Proof.Machine.execAuditTick s
  | .auditFlit stop ccw ok => Sys2Proof.Machine.execAuditFlit stop ccw ok s
  | .packetDelivery => Sys2Proof.Machine.execPacketDelivery s
  | .mail p => Sys2Proof.Machine.execMail p s
  | .done p => Sys2Proof.Machine.execDone p s
  | .bara p => Sys2Proof.Machine.execBara p s
  | .barr p => Sys2Proof.Machine.execBarr p s
  | .heap p => Sys2Proof.Machine.execHeap p s
  | .gainRefusal o => Sys2Proof.Machine.execGainRefusal o s
  | .reservedPacket p => Sys2Proof.Machine.execReservedPacket p s
  | .rdreq p => Sys2Proof.Machine.execRdreq p s
  | .rdrsp p => Sys2Proof.Machine.execRdrsp p s
  | .prep p => Sys2Proof.Machine.execPrep p s
  | .amoreq p => Sys2Proof.Machine.execAmoreq p s
  | .amorsp p => Sys2Proof.Machine.execAmorsp p s
  | .redent p => Sys2Proof.Machine.execRedent p s
  | .engine p => Sys2Proof.Machine.execEngine p s
  | .ctrl p => Sys2Proof.Machine.execCtrl p s
  | .taskSpillReturn => Sys2Proof.Machine.execTaskSpillReturn s
  | .commitEvent => Sys2Proof.Machine.execCommitEvent s
  | .eventPrepared => Sys2Proof.Machine.execEventPrepared s
  | .eventComplete => Sys2Proof.Machine.execEventComplete s
  | .heapRun => Sys2Proof.Machine.execHeapRun s
  | .roundTaskStart => Sys2Proof.Machine.execRoundTaskStart s
  | .copyStart => Sys2Proof.Machine.execCopyStart s
  | .copyPiece => Sys2Proof.Machine.execCopyPiece s
  | .reeveStart => Sys2Proof.Machine.execReeveStart s
  | .rvinRetire => Sys2Proof.Machine.execRvinRetire s
  | .rvoutRetire => Sys2Proof.Machine.execRvoutRetire s
  | .lightFault => Sys2Proof.Machine.execLightFault s
  | .recordTake => Sys2Proof.Machine.execRecordTake s
  | .launchIssue => Sys2Proof.Machine.execLaunchIssue s
  | .prefixLookup => Sys2Proof.Machine.execPrefixLookup s
  | .prefixInsert => Sys2Proof.Machine.execPrefixInsert s
  | .prefixUnpin => Sys2Proof.Machine.execPrefixUnpin s
  | .launchComplete => Sys2Proof.Machine.execLaunchComplete s
  | .slotBoundary => Sys2Proof.Machine.execSlotBoundary s
  | .slotref offset => Sys2Proof.Machine.execSlotref offset s
  | .slotrefTimeout => Sys2Proof.Machine.execSlotrefTimeout s
  | .slotAnnouncement num tick => Sys2Proof.Machine.execSlotAnnouncement num tick s
  | .slotAck num => Sys2Proof.Machine.execSlotAck num s
  | .cancellation => Sys2Proof.Machine.execCancellation s
  | .discard => Sys2Proof.Machine.execDiscard s
  | .suspend => Sys2Proof.Machine.execSuspend s
  | .tokenRetry v tok => Sys2Proof.Machine.execTokenRetry v tok s
  | .tokenRefuse v tok => Sys2Proof.Machine.execTokenRefuse v tok s
  | .tokenRecordPost => Sys2Proof.Machine.execTokenRecordPost s
  | .bankSwitch => Sys2Proof.Machine.execBankSwitch s
  | .braidStall => Sys2Proof.Machine.execBraidStall s
  | .preemption => Sys2Proof.Machine.execPreemption s
  | .launchResume => Sys2Proof.Machine.execLaunchResume s
  | .rowRefresh die row bad => Sys2Proof.Machine.execRowRefresh die row bad s
  | .l2Scrub die sb err => Sys2Proof.Machine.execL2Scrub die sb err s
  | .inFieldTest => Sys2Proof.Machine.execInFieldTest s
  | .inFieldTestEnd b pass => Sys2Proof.Machine.execInFieldTestEnd b pass s
  | .spliceFlit cr toEast ok => Sys2Proof.Machine.execSpliceFlit cr toEast ok s
  | .flitReplay => Sys2Proof.Machine.execFlitReplay s
  | .retrain => Sys2Proof.Machine.execRetrain s
  | .retrainComplete link lanes0 lanes1 => Sys2Proof.Machine.execRetrainComplete link lanes0 lanes1 s
  | .linkDown => Sys2Proof.Machine.execLinkDown s
  | .portFrame port fr => Sys2Proof.Machine.execPortFrame port fr s
  | .cxlMemRead v off n => Sys2Proof.Machine.execCxlMemRead v off n s
  | .cxlMemWrite v off data => Sys2Proof.Machine.execCxlMemWrite v off data s
  | .snoop pa => Sys2Proof.Machine.execSnoop pa s
  | .create v c => Sys2Proof.Machine.execCreate v c s
  | .destroy v => Sys2Proof.Machine.execDestroy v s
  | .assign v first count => Sys2Proof.Machine.execAssign v first count s
  | .migrate v src dst size => Sys2Proof.Machine.execMigrate v src dst size s
  | .attest addr nonce => Sys2Proof.Machine.execAttest addr nonce s
  | .spliceRetrainA => Sys2Proof.Machine.execSpliceRetrainA s
  | .spliceRetrainB => Sys2Proof.Machine.execSpliceRetrainB s
  | .hostLinkRetrain => Sys2Proof.Machine.execHostLinkRetrain s
  | .holdrel b => Sys2Proof.Machine.execHoldrel b s
  | .errbankClear die bank => Sys2Proof.Machine.execErrbankClear die bank s
  | .ptroot v val => Sys2Proof.Machine.execPtroot v val s
  | .tlbsync v => Sys2Proof.Machine.execTlbsync v s
  | .cap watts => Sys2Proof.Machine.execCap watts s
  | .registerWrite v off val => Sys2Proof.Machine.execRegisterWrite v off val s
  | .powerEvaluation mw tempW tempE => Sys2Proof.Machine.execPowerEvaluation mw tempW tempE s
  | .thermalTrip => Sys2Proof.Machine.execThermalTrip s
  | .resetN low => Sys2Proof.Machine.execResetN low s
  | .reset val => Sys2Proof.Machine.execReset val s
  | .bootStep ok img => Sys2Proof.Machine.execBootStep ok img s
  | .illegalEncoding => Sys2Proof.Machine.execIllegalEncoding s
  | .flitSend => Sys2Proof.Machine.execFlitSend s
  | .cxlCacheResponse pa data => Sys2Proof.Machine.execCxlCacheResponse pa data s
  | .adminCommandComplete => Sys2Proof.Machine.execAdminCommandComplete s
  | .powerGateDecision b cycles => Sys2Proof.Machine.execPowerGateDecision b cycles s

end Sys2Proof.Machine
end

