-- ==== Sys2Proof/Machine/Step.lean ====
section
/-! DEFINITION. One step of the device: the next action of the cycle in progress, or the beginning of the next cycle. -/

namespace Sys2Proof.Machine

/-- Execute what a fetch has found, if anything. -/
def run : State × Option Instr → Res
  | (s, some i) => exec i s
  | (s, none) => .next s

/-- One action, in the name of its agent. -/
def act (a : Act) (s : State) : Res :=
  match a with
  | .event i x y z => exec i (s.setCur (.agent x y z))
  | .ctx b bank c => run (s.setCur (.ctx b bank c)).ctxNext
  | .strand b k => run (s.setCur (.strand b k)).strandNext

/-- The step. -/
def step (s : State) : Res :=
  match s.todo with
  | [] => .next s.beginCycle
  | a :: rest => act a (s.setTodo rest)

/-- The state in which the next step fetches and runs the instruction of a table word: for a control instruction the code stands in
braid SRAM where a running task's context is about to fetch, for a strand op where a strand of an open job is. -/
def State.withFetchWord (s : State) (nbits w : Nat) : State := s.placed nbits w

end Sys2Proof.Machine
end

