-- ==== Sys2Proof/Safety.lean ====
section
/-! DEFINITION. The terms in which claims are made: what a retired instruction has changed and what it has left alone, and the
canonical form of memory as an invariant of the device. -/

namespace Sys2Proof.Machine

/-- Nothing but the issuing context differs: every other register, every flag, every byte of memory, every other unit is as before. -/
def onlyCtx (s t : State) : Prop := t = s.modMyCtx fun _ => t.myCtx
/-- Nothing but the issuing context's bank differs: no byte of memory, no other bank, no strand, no other braid. -/
def onlyBank (s t : State) : Prop := t = s.modMyBank fun _ => t.myBank
/-- Nothing but the issuing context's braid differs. -/
def onlyBraid (s t : State) : Prop := t = s.modMyBraid fun _ => t.myBraid

/-- The issuing context has retired and goes on at `pc`: nothing is in progress, its status is kept (R13, R19, R26). -/
def retiredAt (s t : State) (pc : Addr) : Prop :=
  t.myCtx.pc = pc &&& ~~~1#48 ∧ t.myCtx.ins = none ∧ t.myCtx.retireAt = none ∧ t.myCtx.wait = .none
    ∧ t.myCtx.run = s.myCtx.run ∧ t.myCtx.halt = s.myCtx.halt ∧ t.myCtx.fault = s.myCtx.fault ∧ t.myCtx.epc = s.myCtx.epc
    ∧ t.myCtx.began = s.myCtx.began
/-- The issuing context has retired an instruction of `n` bytes and goes on behind it (R19). -/
def retired (s t : State) (n : Nat) : Prop := retiredAt s t (s.myCtx.pc + BitVec.ofNat 48 n)
/-- Scalar register `d` of the issuing context holds `v` (s0 stays 0), every other is kept (R12, R87). -/
def wroteS (s t : State) (d : BitVec 5) (v : Word64) : Prop :=
  ∀ r, t.rS r = if r = d ∧ d ≠ 0 then v else s.rS r
/-- Every scalar register of the issuing context is kept. -/
def keptS (s t : State) : Prop := ∀ r, t.rS r = s.rS r
/-- Predicate `d` of the issuing context is `v` (p0 stays true), every other is kept (R12, R87). -/
def wroteP (s t : State) (d : BitVec 4) (v : Bool) : Prop :=
  ∀ r, t.myCtx.getP r = if r = d ∧ d ≠ 0 then v else s.myCtx.getP r
/-- Every predicate of the issuing context is kept. -/
def keptP (s t : State) : Prop := ∀ r, t.myCtx.getP r = s.myCtx.getP r

/-- An instruction of `n` bytes wrote `v` to scalar register `d` and did nothing else. -/
def result (s t : State) (n : Nat) (d : BitVec 5) (v : Word64) : Prop :=
  onlyCtx s t ∧ retired s t n ∧ wroteS s t d v ∧ keptP s t
/-- An instruction of `n` bytes wrote `v` to predicate `d` and did nothing else. -/
def resultP (s t : State) (n : Nat) (d : BitVec 4) (v : Bool) : Prop :=
  onlyCtx s t ∧ retired s t n ∧ keptS s t ∧ wroteP s t d v
/-- An instruction of `n` bytes did nothing but advance the pc (R19). -/
def skipped (s t : State) (n : Nat) : Prop :=
  onlyCtx s t ∧ retired s t n ∧ keptS s t ∧ keptP s t

/-- The instruction completes: under a true guard with `Q` of the next state, under a false one it only advances by `n` bytes (R19). -/
def completes (i : Instr) (g : BitVec 4) (n : Nat) (s : State) (Q : State → Prop) : Prop :=
  ∃ t, exec i s = .next t ∧ if s.myCtx.getP g then Q t else skipped s t n

/-- The instruction completes: under a true guard it writes `v` to scalar register `d` and nothing else. -/
def writes (i : Instr) (g : BitVec 4) (n : Nat) (s : State) (d : BitVec 5) (v : Word64) : Prop :=
  completes i g n s fun t => result s t n d v
/-- The instruction completes: under a true guard it writes `v` to predicate `d` and nothing else. -/
def decides (i : Instr) (g : BitVec 4) (n : Nat) (s : State) (d : BitVec 4) (v : Bool) : Prop :=
  completes i g n s fun t => resultP s t n d v

/-- The issuing context's bank is as before but for the context itself. -/
def onlyCtxOf (s t : State) (k : Bank) : Prop := onlyBank s t ∧ t.myBank = k.setCtx s.me.2.2 t.myCtx
/-- A floating-point instruction of 4 bytes wrote `v` to scalar register `d`, raised the flags `fl` and the warnings `wa`, and did
nothing else (R48, R79, R96). -/
def resultF (s t : State) (d : BitVec 5) (v : Word64) (fl : FlagSet) (wa : BitVec 12) : Prop :=
  onlyCtxOf s t { s.myBank with flagSets := s.myBank.flagSets ||| fl, warnSets := s.myBank.warnSets ||| wa }
    ∧ retired s t 4 ∧ wroteS s t d v ∧ keptP s t
/-- The instruction completes: under a true guard it writes the FP32 word and raises the flags of `r`, and does nothing else. -/
def writesF (i : Instr) (g : BitVec 4) (s : State) (d : BitVec 5) (r : Word32 × FlagSet) : Prop :=
  completes i g 4 s fun t => resultF s t d (r.1.setWidth 64) r.2 0

/-- Every flag and warning of the bank is kept, in the cycle and at its end. -/
def keptFlags (k m : Bank) : Prop :=
  m.flags = k.flags ∧ m.warn = k.warn ∧ m.flagSets = k.flagSets ∧ m.warnSets = k.warnSets ∧ m.flagWrite = k.flagWrite
    ∧ m.warnWrite = k.warnWrite

/-- An op stands at strand `k` of braid `b`, in job `n` (R113). -/
def opAt (s : State) (b k n : Nat) : Prop := s.cur = .strand b k ∧ (s.strand b k).job = some n
/-- What an issue cycle of an op leaves alone: other braids and the rest of the device, SRAM, the tracks, the strand registers (their
drain records apart), the other strands, and every control context (R112, R123). -/
def opKept (s t : State) (b k : Nat) : Prop :=
  t = (s.modBraid b fun _ => t.braid b) ∧ (t.braid b).sram = (s.braid b).sram
    ∧ (t.braid b).regs = { (s.braid b).regs with drain := (t.braid b).regs.drain }
    ∧ (t.braid b).arriving = (s.braid b).arriving ∧ (t.braid b).driven = (s.braid b).driven
    ∧ (∀ j, j ≠ k → t.strand b j = s.strand b j) ∧ ∀ m c, (t.bank b m).ctx c = (s.bank b m).ctx c
/-- The op of `len` parcels has had its last issue cycle, and the strand goes on behind it (R113, R114). -/
def opEnds (s t : State) (b k len : Nat) : Prop :=
  opKept s t b k ∧ t.strand b k = (s.strand b k).leave ((s.strand b k).opPc + 2 * len)
/-- The op has had one more issue cycle and stays (R113). -/
def opStays (s t : State) (b k : Nat) : Prop :=
  opKept s t b k ∧ (t.strand b k).q = (s.strand b k).q + 1 ∧ (t.strand b k).op = (s.strand b k).op
    ∧ (t.strand b k).opPc = (s.strand b k).opPc ∧ (t.strand b k).nest = (s.strand b k).nest ∧ (t.strand b k).spb = (s.strand b k).spb
/-- The op's cycle adds these results to those in flight, each with the cycle it lands in, its flags and its effect (R112, R48). -/
def opEmits (s t : State) (b k n : Nat) (l : List (Nat × FlagSet × Eff)) : Prop :=
  (t.braid b).pend = (s.braid b).pend ++ l.map fun e => ⟨e.1, k, (s.strand b k).bank, n, (s.strand b k).opPc, e.2.1, e.2.2⟩
/-- The op raises the fault of its strand at its parcel (R122, R300). -/
def opFaults (i : Instr) (s : State) (b k code va : Nat) (w : Bool) : Prop :=
  exec i s = .next (s.strandFault b k code (s.strand b k).opPc va w)
/-- The open job of an op. -/
def openJob (s : State) (b k n : Nat) : Option OpenJob :=
  (s.braid b).jobsOpen.find? fun j => j.bank == (s.strand b k).bank && j.job.num == n

/-- A source field of a VX op reads the lanes `l`: of a register, or of the beat at position 3 of a track, whose marker is `m` (R160). -/
def vxSource (s : State) (b : Nat) (r : BitVec 5) (l : List Word32) (m : Option Bool) : Prop :=
  if r.toNat < 16 then l = tget [] (s.braid b).regs.v r.toNat ∧ m = none
  else ∃ x : Beat, thas (s.braid b).arriving (5 * (r.toNat - 16) + 3) = true
    ∧ tget ⟨[], false⟩ (s.braid b).arriving (5 * (r.toNat - 16) + 3) = x ∧ l = x.lanes ∧ m = some x.marker
/-- The lanes of old DST: a register's, or those of the beat standing on the track; none for an empty beat (R160). -/
def vxAddend (s : State) (b : Nat) (r : BitVec 5) : List Word32 :=
  if r.toNat < 16 then tget [] (s.braid b).regs.v r.toNat
  else if thas (s.braid b).arriving (5 * (r.toNat - 16) + 3) then (tget ⟨[], false⟩ (s.braid b).arriving (5 * (r.toNat - 16) + 3)).lanes
  else []
/-- The marker of an op's sources: those of two beats must agree (R111). -/
def vxMarks (x y m : Option Bool) : Prop := x = none ∧ m = y ∨ y = none ∧ m = x ∨ x = y ∧ m = x
/-- The destination takes a result in cycle c + `lat`: a register, or a track with no other VX result due then (R160). -/
def vxFree (s : State) (b : Nat) (d : BitVec 5) (lat : Nat) : Prop :=
  d.toNat < 16 ∨ ∀ p ∈ (s.braid b).pend, ¬(p.pos = 3 ∧ p.due = s.cycle + lat ∧ ∃ l m k, p.eff = .track (d.toNat - 16) l m k)
/-- The lanes a VX op writes (R160). -/
def vxLanes (s : State) (b : Nat) (f : VxFrame) : BitVec 192 :=
  if f.me then tget 0 (s.braid b).regs.m f.m.toNat else BitVec.allOnes 192
/-- Rounding of element `i` of a VX op: the frame's mode, and the job's seed, bits 15 to 0 of its image of lp15 (R116, R162). -/
def vxRounding (s : State) (b n : Nat) (f : VxFrame) (i : Nat) : Rounding :=
  ⟨(Rnd.ofCode f.rnd.toNat).getD .rne, false, match openJob s b 3 n with
    | some j => (tget 0 j.lpImage 15).toNat % 65536
    | none => 0, i, false⟩
/-- A VX op issues in one cycle, and its lanes `val`, their flags joined over the written lanes, land in cycle c + `lat` (R112, R160, R162). -/
def vxDone (i : Instr) (lat : Nat) (f : VxFrame) (s : State) (b n : Nat) (m : Option Bool) (val : Nat → Word32 × FlagSet) : Prop :=
  let mask := vxLanes s b f
  ∃ t lanes fl, exec i s = .next t ∧ opEnds s t b 3 2 ∧ (∀ l < 192, wordAt lanes l = (val l).1)
    ∧ (∀ k, fl.getLsbD k = true ↔ ∃ l < 192, mask.getLsbD l = true ∧ (val l).2.getLsbD k = true)
    ∧ opEmits s t b 3 n [(s.cycle + lat, fl, if f.d.toNat < 16 then .vreg f.d.toNat lanes mask
        else .track (f.d.toNat - 16) lanes (m.getD false) mask)]
/-- A lane computed in FP32, or under PR its two BF16 halves, the upper one numbered 192 more (R162). -/
def halved (s : State) (b n : Nat) (f : VxFrame) (g : BinFmt → Rounding → Nat → Nat → Nat → Nat × FlagSet) (l : Nat) (x y z : Word32) : Word32 × FlagSet :=
  if f.pr then
    let lo := g bf16 (vxRounding s b n f l) (x.toNat % 65536) (y.toNat % 65536) (z.toNat % 65536)
    let hi := g bf16 (vxRounding s b n f (l + 192)) (x.toNat / 65536) (y.toNat / 65536) (z.toNat / 65536)
    (BitVec.ofNat 32 (lo.1 + 65536 * hi.1), lo.2 ||| hi.2)
  else
    let w := g fp32 (vxRounding s b n f l) x.toNat y.toNat z.toNat
    (BitVec.ofNat 32 w.1, w.2)

/-- A byte of LPDDR6 as it stands, and the key generation its line is written under: the L2's where it has yet to be written back (R228,
R232). A reader with that key finds this byte, but where the L2 has filled the line for another interface. -/
def MemSide.stored (m : MemSide) (pa : Nat) : Byte :=
  if thas m.l2Key (pa / 64) then (tget [] m.l2Data (pa / 64)).getD (pa % 64) 0 else tget 0 m.mem pa
def MemSide.storedKey (m : MemSide) (line : Nat) : Nat := if thas m.l2Key line then tget 0 m.l2Key line else tget 0 m.keyOf line
/-- The L2s: each holds superblocks of its own die, each once; a line they hold otherwise than LPDDR6 is valid, and one yet to be written
back is a dirty line of LPDDR6 (R228, R232). -/
def MemSide.l2Ok (m : MemSide) : Prop :=
  (∀ x ∈ m.l2w, homeEast (256 * x.tag) = false) ∧ (∀ x ∈ m.l2e, homeEast (256 * x.tag) = true)
    ∧ (m.l2w.map L2Sb.tag).Nodup ∧ (m.l2e.map L2Sb.tag).Nodup
    ∧ ∀ line, (thas m.l2Data line = true → isLpddr (64 * line) = true ∧ (m.l2State line).1 = true ∧ (tget [] m.l2Data line).length = 64)
      ∧ (thas m.l2Key line = true → thas m.l2Data line = true)
      ∧ (thas m.l2Key line = true ↔ isLpddr (64 * line) = true ∧ (m.l2State line).2 = true)
/-- LPDDR6 is in its canonical form, and the L2s agree with it. -/
def State.memOk (s : State) : Prop := Memory.wf s.mem.mem = true ∧ s.mem.l2Ok
/-- No byte of LPDDR6 differs, wherever it stands. -/
def keptMem (s t : State) : Prop :=
  s.memOk → ∀ pa, t.mem.stored pa = s.mem.stored pa ∧ t.mem.storedKey (pa / 64) = s.mem.storedKey (pa / 64)

/-- A context's registers: a canonical table that lists nothing for s0, and no bit for p0 (R12). -/
def Ctx.tidy (c : Ctx) : Prop := twf 0 c.s = true ∧ thas c.s 0 = false ∧ c.p.getLsbD 0 = false
/-- Queues within their depths, q7 apart, whose room is reserved as a job starts (R124, R126); at most 8 queued jobs (R128); loop
parameters in canonical form. -/
def queuesTidy (q : Tab (List Word64)) (jobs : List Job) (lp : Tab Word32) : Prop :=
  (∀ i, i ≠ 7 → (tget [] q i).length ≤ qDepth i) ∧ jobs.length ≤ 8 ∧ twf 0 lp = true
/-- A bank, and the checkpoint it goes back to: contexts, queues, queued jobs, and at most 16 commands in a copy channel (R253). -/
def Bank.tidy (k : Bank) : Prop :=
  k.l.tidy ∧ k.x.tidy ∧ k.s.tidy ∧ k.t.tidy ∧ queuesTidy k.q k.jobs k.lp ∧ (∀ e ∈ k.chans, e.2.queue.length ≤ 16)
    ∧ ∀ c, k.ckpt = some c → c.l.tidy ∧ c.x.tidy ∧ c.s.tidy ∧ c.t.tidy ∧ queuesTidy c.q c.jobs c.lp
/-- Every braid's banks; its SRAM and full bits in canonical form, the SRAM's bytes all below its size (R14, R209); at most 64 records in
its task queue (R291). -/
def State.tidy (s : State) : Prop :=
  ∀ e ∈ s.braids, e.2.b0.tidy ∧ e.2.b1.tidy ∧ twf 0 e.2.sram = true ∧ (∀ a ∈ e.2.sram, a.1 < Config.sramBytes) ∧ twf false e.2.full = true
    ∧ e.2.taskQ.length ≤ 64

end Sys2Proof.Machine
end

