-- ==== Sys2Proof/Certificates/Slice0/Obligations.lean ====
section
/-! DEFINITION. The statements for the provers: the terms several of them share, the parts of those that join several, and the statements. -/

open Sys2Proof Sys2Proof.Machine

namespace Sys2Proof.Claims

/-- An FP32 word is a NaN, or an infinity, by its bits (R31, R32). -/
def fp32Nan (w : Word32) : Prop := 0x7F800000 < (w &&& 0x7FFFFFFF).toNat

def fp32Inf (w : Word32) : Prop := (w &&& 0x7FFFFFFF) = 0x7F800000

def fp32Zero (w : Word32) : Prop := (w &&& 0x7FFFFFFF) = 0

/-- Where a word that is not a NaN stands among the FP32 numbers: its magnitude bits under its sign; +0 and −0 together. -/
def fp32Key (w : Word32) : Int := if w.getLsbD 31 then -((w &&& 0x7FFFFFFF).toNat : Int) else (w &&& 0x7FFFFFFF).toNat

/-- The same with −0 below +0. -/
def fp32KeyMin (w : Word32) : Int := if w.getLsbD 31 then -1 - ((w &&& 0x7FFFFFFF).toNat : Int) else (w &&& 0x7FFFFFFF).toNat

/-- The `n` bytes from `va` lie in braid SRAM's range, none in the mailbox, no open job of the bank holds one against the access, and a
read meets no error: the conditions under which R101, R102, R131 and R321 let a local access take effect at once. -/
def localFree (s : State) (va n : Nat) (reads : Bool) : Prop :=
  va + n ≤ 0x1000000 ∧ ∀ i < n, inMail (va + i) = false ∧ s.myBraid.jobHolds s.me.2.1 (va + i) reads = false
    ∧ (reads = true → va + i ∉ s.myBraid.bad)

/-- The value of a load of `n` bytes from braid SRAM, bit by bit: little-endian, then zeros or copies of the top bit (R101). -/
def loadsLocal (s : State) (va n : Nat) (z : Bool) (v : Word64) : Prop :=
  ∀ j < 64, v.getLsbD j =
    if j < 8 * n then (s.myBraid.sramAt (va + j / 8)).getLsbD (j % 8) else !z && (s.myBraid.sramAt (va + n - 1)).getLsbD 7

/-- A local load of `n` bytes in an instruction of `len` bytes: rd takes the value; nothing but rd, the pc, the warnings `wa` and the
bank's own notes of what the phase has read changes. -/
def loadDone (i : Instr) (g : BitVec 4) (len n : Nat) (z : Bool) (d a : BitVec 5) (wa : BitVec 12) (s : State) : Prop :=
  let va := (s.rS a).toNat % 2 ^ 48
  (s.myCtx.getP g = true → localFree s va n true) →
    completes i g len s fun t => ∃ v u w, loadsLocal s va n z v ∧ wroteS s t d v ∧ retired s t len ∧ keptP s t
      ∧ onlyCtxOf s t { s.myBank with unitsRead := u, inelig := w, warnSets := s.myBank.warnSets ||| wa }

/-- A local store of the low `n` bytes of rs2: those bytes, below the 12 MiB that exist, and no other byte of braid SRAM, change, and
hold no error any more. -/
def storeDone (i : Instr) (g : BitVec 4) (len n : Nat) (a b : BitVec 5) (s : State) : Prop :=
  let va := (s.rS a).toNat % 2 ^ 48
  (s.myCtx.getP g = true → localFree s va n false) →
    completes i g len s fun t => ∃ u w,
      (∀ x, t.myBraid.sramNow x =
        if va ≤ x ∧ x < va + n ∧ x < 0xC00000 then (s.rS b).extractLsb' (8 * (x - va)) 8 else s.myBraid.sramNow x)
      ∧ keptS s t ∧ keptP s t ∧ retired s t len
      ∧ t.myBank = ({ s.myBank with unitsWritten := u, inelig := w } : Bank).setCtx s.me.2.2 t.myCtx
      ∧ (∀ x, x ∈ t.myBraid.bad ↔ x ∈ s.myBraid.bad ∧ ¬(va ≤ x ∧ x < va + n ∧ x < 0xC00000))
      ∧ t = s.modMyBraid fun y => { y.setBank s.me.2.1 t.myBank with sram := t.myBraid.sram, bad := t.myBraid.bad }

/-- The 48-bit address a register names (R14). -/
def vaOf (s : State) (r : BitVec 5) : Nat := (s.rS r).toNat % 2 ^ 48

/-- The context waits in its instruction: nothing else changes (R125, R215). -/
def waits (i : Instr) (g : BitVec 4) (s : State) : Prop :=
  s.myCtx.getP g = true → ∃ t, exec i s = .next t ∧ onlyCtx s t ∧ t.myCtx.wait ≠ .none ∧ t.myCtx = { s.myCtx with wait := t.myCtx.wait }

/-- Under a true guard the instruction takes the fault of its own context with this code and address (R24, R209, R300). -/
def faultsWith (i : Instr) (g : BitVec 4) (s : State) (code va : Nat) (write : Bool) : Prop :=
  s.myCtx.getP g = true → exec i s = .next (s.ctxFault code va write)

/-- The bank is as before but for the context, and for the phase having become ineligible for a re-run (R320). -/
def bankNoted (s t : State) : Prop := t.myBank = ({ s.myBank with inelig := true } : Bank).setCtx s.me.2.2 t.myCtx

/-- A far access of one byte is translated to `pa` under `leaf`, which leaves the device as `s1`: the braid's TLB changed and, where it
missed, the entries of the walk read through the L2s (R221, R224). -/
def translates (s : State) (acc : Acc) (va pa leaf : Nat) (s1 : State) : Prop :=
  isLocal va = false ∧ ∃ tlb hit, s.lookup s.myBank.vi s.me.1 64 acc va s.myBraid.tlb = (.ok pa leaf, tlb, hit)
    ∧ s1 = (if hit then s else s.walked s.myBank.vi va).modBraid s.me.1 fun x => { x with tlb }

/-- The same for `n` bytes, byte `i` with the address and leaf `ps[i]`. -/
def reaches (s : State) (acc : Acc) (va n : Nat) (ps : List (Nat × Nat)) (s1 : State) : Prop :=
  s.ctxTouch s.me.1 s.myBank.vi acc va n = (s1, .ok (ps.map some))

/-- The task's spilled writes of those bytes are read from its overflow area, which leaves the device as `s2` (R226). -/
def readsArea (s s1 : State) (ps : List (Nat × Nat)) (s2 : State) : Prop :=
  s1.areaRead s.me.1 s.me.2.1 (distinct ((ps.map fun e => if leafKind e.2 = 3 then [] else s.myBank.entriesOf e.1).flatten)) = (s2, none)

/-- The task's own writes of a byte, latest first, where a load looks at them: not on a page of kind SYNC (R238, R241). -/
def ownWrites (s : State) (e : Nat × Nat) : List OldByte :=
  match if leafKind e.2 = 3 then none else s.own s.me.1 s.me.2.1 e.1 with
  | some m => m.writes
  | none => []

/-- R241: a load of the context on stream `sid` sees the write in any case: another context's, its own stream's, or one that a fence or
an acquire covers; of a copy's only what has been acquired (R242, R248). -/
def mustSee (s : State) (sid : Nat) (w : OldByte) : Prop :=
  w.covered = true ∨ w.copy = none ∧ (w.writer ≠ s.me.2.2 ∨ w.tag = sid ∨ w.j = true)

/-- What a byte is without the task's own writes: the L1's, or that of a line that has come without an error (R225, R230, R321). -/
def homeSupplies (s : State) (e : Nat × Nat) (v : Byte) : Prop :=
  match if leafKind e.2 = 3 then none else l1Find s.myBraid.l1 (e.1 / 64) with
  | some l => v = l.data.getD (e.1 % 64) 0
  | none => thas s.myCtx.fills (e.1 / 64) = true ∧ (tget ⟨[], false⟩ s.myCtx.fills (e.1 / 64)).poison = false
      ∧ v = (tget ⟨[], false⟩ s.myCtx.fills (e.1 / 64)).data.getD (e.1 % 64) 0

/-- R238, R241: a load may take this value: that of an own write over which stands none it sees in any case, or the home's where it need
see no own write. -/
def maySee (s : State) (sid : Nat) (e : Nat × Nat) (v : Byte) : Prop :=
  (∃ later w old, ownWrites s e = later ++ w :: old ∧ (∀ u ∈ later, ¬ mustSee s sid u) ∧ v = w.val)
    ∨ (∀ w ∈ ownWrites s e, ¬ mustSee s sid w) ∧ homeSupplies s e v

/-- The byte can be read without asking its home, on a page that is not in quarantine (R225, R322). -/
def supplied (s : State) (sid : Nat) (e : Nat × Nat) : Prop :=
  ((∃ w ∈ ownWrites s e, mustSee s sid w) ∨ ∃ v, homeSupplies s e v) ∧ (leafKind e.2 = 2 → s.mem.quarantined e.1 = false)

/-- Neither an own write, nor the L1, nor a line that has come supplies the byte: its home has to be asked (R225). -/
def lacks (s : State) (e : Nat × Nat) : Prop :=
  thas s.myCtx.fills (e.1 / 64) = false ∧ ownWrites s e = [] ∧ (leafKind e.2 = 3 ∨ l1Find s.myBraid.l1 (e.1 / 64) = none)

/-- A request of the braid goes to its home's slice: into its memory queue, or, at its own stop, to itself in the next cycle (R342, R359). -/
def requests (s t : State) (l : List Packet) : Prop :=
  t.myBraid.memQ = s.myBraid.memQ ++ l.filter (fun p => p.dest != s.me.1)
    ∧ t.pending = s.pending ++ (l.filter fun p => p.dest == s.me.1).map fun p => (s.cycle + 1, packetEvent p)

/-- A far load of `n` bytes whose bytes are not all at hand asks the home slice of each line that lacks, unless it has asked, and waits. -/
def farAsks (i : Instr) (g : BitVec 4) (n : Nat) (na : Bool) (sid : Nat) (va : Nat) (s : State) : Prop :=
  ∀ ps s1 s2, reaches s .load va n ps s1 → readsArea s s1 ps s2 → (∃ e ∈ ps, lacks s e) → (∀ e ∈ ps, lacks s e ∨ supplied s sid e) →
    s.myCtx.getP g = true → ∃ t ls, exec i s = .next t
      ∧ ls.Nodup ∧ (∀ x, x ∈ ls ↔ x ∉ s.myCtx.missing ∧ ∃ e ∈ ps, lacks s e ∧ e.1 / 64 = x)
      ∧ requests s t (ls.map fun x => ⟨8, s.me.1, sliceStop (x * 64), 0, 0, 1, s.cfg.dev, s.cfg.dev, .lineReq (x * 64) s.myBank.vi s.me.2.1 s.me.2.2 na⟩)
      ∧ t.myCtx = { s.myCtx with missing := ls ++ s.myCtx.missing, wait := .other } ∧ t.myBraid.tlb = s1.myBraid.tlb
      ∧ t.mem = s2.mem ∧ keptMem s t ∧ t.myBraid.sram = s.myBraid.sram ∧ t.myBraid.merge = s.myBraid.merge

/-- A far load of `n` bytes with every byte at hand retires: rd holds bytes that it may see, little-endian, extended by Z; no register but
rd, no byte of memory, of braid SRAM or of the merge buffer changes. -/
def farLoads (i : Instr) (g : BitVec 4) (len n : Nat) (na z : Bool) (sid va : Nat) (d : BitVec 5) (wa : BitVec 12) (s : State) : Prop :=
  ∀ ps s1 s2, reaches s .load va n ps s1 → readsArea s s1 ps s2 → (∀ e ∈ ps, supplied s sid e) →
    completes i g len s fun t => ∃ (vs : List Byte) (v : Word64),
      (∀ k < n, maySee s sid (ps.getD k (0, 0)) (vs.getD k 0))
      ∧ (∀ j < 64, v.getLsbD j = if j < 8 * n then (vs.getD (j / 8) 0).getLsbD (j % 8) else !z && (vs.getD (n - 1) 0).getLsbD 7)
      ∧ wroteS s t d v ∧ keptP s t ∧ retired s t len
      ∧ t.myBank = ({ s.myBank with warnSets := s.myBank.warnSets ||| wa } : Bank).setCtx s.me.2.2 t.myCtx
      ∧ t.mem = s2.mem ∧ keptMem s t ∧ t.myBraid.sram = s.myBraid.sram ∧ t.myBraid.merge = s.myBraid.merge
      ∧ (na = true → t.myBraid.l1 = s.myBraid.l1)

/-- A store to device memory has written its `n` bytes as own writes of the task: the low bytes of rs2, over what stood there; every other
own byte, every byte of memory and of braid SRAM is as before; a byte last written by another stream without a join is a conflict (R241, R250). -/
def storedFar (s s1 t : State) (n sid : Nat) (b : BitVec 5) (ps : List (Nat × Nat)) : Prop :=
  let own (u : State) (x : Nat) : Option MByte := u.own s.me.1 s.me.2.1 x
  (∀ k < n, ∃ m, own t (ps.getD k (0, 0)).1 = some m ∧ m.val = (s.rS b).extractLsb' (8 * k) 8 ∧ m.tag = sid ∧ m.writer = s.me.2.2
      ∧ m.j = false ∧ m.covered = false ∧ m.copy = none
      ∧ m.older = match own s (ps.getD k (0, 0)).1 with
        | some o => if o.j then o.writes.take 1 else o.writes
        | none => [])
  ∧ (∀ x, (∀ e ∈ ps, e.1 ≠ x) → own t x = own s x)
  ∧ (∀ x, x ∈ t.myBank.conflicts ↔ x ∈ s.myBank.conflicts ∨ (∃ e ∈ ps, e.1 = x) ∧ ∃ o, own s x = some o ∧ o.tag ≠ sid ∧ o.j = false)
  ∧ keptS s t ∧ keptP s t ∧ t.mem = s1.mem ∧ t.myBraid.sram = s.myBraid.sram ∧ t.myBraid.l1 = s.myBraid.l1

/-- The bank's running task has its lines in the merge buffer and in the overflow area, none of a later copy mark than the present (R262). -/
def marksInOrder (s : State) : Prop :=
  s.myBraid.runBank = s.me.2.1 ∧ (∀ l ∈ s.myBraid.merge ++ s.myBank.spilled, l.mark ≤ s.myBank.mark) ∧ ∀ t ∈ s.myBank.staged, t.k ≤ s.myBank.mark

/-- A store of `n` bytes to device memory with room in the merge buffer, where no line of an older mark stands and none of the present mark
has been spilled (R102, R226, R241). -/
def farStores (i : Instr) (g : BitVec 4) (len n sid va : Nat) (b : BitVec 5) (s : State) : Prop :=
  ∀ ps s1, reaches s .store va n ps s1 → (ps.map (·.1)).Nodup → marksInOrder s → s.myBraid.merge.length + n ≤ 2048 →
    (∀ e ∈ ps, (∀ l ∈ s.myBraid.merge, l.pa = e.1 / 64 * 64 → l.mark = s.myBank.mark)
      ∧ ∀ l ∈ s.myBank.spilled, l.pa = e.1 / 64 * 64 → l.mark ≠ s.myBank.mark) →
    completes i g len s fun t => storedFar s s1 t n sid b ps ∧ keptMem s t ∧ retired s t len ∧ t.myBank.spilled = s.myBank.spilled
      ∧ t = s1.modMyBraid (fun _ => t.myBraid)
      ∧ t.myBank = ({ s.myBank with conflicts := t.myBank.conflicts } : Bank).setCtx s.me.2.2 t.myCtx

/-- An AMO whose answer has come retires with the old value, zero-extended; the warning says that .z meant nothing (R79, R243). -/
def amoDone (i : Instr) (g : BitVec 4) (z wide signless : Bool) (d : BitVec 5) (s : State) : Prop :=
  ∀ old, s.myCtx.amoOld = some old →
    completes i g 4 s fun t => wroteS s t d (if wide then old else (old.setWidth 32).setWidth 64) ∧ keptP s t ∧ retired s t 4
      ∧ onlyCtxOf s t { s.myBank with inelig := true, warnSets := s.myBank.warnSets ||| (if z && signless then 4 else 0) }

/-- An AMO that its checks let through sends one request to the home's slice, with rs2 and old rd of its width, and waits; it takes the
braid's next number, counted apart for those to the other die (R243, R342, R343). -/
def amoAsks (i : Instr) (op : Nat) (z wide : Bool) (d a b : BitVec 5) (s : State) : Prop :=
  let va := vaOf s a
  let cut (w : Word64) : Word64 := if wide then w else (w.setWidth 32).setWidth 64
  ∀ pa leaf s1, s.myCtx.amoOld = none → s.myCtx.amo = none → translates s .amo va pa leaf s1 → leafOlev leaf = 0 →
    leafOunit leaf = s.arcNo s.myBank.vi s.me.1 → va % (if wide then 8 else 4) = 0 →
    let far := homeEast pa != decide (48 ≤ s.me.1)
    ∃ t p, exec i s = .next t ∧ requests s t [p]
      ∧ p = ⟨11, s.me.1, sliceStop pa, 0, if far then s.myBraid.amoNext else s.myBraid.amoNear, 1, s.cfg.dev, s.cfg.dev,
          .amo pa op wide (z && (op == 3 || op == 4)) (cut (s.rS b)) (cut (s.rS d)) s.myBank.vi s.me.2.1 s.me.2.2⟩
      ∧ t.myCtx = { s.myCtx with amo := some p, wait := .other }
      ∧ t.myBraid.amoNext = (if far then (s.myBraid.amoNext + 1) % 2 ^ 13 else s.myBraid.amoNext)
      ∧ t.myBraid.amoNear = (if far then s.myBraid.amoNear else (s.myBraid.amoNear + 1) % 2 ^ 13)
      ∧ t.mem = s1.mem ∧ keptMem s t ∧ t.myBraid.sram = s.myBraid.sram

/-- The reduction queue's entry of a RED, and the warnings it takes (R79, R245). -/
def redDone (i : Instr) (g : BitVec 4) (op n : Nat) (z comp : Bool) (wa : BitVec 12) (a b : BitVec 5) (s : State) : Prop :=
  let va := vaOf s a
  ∀ pa leaf s1, (s.myCtx.getP g = true → translates s .red va pa leaf s1 ∧ va % n = 0 ∧ (s.myBank.reds.filter fun r => !r.copied).length < 512) →
    completes i g 4 s fun t => keptS s t ∧ keptP s t ∧ retired s t 4 ∧ t.mem = s1.mem ∧ keptMem s t ∧ t.myBraid.tlb = s1.myBraid.tlb
      ∧ t.myBank.reds = s.myBank.reds ++ [({ place := s.myBank.place, red :=
          ⟨pa, op, n == 8, z && op < 3, comp && decide (3 ≤ op), BitVec.ofNat 64 ((s.rS b).toNat % 2 ^ (8 * n)), leafOlev leaf, 8, 0⟩ } : RedItem)]
      ∧ t.myBank.warnSets = s.myBank.warnSets ||| wa ∧ t.myBraid.sram = s.myBraid.sram ∧ t.myBraid.merge = s.myBraid.merge

/-- The instruction completes by going on at `pc`, with `v` in scalar register `d` where `d` is named. -/
def jumps (i : Instr) (g : BitVec 4) (n : Nat) (s : State) (pc : Addr) (d : BitVec 5) (v : Word64) : Prop :=
  completes i g n s fun t => onlyCtx s t ∧ retiredAt s t pc ∧ wroteS s t d v ∧ keptP s t

/-- R124: the contexts that may put to q0 to q7 and take from them, with T judged as X (R311); depths. -/
def asX (c : CtxId) : CtxId := if c = .T then .X else c

def putters : List (CtxId × Nat) := [(.L, 0), (.L, 4), (.X, 1), (.X, 3), (.X, 5), (.S, 2), (.S, 6)]

def takers : List (CtxId × Nat) := [(.L, 3), (.X, 0), (.X, 2), (.X, 7), (.S, 1)]

def depthOf (q : Nat) : Nat := if q = 4 ∨ q = 6 then 32 else if q = 8 then 8 else 16

/-- The queue has room at the start of the cycle and now. -/
def hasRoom (s : State) (q : Nat) : Prop := (s.myBank.queueStart q).length < depthOf q ∧ (s.myBank.queue q).length < depthOf q

/-- One entry is appended to queue `q`; nothing else but the pc changes. -/
def putDone (s t : State) (n q : Nat) (v : Word64) : Prop :=
  onlyCtxOf s t { s.myBank with q := tput s.myBank.q q (s.myBank.queue q ++ [v]) } ∧ keptS s t ∧ keptP s t ∧ retired s t n

/-- An instruction that appends `v` to queue `q`: it waits where there is no room. -/
def puts (i : Instr) (g : BitVec 4) (n q : Nat) (v : Word64) (s : State) : Prop :=
  ((s.myCtx.getP g = true → hasRoom s q) → completes i g n s fun t => putDone s t n q v) ∧ (¬ hasRoom s q → waits i g s)

/-- The instruction is unassigned in this context: the illegal-encoding fault, whatever the guard. -/
def unassigned (i : Instr) (s : State) : Prop := exec i s = .next s.illegal

/-- The record of `n` bytes at `va` as a local load reads it. -/
def recordAt (s : State) (va n : Nat) : List Byte := s.myBraid.sramRead va n

/-- A copy command that the issue checks accept takes the channel's next number and joins its queue (R260). -/
def copies (i : Instr) (isOut : Bool) (g : BitVec 4) (d : BitVec 5) (ch : BitVec 2) (a : BitVec 5) (s : State) : Prop :=
  let k := s.myBank
  let h := k.chan ch.toNat
  let cmd := recordAt s (vaOf s a) 64
  let tsra := fieldLe cmd 8 6
  let num := (h.newest + 1) % 2 ^ 28
  let made (t : Task) : Task := { t with place := t.place + 1, copies := if isOut then t.copies + 1 else t.copies }
  let count := match k.task with
    | some t => t.copies
    | none => 0
  (∀ x, h.queue.length < 16 → localFree s (vaOf s a) 64 true → localFree s tsra 64 true →
    parseCopy cmd (recordAt s tsra 64) isOut num s.myCtx.pc s.me.2.2 k.vi (count + 1) k.place ((k.task.map Task.sq).getD 0) = .ok x →
    completes i g 4 s fun t => ∃ u,
      onlyCtxOf s t { k with chans := tput k.chans ch.toNat { h with queue := h.queue ++ [x], newest := num }, task := k.task.map made, unitsRead := u }
        ∧ wroteS s t d (BitVec.ofNat 64 num) ∧ keptP s t ∧ retired s t 4)
  ∧ (16 ≤ h.queue.length → waits i g s)

/-- The interface of the task becomes `j`, rd takes `v`, and the residency tags of a session with another epoch now are cleared (R285);
otherwise only the pc moves and the phase becomes ineligible for a re-run. -/
def storeDid (s t : State) (j : Iface) (d : BitVec 5) (v : Word64) : Prop :=
  t = (((s.modIface s.myBank.vi fun _ => j).dropTags s.myBank.vi).modMyBank fun _ => t.myBank)
    ∧ (∀ b, (t.braid b).tags = (s.braid b).tags.filter fun x => x.vi != s.myBank.vi || x.epoch == (j.session x.sid).epoch)
    ∧ t.myBank = ({ s.myBank with inelig := true } : Bank).setCtx s.me.2.2 t.myCtx ∧ wroteS s t d v ∧ keptP s t ∧ retired s t 4

/-- A gain operation or heap insert goes into the control queue as one HEAP packet to the die's heap unit, also at the unit's own stop; it
names the round's attempt only where the issuer is a round task of that heap; OUT counts it unless it is for its own stop (R194, R198, R201, R202;
that the own stop's goes through the queue is the model's choice: log entry 39). -/
def heapSent (s t : State) (kind : GainKind) (heap target : Nat) (x : Word32) (record : Option TaskRec) (y : Task) : Prop :=
  let die := if 48 ≤ s.me.1 then 1 else 0
  let round := match y.round with
    | some (d, h, _) => if d = die ∧ h = heap then (s.heap (16 * d + h)).map Heap.tries else none
    | none => none
  t.myBraid.ctlQ = s.myBraid.ctlQ ++ [⟨4, s.me.1, 48 * die, 0, 0, 1, s.cfg.dev, s.cfg.dev, .gain
      { kind, die, heap, target, x, issuer := y.tid, place := y.gops, braid := s.me.1, bank := s.me.2.1,
        launch := y.launch, round, pc := s.myCtx.pc, record }⟩]
    ∧ t.myBraid.out = (if s.me.1 = 48 * die then s.myBraid.out else s.myBraid.out + 1)
    ∧ t.myBank.task = some { y with gops := y.gops + 1 } ∧ onlyBraid s t
    ∧ keptS s t ∧ keptP s t ∧ retired s t 4 ∧ t.myBraid.sram = s.myBraid.sram

/-- R26, R105, R254, R310: what CRR reads, field by field, as at the start of the cycle. -/
def controlReg (s : State) (n : Nat) : Nat :=
  let k := s.myBank
  let c := s.myCtx
  let opened := s.myBraid.jobsOpen.any fun j => j.bank == s.me.2.1 && decide (j.start < s.cycle)
  match n with
  | 0 => c.run.toNat + 2 * c.halt.toNat + 4 * c.fault.toNat + 8 * opened.toNat
  | 1 => k.causeCode.toNat + 256 * k.causeSrc.toNat
  | 2 => c.epc.toNat
  | 3 => k.spc.toNat
  | 4 => k.flags.toNat
  | 5 => k.warn.toNat
  | 7 => if 48 ≤ s.me.1 then s.clock.slotE.toNat else s.clock.slot.toNat
  | 8 => k.curStart.toNat
  | 10 => (k.chan 0).done
  | 11 => (k.chan 1).done
  | 12 => (k.chan 2).done
  | 13 => (k.chan 3).done
  | 14 => k.rv.done
  | 15 => k.jobDone
  | 16 => s.myBraid.sqStart
  | 17 => k.tpcStart.toNat
  | 18 => k.tcodeStart.toNat + 1024 * k.tctxStart.toNat
  | 19 => match k.task with
    | some t => t.tvec.toNat
    | none => 0
  | 20 => k.tActiveStart.toNat + 2 * k.tSavedStart.toNat
  | 21 => s.me.2.1
  | 22 => k.preempts.toNat
  | 23 => k.rerunStart.toNat
  | _ => 0

/-- The reduction tree of R169 over 192 leaves: six levels that halve, node (l, p) of the elements p and p + m, then the last three. -/
def treeLevel {α : Type} (d : α) (node : Nat → α → α → α) (l m : Nat) (x : Nat → α) : Nat → α :=
  fun p => if p < m then node (192 * (l - 1) + p) (x p) (x (p + m)) else d

/-- The next entry of queue `q` reserved for the job of an op, after `skip` others the op takes (R126). -/
def reservedEntry (s : State) (b k n q skip : Nat) : Option Word64 :=
  match openJob s b k n with
  | some j => if skip < tget 0 j.resv q then
      some (((s.bank b (s.strand b k).bank).queue q).getD (heldBefore q (s.strand b k).bank n (s.braid b).jobsOpen + skip) 0) else none
  | none => none

/-- The stream that an op opens through parameter block `i`: its block, with the base from the strand's feed queue for block 7 (R77, R118);
within braid SRAM's addresses and off the mailbox (R209). -/
def opensStream (s : State) (b k n i skip : Nat) (p : Spb) : Prop :=
  (∃ p0, parseSpb (tget 0 (s.strand b k).spb i) = some p0 ∧
    match if i = 7 then feedQueue k else none with
    | none => p = p0
    | some q => ∃ e, reservedEntry s b k n q skip = some e ∧ p = { p0 with base := e.toNat % 2 ^ 24 })
  ∧ p.inRange = true ∧ p.mailByte = none

/-- The stream an op reads or writes in this cycle: opened in its first cycle, as the op's stream `x` in the later ones. -/
def streamNow (s : State) (b k n i x skip : Nat) (p : Spb) : Prop :=
  if (s.strand b k).q = 0 then (s.strand b k).opened = [] ∧ opensStream s b k n i skip p
  else parseSpb ((s.strand b k).opened.getD x 0) = some p

/-- The job's regions allow the op to read (or write) these elements where they lie in the scratchpad (R131). -/
def mayTouch (s : State) (b k n : Nat) (wr : Bool) (p : Spb) (first cnt : Nat) : Prop :=
  ∀ j, openJob s b k n = some j → ∀ i < cnt, ∀ x ∈ [p.addr (first + i), p.addr (first + i) + p.bytes - 1],
    inScratch x = true → ∃ r ∈ j.job.regions, regionHit r (x - Config.scratchBase) wr = true

/-- The op may read these elements: its job's regions allow it, and none of their bytes, where the read reaches it in `x`, stands in error
(R131, R321). -/
def mayRead (s : State) (b k n : Nat) (x : Braid) (reach : Nat → Nat) (p : Spb) (first cnt : Nat) : Prop :=
  mayTouch s b k n false p first cnt ∧ ∀ i < cnt, ∀ y ∈ upto (p.addr (first + i)) p.bytes, reach y ∉ x.bad

/-- The beat that an op of strand `k` takes from a track: there is one, and these are its lanes and marker (R110, R111). -/
def beatOn (s : State) (b k t : Nat) (l : List Word32) (m : Bool) : Prop :=
  thas (s.braid b).arriving (5 * t + k) = true ∧ tget ⟨[], false⟩ (s.braid b).arriving (5 * t + k) = ⟨l, m⟩

/-- The cycle of an accumulator's write: c + lat, and no earlier than that of the write before (R142). -/
def accAt (s : State) (b acc lat : Nat) : Nat := max (s.cycle + lat) (tget 0 (s.braid b).accReady acc)

/-- Element `j` of a drain, numbered within the tile, and its flags: a word, or two of a complex tile, hi alone or the exact sum hi + lo, in
the drain format (R48, R53, R146). -/
def drainElement (r : DrainRec) (pair : Bool) (held : List Word32) (j : Nat) : Nat × FlagSet :=
  let f := r.eff
  let rd (i : Nat) : Rounding := ⟨(Rnd.ofCode r.rnd).getD .rne, r.sat && !satIgnored f, r.seed, i % 65536, false⟩
  let v (i : Nat) : Fp := if pair then Fp.sum ((rd 0).mode == .rdn) [valW (held.getD i 0), valW (held.getD (6144 + i) 0)] else valW (held.getD i 0)
  let one (i : Nat) := drainOne f (rd i) (v i)
  if r.cplx then ((one (2 * j)).1 + 2 ^ (fmtWidth f / 2) * (one (2 * j + 1)).1, (one (2 * j)).2 ||| (one (2 * j + 1)).2) else one j

/-- The element bits that operand `code` gives in issue cycle `q`, position by position, of `lanes` lanes: from a track's beat, a weight
buffer as at the op's issue, or the stream of the even parameter block (R136, R137). -/
def tileBits (s : State) (b n q code fmt lanes kpc np : Nat) (last : Bool) (wbs : Tab WBuf) (v : Nat → Nat → Nat) : Prop :=
  let w := fmtWidth fmt
  let part (l : List Word32) : Prop := ∀ i < lanes, ∀ j < np, v i j = (wordAt l i).toNat / 2 ^ (w * j) % 2 ^ w
  if code < 4 then ∃ l, beatOn s b 1 code l last ∧ lanes ≤ l.length ∧ part l
  else if code < 6 then part ((tget {} wbs (code - 4)).data.getD q [] ++ List.replicate 192 0)
  else ∃ p, parseSpb (tget 0 (s.strand b 1).spb (if code = 6 then 0 else 2)) = some p
    ∧ mayRead s b 1 n (s.braid b) id p (q * kpc * lanes) (np * lanes)
    ∧ ∀ i < lanes, ∀ j < np, v i j = p.read (s.braid b).sramAt (q * kpc * lanes + j * lanes + i)

/-- The parameter block of an operand's block scales: that beside its own, or without one 4 for A and 5 for B (R138). -/
def scalesBlock (code : Nat) (isA : Bool) : Nat := if code = 6 then 1 else if code = 7 then 3 else if isA then 4 else 5

/-- The scales of an operand's lanes in issue cycle `q`: read with the position that begins a block of eight, kept through the block (R138). -/
def tileScales (s : State) (b n q code : Nat) (isA : Bool) (lanes kpc : Nat) (old : List Nat) (c : Nat → Nat) : Prop :=
  if q * kpc % 8 = 0 then
    ∃ p, parseSpb (tget 0 (s.strand b 1).spb (scalesBlock code isA)) = some p ∧ mayRead s b 1 n (s.braid b) id p (q * kpc / 8 * lanes) lanes
      ∧ ∀ i < lanes, c i = p.read (s.braid b).sramAt (q * kpc / 8 * lanes + i)
  else ∀ i < lanes, c i = old.getD i 0

/-- What a tile command's first cycle asks of an operand: its stream, or a weight buffer of enough beats; and its scales' stream (R137, R138, R155). -/
def operandOpens (s : State) (b n code fmt lanes K cycles : Nat) (isA scaled : Bool) : Prop :=
  (6 ≤ code → ∃ p, opensStream s b 1 n (if code = 6 then 0 else 2) 0 p ∧ p.fmt = fmt ∧ p.count = K * lanes)
  ∧ (4 ≤ code → code < 6 → cycles ≤ (tget {} (s.braid b).regs.wb (code - 4)).beats)
  ∧ (scaled = true → ∃ p, opensStream s b 1 n (scalesBlock code isA) 0 p ∧ p.fmt = 6 ∧ p.count = (K + 7) / 8 * lanes)

/-- Words of the SC strand's stream as it reads them: half-aware, and as SC writes of the job on their way leave them (R149, R211); that
the op's own are among them is the model's choice (log entry 90). -/
def scanWords (s : State) (b n : Nat) (p : Spb) (first cnt : Nat) : List Word32 :=
  wordsOf (p.fmt == 13) ((upto first cnt).map (p.read (((s.braid b).scanView (s.strand b 2).bank n).awareAt (s.strand b 2).bank)))

/-- Writes of words to consecutive elements of the SC strand's stream. -/
def scanPuts (p : Spb) (first : Nat) (ws : List Word32) : List SWrite :=
  ((upto first (elemsOf (p.fmt == 13) ws).length).zip (elemsOf (p.fmt == 13) ws)).map (fun e => p.write e.1 e.2) |>.flatten

/-- The value of a scan number of one word, or of a pair the exact sum of both, read under .fz (R44, R56). -/
def numVal (comp fz : Bool) (hi lo : Word32) : Fp := if comp then Fp.sum false [readW fz hi, readW fz lo] else readW fz hi

/-- The parts of the number in column `c` of row `r` of rows of 192 words: one, or a complex number's two; lo in the next row (R148). -/
def rowParts (comp fz cplx : Bool) (w : Nat → Word32) (r c : Nat) : List Fp :=
  let v (n : Nat) := numVal comp fz (w (192 * r + n)) (w (192 * (r + 1) + n))
  if cplx then [v (2 * c), v (2 * c + 1)] else [v c]

/-- Exact products of two numbers, as the signed terms of each part of their product, each product taken as `f` makes it (R55, R150). -/
def cross (f : Fp → Fp) : List Fp → List Fp → List (List Fp)
  | [xr, xi], [yr, yi] => [[f (xr.mul yr), (f (xi.mul yi)).neg], [f (xr.mul yi), f (xi.mul yr)]]
  | [x], [y] => [[f (x.mul y)]]
  | _, _ => []

/-- R58: under .fz a decay product that is not zero and is below 2^-126 counts as +0, whatever its sign. -/
def vanishes (fz : Bool) (v : Fp) : Bool := fz && v.isFin && !v.isZero && v.abs.lt (.fin false 1 (-126))

/-- R54 to R57: the result of exact value `v`, rounded to nearest even; under comp a pair of it and of the rest, +0 beside an infinity or a
NaN; the first rounding of a pair sets NX only where it flushes. A decay operation that gives zero for a nonzero value fades, a flush to
zero among them (that one the model's choice: log entry 87). -/
def scanPart (comp fz decays : Bool) (v : Fp) : Word32 × Word32 × FlagSet :=
  let h := fl32 fz v
  let l := if comp && (valW h.1).isFin then fl32 fz (Fp.sum false [v, (valW h.1).neg]) else (0, 0)
  let flush := fz && v.isFin && !v.isZero && (fl32 false v).1.extractLsb' 23 8 == 0
  let fades := decays && v.isFin && !v.isZero && (valW h.1).isZero && (valW l.1).isZero
  (h.1, l.1, (if comp && !flush then h.2 &&& ~~~flagNX else h.2) ||| l.2 ||| if fades then flagFADE else 0)

/-- Part `p` of the update fl(a·h + terms) (R55 to R59), and its flags. -/
def scanUpdate (comp fz : Bool) (a h : List Fp) (terms : List (List Fp)) (p : Nat) : Word32 × Word32 × FlagSet :=
  let u := scanPart comp fz (a.any (fun v => !v.isZero) && h.any fun v => !v.isZero)
    (Fp.sum false ((cross (fun v => if vanishes fz v then .fin false 0 0 else v) a h).getD p [] ++ terms.getD p []))
  (u.1, u.2.1, u.2.2 ||| if a.any fun x => h.any fun y => vanishes fz (x.mul y) then flagFADE else 0)

/-- From row `first` on the words hold `n` slots of numbers, column by column: in a row each, or hi and lo in two (R148). -/
def slotsHold (comp cplx : Bool) (n first : Nat) (l : List Word32) (v : Nat → Nat → Nat → Word32 × Word32 × FlagSet) : Prop :=
  ∀ j < n, ∀ c < (if cplx then 96 else 192), ∀ p < (if cplx then 2 else 1),
    let r := first + if comp then 2 * j else j
    let i := if cplx then 2 * c + p else c
    wordAt l (192 * r + i) = (v j c p).1 ∧ (comp = true → wordAt l (192 * (r + 1) + i) = (v j c p).2.1)

/-- Some number of the slots raises flag `z`. -/
def slotsRaise (cplx : Bool) (n : Nat) (v : Nat → Nat → Nat → Word32 × Word32 × FlagSet) (z : Nat) : Prop :=
  ∃ j < n, ∃ c < (if cplx then 96 else 192), ∃ p < (if cplx then 2 else 1), (v j c p).2.2.getLsbD z = true

/-- The rest of the device is as before: only braid `b` differs. -/
def onlyBraidOf (s t : State) (b : Nat) : Prop := t = s.modBraid b fun _ => t.braid b

/-- A context as a starting task finds it: its arguments from s2 on, every other register 0, no predicate but p0 (R12, R26, R120). -/
def freshRegs (c : Ctx) (args : List Word64) : Prop :=
  (∀ r : BitVec 5, c.getS r = if 2 ≤ r.toNat ∧ r.toNat < 2 + args.length then args.getD (r.toNat - 2) 0 else 0)
    ∧ ∀ p : BitVec 4, c.getP p = decide (p = 0)

/-- R238, R248: a copy may read this value of a byte: that of an own write of the task that issued it over which stands none it sees in any case (one
of its stream, joined, or a copy's that has been acquired), or the home's where it need see no own write. -/
def mayCopy (s : State) (b bank : Nat) (h : Chan) (c : CopyCmd) (pa leaf : Nat) (v : Byte) : Prop :=
  let sees (w : OldByte) : Prop := w.covered = true ∧ w.copy ≠ none ∨ w.copy = none ∧ (w.tag = c.sid ∨ w.j = true)
  let own := match if leafKind leaf = 3 ∨ (s.bank b bank).task.map Task.sq ≠ some c.owner then none else s.own b bank pa with
    | some m => m.writes
    | none => []
  (∃ later w old, own = later ++ w :: old ∧ (∀ u ∈ later, ¬ sees u) ∧ v = w.val)
    ∨ (∀ w ∈ own, ¬ sees w) ∧ v = (tget ⟨[], false⟩ h.lines (pa / 64)).data.getD (pa % 64) 0

/-- A bank of a braid has a task that starts: its contexts hold the arguments, its flags, loop registers, queues and jobs are empty, the
braid's strand registers are cleared, its contexts have their issue slots five cycles on (R119, R120, R128, R135, R158). -/
def taskStarts (s t : State) (b bank : Nat) (y : Task) (args : List Word64) : Prop :=
  let k := t.bank b bank
  k.task = some y ∧ k.mode = .starting ∧ k.startAt = s.cycle + 5 ∧ k.x.pc = BitVec.ofNat 48 y.entry.toNat ∧ k.x.began = false
    ∧ (∀ c, c ≠ .T → freshRegs (k.ctx c) args ∧ (k.ctx c).run = false) ∧ (∀ r, k.t.getS r = 0)
    ∧ k.flags = 0 ∧ k.warn = 0 ∧ k.lp = [] ∧ k.q = [] ∧ k.jobs = [] ∧ k.w = [] ∧ k.curBank = (s.bank b bank).curBank
    ∧ (t.braid b).runBank = bank ∧ (t.braid b).regs = {} ∧ (t.braid b).strands = [] ∧ (t.braid b).merge = []
    ∧ (t.braid b).sram = (s.braid b).sram ∧ (t.braid b).h = (s.braid b).h

/-- What the device has for the host is sent, or waits until the host link is up (R344). -/
def sentToHost (s t : State) (l : List HostOut) : Prop :=
  let x := s.crossing 2
  if x.width ≠ 0 ∧ x.training = false then t.hostOut = s.hostOut ++ l ∧ t.mem.unsent = s.mem.unsent
  else t.hostOut = s.hostOut ∧ t.mem.unsent = s.mem.unsent ++ l

/-- An admin command has been taken: the interface is BUSY until it answers `status` in some later cycle (R348). -/
def answersWith (s t : State) (status : Nat) : Prop :=
  t.admin.busy = true ∧ (∃ n, t.admin.due = some (s.cycle + 1 + n, status)) ∧ t.free = s.free + 1 ∧ t.braids = s.braids ∧ t.mem.mem = s.mem.mem

/-- The strands whose op table holds an instruction (R70 to R74): IDLE, JOIN and BLK on every strand. -/
def strandsOf (i : Instr) : List StrandId :=
  match i with
  | .idle .. | .join | .blk .. => [.ld, .mx, .sc, .vx, .st]
  | .mmaBf16 .. | .mmaFp16 .. | .mmaFp8e4 .. | .mmaFp8e5 .. | .mmaCb4 .. | .cmmaCbf16 .. | .cmmaCfp16 .. | .mdrainTrk .. | .mdrainSpd ..
  | .mdrainCp .. | .mwl .. | .mcb .. | .mstop .. | .mzero .. => [.mx]
  | .scanD .. | .scanC .. | .schunk .. | .scarry .. | .sout .. | .slin .. => [.sc]
  | .vadd .. | .vsub .. | .vmul .. | .vfma .. | .vmin .. | .vmax .. | .vneg .. | .vabs .. | .vcmp .. | .vsel .. | .vcvt .. | .vexp .. | .vlog ..
  | .vrcp .. | .vrsq .. | .vact .. | .vcmul .. | .vredSum .. | .vredMax .. | .vrot .. | .vkey .. | .vhist .. | .vmov .. | .vbit .. | .viadd ..
  | .vimul .. | .vpack .. | .vunpk .. | .vchk .. => [.vx]
  | .ldt .. | .ldx .. | .ldm .. | .ldc .. | .ldb .. => [.ld]
  | .stt .. | .stx .. | .stm .. | .stb .. => [.st]
  | _ => []

/-- R88 (ADD, SUB, AND, OR, XOR, ANDN, MIN, MAX, MINZ, MAXZ, SEL, and MUL): what each writes, and that it writes nothing else. -/
def AluResults : Prop :=
  ∀ (s : State) (g : BitVec 4) (d a b : BitVec 5),
    let x := s.rS a
    let y := s.rS b
    writes (.add g d a b) g 4 s d (x + y) ∧ writes (.sub g d a b) g 4 s d (x - y) ∧ writes (.mul g d a b) g 4 s d (x * y)
    ∧ writes (.and g d a b) g 4 s d (x &&& y) ∧ writes (.or g d a b) g 4 s d (x ||| y) ∧ writes (.xor g d a b) g 4 s d (x ^^^ y)
    ∧ writes (.andn g d a b) g 4 s d (x &&& ~~~y)
    ∧ writes (.min g d a b) g 4 s d (if x.toInt ≤ y.toInt then x else y)
    ∧ writes (.max g d a b) g 4 s d (if x.toInt ≤ y.toInt then y else x)
    ∧ writes (.minz g d a b) g 4 s d (if x.toNat ≤ y.toNat then x else y)
    ∧ writes (.maxz g d a b) g 4 s d (if x.toNat ≤ y.toNat then y else x)
    ∧ writes (.sel g d a b) g 4 s d (if s.rS d = 0 then y else x)

/-- R88 (MULH, MULHZ): bits 127 to 64 of the product in 128 bits. -/
def HighProductIsTheUpperHalf : Prop :=
  ∀ (s : State) (g : BitVec 4) (d a b : BitVec 5),
    let x := s.rS a
    let y := s.rS b
    writes (.mulh g d a b) g 4 s d ((x.signExtend 128 * y.signExtend 128).extractLsb' 64 64)
    ∧ writes (.mulhz g d a b) g 4 s d ((x.setWidth 128 * y.setWidth 128).extractLsb' 64 64)

/-- R88 (CLZ, POPC): the bits above the count are zeros and the next is a one; the number of one bits. -/
def BitCountsAreCounts : Prop :=
  ∀ (s : State) (g : BitVec 4) (d a : BitVec 5),
    let x := s.rS a
    (∃ n ≤ 64, writes (.clz g d a) g 4 s d (BitVec.ofNat 64 n)
      ∧ (∀ i < 64, 64 ≤ i + n → x.getLsbD i = false) ∧ (n < 64 → x.getLsbD (63 - n) = true))
    ∧ writes (.popc g d a) g 4 s d (BitVec.ofNat 64 ((List.range 64).filter (x.getLsbD ·)).length)

/-- R92, R93 and the ALU forms of R107: rd and a sign-extended immediate; MOVHI shifts by 11 and takes in 11 bits. -/
def ImmediatesAndConstants : Prop :=
  ∀ (s : State) (g : BitVec 4) (d a : BitVec 5) (imm : BitVec 11) (i6 : BitVec 6),
    let o := s.rS d
    let k : Word64 := imm.signExtend 64
    writes (.addi g d imm) g 4 s d (o + k) ∧ writes (.andi g d imm) g 4 s d (o &&& k) ∧ writes (.ori g d imm) g 4 s d (o ||| k)
    ∧ writes (.xori g d imm) g 4 s d (o ^^^ k) ∧ writes (.movi g d imm) g 4 s d k
    ∧ writes (.movhi g d imm) g 4 s d ((o <<< 11) ||| imm.setWidth 64)
    ∧ writes (.cMov d a) 0 2 s d (s.rS a) ∧ writes (.cAdd d a) 0 2 s d (o + s.rS a)
    ∧ writes (.cAddi d i6) 0 2 s d (o + i6.signExtend 64)

/-- R90 (and the shifts of R92): only the low six bits of rs2 count. -/
def ShiftsUseSixBits : Prop :=
  ∀ (s : State) (g : BitVec 4) (d a b : BitVec 5) (sh : BitVec 6),
    let x := s.rS a
    let n := (s.rS b).toNat % 64
    let o := s.rS d
    writes (.shl g d a b) g 4 s d (x <<< n) ∧ writes (.shr g d a b) g 4 s d (x >>> n)
    ∧ writes (.sra g d a b) g 4 s d (x.sshiftRight n)
    ∧ writes (.shli g d sh) g 4 s d (o <<< sh.toNat) ∧ writes (.shri g d sh) g 4 s d (o >>> sh.toNat)
    ∧ writes (.srai g d sh) g 4 s d (o.sshiftRight sh.toNat)

/-- R91, bit by bit: with POS, WIDTH and S of the control word and W the effective width, BFX brings bits POS … POS+W−1 down and fills
the rest with zeros or, where S is 1 and W is not 0, with copies of the field's top bit; BFI replaces just those bits of old rd. -/
def BitFieldsByPositionAndWidth : Prop :=
  ∀ (s : State) (g : BitVec 4) (d a b : BitVec 5),
    let x := s.rS a
    let c := s.rS b
    let pos := (c.extractLsb' 0 6).toNat
    let w := Nat.min (c.extractLsb' 8 7).toNat (64 - pos)
    (∃ v : Word64, writes (.bfx g d a b) g 4 s d v ∧ ∀ i < 64, v.getLsbD i =
      if i < w then x.getLsbD (pos + i) else c.getLsbD 15 && decide (0 < w) && x.getLsbD (pos + w - 1))
    ∧ (∃ v : Word64, writes (.bfi g d a b) g 4 s d v ∧ ∀ i < 64, v.getLsbD i =
      if pos ≤ i ∧ i < pos + w then x.getLsbD (i - pos) else (s.rS d).getLsbD i)

/-- R94: the six conditions of CMP and CMPI, the signed ones on two's complement values, the unsigned ones on the patterns read unsigned. -/
def ComparesWriteOnePredicate : Prop :=
  ∀ (s : State) (g pd : BitVec 4) (a b : BitVec 5) (a3 : BitVec 3) (imm : BitVec 11),
    let x := s.rS a
    let y := s.rS b
    let u := s.rS (a3.setWidth 5)
    let k : Word64 := imm.signExtend 64
    decides (.cmpEq g pd a b) g 4 s pd (decide (x = y)) ∧ decides (.cmpNe g pd a b) g 4 s pd (decide (x ≠ y))
    ∧ decides (.cmpLt g pd a b) g 4 s pd (decide (x.toInt < y.toInt)) ∧ decides (.cmpLe g pd a b) g 4 s pd (decide (x.toInt ≤ y.toInt))
    ∧ decides (.cmpLo g pd a b) g 4 s pd (decide (x.toNat < y.toNat)) ∧ decides (.cmpLs g pd a b) g 4 s pd (decide (x.toNat ≤ y.toNat))
    ∧ decides (.cmpiEq g pd a3 imm) g 4 s pd (decide (u = k)) ∧ decides (.cmpiNe g pd a3 imm) g 4 s pd (decide (u ≠ k))
    ∧ decides (.cmpiLt g pd a3 imm) g 4 s pd (decide (u.toInt < imm.toInt)) ∧ decides (.cmpiLe g pd a3 imm) g 4 s pd (decide (u.toInt ≤ imm.toInt))
    ∧ decides (.cmpiLo g pd a3 imm) g 4 s pd (decide (u.toNat < k.toNat)) ∧ decides (.cmpiLs g pd a3 imm) g 4 s pd (decide (u.toNat ≤ k.toNat))

/-- R95: the predicate operations; a predicate written under its own guard was read as true. -/
def PredicateLogic : Prop :=
  ∀ (s : State) (g pd p q : BitVec 4),
    let x := s.myCtx.getP p
    let y := s.myCtx.getP q
    decides (.pand g pd p q) g 4 s pd (x && y) ∧ decides (.por g pd p q) g 4 s pd (x || y) ∧ decides (.pxor g pd p q) g 4 s pd (xor x y)
    ∧ decides (.pnot g pd p) g 4 s pd (!x) ∧ decides (.pmov g pd p) g 4 s pd x

/-- R96, R97: one rounding of the exact value, nearest even; and the special cases as words and flags. -/
def ScalarFpResults : Prop :=
  ∀ (s : State) (g : BitVec 4) (d a b : BitVec 5),
    let x := (s.rS a).setWidth 32
    let y := (s.rS b).setWidth 32
    let z := (s.rS d).setWidth 32
    writesF (.fadd g d a b) g s d (roundW .nearest (Fp.sum false [valW x, valW y]))
    ∧ writesF (.fsub g d a b) g s d (roundW .nearest (Fp.sum false [valW x, (valW y).neg]))
    ∧ writesF (.fmul g d a b) g s d (roundW .nearest ((valW x).mul (valW y)))
    ∧ writesF (.ffma g d a b) g s d (roundW .nearest (Fp.sum false [(valW x).mul (valW y), valW z]))
    ∧ (fp32Nan x ∨ fp32Nan y → writesF (.fadd g d a b) g s d (0x7FC00000, 0) ∧ writesF (.fsub g d a b) g s d (0x7FC00000, 0)
        ∧ writesF (.fmul g d a b) g s d (0x7FC00000, 0) ∧ writesF (.ffma g d a b) g s d (0x7FC00000, 0))
    ∧ (¬ fp32Nan z → fp32Inf x ∧ fp32Zero y ∨ fp32Zero x ∧ fp32Inf y →
        writesF (.fmul g d a b) g s d (0x7FC00000, flagNV) ∧ writesF (.ffma g d a b) g s d (0x7FC00000, flagNV))
    ∧ (fp32Inf x → y = x ^^^ 0x80000000 → writesF (.fadd g d a b) g s d (0x7FC00000, flagNV))
    ∧ (fp32Inf x → y = x → writesF (.fsub g d a b) g s d (0x7FC00000, flagNV))
    ∧ (¬ fp32Nan x → ¬ fp32Inf x → y = x → writesF (.fsub g d a b) g s d (0, 0))
    ∧ (fp32Nan x → writesF (.fabs g d a) g s d (0x7FC00000, 0) ∧ writesF (.fneg g d a) g s d (0x7FC00000, 0))
    ∧ (¬ fp32Nan x → writesF (.fabs g d a) g s d (x &&& 0x7FFFFFFF, 0) ∧ writesF (.fneg g d a) g s d (x ^^^ 0x80000000, 0))

/-- R98: FCMP, FMIN and FMAX order the numbers as their sign and magnitude bits do; NaN operands; no flag is set. -/
def FloatOrderIsSignAndMagnitude : Prop :=
  ∀ (s : State) (g pd : BitVec 4) (d a b : BitVec 5),
    let x := (s.rS a).setWidth 32
    let y := (s.rS b).setWidth 32
    (fp32Nan x ∨ fp32Nan y → decides (.fcmpEq g pd a b) g 4 s pd false ∧ decides (.fcmpLt g pd a b) g 4 s pd false
      ∧ decides (.fcmpLe g pd a b) g 4 s pd false ∧ decides (.fcmpUn g pd a b) g 4 s pd true)
    ∧ (¬ fp32Nan x → ¬ fp32Nan y → decides (.fcmpEq g pd a b) g 4 s pd (decide (fp32Key x = fp32Key y))
      ∧ decides (.fcmpLt g pd a b) g 4 s pd (decide (fp32Key x < fp32Key y)) ∧ decides (.fcmpLe g pd a b) g 4 s pd (decide (fp32Key x ≤ fp32Key y))
      ∧ decides (.fcmpUn g pd a b) g 4 s pd false
      ∧ writesF (.fmin g d a b) g s d (if fp32KeyMin x ≤ fp32KeyMin y then x else y, 0)
      ∧ writesF (.fmax g d a b) g s d (if fp32KeyMin x ≤ fp32KeyMin y then y else x, 0))
    ∧ (fp32Nan x → ¬ fp32Nan y → writesF (.fmin g d a b) g s d (y, 0) ∧ writesF (.fmax g d a b) g s d (y, 0))
    ∧ (¬ fp32Nan x → fp32Nan y → writesF (.fmin g d a b) g s d (x, 0) ∧ writesF (.fmax g d a b) g s d (x, 0))
    ∧ (fp32Nan x → fp32Nan y → writesF (.fmin g d a b) g s d (0x7FC00000, 0) ∧ writesF (.fmax g d a b) g s d (0x7FC00000, 0))

/-- R100: between integer formats (codes 7 to 10 are 8, 16, 32 and 64 bits) the value is taken modulo 2 to the destination's width,
extended by Z; no flag and no warning. -/
def IntegerConversionsTakeTheLowBits : Prop :=
  ∀ (s : State) (g : BitVec 4) (df sf : Fin 4) (z : Bool) (rnd : BitVec 2) (d a : BitVec 5),
    let m := 8 * 2 ^ sf.val
    let n := 8 * 2 ^ df.val
    let x := (s.rS a).setWidth m
    let v := if z then x.setWidth n else x.signExtend n
    writes (.fcvt g (BitVec.ofNat 4 (7 + df)) (BitVec.ofNat 4 (7 + sf)) z rnd d a) g 4 s d (if z then v.setWidth 64 else v.signExtend 64)

/-- R99: FCVT with at least one floating-point format, converting by R46, R47 under the field's rounding; .z without an integer format warns. -/
def ConversionsWithAFloat : Prop :=
  ∀ (s : State) (g : BitVec 4) (df sf : BitVec 4) (z : Bool) (rnd : BitVec 2) (d a : BitVec 5) (dst src : Format) (mode : Rnd),
    Format.ofCode df.toNat = some dst → Format.ofCode sf.toNat = some src → Rnd.ofCode rnd.toNat = some mode →
    (dst.binary.isSome ∨ dst.intWidth.isSome) → (src.binary.isSome ∨ src.intWidth.isSome) →
    let plain := dst.binary.isSome && src.binary.isSome
    let zz := z && !plain
    let r := convert dst src zz ⟨mode, false, 0, 0, false⟩ (s.rS a).toNat
    completes (.fcvt g df sf z rnd d a) g 4 s (fun t =>
      resultF s t d (BitVec.ofNat 64 (extendTo 64 dst zz r.1)) r.2 (if z && plain then 2 else 0))
    ∧ (∀ n f, dst.intWidth = some n → src.binary = some f →
        ((f.decode ((s.rS a).toNat % 2 ^ f.width)).isNaN → r = (0, flagNV))
        ∧ ((f.decode ((s.rS a).toNat % 2 ^ f.width)) = .inf false → r = (if z then 2 ^ n - 1 else 2 ^ (n - 1) - 1, flagNV))
        ∧ ((f.decode ((s.rS a).toNat % 2 ^ f.width)) = .inf true → r = (if z then 0 else 2 ^ (n - 1), flagNV)))

/-- R101, R107: the loads of 1, 2, 4 and 8 bytes from braid SRAM. -/
def LocalLoadsReadTheirBytes : Prop :=
  ∀ (s : State) (g : BitVec 4) (na z : Bool) (sid : BitVec 4) (d a : BitVec 5),
    loadDone (.ldB g na z sid d a) g 4 1 z d a 0 s ∧ loadDone (.ldH g na z sid d a) g 4 2 z d a 0 s
    ∧ loadDone (.ldW g na z sid d a) g 4 4 z d a 0 s ∧ loadDone (.ldD g na z sid d a) g 4 8 z d a (if z then 1 else 0) s
    ∧ loadDone (.cLdD d a) 0 2 8 false d a 0 s

/-- R102, R107: the stores of 1, 2, 4 and 8 bytes to braid SRAM; every other byte, and all of device memory, is as before. -/
def LocalStoresWriteTheirBytesOnly : Prop :=
  ∀ (s : State) (g : BitVec 4) (na : Bool) (sid : BitVec 4) (a b : BitVec 5),
    storeDone (.stB g na sid a b) g 4 1 a b s ∧ storeDone (.stH g na sid a b) g 4 2 a b s ∧ storeDone (.stW g na sid a b) g 4 4 a b s
    ∧ storeDone (.stD g na sid a b) g 4 8 a b s ∧ storeDone (.cStD a b) 0 2 8 a b s

/-- R209, R215: which mailbox addresses raise the mailbox-address fault (code 7): any byte of an LD or ST in the mailbox; a LDF or STE
outside it or not a multiple of 4; a MBCLR or MBSTAT outside it. -/
def MailboxAddressFaults : Prop :=
  ∀ (s : State) (g : BitVec 4) (na z : Bool) (sid : BitVec 4) (d a b : BitVec 5),
    let va := vaOf s a
    let first (n : Nat) (w : Bool) (i : Instr) (g : BitVec 4) : Prop := ∀ k < n, inMail (va + k) = true →
      (∀ j < k, inMail (va + j) = false) → faultsWith i g s 7 (va + k) w
    first 1 false (.ldB g na z sid d a) g ∧ first 2 false (.ldH g na z sid d a) g ∧ first 4 false (.ldW g na z sid d a) g
    ∧ first 8 false (.ldD g na z sid d a) g ∧ first 8 false (.cLdD d a) 0
    ∧ first 1 true (.stB g na sid a b) g ∧ first 2 true (.stH g na sid a b) g ∧ first 4 true (.stW g na sid a b) g
    ∧ first 8 true (.stD g na sid a b) g ∧ first 8 true (.cStD a b) 0
    ∧ (¬(0xB00000 ≤ va ∧ va < 0xC00000 ∧ va % 4 = 0) → faultsWith (.ldf g d a) g s 7 va false ∧ faultsWith (.ste g a b) g s 7 va true)
    ∧ (¬(0xB00000 ≤ va ∧ va < 0xC00000) → faultsWith (.mbclr g a) g s 7 va true ∧ faultsWith (.mbstat g d a) g s 7 va false)

/-- R215, R216: LDF takes a word that was full at the start of the cycle and that nobody has taken in it, else it waits; STE fills a word
that was empty and that nobody has stored to; MBCLR empties the 32 words of the window; MBSTAT reads their bits. Nothing else of the
mailbox, no register but rd, and no byte of device memory changes. -/
def MailboxWordsFillAndEmpty : Prop :=
  ∀ (s : State) (g : BitVec 4) (d a b : BitVec 5),
    let va := vaOf s a
    let w := (va - 0xB00000) / 4
    let x := s.myBraid
    0xB00000 ≤ va → va < 0xC00000 →
    (va % 4 = 0 → tget false x.fullStart w = true → x.taken.contains w = false →
      completes (.ldf g d a) g 4 s fun t =>
        wroteS s t d (BitVec.ofNat 64 (leNat (x.sramRead va 4))) ∧ keptP s t ∧ retired s t 4
        ∧ (∀ v, tget false t.myBraid.full v = if v = w then false else tget false x.full v)
        ∧ t.myBraid.taken = w :: x.taken ∧ t.myBraid.sram = x.sram ∧ bankNoted s t ∧ onlyBraid s t)
    ∧ (va % 4 = 0 → tget false x.fullStart w = false ∨ x.taken.contains w = true → waits (.ldf g d a) g s)
    ∧ (va % 4 = 0 → tget false x.fullStart w = false → x.stored.contains w = false →
      completes (.ste g a b) g 4 s fun t =>
        keptS s t ∧ keptP s t ∧ retired s t 4
        ∧ (∀ v, tget false t.myBraid.full v = if v = w then true else tget false x.full v)
        ∧ t.myBraid.stored = w :: x.stored
        ∧ (∀ y, t.myBraid.sramNow y = if va ≤ y ∧ y < va + 4 then (s.rS b).extractLsb' (8 * (y - va)) 8 else x.sramNow y)
        ∧ bankNoted s t ∧ onlyBraid s t)
    ∧ (va % 4 = 0 → tget false x.fullStart w = true ∨ x.stored.contains w = true → waits (.ste g a b) g s)
    ∧ (completes (.mbclr g a) g 4 s fun t =>
        keptS s t ∧ keptP s t ∧ retired s t 4
        ∧ (∀ v, tget false t.myBraid.full v = if v / 32 = w / 32 then false else tget false x.full v)
        ∧ t.myBraid.sram = x.sram ∧ bankNoted s t ∧ onlyBraid s t)
    ∧ (completes (.mbstat g d a) g 4 s fun t => ∃ v : Word64,
        (∀ i < 64, v.getLsbD i = (decide (i < 32) && tget false x.fullStart (32 * (w / 32) + i))) ∧ result s t 4 d v)

/-- R225, R342, R359: far loads of 1, 2, 4 and 8 bytes ask the home slices of the lines that lack, once each, and wait. -/
def FarLoadsAskTheirHomeSlices : Prop :=
  ∀ (s : State) (g : BitVec 4) (na z : Bool) (sid : BitVec 4) (d a : BitVec 5),
    let va := vaOf s a
    farAsks (.ldB g na z sid d a) g 1 na sid.toNat va s ∧ farAsks (.ldH g na z sid d a) g 2 na sid.toNat va s
    ∧ farAsks (.ldW g na z sid d a) g 4 na sid.toNat va s ∧ farAsks (.ldD g na z sid d a) g 8 na sid.toNat va s
    ∧ farAsks (.cLdD d a) 0 8 false 0 va s

/-- R101, R230, R238, R241: far loads with every byte at hand retire with what R241 lets them see: own writes of the task, from the merge
buffer or the overflow area, and what the L1 or a line from home supplies. -/
def FarLoadsReadWhatTheyMaySee : Prop :=
  ∀ (s : State) (g : BitVec 4) (na z : Bool) (sid : BitVec 4) (d a : BitVec 5),
    let va := vaOf s a
    farLoads (.ldB g na z sid d a) g 4 1 na z sid.toNat va d 0 s ∧ farLoads (.ldH g na z sid d a) g 4 2 na z sid.toNat va d 0 s
    ∧ farLoads (.ldW g na z sid d a) g 4 4 na z sid.toNat va d 0 s
    ∧ farLoads (.ldD g na z sid d a) g 4 8 na z sid.toNat va d (if z then 1 else 0) s
    ∧ farLoads (.cLdD d a) 0 2 8 false false 0 va d 0 s

/-- R102, R226, R241: stores of 1, 2, 4 and 8 bytes to device memory become own writes of the task in its merge buffer. -/
def FarStoresAreOwnWrites : Prop :=
  ∀ (s : State) (g : BitVec 4) (na : Bool) (sid : BitVec 4) (a b : BitVec 5),
    let va := vaOf s a
    farStores (.stB g na sid a b) g 4 1 sid.toNat va b s ∧ farStores (.stH g na sid a b) g 4 2 sid.toNat va b s
    ∧ farStores (.stW g na sid a b) g 4 4 sid.toNat va b s ∧ farStores (.stD g na sid a b) g 4 8 sid.toNat va b s
    ∧ farStores (.cStD a b) 0 2 8 0 va b s

/-- R226, R262: a store to a line that stands in the merge buffer under an older mark first moves that line, as its image of 128 bytes, to
the lowest free entry of the overflow area (which entry is the model's choice: log entry 106); a full area is the merge-overflow fault; a
spilled line of the present mark is read back from its entry. -/
def StoresSpillAndReadBack : Prop :=
  ∀ (s s1 s2 : State) (na : Bool) (sid : BitVec 4) (a b : BitVec 5) (e : Nat × Nat) (l : MLine),
    let k := s.myBank
    let ln := e.1 / 64 * 64
    let lines := s.myBraid.merge ++ k.spilled
    let done (s2 : State) (spilled : List MLine) : Prop := ∃ t, exec (.stB 0 na sid a b) s = .next t ∧ storedFar s s2 t 1 sid.toNat b [e]
      ∧ retired s t 4 ∧ t.myBank.spilled = spilled
    reaches s .store (vaOf s a) 1 [e] s1 → marksInOrder s → s.myBraid.merge.length ≤ 2048 → l.pa = ln → (∀ m ∈ lines, m.pa = ln → m = l) →
    (l ∈ s.myBraid.merge → l ∉ k.spilled → l.mark ≠ k.mark → s1.areaPut s.me.1 s.me.2.1 k.freeEntry (lineImage l 0 l.mark) = (s2, none) →
        done s2 (k.spilled ++ [{ l with slot := some k.freeEntry }]))
    ∧ (l ∈ s.myBraid.merge → l.mark ≠ k.mark → (s.areaOf k).2 ≤ k.freeEntry → exec (.stB 0 na sid a b) s = .next (s1.ctxFault 15 0 true))
    ∧ (l ∉ s.myBraid.merge → l ∈ k.spilled → l.mark = k.mark → s.myBraid.merge.length < 2048 →
        s1.areaRead s.me.1 s.me.2.1 l.slot.toList = (s2, none) → done s2 (k.spilled.filter fun m => m.pa != ln))

/-- R243: the seven AMO operations: the request, and the retirement with the answer. -/
def AmoRequestsAndRetires : Prop :=
  ∀ (s : State) (g : BitVec 4) (z w : Bool) (d a b : BitVec 5),
    amoDone (.amoAdd g z w d a b) g z w true d s ∧ amoDone (.amoSwap g z w d a b) g z w true d s ∧ amoDone (.amoCas g z w d a b) g z w true d s
    ∧ amoDone (.amoMin g z w d a b) g z w false d s ∧ amoDone (.amoMax g z w d a b) g z w false d s
    ∧ amoDone (.amoAnd g z w d a b) g z w true d s ∧ amoDone (.amoOr g z w d a b) g z w true d s
    ∧ amoAsks (.amoAdd 0 z w d a b) 0 z w d a b s ∧ amoAsks (.amoSwap 0 z w d a b) 1 z w d a b s ∧ amoAsks (.amoCas 0 z w d a b) 2 z w d a b s
    ∧ amoAsks (.amoMin 0 z w d a b) 3 z w d a b s ∧ amoAsks (.amoMax 0 z w d a b) 4 z w d a b s ∧ amoAsks (.amoAnd 0 z w d a b) 5 z w d a b s
    ∧ amoAsks (.amoOr 0 z w d a b) 6 z w d a b s

/-- R245: each RED places one entry in the reduction queue and retires, changing no byte of memory. -/
def ReductionsQueueOneEntry : Prop :=
  ∀ (s : State) (g : BitVec 4) (z c w : Bool) (a b : BitVec 5),
    let n := if w then 8 else 4
    let w3 : BitVec 12 := if c then 8 else 0
    let w4 : BitVec 12 := if w || z then 16 else 0
    redDone (.redAdd g z c w a b) g 0 n z c w3 a b s ∧ redDone (.redMin g z c w a b) g 1 n z c w3 a b s
    ∧ redDone (.redMax g z c w a b) g 2 n z c w3 a b s ∧ redDone (.redFadd g z c w a b) g 3 4 z c w4 a b s
    ∧ redDone (.redCfadd g z c w a b) g 4 8 z c w4 a b s

/-- R244, R245: an AMO or RED on braid SRAM raises the region fault, a misaligned one the misaligned-atomic fault, an AMO on a page of
another owner the region fault, a RED into a full queue the merge-overflow fault. -/
def AtomicChecksInOrder : Prop :=
  ∀ (s s1 : State) (z c w : Bool) (d a b : BitVec 5) (pa leaf : Nat),
    let va := vaOf s a
    let mine := leafOlev leaf = 0 ∧ leafOunit leaf = s.arcNo s.myBank.vi s.me.1
    (isLocal va = true → s.myCtx.amoOld = none → s.myCtx.amo = none → faultsWith (.amoAdd 0 z w d a b) 0 s 11 va true)
    ∧ (isLocal va = true → faultsWith (.redAdd 0 z c w a b) 0 s 11 va true ∧ faultsWith (.redCfadd 0 z c w a b) 0 s 11 va true)
    ∧ (translates s .amo va pa leaf s1 → s.myCtx.amoOld = none → s.myCtx.amo = none → ¬ mine →
        exec (.amoOr 0 z w d a b) s = .next (s1.ctxFault 11 va true))
    ∧ (translates s .amo va pa leaf s1 → s.myCtx.amoOld = none → s.myCtx.amo = none → mine → va % (if w then 8 else 4) ≠ 0 →
        exec (.amoCas 0 z w d a b) s = .next (s1.ctxFault 13 va true))
    ∧ (translates s .red va pa leaf s1 → va % (if w then 8 else 4) ≠ 0 → exec (.redMax 0 z c w a b) s = .next (s1.ctxFault 13 va true))
    ∧ (translates s .red va pa leaf s1 → va % 4 = 0 → 512 ≤ (s.myBank.reds.filter fun r => !r.copied).length →
        exec (.redFadd 0 z c w a b) s = .next (s1.ctxFault 15 va true))

/-- R240, R241: FENCE.s covers the context's own writes of its stream, but for a copy's, FENCE.j joins the task's writes whose tag is in the
mask; both retire at once, and change no value of a byte, no register and no byte of memory. -/
def FencesMarkOwnBytes : Prop :=
  ∀ (s : State) (g sid : BitVec 4) (a : BitVec 5),
    let o (t : State) (pa : Nat) : Option (List OldByte) := (t.own s.me.1 s.me.2.1 pa).map MByte.writes
    (completes (.fenceS g sid) g 4 s fun t => keptS s t ∧ keptP s t ∧ retired s t 4 ∧ onlyBraid s t ∧ t.myBraid.sram = s.myBraid.sram
      ∧ ∀ pa, o t pa = (o s pa).map (·.map fun w => { w with covered := w.covered || (w.tag == sid.toNat && w.writer == s.me.2.2 && w.copy.isNone) }))
    ∧ (completes (.fenceJ g a) g 4 s fun t => keptS s t ∧ keptP s t ∧ retired s t 4 ∧ onlyBraid s t ∧ t.myBraid.sram = s.myBraid.sram
      ∧ ∀ pa, o t pa = (o s pa).map (·.map fun w => { w with j := w.j || (s.rS a).toNat.testBit w.tag }))

/-- R128, R129: JOB with room in the queue and a header it accepts numbers the job, appends it and writes the number; a full queue makes
it wait, a header it rejects is the illegal-encoding fault; JWAIT retires once the job named by its low 28 bits has reached its
rendezvous, or where it is earlier than the window of 2^27 numbers that ends at the newest (which numbers those are is the model's choice:
log entry 52), and waits till then. Contexts L and S may not issue JOB. -/
def JobsAreQueuedAndAwaited : Prop :=
  ∀ (s : State) (g : BitVec 4) (d a : BitVec 5),
    let k := s.myBank
    let va := vaOf s a
    let num := (k.jobNext + 1) % 2 ^ 28
    let starting := (s.myBraid.jobsOpen.filter fun j => j.bank == s.me.2.1 && j.start == s.cycle).length
    let header := parseJob (recordAt s va 64) s.cfg.chainN s.cfg.dev (s.ifaceD k.vi).chain num s.myCtx.pc s.me.2.2 s.cycle
    let n := (s.rS a).toNat % 2 ^ 28
    let may := s.me.2.2 = .X ∨ s.me.2.2 = .T ∧ k.tSaved = true
    (s.me.2.2 = .L ∨ s.me.2.2 = .S → unassigned (.job g d a) s)
    ∧ (may → k.jobs.length + starting < 8 → localFree s va 64 true → ∀ j, header = some j →
        completes (.job g d a) g 4 s fun t => ∃ u, onlyCtxOf s t { k with jobs := k.jobs ++ [j], jobNext := num, unitsRead := u }
          ∧ wroteS s t d (BitVec.ofNat 64 num) ∧ keptP s t ∧ retired s t 4)
    ∧ (may → 8 ≤ k.jobs.length + starting → waits (.job g d a) g s)
    ∧ (may → k.jobs.length + starting < 8 → localFree s va 64 true → header = none → s.myCtx.getP g = true →
        ∃ u, exec (.job g d a) s = .next (s.modMyBank fun k => { k with unitsRead := u }).illegal)
    ∧ let past := (k.jobDone + 2 ^ 28 - n) % 2 ^ 28 < 2 ^ 27 ∨ n ∈ k.jobFin ∨ (k.jobNext + 2 ^ 28 - n) % 2 ^ 28 = 2 ^ 27
    (past → completes (.jwait g a) g 4 s fun t => skipped s t 4) ∧ (¬ past → waits (.jwait g a) g s)

/-- R253, R255, R256, R260: CPIN and CPOUT queue one command each and wait while the channel holds 16; WAITX retires where its reference
holds, changing no register and no byte's value, and waits where it does not: a number up to DONE, any of code 7, a finished job's, and one
earlier than the window that ends at the newest (which those are is the model's choice: log entry 52). -/
def CopiesAreQueuedAndAwaited : Prop :=
  ∀ (s : State) (g : BitVec 4) (d a : BitVec 5) (ch : BitVec 2) (ref : BitVec 3),
    let n := (s.rS a).toNat % 2 ^ 28
    let h := s.myBank.chan ref.toNat
    let early (newest : Nat) : Prop := (newest + 2 ^ 28 - n) % 2 ^ 28 = 2 ^ 27
    let upTo (done : Nat) : Prop := (done + 2 ^ 28 - n) % 2 ^ 28 < 2 ^ 27
    copies (.cpin g d ch a) false g d ch a s ∧ copies (.cpout g d ch a) true g d ch a s
    ∧ (s.refHolds s.me.1 s.me.2.1 ref.toNat n = true ↔ ref = 7 ∨ ref.toNat < 4 ∧ (upTo h.done ∨ early h.newest)
        ∨ ref = 4 ∧ (upTo s.myBank.rv.done ∨ early s.myBank.rv.newest) ∨ ref = 6 ∧ (upTo s.myBraid.sqDone ∨ early s.myBraid.sqNext)
        ∨ ref = 5 ∧ (upTo s.myBank.jobDone ∨ n ∈ s.myBank.jobFin ∨ early s.myBank.jobNext))
    ∧ (s.refHolds s.me.1 s.me.2.1 ref.toNat n = true → completes (.waitx g ref a) g 4 s fun t =>
        onlyBank s t ∧ keptS s t ∧ keptP s t ∧ retired s t 4
        ∧ ∀ pa, (t.own s.me.1 s.me.2.1 pa).map MByte.val = (s.own s.me.1 s.me.2.1 pa).map MByte.val)
    ∧ (s.refHolds s.me.1 s.me.2.1 ref.toNat n = false → waits (.waitx g ref a) g s)

/-- R271: RVIN and RVOUT are X's; with room on rv and a record they accept they take the next number and join the Reeve's queue. -/
def ReeveCommandsAreQueued : Prop :=
  ∀ (s : State) (g : BitVec 4) (d a : BitVec 5),
    let k := s.myBank
    let i := s.ifaceD k.vi
    let num := (k.rv.newest + 1) % 2 ^ 28
    let frame (isOut : Bool) := parseFrame (recordAt s (vaOf s a) 64) isOut num s.myCtx.pc s.me.2.2 k.curBank (fun sid => (i.session sid).epoch) k.vi
    let queued (x : ReeveCmd) (t : State) : Prop := ∃ u,
      onlyCtxOf s t { k with rv := { k.rv with queue := k.rv.queue ++ [{ x with owner := k.task.map Task.sq }], newest := num }, inelig := true, unitsRead := u }
        ∧ wroteS s t d (BitVec.ofNat 64 num) ∧ keptP s t ∧ retired s t 4
    let ready := asX s.me.2.2 = .X ∧ k.rv.queue.length < 32 ∧ localFree s (vaOf s a) 64 true
    (∀ x, ready → frame false = some x → x.sid < i.nsess → completes (.rvin g d a) g 4 s (queued x))
    ∧ (∀ x, ready → frame true = some x → x.sid < i.nsess → completes (.rvout g d a) g 4 s (queued x))
    ∧ (ready → frame false = none → s.myCtx.getP g = true → ∃ u, exec (.rvin g d a) s = .next (s.modMyBank fun k => { k with unitsRead := u }).illegal)
    ∧ (∀ x, ready → frame true = some x → i.nsess ≤ x.sid → s.myCtx.getP g = true →
        ∃ u, exec (.rvout g d a) s = .next ((s.modMyBank fun k => { k with unitsRead := u }).ctxFault 16 0 false))
    ∧ (asX s.me.2.2 = .X → 32 ≤ k.rv.queue.length → waits (.rvin g d a) g s ∧ waits (.rvout g d a) g s)
    ∧ (asX s.me.2.2 ≠ .X → unassigned (.rvin g d a) s ∧ unassigned (.rvout g d a) s)

/-- R274: SNAP, FORK, ROLLB and FREEH of X, once no Reeve command they wait for is under way: sessions, epochs, handles and references. -/
def StateInstructions : Prop :=
  ∀ (s : State) (g : BitVec 4) (d a b : BitVec 5) (i : Iface),
    let v := s.myBank.vi
    let sid := (s.rS a).toNat % 65536
    let h := (s.rS a).toNat % 2 ^ 32
    let fsid := (s.rS a).toNat / 2 ^ 32 % 65536
    let hb := (s.rS b).toNat % 2 ^ 32
    let x := i.session sid
    let y := i.session fsid
    let taken (m : Nat) : Iface := { i with images := tput i.images m { i.image m with refs := (i.image m).refs + 1 } }
    s.iface v = some i → asX s.me.2.2 = .X →
    (∀ m, s.reeveBusy v sid false = false → sid < i.nsess → x.cur = some m → thas i.handles (65536 * sid + x.snap) = false →
      (i.image m).refs < 2 ^ 32 - 1 →
      completes (.snap g d a) g 4 s fun t =>
        storeDid s t (({ taken m with handles := tput i.handles (65536 * sid + x.snap) m } : Iface).setSession sid { x with snap := (x.snap + 1) % 65535 }) d
          (BitVec.ofNat 64 (65536 * sid + x.snap)))
    ∧ (s.reeveBusy v sid false = false → sid < i.nsess → x.cur = none →
        completes (.snap g d a) g 4 s fun t => storeDid s t i d 0xFFFFFFFF)
    ∧ (∀ m, s.reeveBusy v fsid false = false → fsid < i.nsess → y.cur = none → h ≠ 0xFFFFFFFF → thas i.handles h = true →
        tget 0 i.handles h = m → (i.image m).refs < 2 ^ 32 - 1 →
        completes (.fork g d a) g 4 s fun t =>
          storeDid s t ((taken m).setSession fsid { y with cur := some m, epoch := y.epoch + 1 }) d (BitVec.ofNat 64 (i.image m).len))
    ∧ (s.reeveBusy v fsid false = false → fsid < i.nsess → y.cur = none → h = 0xFFFFFFFF →
        completes (.fork g d a) g 4 s fun t => storeDid s t (i.setSession fsid { y with epoch := y.epoch + 1 }) d 0)
    ∧ (∀ m, s.reeveBusy v sid true = false → sid < i.nsess → hb ≠ 0xFFFFFFFF → thas i.handles hb = true → tget 0 i.handles hb = m →
        (i.image m).refs < 2 ^ 32 - 1 →
        completes (.rollb g a b) g 4 s fun t =>
          storeDid s t (((taken m).setSession sid { x with cur := some m, epoch := x.epoch + 1 }).dropOpt x.cur) 0 0)
    ∧ (s.reeveBusy v sid true = false → sid < i.nsess → hb = 0xFFFFFFFF →
        completes (.rollb g a b) g 4 s fun t => storeDid s t ((i.setSession sid { x with cur := none, epoch := x.epoch + 1 }).dropOpt x.cur) 0 0)
    ∧ (h ≠ 0xFFFFFFFF → thas i.handles h = true →
        completes (.freeh g a) g 4 s fun t => storeDid s t (({ i with handles := tdel i.handles h } : Iface).dropImage (tget 0 i.handles h)) 0 0)
    ∧ (h = 0xFFFFFFFF → completes (.freeh g a) g 4 s fun t => storeDid s t i 0 0)
    ∧ (i.nsess ≤ sid → s.reeveBusy v sid false = false → faultsWith (.snap g d a) g s 16 0 false)
    ∧ (y.cur.isSome = true → s.reeveBusy v fsid false = false → faultsWith (.fork g d a) g s 16 0 false)
    ∧ (h ≠ 0xFFFFFFFF → thas i.handles h = false → faultsWith (.freeh g a) g s 16 0 false)

/-- R194, R195, R212, R273: an X context outside a round whose waits hold arrives, a member that is not the root of its domain with a BARA
to the root that carries the level and its generation; one whose waits do not hold waits; once its event has completed it retires with PHASE
increased, every granule with W flipping its half, W clear, and under COMMIT.swap the bank changed. -/
def CommitsAndBarriers : Prop :=
  ∀ (s : State) (g : BitVec 4) (k : BitVec 2) (y : Task),
    let b := s.me.1
    let bank := s.me.2.1
    let arrives (i : Instr) (lvl : Nat) (swap : Bool) : Prop :=
      let root := (s.members b bank lvl).headD b
      let gen := tget 0 y.bars lvl % 2 ^ 11
      s.myBank.arrive = none →
      (s.quiet b bank = true → s.reeveQuiet b bank swap = true → s.myCtx.getP g = true → ∃ t, exec i s = .next t ∧ onlyBraid s t
        ∧ t.myBank = ({ s.myBank with arrive := some ⟨lvl, swap, gen, none, false, false, []⟩ } : Bank).setCtx s.me.2.2 t.myCtx
        ∧ t.myCtx = { s.myCtx with wait := .other } ∧ t.myBraid.sram = s.myBraid.sram
        ∧ t.myBraid.ctlQ = (if root = b then s.myBraid.ctlQ
            else s.myBraid.ctlQ ++ [⟨2, b, root, 0, 2048 * lvl + gen, 1, s.cfg.dev, s.cfg.dev, .empty⟩]))
      ∧ (s.quiet b bank = false ∨ s.reeveQuiet b bank swap = false → waits i g s)
    let ends (i : Instr) (swap : Bool) : Prop :=
      ∀ e, s.myBank.arrive = some e → e.released = true → bank < 2 → s.myCtx.getP g = true → ∃ t z, exec i s = .next t
        ∧ retired s t 4 ∧ keptS s t ∧ keptP s t ∧ t.myBank.task = some z ∧ z.phase = y.phase + 1 ∧ t.myBank.arrive = none ∧ t.myBank.w = []
        ∧ t.myBank.curBank = (if swap then !s.myBank.curBank else s.myBank.curBank)
        ∧ (twf false s.myBank.w = true → ∀ x, tget false t.myBraid.h x = xor (tget false s.myBraid.h x) (tget false s.myBank.w x))
        ∧ t.myBraid.sram = s.myBraid.sram ∧ t.mem = s.mem
    asX s.me.2.2 = .X → s.myBank.task = some y →
    (y.round = none → arrives (.commit g) 0 false ∧ arrives (.commitSwap g) 0 true ∧ arrives (.bar g k) k.toNat false
      ∧ ends (.commit g) false ∧ ends (.commitSwap g) true ∧ ends (.bar g k) false)
    ∧ (y.round.isSome = true → unassigned (.commit g) s ∧ unassigned (.commitSwap g) s ∧ unassigned (.bar g k) s)

/-- R196, R201, R202, R203, R292, R294: X's GADD, GSET and GMAX, TASK in both kinds and RESID, with control-queue space, on every braid; a
spawned record goes to the member its TARGET numbers and counts as one more its launch waits for; HMIX mixes the eight words of its block
into rs1. -/
def HeapTasksAndHashing : Prop :=
  ∀ (s : State) (g : BitVec 4) (d a b : BitVec 5) (y : Task) (r : TaskRec),
    let here := s.me.1
    let va := vaOf s a
    let x32 : Word32 := (s.rS b).setWidth 32
    let heap := (s.rS a).toNat / 2 ^ 32 % 16
    let target := (s.rS a).toNat % 2 ^ 32
    let room := asX s.me.2.2 = .X ∧ s.myBraid.ctlQ.length < 32 ∧ s.myBank.task = some y ∧ s.me.2.1 < 2
    (room → completes (.gadd g a b) g 4 s (fun t => heapSent s t .add heap target x32 none y)
        ∧ completes (.gset g a b) g 4 s (fun t => heapSent s t .set heap target x32 none y)
        ∧ completes (.gmax g a b) g 4 s (fun t => heapSent s t .max heap target x32 none y))
    ∧ (asX s.me.2.2 = .X → 32 ≤ s.myBraid.ctlQ.length → waits (.gadd g a b) g s ∧ waits (.gset g a b) g s ∧ waits (.gmax g a b) g s ∧ waits (.task g a) g s)
    ∧ (room → localFree s va 128 true → parseTask (recordAt s va 128) = some r → r.kind = 1 →
        completes (.task g a) g 4 s fun t => heapSent s t .insert r.heap r.tid r.gain (some r) y)
    ∧ (room → localFree s va 128 true → parseTask (recordAt s va 128) = some r → r.kind = 0 →
        let ms := s.members here s.me.2.1 (r.heap % 4)
        let target := ms.getD (r.tid % ms.length) here
        let round := y.round.map fun x => (16 * x.1 + x.2.1, ((s.heap (16 * x.1 + x.2.1)).map Heap.tries).getD 0)
        completes (.task g a) g 4 s fun t =>
          t.myBraid.ctlQ = s.myBraid.ctlQ ++ [⟨15, here, target, 0, 0, 1, s.cfg.dev, s.cfg.dev,
            .spawn ⟨r, target, y.launch, here, s.me.2.1, y.sq, round, s.cycle⟩⟩]
          ∧ t.launches = s.launches.map (fun l => if l.uid = y.launch then { l with pendingSpawns := l.pendingSpawns + 1 } else l)
          ∧ t.myBank.task = some y ∧ keptS s t ∧ keptP s t ∧ retired s t 4 ∧ t.mem = s.mem ∧ t.myBraid.sram = s.myBraid.sram)
    ∧ (asX s.me.2.2 = .X → s.myBank.task = some y → y.round = none → completes (.resid g d) g 4 s fun t => result s t 4 d 0x7FC00000)
    ∧ (∀ die h n hp, asX s.me.2.2 = .X → s.myBank.task = some y → y.round = some (die, h, n) → s.heap (16 * die + h) = some hp →
        completes (.resid g d) g 4 s fun t => result s t 4 d (hp.r.setWidth 64))
    ∧ (asX s.me.2.2 ≠ .X → unassigned (.gadd g a b) s ∧ unassigned (.gset g a b) s ∧ unassigned (.gmax g a b) s ∧ unassigned (.task g a) s
        ∧ unassigned (.resid g d) s ∧ unassigned (.commit g) s ∧ unassigned (.commitSwap g) s ∧ unassigned (.bar g 1) s)
    ∧ (localFree s (vaOf s b) 64 true →
        let w (j : Nat) : Word64 := BitVec.ofNat 64 (leNat (s.myBraid.sramRead (vaOf s b + 8 * j) 8))
        let step (h : Word64) (j : Nat) : Word64 :=
          let p := (h ^^^ w j) * 0x8F3A6C1D52B7E94B
          p ^^^ (p >>> 29)
        let h8 := [0, 1, 2, 3, 4, 5, 6, 7].foldl step (s.rS a)
        let f := (h8 + 16) * 0xC4D17A2E93F60B85
        completes (.hmix g d a b) g 4 s fun t => ∃ u, onlyCtxOf s t { s.myBank with unitsRead := u } ∧ wroteS s t d (f ^^^ (f >>> 32))
          ∧ keptP s t ∧ retired s t 4)

/-- The instruction holds its context for `n` cycles, of which this is the first (R330). -/
def holds (i : Instr) (g : BitVec 4) (n : Nat) (s : State) : Prop :=
  s.myCtx.getP g = true → ∃ t, exec i s = .next t ∧ onlyCtx s t
    ∧ t.myCtx = { s.myCtx with wait := .none, holding := true, retireAt := some (s.cycle + n - 1) }

/-- R311, R313, R316, R330: T's TSAVE writes the save image and moves the queued jobs out; T's TRSTR reloads it; X's YIELD gives way to
a runnable task of the other bank, one of no pre-empted launch, and retires at once without one. Each waits, then takes its 420 or 8 cycles,
and has its effect in the last of them. -/
def SaveRestoreAndYield : Prop :=
  ∀ (s : State) (g : BitVec 4) (a : BitVec 5),
    let k := s.myBank
    let va := vaOf s a
    let fits := va % 64 = 0 ∧ 0x600000 ≤ va ∧ va + 310272 ≤ 0xB00000
    let idle := (s.myBraid.jobsOpen.filter fun j => j.bank == s.me.2.1) = []
    let other := s.bank s.me.1 (1 - s.me.2.1)
    let runnable := (∃ y, other.task = some y ∧ ∀ l, s.launch y.launch = some l → l.preempted = false)
      ∧ (other.mode = .preempted ∨ other.mode = .suspended ∧ ∃ u, other.susp = some u ∧ u.answered = true)
    let img := s.myBraid.sramRead va 310272
    let now := s.myCtx.holding = true
    (s.me.2.2 = .T → fits → k.tSaved = false → now → completes (.tsave g a) g 4 s fun t =>
      (∃ u v, t.myBank = ({ k with held := some ⟨k.jobs⟩, jobs := [], tSaved := true, inelig := u, unitsWritten := v } : Bank).setCtx .T t.myCtx)
        ∧ onlyBraid s t ∧ keptS s t ∧ keptP s t ∧ retired s t 4
        ∧ (∀ x, t.myBraid.sramNow x = if va ≤ x ∧ x < va + (saveImage s.myBraid k).length ∧ x < 0xC00000
            then (saveImage s.myBraid k).getD (x - va) 0 else s.myBraid.sramNow x) ∧ t.mem = s.mem)
    ∧ (s.me.2.2 = .T → fits → k.tSaved = false → ¬ now → (idle → holds (.tsave g a) g 420 s) ∧ (¬ idle → waits (.tsave g a) g s))
    ∧ (s.me.2.2 = .T → fits → k.tSaved = true → ¬ now →
        (k.jobs = [] → idle → holds (.trstr g a) g 420 s) ∧ (k.jobs ≠ [] ∨ ¬ idle → waits (.trstr g a) g s))
    ∧ (∀ jobs, s.me.2.2 = .T → fits → k.tSaved = true → now → s.imageJobs img k (min 8 (fieldLe img 4 1)) = some jobs →
      completes (.trstr g a) g 4 s fun t => keptS s t ∧ keptP s t ∧ retired s t 4 ∧ t.myBank.tSaved = false ∧ t.myBank.jobs = jobs
        ∧ t.myBraid.regs = (loadImage (img.take 64) (img.drop 1408)).1 ∧ t.myBraid.sram = s.myBraid.sram ∧ t.mem = s.mem
        ∧ (∀ i < 16, tget 0 t.myBank.lp i = BitVec.ofNat 32 (leNat (s.myBraid.sramRead (va + 64 + 4 * i) 4))))
    ∧ (s.me.2.2 = .T → ¬ fits → faultsWith (.tsave g a) g s 11 va true ∧ faultsWith (.trstr g a) g s 11 va false)
    ∧ (s.me.2.2 = .T → fits → (k.tSaved = true → faultsWith (.tsave g a) g s 23 0 false) ∧ (k.tSaved = false → faultsWith (.trstr g a) g s 23 0 false))
    ∧ (asX s.me.2.2 = .X → now →
      (¬ runnable → completes (.yield g) g 4 s fun t => skipped s t 4)
      ∧ (runnable → completes (.yield g) g 4 s fun t => keptS s t ∧ keptP s t ∧ retired s t 4 ∧ t.myBank.mode = .preempting ∧ onlyBank s t))
    ∧ (asX s.me.2.2 = .X → ¬ now → (k.jobs = [] → idle → holds (.yield g) g 8 s) ∧ (k.jobs ≠ [] ∨ ¬ idle → waits (.yield g) g s))

/-- R24, R106, R121, R237, R266: HALT stops the context with HALT 1 and RUN 0 behind itself, X only once its phase's work is done, and L, X
and S once the copy commands issued before it have retired; till then it waits. The last of L, X and S to halt ends the task; a round task
then leaves its writes to the round's commit, or, where its round has gone, loses them, which its launch counts. In T it stops T alone: of that the spec says nothing (model's choice: log entry 94). C.NOP only
advances by 2. -/
def HaltAndNop : Prop :=
  ∀ (s : State) (g : BitVec 4) (y : Task),
    let k := s.myBank
    let ended (c : CtxId) : Prop := c = s.me.2.2 ∨ (k.ctx c).began = false ∨ (k.ctx c).halt = true
    let last := s.me.2.2 ≠ .T ∧ ended .L ∧ ended .X ∧ ended .S
    let stopped (t : State) : Prop := t.myCtx.pc = (s.myCtx.pc + 4) &&& ~~~1#48 ∧ t.myCtx.run = false ∧ t.myCtx.halt = true ∧ t.myCtx.ins = none
    let marks := s.myCtx.copies.getD k.newest
    let copied := ∀ ch < 4, ∀ q ∈ (k.chan ch).queue, 2 ^ 27 ≤ (marks.getD ch 0 + 2 ^ 28 - q.num) % 2 ^ 28
    let may := (s.me.2.2 = .X → s.quiet s.me.1 s.me.2.1 = true) ∧ (s.me.2.2 ≠ .T → copied)
    k.task = some y →
    (may → ¬ last → completes (.halt g) g 4 s fun t => stopped t ∧ keptS s t ∧ keptP s t ∧ onlyCtx s t)
    ∧ (may → last → y.round = none → completes (.halt g) g 4 s fun t => stopped t ∧ t.myBank.task = none ∧ t.myBank.mode = .idle
        ∧ t.myBank.jobs = [] ∧ t.myBraid.sram = s.myBraid.sram ∧ t.mem.mem = s.mem.mem)
    ∧ (∀ die h n l, may → last → y.round = some (die, h, n) → k.spilled = [] → s.myBraid.merge = [] →
        (∀ e ∈ s.heaps, ¬(e.1 = 16 * die + h ∧ e.2.launch = y.launch ∧ e.2.st = .run)) → s.launch y.launch = some l →
        completes (.halt g) g 4 s fun t => stopped t ∧ t.myBank.task = none ∧ t.mem.mem = s.mem.mem
          ∧ ∃ m, t.launch y.launch = some m ∧ m.discards = (l.lose s.me.1).discards)
    ∧ (∀ die h n hp, may → last → y.round = some (die, h, n) → k.spilled = [] → s.myBraid.merge = [] → s.heap (16 * die + h) = some hp →
        hp.st = .run → hp.launch = y.launch →
        completes (.halt g) g 4 s fun t => stopped t ∧ t.myBank.task = none ∧ t.mem.mem = s.mem.mem
          ∧ ∃ hq, t.heap (16 * die + h) = some hq ∧ hq.ended = n :: hp.ended
            ∧ hq.parts = hp.parts ++ [{ braid := s.me.1, bank := s.me.2.1, tid := y.tid, started := y.started, lines := [], tiles := k.staged,
                                        reds := k.reds, conflicts := k.conflicts }])
    ∧ (¬ may → s.myCtx.getP g = true → ∃ t, exec (.halt g) s = .next t ∧ onlyCtx s t
        ∧ t.myCtx = { s.myCtx with copies := some marks, wait := .halt })
    ∧ completes .cNop 0 2 s fun t => skipped s t 2

/-- A discard fault has been taken in bank `bank` of braid `b`, which was as in `s`: cause, source and SPC; FAULT 1, RUN 0 and EPC in the
faulting context; RUN 0 and EPC their own pc in the others; the task, its queued jobs, its stores and its reductions gone, and braid SRAM as
it was (R24, R122, R302). -/
def discarded (s t : State) (b bank : Nat) (f : FaultInfo) : Prop :=
  let k := s.bank b bank
  let m := t.bank b bank
  m.causeCode = BitVec.ofNat 8 f.code ∧ m.causeSrc = BitVec.ofNat 3 f.src ∧ m.spc = f.spc
  ∧ (m.ctx f.ctx).fault = true ∧ (m.ctx f.ctx).run = false ∧ (m.ctx f.ctx).epc = f.epc
  ∧ (∀ d, d ≠ f.ctx → (m.ctx d).run = false ∧ (m.ctx d).epc = (k.ctx d).pc ∧ (m.ctx d).fault = (k.ctx d).fault)
  ∧ m.task = none ∧ m.mode = .idle ∧ m.jobs = [] ∧ m.spilled = [] ∧ m.staged = [] ∧ m.reds = [] ∧ m.late = []
  ∧ ((t.braid b).runBank = bank → (t.braid b).merge = []) ∧ (t.braid b).sram = (s.braid b).sram

/-- R24, R122, R300, R302: a discard fault at the issuing context's instruction. In L, and in X with no job open and no fault standing, no
other of the cycle can go before it, and it is taken at once; elsewhere it stands to the end of the cycle with what its record will say. (Codes
9 and 10 are resumable but in T, 19 and 20 may re-run the phase: those are not meant here.) -/
def TakingADiscardFault : Prop :=
  ∀ (s : State) (code va : Nat) (w : Bool) (y : Task),
    let b := s.me.1
    let bank := s.me.2.1
    let c := s.me.2.2
    let k := s.myBank
    let t := s.ctxFault code va w
    let f : FaultInfo := { code, src := if c = .T then 6 else 0, ctx := c, epc := s.myCtx.pc, va, write := w }
    let first := c = .L ∨ c = .X ∧ s.jobIn b bank = false ∧ k.late = []
    code < 256 → code ≠ 9 ∧ code ≠ 10 ∨ c = .T → code ≠ 19 → code ≠ 20 → bank < 2 → k.task = some y →
    (first → discarded s t b bank f)
    ∧ (¬ first → onlyBank s t
        ∧ t.myBank = ({ k with late := f :: k.late } : Bank).setCtx c { s.myCtx with retireAt := none, ins := none, store := none, holding := false })

/-- Where a fault's source stands in R300's order: L, X, S, LD, MX, SC, VX, ST, T, then engine commands. -/
def sourcePlace (f : FaultInfo) : Nat :=
  if f.engine then 9
  else if f.src = 6 then 8
  else if f.src = 0 then (match f.ctx with
    | .L => 0
    | .X => 1
    | .S => 2
    | .T => 8)
  else 2 + f.src

/-- R300, R302: at the end of the cycle one of a bank's standing faults is taken: a discard before a resumable one, then by source, then by
code; of the others nothing is left. -/
def OneFaultOfACycleIsTaken : Prop :=
  ∀ (s : State) (b bank : Nat) (f : FaultInfo),
    let l := (s.bank b bank).late
    s.agent = (b, bank, lastFault) →
    (l = [] → exec .overrun s = .next s)
    ∧ ((∀ g ∈ l, g.code < 256 ∧ g.src < 7) → firstFault l = some f → f ∈ l
        ∧ ∀ g ∈ l, (f.resumes = true → g.resumes = true)
          ∧ (f.resumes = g.resumes → sourcePlace f < sourcePlace g ∨ sourcePlace f = sourcePlace g ∧ f.code ≤ g.code))
    ∧ (firstFault l = some f → (s.bank b bank).task.isSome = true → bank < 2 → f.resumes = false → f.code ≠ 19 → f.code ≠ 20 →
        ∃ t, exec .overrun s = .next t ∧ discarded s t b bank f)

/-- R299, R305, R311: a resumable fault (codes 9 and 10, but in T) of a running task marks the bank for suspension with what the record will say, and
leaves its contexts' registers, its stores and braid SRAM as they were; the instruction is held unretired and will be fetched again. -/
def TakingAResumableFault : Prop :=
  ∀ (s : State) (code va : Nat) (w : Bool) (y : Task),
    let b := s.me.1
    let bank := s.me.2.1
    let k := s.myBank
    let t := s.ctxFault code va w
    let m := t.bank b bank
    code = 9 ∨ code = 10 → s.me.2.2 ≠ .T → k.task = some y → k.mode = .running →
    m.mode = .suspending ∧ (∃ u, m.susp = some u ∧ u.code = code ∧ u.va = va ∧ u.write = w ∧ u.ctx = s.me.2.2 ∧ u.epc = s.myCtx.pc)
    ∧ m.task = some y ∧ m.jobs = k.jobs ∧ m.spilled = k.spilled ∧ (∀ d r, (m.ctx d).getS r = (k.ctx d).getS r) ∧ (∀ d, (m.ctx d).pc = (k.ctx d).pc)
    ∧ (t.braid b).merge = s.myBraid.merge ∧ (t.braid b).sram = s.myBraid.sram ∧ t.mem = s.mem

/-- R124, R196, R310, R311, R313: an instruction in a context that may not issue it is the illegal-encoding fault, whatever its guard. -/
def InstructionsOfOtherContexts : Prop :=
  ∀ (s : State) (g : BitVec 4) (d a b n : BitVec 5),
    (s.me.2.2 ≠ .T → unassigned (.rte g) s ∧ unassigned (.tsave g a) s ∧ unassigned (.trstr g a) s
      ∧ (17 ≤ n.toNat → n.toNat ≤ 20 → unassigned (.crr g d n) s ∧ unassigned (.crw g n a) s))
    ∧ (s.me.2.2 = .L ∨ s.me.2.2 = .S → unassigned (.yield g) s ∧ unassigned (.snap g d a) s ∧ unassigned (.fork g d a) s
      ∧ unassigned (.rollb g a b) s ∧ unassigned (.freeh g a) s ∧ unassigned (.rvin g d a) s ∧ unassigned (.rvout g d a) s
      ∧ unassigned (.job g d a) s ∧ unassigned (.fmt g a) s ∧ unassigned (.lpw g 0 a) s ∧ unassigned (.commit g) s ∧ unassigned (.bar g 1) s)
    ∧ s.illegal = s.ctxFault 1 0 false

/-- R19, R78, R122: an encoding that is no instruction is the illegal-encoding fault of its context, or of its strand at the parcel. -/
def IllegalEncodingsFault : Prop :=
  ∀ (s : State) (b i k : Nat) (c : CtxId),
    (s.cur = .ctx b i c → exec .illegalEncoding s = .next (s.ctxFault 1 0 false))
    ∧ (s.cur = .strand b k → (s.strand b k).job.isSome = true → exec .illegalEncoding s = .next (s.strandFault b k 1 (s.strand b k).opPc 0))
    ∧ (s.cur = .strand b k → (s.strand b k).job = none → exec .illegalEncoding s = .next s)

/-- R163, R165, R166, R167, R170, R171: the ops of one source: VNEG and VABS (a NaN becomes the canonical one), VCVT, the functions, each one
rounding of the exact value, VROT, VKEY, VMOV and VUNPK. An empty beat is the stream-shape fault. -/
def VectorOpsOfOneSource : Prop :=
  ∀ (s : State) (b n : Nat) (f : VxFrame) (av : List Word32) (m : Option Bool),
    let a := wordAt av
    let fn := f.fn.toNat
    let func (i : Instr) (g : Fp → Fp) : Prop :=
      vxFree s b f.d 12 → vxDone i 12 f s b n m fun l => roundW (vxRounding s b n f l) (g (fp32.decode (a l).toNat))
    let plain (i : Instr) (g : Nat → Word32) : Prop := vxFree s b f.d 6 → vxDone i 6 f s b n m fun l => (g l, 0)
    let half (x : BinFmt) (w : Word32) : Word32 := BitVec.ofNat 32 (keyOf x (w.toNat % 65536) + 65536 * keyOf x (w.toNat / 65536))
    opAt s b 3 n →
    (vxSource s b f.a av m →
      plain (.vneg f) (fun l => if (fp32.decode (a l).toNat).isNaN then 0x7FC00000 else a l ^^^ 0x80000000)
      ∧ plain (.vabs f) (fun l => if (fp32.decode (a l).toNat).isNaN then 0x7FC00000 else a l &&& 0x7FFFFFFF)
      ∧ (∀ df sf, Format.ofCode fn = some df → Format.ofCode (f.b.toNat % 16) = some sf → vxFree s b f.d 6 →
          vxDone (.vcvt f) 6 f s b n m fun l =>
            let w := convert df sf (f.b.getLsbD 4) (vxRounding s b n f l) ((a l).toNat % 2 ^ sf.width)
            (BitVec.ofNat 32 (extendTo 32 df (f.b.getLsbD 4) w.1), w.2))
      ∧ func (.vexp f) expVal ∧ func (.vlog f) logVal ∧ func (.vrcp f) rcpVal ∧ func (.vrsq f) rsqVal
      ∧ (fn = 0 → func (.vact f) siluVal) ∧ (fn = 1 → func (.vact f) geluVal) ∧ (fn = 2 → func (.vact f) softplusVal)
      ∧ (fn = 3 → func (.vact f) sigmoidVal)
      ∧ (16 * f.b.toNat + fn < 192 → plain (.vrot f) fun l => a ((l + (192 - (16 * f.b.toNat + fn))) % 192))
      ∧ (fn = 0 → plain (.vkey f) fun l => half fp16 (a l)) ∧ (fn = 1 → plain (.vkey f) fun l => half bf16 (a l))
      ∧ (fn = 2 → plain (.vkey f) fun l => if (fp32.decode (a l).toNat).isNaN then 0xFFFFFFFF else if (a l).getLsbD 31 then ~~~ a l else a l ^^^ 0x80000000)
      ∧ plain (.vmov f) a
      ∧ (∀ x : Format, Format.ofCode fn = some x → plain (.vunpk f) fun l =>
          let e := (a l).toNat >>> (x.width * (f.b.toNat % 4)) % 2 ^ x.width
          match x.binary with
          | some y => (fp32.round .nearest (y.decode e)).1
          | none => BitVec.ofNat 32 (extendTo 32 x (f.b.getLsbD 4) e)))
    ∧ (16 ≤ f.a.toNat → thas (s.braid b).arriving (5 * (f.a.toNat - 16) + 3) = false →
      opFaults (.vneg f) s b 3 2 0 false ∧ opFaults (.vcvt f) s b 3 2 0 false ∧ opFaults (.vexp f) s b 3 2 0 false ∧ opFaults (.vmov f) s b 3 2 0 false
      ∧ opFaults (.vadd f) s b 3 2 0 false ∧ opFaults (.vcmp f) s b 3 2 0 false ∧ opFaults (.vredSum f) s b 3 2 0 false ∧ opFaults (.vcmul f) s b 3 2 0 false)

/-- R167, the table of special values: those of the functions, with their flags, whatever the rounding; softplus of ±0 is ln 2, here to nearest. -/
def VectorFunctionsAtSpecialValues : Prop :=
  ∀ (s : State) (b n : Nat) (f : VxFrame) (av : List Word32) (m : Option Bool),
    let at_ (i : Instr) (P : Word32 → Word32 × FlagSet → Prop) : Prop := vxFree s b f.d 12 → ∃ g, vxDone i 12 f s b n m g
      ∧ ∀ l < 192, (fp32Nan (wordAt av l) → g l = (0x7FC00000, 0)) ∧ P (wordAt av l) (g l)
    let inf : Word32 := 0x7F800000
    let minf : Word32 := 0xFF800000
    let one : Word32 := 0x3F800000
    let below (w : Word32) : Prop := w.getLsbD 31 = true ∧ ¬ fp32Zero w ∧ ¬ fp32Nan w
    opAt s b 3 n → vxSource s b f.a av m →
      at_ (.vexp f) (fun w r => (fp32Zero w → r = (one, 0)) ∧ (w = inf → r = (inf, 0)) ∧ (w = minf → r = (0, 0)))
      ∧ at_ (.vlog f) (fun w r => (fp32Zero w → r = (minf, 0)) ∧ (w = inf → r = (inf, 0)) ∧ (below w → r = (0x7FC00000, flagNV)) ∧ (w = one → r = (0, 0)))
      ∧ at_ (.vrcp f) (fun w r => (w = 0 → r = (inf, 0)) ∧ (w = 0x80000000 → r = (minf, 0)) ∧ (w = inf → r = (0, 0)) ∧ (w = minf → r = (0x80000000, 0)))
      ∧ at_ (.vrsq f) (fun w r => (w = 0 → r = (inf, 0)) ∧ (w = 0x80000000 → r = (minf, 0)) ∧ (w = inf → r = (0, 0)) ∧ (below w → r = (0x7FC00000, flagNV)))
      ∧ (f.fn.toNat < 2 → at_ (.vact f) fun w r => (fp32Zero w → r = (w, 0)) ∧ (w = inf → r = (inf, 0)) ∧ (w = minf → r = (0x80000000, 0)))
      ∧ (f.fn.toNat = 2 → at_ (.vact f) fun w r => (fp32Zero w → f.rnd = 0 → r = (0x3F317218, flagNX)) ∧ (w = inf → r = (inf, 0)) ∧ (w = minf → r = (0, 0)))
      ∧ (f.fn.toNat = 3 → at_ (.vact f) fun w r => (fp32Zero w → r = (0x3F000000, 0)) ∧ (w = inf → r = (one, 0)) ∧ (w = minf → r = (0, 0)))

/-- R164, R166, R168, R170, R172: the ops of two sources on patterns: VCMP writes a mask, VSEL picks by one; VBIT, VIADD, VIMUL, VPACK and
VHIST's counts; VCMUL's complex products, each part one rounding. -/
def VectorOpsOfTwoSources : Prop :=
  ∀ (s : State) (b n : Nat) (f : VxFrame) (av bv : List Word32) (ma mb m : Option Bool),
    let x := wordAt av
    let y := wordAt bv
    let c := wordAt (vxAddend s b f.d)
    let fn := f.fn.toNat
    let plain (i : Instr) (lat : Nat) (g : Nat → Word32) : Prop := vxFree s b f.d lat → vxDone i lat f s b n m fun l => (g l, 0)
    let cmp (p q : Word32) : Bool := if fn = 0 then fEq p q else if fn = 1 then fLt p q else if fn = 2 then fLe p q else fUn p q
    let v (l : Nat) : Fp := fp32.decode (x l).toNat
    let w (l : Nat) : Fp := fp32.decode (y l).toNat
    let r := vxRounding s b n f
    opAt s b 3 n → vxSource s b f.a av ma → vxSource s b f.b bv mb → vxMarks ma mb m →
    (∃ t val, exec (.vcmp f) s = .next t ∧ opEnds s t b 3 2 ∧ (∀ l < 192, val.getLsbD l = cmp (x l) (y l))
        ∧ opEmits s t b 3 n [(s.cycle + 6, 0, .vmask (f.d.toNat % 4) val (vxLanes s b f))])
    ∧ plain (.vsel f) 6 (fun l => if (tget 0 (s.braid b).regs.m f.m.toNat).getLsbD l then x l else y l)
    ∧ (fn = 0 → plain (.vbit f) 6 fun l => x l &&& y l) ∧ (fn = 1 → plain (.vbit f) 6 fun l => x l ||| y l)
    ∧ (fn = 2 → plain (.vbit f) 6 fun l => x l ^^^ y l) ∧ (fn = 3 → plain (.vbit f) 6 fun l => x l <<< ((y l).toNat % 32))
    ∧ (fn = 4 → plain (.vbit f) 6 fun l => x l >>> ((y l).toNat % 32))
    ∧ plain (.viadd f) 6 (fun l => x l + y l) ∧ plain (.vimul f) 6 (fun l => x l * y l)
    ∧ (fn ≠ 3 → fn ≠ 4 → fn ≠ 7 → plain (.vpack f) 6 fun l => (y l).extractLsb' 0 16 ++ (x l).extractLsb' 0 16)
    ∧ (fn = 3 ∨ fn = 4 ∨ fn = 7 → plain (.vpack f) 6 fun l => (y l).extractLsb' 0 8 ++ (x l).extractLsb' 0 8 ++ (c l).extractLsb' 16 16)
    ∧ (fn < 4 → plain (.vhist f) 8 fun l =>
        c l + BitVec.ofNat 32 ((List.range 192).filter fun j => (x j).toNat >>> (8 * fn) == (y l).toNat >>> (8 * fn)).length)
    ∧ (vxFree s b f.d 6 → vxDone (.vcmul f) 6 f s b n m fun l =>
        let e := l / 2 * 2
        roundW (r l) (Fp.sum ((r l).mode == .rdn) (if l % 2 = 0 then [(v e).mul (w e), ((v (e + 1)).mul (w (e + 1))).neg]
          else [(v e).mul (w (e + 1)), (v (e + 1)).mul (w e)])))

/-- R142, R145, R147: MZERO chains a tile of +0 at once and writes it in cycle c + 1; MSTOP writes the Stopper signature in c + 10. -/
def MatrixZeroAndStopper : Prop :=
  ∀ (s : State) (b n : Nat) (acc : BitVec 2) (seed : BitVec 16),
    let z := List.replicate 6144 (0 : Word32)
    let a := acc.toNat
    let e := a / 2 * 2
    opAt s b 1 n →
    (∃ t, exec (.mzero acc false) s = .next t ∧ opEnds s t b 1 1 ∧ opEmits s t b 1 n [(accAt s b a 1, 0, .acc a z)]
        ∧ (∀ i, tget [] (t.braid b).chain i = if i = a then z else tget [] (s.braid b).chain i))
    ∧ (∃ t, exec (.mzero acc true) s = .next t ∧ opEnds s t b 1 1
        ∧ opEmits s t b 1 n [(accAt s b e 1, 0, .acc e z), (accAt s b (e + 1) 1, 0, .acc (e + 1) z)]
        ∧ (∀ i, tget [] (t.braid b).chain i = if i = e ∨ i = e + 1 then z else tget [] (s.braid b).chain i))
    ∧ (∃ t, exec (.mstop seed) s = .next t ∧ opEnds s t b 1 2 ∧ opEmits s t b 1 n [(s.cycle + 10, 0, .stopper (stopperSig seed.toNat))])

/-- R143, R144, R155: MWL records beats of 192 lanes and writes the weight buffer four cycles after its last beat; MCB takes the low halves
of 16 lanes. From a track, whose marker must stand on the last beat alone, or from the even parameter block. -/
def MatrixBufferLoads : Prop :=
  ∀ (s : State) (b n : Nat) (wb : BitVec 1) (cb : BitVec 2) (src : BitVec 3) (k : BitVec 14) (l : List Word32) (m : Bool) (p : Spb),
    let beats := (k.toNat + 2) / 2
    let q := (s.strand b 1).q
    let last := q + 1 == beats
    let x := (s.braid b).sramAt
    let held := (s.strand b 1).held
    let mwl (l : List Word32) : Prop := ∃ t, exec (.mwl wb src k) s = .next t
      ∧ (last = false → opStays s t b 1 ∧ opEmits s t b 1 n [] ∧ (t.strand b 1).held = held ++ l)
      ∧ (last = true → opEnds s t b 1 2 ∧ ∃ d : List (List Word32), d.length = beats ∧ (∀ i < beats, d.getD i [] = ((held ++ l).drop (192 * i)).take 192)
          ∧ opEmits s t b 1 n [(s.cycle + 4, 0, .wbuf wb.toNat ⟨beats, d⟩)])
    let mcb (l : List Word32) : Prop := ∃ t, exec (.mcb cb src) s = .next t ∧ opEnds s t b 1 2
      ∧ opEmits s t b 1 n [(s.cycle + 4, 0, .cbook cb.toNat ((l.take 16).map (·.setWidth 16)))]
    let even := if src.toNat = 6 then 0 else 2
    opAt s b 1 n →
    (src.toNat < 6 → beats ≤ 128 → beatOn s b 1 src.toNat l m → (m = last → mwl l) ∧ (m ≠ last → opFaults (.mwl wb src k) s b 1 2 0 false)
      ∧ (m = true → mcb l) ∧ (m = false → opFaults (.mcb cb src) s b 1 2 0 false))
    ∧ (6 ≤ src.toNat → beats ≤ 128 → (q = 0 → opensStream s b 1 n even 0 p ∧ p.fmt = 0 ∧ p.count = beats * 192) →
        (q ≠ 0 → parseSpb (tget 0 (s.strand b 1).spb even) = some p) → mayRead s b 1 n (s.braid b) id p (q * 192) 192 →
        mwl ((List.range 192).map fun i => BitVec.ofNat 32 (p.read x (q * 192 + i))))
    ∧ (6 ≤ src.toNat → q = 0 → opensStream s b 1 n even 0 p → p.fmt = 1 → p.count = 16 → mayRead s b 1 n (s.braid b) id p 0 16 →
        mcb ((List.range 16).map fun i => BitVec.ofNat 32 (p.read x i)))
    ∧ (q = 0 → 128 < beats → src.toNat < 6 → opFaults (.mwl wb src k) s b 1 2 0 false)

/-- R157, R174, R178: STT and STB write a beat into their stream each cycle, two cycles later, STB half-aware; STX scatters a beat's lanes to
the elements that the other beat's lanes number, those out of range nowhere, until the beats with the marker. -/
def StoreStrandWritesItsStreams : Prop :=
  ∀ (s : State) (b n : Nat) (trk itrk : BitVec 2) (spb : BitVec 3) (l il : List Word32) (m im : Bool) (p : Spb),
    let q := (s.strand b 4).q
    let goes (i : Instr) (last : Bool) (e : Nat × FlagSet × Eff) : Prop := ∃ t, exec i s = .next t
      ∧ (if last then opEnds s t b 4 2 else opStays s t b 4) ∧ opEmits s t b 4 n [e]
    let last := q + 1 == p.runs
    let writes : List SWrite := ((List.range p.run).map fun j => p.write (q * p.run + j) (runElem p.width l j)).flatten
    let hits := (List.range 192).filter fun j => decide (0 ≤ (wordAt il j).toInt ∧ (wordAt il j).toInt < (p.count : Int))
    let elem (j : Nat) : Nat := (wordAt il j).toInt.toNat
    opAt s b 4 n → streamNow s b 4 n spb.toNat 0 0 p → beatOn s b 4 trk.toNat l m →
    ((q = 0 → p.run * p.width ≤ 6144) →
      (m = last → mayTouch s b 4 n true p (q * p.run) p.run →
        goes (.stt trk spb) last (s.cycle + 2, 0, .sram writes false) ∧ goes (.stb trk spb) last (s.cycle + 2, 0, .sram writes true))
      ∧ (m ≠ last → opFaults (.stt trk spb) s b 4 2 0 false ∧ opFaults (.stb trk spb) s b 4 2 0 false))
    ∧ ((q = 0 → p.width ≤ 32) → beatOn s b 4 itrk.toNat il im →
      (im = m → (∀ j ∈ hits, mayTouch s b 4 n true p (elem j) 1) → goes (.stx trk itrk spb) m (s.cycle + 2, 0,
        .sram ((hits.map fun j => p.write (elem j) ((wordAt l j).toNat % 2 ^ p.width)).flatten) false))
      ∧ (im ≠ m → opFaults (.stx trk itrk spb) s b 4 2 0 false))

/-- R179, R188, R192, R353, R356: STM makes a MAIL packet of its beat for the stop of that arc number and the windows, to be queued two cycles
later; a stop outside the interface is the illegal-encoding fault, an empty beat the stream-shape fault, a full send queue the queue fault.
That a stop of another device is taken by this device's arc of the interface is the model's choice (log entry 92). -/
def StmSendsMail : Prop :=
  ∀ (s : State) (b n : Nat) (trk : BitVec 2) (stop : BitVec 7) (win : BitVec 13) (l : List Word32) (m : Bool) (j : OpenJob),
    let x := s.braid b
    let bank := (s.strand b 4).bank
    let vi := (s.bank b bank).vi
    let dest := s.physOf vi stop.toNat
    let ddev := if j.job.xv then j.job.xdev else s.cfg.dev
    let inside := stop.toNat < 8 * (s.arc vi).2
      ∧ (j.job.xv = false → s.divided = true → (s.ringEnds b).1 ≤ dest ∧ dest ≤ (s.ringEnds b).2)
    let room := x.sendQ.length + x.sendsDue < 16
    opAt s b 4 n → openJob s b 4 n = some j →
    (inside → room → beatOn s b 4 trk.toNat l m → ∃ t, exec (.stm trk stop win) s = .next t ∧ opEnds s t b 4 2
        ∧ opEmits s t b 4 n [(s.cycle + 2, 0, .send ⟨0, b, dest, 0, win.toNat, 7, s.cfg.dev, ddev, .mail ((List.range 192).map (wordAt l)) bank (s.taskSq b bank)⟩)]
        ∧ ∃ j', openJob t b 4 n = some j' ∧ j'.stm = j.stm + 1)
    ∧ (¬ inside → opFaults (.stm trk stop win) s b 4 1 0 false)
    ∧ (inside → thas x.arriving (5 * trk.toNat + 4) = false → opFaults (.stm trk stop win) s b 4 2 0 false)
    ∧ (inside → ¬ room → beatOn s b 4 trk.toNat l m → opFaults (.stm trk stop win) s b 4 3 0 false)

/-- R116, R117, R126, R130, R131, R209: the head job of the running bank, once its conditions hold, starts: it reserves the entries its
conditions name, keeps the loop registers as they stand, loads its strands' parameter blocks from SRAM and puts them at their entries; where
they do not hold nothing happens; a start that fails is X's fault, which stands to the end of the cycle (R300). -/
def JobsStart : Prop :=
  ∀ (s : State) (b y z : Nat) (j : Job) (rest : List Job),
    let x := s.braid b
    let bank := x.runBank
    let k := s.bank b bank
    let clean := s.jobErrs b bank j = []
    s.cur = .agent b y z → bank < 2 → k.jobs = j :: rest →
    (s.jobReady b bank j = true → clean → ∃ t o, exec .jobStart s = .next t ∧ onlyBraidOf s t b
        ∧ (t.bank b bank).jobs = rest ∧ (∀ c, (t.bank b bank).ctx c = k.ctx c) ∧ (t.bank b bank).q = k.q ∧ t.bank b (1 - bank) = s.bank b (1 - bank)
        ∧ (t.braid b).jobsOpen = x.jobsOpen ++ [o] ∧ o.job = j ∧ o.bank = bank ∧ o.start = s.cycle ∧ o.joined = [] ∧ o.lpImage = k.lp ∧ o.stm = 0
        ∧ (∀ q, tget 0 o.resv q = if q = 4 ∨ q = 5 ∨ q = 6 ∨ q = 8 then condSum j.conds 1 q else 0) ∧ o.resv7 = condSum j.conds 2 7
        ∧ (t.braid b).sram = x.sram ∧ (t.braid b).regs = x.regs
        ∧ (∀ p, ¬(p < 5 ∧ bitAt j.smask p = true) → t.strand b p = s.strand b p)
        ∧ ∀ p < 5, bitAt j.smask p = true → (t.strand b p).job = some j.num ∧ (t.strand b p).bank = bank ∧ (t.strand b p).pc = j.entry.getD p 0
          ∧ (t.strand b p).op = none ∧ (t.strand b p).q = 0 ∧ (t.strand b p).nest = [] ∧ (t.strand b p).buf = []
          ∧ ∀ i < 8, tget 0 (t.strand b p).spb i = if bitAt (j.spbld.getD p 0) i then leNat (x.sramRead (j.entry.getD p 0 - 256 + 32 * i) 32)
              else tget 0 (s.strand b p).spb i)
    ∧ (s.jobReady b bank j = false → exec .jobStart s = .next s)
    ∧ (∀ e, s.jobReady b bank j = true → (s.jobErrs b bank j).least = some e →
        exec .jobStart s = .next (s.defer b bank { code := e.code, src := 0, ctx := .X, epc := j.pc, va := e.va }))
    ∧ ((∃ o ∈ x.jobsOpen, o.bank = bank ∧ ∃ r ∈ o.job.regions, ∃ u ∈ j.regions, regionsClash r u = true) → (s.jobErrs b bank j).least = some ⟨6, 0, false⟩)
    ∧ (∀ p < 5, bitAt j.smask p = true → (s.strand b p).job.isSome = true → s.jobReady b bank j = false)
    ∧ (∀ c ∈ j.conds, condKind c = 1 → feeds (condQueue c) = false → (k.queue (condQueue c)).length < condSum j.conds 1 (condQueue c) → s.jobReady b bank j = false)
    ∧ (s.cycle < j.at_ + 4 → s.jobReady b bank j = false)

/-- R126, R132, R133: a job whose strands have joined and whose results are written reaches its rendezvous: its strands are free, its number
counts as retired, and the job word goes to q7 if it was reserved; entries left over are the stream-shape fault; a job that has not ended
with its MAXC-th cycle is the overrun fault. -/
def JobsEndAtTheirRendezvous : Prop :=
  ∀ (s : State) (b bank n : Nat) (l1 l2 : List OpenJob) (j : OpenJob),
    let x := s.braid b
    let k := s.bank b bank
    let mine (o : OpenJob) : Prop := o.bank = bank ∧ o.job.num = n
    let ready := (∀ p < 5, bitAt j.job.smask p = true → p ∈ j.joined) ∧ j.stm = 0 ∧ ∀ p ∈ x.pend, ¬(p.bank = bank ∧ p.job = n)
    let left := ∃ e ∈ j.resv, 0 < e.2
    s.cur = .agent b bank n → bank < 2 → x.jobsOpen = l1 ++ j :: l2 → mine j → (∀ o ∈ l1, ¬ mine o) → (∀ o ∈ l2, ¬ mine o) →
    (ready → ¬ left → ∃ t, exec .rendezvous s = .next t ∧ onlyBraidOf s t b ∧ (t.braid b).jobsOpen = l1 ++ l2
        ∧ (n = (k.jobDone + 1) % 2 ^ 28 → k.jobFin = [] → (t.bank b bank).jobDone = n ∧ (t.bank b bank).jobFin = [])
        ∧ (∀ q, (t.bank b bank).queue q = if q = 7 ∧ j.resv7 ≠ 0 then k.queue 7 ++ [BitVec.ofNat 64 (n + 2 ^ 32 * (s.cycle - j.start + 1))] else k.queue q)
        ∧ (∀ p, (t.strand b p).job = if (s.strand b p).job = some n ∧ (s.strand b p).bank = bank then none else (s.strand b p).job)
        ∧ (t.braid b).sram = x.sram ∧ (t.braid b).regs = x.regs ∧ ∀ c, (t.bank b bank).ctx c = k.ctx c)
    ∧ (¬ ready → exec .rendezvous s = .next s)
    ∧ (ready → left → exec .rendezvous s = .next (s.jobFault b bank 2 j.job 0))
    ∧ (n < 2 ^ 28 → j.job.maxc ≤ s.cycle - j.start + 1 → exec .overrun s = .next (s.jobFault b bank 3 j.job 0))
    ∧ (n < 2 ^ 28 → s.cycle - j.start + 1 < j.job.maxc → exec .overrun s = .next s)

/-- R279, R282, R288, R315: a queue's next record is taken when there is one: CI counts it, and it joins the launches as it was checked; a
producer index out of range stops the queue; a record with an excluded field ends with status 3, one past its deadline with status 2; while
a line of host memory that it needs is away, or the completion queue is full, none is taken. -/
def RecordsAreTaken : Prop :=
  ∀ (s s1 : State) (v q : Nat) (i : Iface),
    let d := i.queue q
    let p (n : Nat) : Prop := s.readPi v d.pia = (s1, .got ((d.ci + n) % 2 ^ 32)) ∧ n < 2 ^ 32 ∧ d.ci < 2 ^ 32
    let full := (d.ci + 2 ^ 32 - d.cci) % 2 ^ 32 = 2 ^ d.logn
    let going := d.en = true ∧ 4 ≤ d.logn ∧ d.logn ≤ 12 ∧ s.boot.ready = true ∧ s.admin.linkDown = false
    let va := d.ring + 64 * (d.ci % 2 ^ d.logn)
    s.cur = .agent v q 0 → s.iface v = some i →
    (d.en = false → exec .recordTake s = .next s)
    ∧ (going → p 0 → exec .recordTake s = .next s1)
    ∧ (∀ ln, going → s.readPi v d.pia = (s1, .away ln) → exec .recordTake s = .next s1)
    ∧ (∀ n, going → p n → 0 < n → n ≤ 2 ^ d.logn → full → exec .recordTake s = .next s1)
    ∧ (∀ n s2 ln, going → p n → 0 < n → n ≤ 2 ^ d.logn → ¬ full → s1.seqRead v va 64 = (s2, .error (.away ln)) → exec .recordTake s = .next s2)
    ∧ (∀ n, going → p n → 2 ^ d.logn < n → exec .recordTake s = .next (s1.modIface v fun i => i.setQueue q { i.queue q with en := false, err := true }))
    ∧ (∀ n s2 s3 r l j, going → p n → 0 < n → n ≤ 2 ^ d.logn → ¬ full → s1.seqRead v va 64 = (s2, .ok r) →
        s2.checked r (parseRecord r s1.launchNext v q d.ci s1.cycle) = (s3, some l) → s3.iface v = some j →
        ∃ t, exec .recordTake s = .next t
          ∧ t.launches = s3.launches ++ [if l.finished = false ∧ l.deadline ≠ 0 ∧ l.deadline ≤ s3.slotOf l.east then
              { l with status := 2, finished := true, stopSlot := s3.slotOf l.east } else l] ∧ t.launchNext = s3.launchNext + 1 ∧ t.mem = s3.mem
          ∧ ∃ j', t.iface v = some j' ∧ j'.queue q = { j.queue q with ci := (d.ci + 1) % 2 ^ 32 } ∧ ∀ o, o ≠ q → j'.queue o = j.queue o)
    ∧ (∀ r l, l.kind ≠ 3 → recordOk r l (8 * (s.arc l.vi).2) = false →
        s.checked r l = (s, some { l with status := 3, finished := true, stopSlot := s.slotOf l.east }))

/-- R283, R354: the keys by which a record issues before another, in their order: PRIO, the use of two time-sharing interfaces over their
shares, DEADLINE with 0 last, arrival, interface, queue, record number. -/
def issuesBefore (s : State) (a b : Launch) : Prop :=
  let dl (l : Launch) := if l.deadline = 0 then 2 ^ 64 else l.deadline
  let shared := (s.ifaceD a.vi).mode = 1 ∧ (s.ifaceD b.vi).mode = 1
  let use (l m : Launch) := s.useOf l.vi * (s.ifaceD m.vi).share
  a.prio < b.prio ∨ a.prio = b.prio ∧ ((shared ∧ use a b < use b a) ∨ (shared → use a b = use b a) ∧ (dl a < dl b ∨ dl a = dl b ∧ (a.arrival < b.arrival
    ∨ a.arrival = b.arrival ∧ (a.vi < b.vi ∨ a.vi = b.vi ∧ (a.queue < b.queue ∨ a.queue = b.queue ∧ a.num ≤ b.num)))))

/-- R283, R286, R288, R290, R327, R354: the sequencer of a die issues the chosen record: one that is eligible, and none of its die's eligible
ones comes before it by the keys, where these order them all (no interface time-shares, or each does); in that cycle it resumes none; a
prefix operation is applied next in the same cycle, a launch's braids are reserved and each task is delivered 81 cycles on, 24 more on the
other die; a record that names a fenced braid ends first, with status 4, whatever else it waits for; a launch over completes with its record and CPI's count. -/
def LaunchesIssueAndComplete : Prop :=
  ∀ (s : State) (d : Nat) (l : Launch),
    let east := d == 1
    let open_ := s.boot.gapTill east ≤ s.cycle
    let fenced (m : Launch) : Prop := m ∈ s.launches ∧ m.east = east ∧ m.issued = false ∧ m.finished = false ∧ ∃ b ∈ m.phys, (s.braid b).fencedOff = true
    let todo := s.todo.filter fun a => !decide (a = .event .launchResume (if east then 1 else 0) 0 0)
    (∀ east, s.chosen east = some l → l ∈ s.launches ∧ l.east = east ∧ s.eligible l = true
      ∧ (∀ m ∈ s.launches, m.east = east → s.eligible m = true → l.prio ≤ m.prio)
      ∧ (((∀ m ∈ s.launches, m.east = east → s.eligible m = true → (s.ifaceD m.vi).mode ≠ 1)
            ∨ ∀ m ∈ s.launches, m.east = east → s.eligible m = true → (s.ifaceD m.vi).mode = 1 ∧ 0 < (s.ifaceD m.vi).share) →
          ∀ m ∈ s.launches, m.east = east → s.eligible m = true → issuesBefore s l m))
    ∧ (∀ a b, s.ranks a b = true ↔ issuesBefore s a b)
    ∧ (s.eligible l = true → l.finished = false ∧ (l.issued = true → l.preempted = true)
      ∧ (l.release ≠ 0 → l.release ≤ s.slotOf l.east ∧ (l.release = s.slotOf l.east → (if l.east then s.clock.cycleE else s.clock.cycleW) + 9 ≤ s.cycle))
      ∧ (l.kind ≠ 3 → l.preempted = false → ∀ b ∈ l.phys, (s.braid b).b0.mode ≠ .running
          ∧ (s.braid b).b1.mode ≠ .running ∧ (s.braid b).reserved = none ∧ (s.braid b).taskQ = []))
    ∧ (s.cur = .agent d 0 0 → (∀ m, ¬ fenced m) → s.chosen east = none → exec .launchIssue s = .next s)
    ∧ (s.cur = .agent d 0 0 → (∀ m, ¬ fenced m) → s.chosen east = some l → l.issued = true ∨ ¬ open_ → exec .launchIssue s = .next s)
    ∧ (s.cur = .agent d 0 0 → (∀ m, ¬ fenced m) → s.chosen east = some l → open_ → l.issued = false → l.kind = 3 → (∃ ok, s.resOk l.vi l.res = some ok) →
        ∃ t, exec .launchIssue s = .next t
          ∧ t = { s with launches := t.launches, todo := .event (if l.op = 0 then .prefixLookup else if l.op = 1 then .prefixInsert else .prefixUnpin) l.uid 0 0 :: todo }
          ∧ ∀ u, t.launch u = if u = l.uid then (s.launch u).map (fun m : Launch => { m with issued := true, issueSlot := s.slotOf east }) else s.launch u)
    ∧ (s.cur = .agent d 0 0 → (∀ m, ¬ fenced m) → s.chosen east = some l → open_ → l.issued = false → l.kind = 0 → l.argp = 0 →
        ∃ t, exec .launchIssue s = .next t ∧ t = { s with launches := t.launches, braids := t.braids, todo }
          ∧ (∀ b, t.braid b = if b ∈ l.phys then { s.braid b with reserved := some l.uid } else s.braid b)
          ∧ ∀ u, t.launch u = if u = l.uid then (s.launch u).map (fun m : Launch =>
              { m with issued := true, issueSlot := s.slotOf east,
                       deliver := l.phys.map fun b => (b, s.cycle + 81 + if decide (48 ≤ b) = l.east then 0 else 24) })
              else s.launch u)
    ∧ (s.cur = .agent d 0 0 → fenced l → (∀ a ∈ s.launches, ∀ b ∈ s.launches, a.uid = b.uid → a = b) →
        ∃ t, exec .launchIssue s = .next t
          ∧ t.launch l.uid = some { l with status := 4, finished := true, stopSlot := s.slotOf l.east, deliver := [] })
    ∧ (s.cur = .agent l.uid 0 0 → s.launch l.uid = some l → s.launchOver l = false → exec .launchComplete s = .next s)
    ∧ (∀ s1 i, s.cur = .agent l.uid 0 0 → s.launch l.uid = some l → s.launchOver l = true →
        let q := (s.ifaceD l.vi).queue l.queue
        ({ s with launches := s.launches.filter fun m => m.uid != l.uid } : State).seqWrite l.vi (q.cring + 64 * (q.cpi % 2 ^ q.logn)) (completion l) = (s1, .ok ()) →
        s1.iface l.vi = some i →
        ∃ t, exec .launchComplete s = .next t ∧ t.mem = s1.mem ∧ t.launches = s1.launches
          ∧ ∃ j, t.iface l.vi = some j ∧ j.queue l.queue = { i.queue l.queue with cpi := ((i.queue l.queue).cpi + 1) % 2 ^ 32 })
    ∧ (l.num < 2 ^ 32 → l.status < 16 → l.kind < 4 → (completion l).length = 64 ∧ leNat ((completion l).take 4) = l.num
        ∧ leNat (((completion l).drop 4).take 4) = l.status + 16 * l.kind)

/-- R181, R182, R185, R186, R188, R190: an output sends its oldest eligible flit, which arrives one link latency later; a new packet takes
the next number of its flow; shared slots or the escape slot are counted off; an output with nothing to send does nothing. The head of the
control queue for the stop itself leaves it for delivery in the next cycle (the model's choice: log entry 39). -/
def OutputsSendTheOldestFlit : Prop :=
  ∀ (s : State) (stop dir z : Nat) (c : Cand),
    let k := c.key
    let l := s.link k
    let seq := tget 0 s.seqs (flowOf c.x.pkt)
    let popped := s.modBraid stop fun x => { x with ctlQ := x.ctlQ.drop 1, headAt := tput x.headAt 1 (s.cycle + 1) }
    s.cur = .agent stop dir z → stop ≠ 72 → dir < 2 →
    (∀ p r, dir = 0 → (s.braid stop).ctlQ = p :: r → p.dest = stop → p.ddev = s.cfg.dev → tget 0 (s.braid stop).headAt 1 ≤ s.cycle →
      oldest ((popped.later (s.cycle + 1) (packetEvent p)).cands stop dir) = none →
      exec .flitSend s = .next (popped.later (s.cycle + 1) (packetEvent p)))
    ∧ ((∀ p r, (s.braid stop).ctlQ = p :: r → p.dest ≠ stop) →
    (oldest (s.cands stop dir) = none → exec .flitSend s = .next s)
    ∧ (∀ cs, oldest cs = some c → c ∈ cs ∧ c.ok = true ∧ ∀ d ∈ cs, d.ok = true → d.x.before c.x = false)
    ∧ (oldest (s.cands stop dir) = some c → s.crossOf k = none → c.x.rank ≠ 0 → c.x.next = 0 → c.x.pkt.flits = 1 → c.x.pkt.ddev = s.cfg.dev →
        let p : Packet := { c.x.pkt with seq := seq }
        let x := s.braid stop
        ∃ t, exec .flitSend s = .next t ∧ t = { s with links := t.links, seqs := t.seqs, braids := t.braids }
          ∧ (t.link k).fly = l.fly ++ [(s.cycle + s.linkLat k, ⟨p, 0, c.x.esc, c.x.vc, true, 0⟩)] ∧ (∀ j, j ≠ k → t.link j = s.link j)
          ∧ (∀ f, tget 0 t.seqs f = if f = flowOf p then (seq + 1) % 4096 else tget 0 s.seqs f)
          ∧ (t.link k).sSh = (if c.x.esc then l.sSh else l.sSh - 1)
          ∧ (t.link k).sE0 = (if c.x.esc ∧ c.x.vc = 0 then l.sE0 - 1 else l.sE0) ∧ (t.link k).sE1 = (if c.x.esc ∧ c.x.vc ≠ 0 then l.sE1 - 1 else l.sE1)
          ∧ (t.braid stop).ctlQ = (if c.x.rank = 1 then x.ctlQ.drop 1 else x.ctlQ) ∧ (t.braid stop).sendQ = (if c.x.rank = 2 then x.sendQ.drop 1 else x.sendQ)
          ∧ (t.braid stop).memQ = (if c.x.rank = 3 then x.memQ.drop 1 else x.memQ) ∧ ∀ b, b ≠ stop → t.braid b = s.braid b)
    ∧ (oldest (s.cands stop dir) = some c → s.crossOf k = none → c.x.rank = 0 → k ∉ s.feeders stop dir →
        ∃ t, exec .flitSend s = .next t ∧ t = { s with links := t.links }
          ∧ (t.link k).fly = l.fly ++ [(s.cycle + s.linkLat k, ⟨c.x.pkt, c.x.next, c.x.esc, c.x.vc, true, 0⟩)]))

/-- R182, R185, R189: a flit that has arrived takes its slot in the receiving port, with its packet's next in line or, at its destination,
towards the packet's completion; one of bad parity is discarded, and with it the rest of its packet; a port delivers one complete packet,
whose number follows on. That an escape flit waits in its slot while another packet stands in its channel's buffer is DEDUCED (log entry
93); what becomes of the part of a dropped packet that has gone on is the model's choice (log entry 43). -/
def FlitsArriveAndPacketsAreDelivered : Prop :=
  ∀ (s : State) (stop k : Nat) (ccw : Bool) (l1 l2 : List (Nat × Flit)) (n : Nat) (f : Flit),
    let l := s.link k
    let dir := if ccw then 1 else 0
    let m := l.take f
    let last := f.idx + 1 = f.pkt.flits
    let here := s.ringDest f.pkt = s.linkTo k
    let onlyK (t : State) : Prop := t = { s with links := t.links } ∧ (∀ j, j ≠ k → t.link j = s.link j) ∧ (t.link k).fly = l1 ++ l2
    (s.feeders stop dir = [k] → l.fly = l1 ++ (n, f) :: l2 → (∀ e ∈ l1, s.cycle < e.1) → n ≤ s.cycle → f.hpOk = true → f.pkt ∉ l.dropping →
      (¬ here → ∃ t, exec (.flit stop ccw true) s = .next t ∧ onlyK t ∧ (t.link k).port = l.port ++ [{ f with head := s.cycle }]
          ∧ (t.link k).rSh = m.rSh ∧ (t.link k).rE0 = m.rE0 ∧ (t.link k).rE1 = m.rE1 ∧ (t.link k).complete = l.complete)
      ∧ (here → f.esc = false → ∃ t, exec (.flit stop ccw true) s = .next t ∧ onlyK t ∧ (t.link k).port = l.port ++ [f] ∧ (t.link k).rSh = m.rSh
          ∧ (last → (t.link k).complete = l.complete ++ [⟨f.pkt, s.cycle, none⟩]) ∧ (¬ last → (t.link k).complete = l.complete))
      ∧ (here → f.esc = true → (∃ g ∈ l.reasm f.vc, g.pkt ≠ f.pkt) → ∃ t, exec (.flit stop ccw true) s = .next t ∧ onlyK t ∧ (t.link k).port = l.port ++ [f]
          ∧ (t.link k).reasm0 = l.reasm0 ∧ (t.link k).reasm1 = l.reasm1 ∧ (t.link k).complete = l.complete)
      ∧ (here → f.esc = true → (∀ g ∈ l.reasm f.vc, g.pkt = f.pkt) → ∃ t, exec (.flit stop ccw true) s = .next t ∧ onlyK t ∧ (t.link k).port = l.port
          ∧ (t.link k).reasm0 = (if f.vc = 0 then l.reasm0 ++ [f] else l.reasm0) ∧ (t.link k).reasm1 = (if f.vc = 0 then l.reasm1 else l.reasm1 ++ [f])
          ∧ (last → (t.link k).complete = l.complete ++ [⟨f.pkt, s.cycle, some f.vc⟩]) ∧ (¬ last → (t.link k).complete = l.complete))
      ∧ ∃ u, exec (.flit stop ccw false) s = .next (u.ringError (s.linkTo k) 1) ∧ (u.link k).complete = l.complete
          ∧ (¬ last → onlyK u ∧ (u.link k).port = l.port ∧ (u.link k).dropping = f.pkt :: l.dropping)
          ∧ (last → u = { s with links := u.links } ∧ (∀ j, j ≠ k → u.link j = (s.link j).purge s.cycle f.pkt) ∧ (u.link k).dropping = l.dropping
              ∧ (u.link k).port = l.port.filter fun x => x.pkt != f.pkt))
    ∧ (s.feeders stop dir = [k] → l.fly = l1 ++ (n, f) :: l2 → (∀ e ∈ l1, s.cycle < e.1) → n ≤ s.cycle → f.pkt ∈ l.dropping →
        ∃ u, exec (.flit stop ccw true) s = .next u ∧ u = { s with links := u.links } ∧ (u.link k).complete = l.complete
          ∧ (¬ last → onlyK u ∧ (u.link k).port = l.port ∧ (u.link k).dropping = l.dropping) ∧ (last → f.pkt ∉ (u.link k).dropping))
    ∧ ((∀ j ∈ s.feeders stop dir, ∀ e ∈ (s.link j).fly, s.cycle < e.1) → exec (.flit stop ccw true) s = .next s)
    ∧ (∀ z, s.cur = .agent stop dir z → s.deliverable stop dir = none → exec .packetDelivery s = .next s)
    ∧ (∀ c, s.deliverable stop dir = some (k, c) → k ∈ s.feeders stop dir ∧ c ∈ l.complete ∧ c.tail < s.cycle
        ∧ ((c.pkt.typ = 0 ∨ c.pkt.typ = 4) → c.pkt.ddev = s.cfg.dev → (s.braid stop).ctlQ.length < 32))
    ∧ ∀ z c, s.cur = .agent stop dir z → s.deliverable stop dir = some (k, c) → tget 0 s.seen (flowOf c.pkt) = c.pkt.seq → c.pkt.ddev = s.cfg.dev →
        (∀ v, c.buf = some v → ∀ g ∈ l.port, g.esc = true → g.vc = v → s.ringDest g.pkt = stop → g.pkt = c.pkt) →
        ∃ t, exec .packetDelivery s = .next t ∧ t = { s with links := t.links, seen := t.seen, todo := packetEvent c.pkt :: s.todo }
          ∧ (∀ j, j ≠ k → t.link j = s.link j) ∧ (t.link k).complete = l.complete.filter (fun x => x != c)
          ∧ (t.link k).port = l.port.filter (fun x => x.pkt != c.pkt)
          ∧ (t.link k).rSh = (if c.buf = none then l.rSh + c.pkt.flits else l.rSh)
          ∧ ∀ g, tget 0 t.seen g = if g = flowOf c.pkt then (c.pkt.seq + 1) % 4096 else tget 0 s.seen g

/-- Two memories in canonical form that read alike at every address are equal. -/
def CanonicalMemoriesAreEqualWhenTheyReadAlike : Prop :=
  ∀ m n : Memory, Memory.wf m = true → Memory.wf n = true → (∀ a, tget 0 m a = tget 0 n a) → m = n

/-- R218, R228, R230, R232: a byte written to LPDDR6, through the L2 or under NA, keeps memory and L2s in order and stands under its writer's
key; the writer reads what it wrote there and the rest of the line as before, and every other line stands as before, wherever; what stands is
what a reader with its key finds, where the L2 has not filled the line for another. -/
def MemoryReadsAfterAWrite : Prop :=
  ∀ (s : State) (v pa a : Nat) (na : Bool) (b : Byte),
    let t := s.homeWrite v (fun _ => na) [(pa, b)]
    let ln := a / 64
    s.memOk →
    (isLpddr pa = true → t.memOk ∧ t.mem.stored pa = b ∧ t.mem.storedKey (pa / 64) = s.keyOf v ∧ t.homeByte v pa = b
      ∧ (ln = pa / 64 → a ≠ pa → t.homeByte v a = s.homeByte v a)
      ∧ (ln ≠ pa / 64 → t.mem.stored a = s.mem.stored a ∧ t.mem.storedKey ln = s.mem.storedKey ln))
    ∧ (thas s.mem.l2Data ln = thas s.mem.l2Key ln → s.mem.lpByte (s.mem.storedKey ln) a = s.mem.stored a)

end Sys2Proof.Claims

open Sys2Proof.Claims

/-- R88, R92, R93, R107: what the integer arithmetic of the control core writes, and that it writes nothing else. -/
def Obligations.AluWritesItsResult : Prop :=
  AluResults ∧ HighProductIsTheUpperHalf ∧ BitCountsAreCounts ∧ ImmediatesAndConstants

/-- R89: the four divisions, by zero, at the one signed overflow, and otherwise; no flag is touched. -/
def Obligations.DivisionOutcomes : Prop :=
  ∀ (s : State) (g : BitVec 4) (d a b : BitVec 5),
    let x := s.rS a
    let y := s.rS b
    (y = 0 → writes (.div g d a b) g 4 s d 0xFFFFFFFFFFFFFFFF ∧ writes (.rem g d a b) g 4 s d x
      ∧ writes (.divz g d a b) g 4 s d 0xFFFFFFFFFFFFFFFF ∧ writes (.remz g d a b) g 4 s d x)
    ∧ (y ≠ 0 → x = 0x8000000000000000 ∧ y = 0xFFFFFFFFFFFFFFFF →
        writes (.div g d a b) g 4 s d 0x8000000000000000 ∧ writes (.rem g d a b) g 4 s d 0)
    ∧ (y ≠ 0 → ¬(x = 0x8000000000000000 ∧ y = 0xFFFFFFFFFFFFFFFF) →
        ∃ q r : Word64, writes (.div g d a b) g 4 s d q ∧ writes (.rem g d a b) g 4 s d r
          ∧ q.toInt = x.toInt.tdiv y.toInt ∧ r.toInt = x.toInt - y.toInt * x.toInt.tdiv y.toInt)
    ∧ (y ≠ 0 →
        ∃ q r : Word64, writes (.divz g d a b) g 4 s d q ∧ writes (.remz g d a b) g 4 s d r
          ∧ q.toNat = x.toNat / y.toNat ∧ r.toNat = x.toNat - y.toNat * (x.toNat / y.toNat))

/-- R90, R91: shift amounts, and the bit fields of a control word. -/
def Obligations.ShiftsAndBitFields : Prop :=
  ShiftsUseSixBits ∧ BitFieldsByPositionAndWidth

/-- Compares and predicate instructions: one predicate, and nothing else. -/
def Obligations.ComparesAndPredicates : Prop :=
  ComparesWriteOnePredicate ∧ PredicateLogic

/-- The scalar floating-point instructions: results and flags, and the order of FP32 words. Model's readings: a zero difference under .rdn is −0
(log entry 13), and a nonzero value that rounds to 0 is tiny (log entry 14). -/
def Obligations.ScalarFloatingPoint : Prop :=
  ScalarFpResults ∧ FloatOrderIsSignAndMagnitude

/-- FCVT: integer to integer, and with a floating-point format on either side. That a nonzero value that rounds to 0 is tiny is the model's
reading (log entry 14). -/
def Obligations.FormatConversions : Prop :=
  IntegerConversionsTakeTheLowBits ∧ ConversionsWithAFloat

/-- Loads and stores that stay in braid SRAM. -/
def Obligations.LocalLoadsAndStores : Prop :=
  LocalLoadsReadTheirBytes ∧ LocalStoresWriteTheirBytesOnly

/-- LDF, STE, MBCLR and MBSTAT. -/
def Obligations.MailboxWords : Prop :=
  MailboxAddressFaults ∧ MailboxWordsFillAndEmpty

/-- A load of device memory: the request, and the byte of the line that comes. Model's choices: which of several allowed values a byte takes is
free (log entry 11), and the request waits in the model's memory queue (log entry 38). -/
def Obligations.FarLoads : Prop :=
  FarLoadsAskTheirHomeSlices ∧ FarLoadsReadWhatTheyMaySee ∧ FarStoresAreOwnWrites ∧ StoresSpillAndReadBack

/-- The AMO operations, the reductions, their checks in order, and the two fences. What a fence covers for copies, and that a RED.cfadd takes
one place of the queue, are the model's readings (log entries 12 and 59). -/
def Obligations.AtomicsAndFences : Prop :=
  AmoRequestsAndRetires ∧ ReductionsQueueOneEntry ∧ AtomicChecksInOrder ∧ FencesMarkOwnBytes

/-- R103, R104, R107: the branches go to the pc plus the signed offset in parcels, JALR to rs1 (read before the link is written) plus it;
JAL and JALR write the address of the next instruction, zero-extended; a false guard falls through and writes no link. -/
def Obligations.BranchesAndLinks : Prop :=
  ∀ (s : State) (g : BitVec 4) (d a : BitVec 5) (off : BitVec 21) (imm off11 : BitVec 11),
    let pc := s.myCtx.pc
    let link : Word64 := (pc + 4).setWidth 64
    let dest (o : Addr) : Addr := pc + (o <<< 1)
    jumps (.br g off) g 4 s (dest (off.signExtend 48)) 0 0 ∧ jumps (.jal g off) g 4 s (dest (off.signExtend 48)) 1 link
    ∧ jumps (.jalr g d a imm) g 4 s ((s.rS a + (imm.signExtend 64 <<< 1)).setWidth 48) d link
    ∧ jumps (.cBr off11) 0 2 s (dest (off11.signExtend 48)) 0 0

/-- R124, R125, R127, R107: QPUT, QGET, FMT, LPW and their short forms: the effect where the context may issue them and the queue
allows it, the wait where it does not, and the illegal-encoding fault in any other context. -/
def Obligations.QueueInstructions : Prop :=
  ∀ (s : State) (g : BitVec 4) (q : BitVec 3) (d a : BitVec 5) (lp : BitVec 4),
    let c := asX s.me.2.2
    let v := s.rS a
    ((c, q.toNat) ∈ putters → puts (.qput g q a) g 4 q.toNat v s ∧ puts (.cQput q a) 0 2 q.toNat v s)
    ∧ ((c, q.toNat) ∉ putters → unassigned (.qput g q a) s ∧ unassigned (.cQput q a) s)
    ∧ ((c, q.toNat) ∈ takers → ∀ e r, s.myBank.queueStart q.toNat ≠ [] → s.myBank.queue q.toNat = e :: r →
        let got (n : Nat) (t : State) : Prop :=
          onlyCtxOf s t { s.myBank with q := tput s.myBank.q q.toNat r } ∧ wroteS s t d e ∧ keptP s t ∧ retired s t n
        completes (.qget g d q) g 4 s (got 4) ∧ completes (.cQget d q) 0 2 s (got 2))
    ∧ ((c, q.toNat) ∈ takers → s.myBank.queueStart q.toNat = [] → waits (.qget g d q) g s ∧ waits (.cQget d q) 0 s)
    ∧ ((c, q.toNat) ∉ takers → unassigned (.qget g d q) s ∧ unassigned (.cQget d q) s)
    ∧ (c = .X → puts (.fmt g a) g 4 8 v s)
    ∧ (c = .X →
        let wrote (n : Nat) (t : State) : Prop :=
          onlyCtxOf s t { s.myBank with lp := tset 0 s.myBank.lp lp.toNat (v.setWidth 32) } ∧ keptS s t ∧ keptP s t ∧ retired s t n
        completes (.lpw g lp a) g 4 s (wrote 4) ∧ completes (.cLpw lp a) 0 2 s (wrote 2))
    ∧ (c ≠ .X → unassigned (.fmt g a) s ∧ unassigned (.lpw g lp a) s ∧ unassigned (.cLpw lp a) s)

/-- Jobs and copy commands are queued and awaited. -/
def Obligations.JobsAndCopiesAreQueued : Prop :=
  JobsAreQueuedAndAwaited ∧ CopiesAreQueuedAndAwaited

/-- Reeve commands and the state instructions. -/
def Obligations.ReeveAndFrameInstructions : Prop :=
  ReeveCommandsAreQueued ∧ StateInstructions

/-- Commits, barriers, tasks, gains and the hash of X. -/
def Obligations.CommitsBarriersAndHeaps : Prop :=
  CommitsAndBarriers ∧ HeapTasksAndHashing

/-- R311, R309: TRAP with a handler and no trap under way saves the return address, the code and the context, copies s2 to s13 into a
zeroed T that starts at the handler; without a handler, or while T runs, it is the unhandled-trap fault. RTE gives s2 and s3 back and
resumes the trapping context at cr.TPC; while SAVED it is the trap-state fault. -/
def Obligations.TrapAndReturn : Prop :=
  ∀ (s : State) (g : BitVec 4) (code : BitVec 10) (y : Task),
    let k := s.myBank
    let c := s.me.2.2
    let back : CtxId := if k.tctx = 0 then .L else if k.tctx = 1 then .X else .S
    s.myCtx.getP g = true → k.task = some y →
    (c ≠ .T → k.tActive = false → y.tvec ≠ 0 → ∃ t, exec (.trap g code) s = .next t ∧ onlyBank s t
      ∧ t.myBank.tpc = s.myCtx.pc + 4 ∧ t.myBank.tcode = code ∧ t.myBank.tctx = (if c = .L then 0 else if c = .X then 1 else 2)
      ∧ t.myBank.tActive = true ∧ t.myBank.tSaved = k.tSaved ∧ keptS s t ∧ keptP s t ∧ t.myCtx.pc = s.myCtx.pc
      ∧ t.myBank.t.pc = y.tvec &&& ~~~1#48 ∧ t.myBank.t.run = true ∧ (∀ p : BitVec 4, t.myBank.t.getP p = decide (p = 0))
      ∧ (∀ r : BitVec 5, t.myBank.t.getS r = if 2 ≤ r.toNat ∧ r.toNat ≤ 13 then s.rS r else 0)
      ∧ (∀ d, d ≠ c → d ≠ .T → t.myBank.ctx d = k.ctx d))
    ∧ (k.tActive = true ∨ y.tvec = 0 → faultsWith (.trap g code) g s 24 0 false)
    ∧ (c = .T → k.tSaved = false → ∃ t, exec (.rte g) s = .next t ∧ onlyBank s t
      ∧ t.myBank.tActive = false ∧ t.myBank.t.run = false ∧ (t.myBank.ctx back).pc = k.tpc &&& ~~~1#48
      ∧ (∀ r : BitVec 5, (t.myBank.ctx back).getS r = if r = 2 ∨ r = 3 then k.t.getS r else (k.ctx back).getS r)
      ∧ (∀ p, (t.myBank.ctx back).getP p = (k.ctx back).getP p) ∧ (∀ d, d ≠ back → d ≠ .T → t.myBank.ctx d = k.ctx d))
    ∧ (c = .T → k.tSaved = true → faultsWith (.rte g) g s 23 0 false)

/-- R105, R26, R310: CRR writes the named register to rd, cr.DOM and cr.VI by the model's layout of R193 and R352; CRW writes cr.FLAGS and
cr.WARN at the end of the cycle, where a bit set in the cycle wins, writes cr.TPC in T, and changes no other register; numbers 17 to 20
outside T are the illegal-encoding fault in both. -/
def Obligations.ControlRegistersReadAndWrite : Prop :=
  ∀ (s : State) (g : BitVec 4) (d n a : BitVec 5),
    let k := s.myBank
    let mine := s.me.2.2 = .T ∨ ¬(17 ≤ n.toNat ∧ n.toNat ≤ 20)
    let with_ (kb : Bank) : Prop := completes (.crw g n a) g 4 s fun t => onlyCtxOf s t kb ∧ keptS s t ∧ keptP s t ∧ retired s t 4
    (mine → n.toNat ≠ 6 → n.toNat ≠ 9 → completes (.crr g d n) g 4 s fun t => result s t 4 d (BitVec.ofNat 64 (controlReg s n.toNat)))
    ∧ (n = 6 → completes (.crr g d n) g 4 s fun t => result s t 4 d (BitVec.ofNat 64 (s.domReg s.me.1 s.me.2.1)))
    ∧ (n = 9 → completes (.crr g d n) g 4 s fun t => result s t 4 d (BitVec.ofNat 64 (s.viReg k.vi s.me.1)))
    ∧ (n = 4 → with_ { k with flagWrite := some ((s.rS a).setWidth 5) }) ∧ (n = 5 → with_ { k with warnWrite := some ((s.rS a).setWidth 12) })
    ∧ (n = 17 → s.me.2.2 = .T → with_ { k with tpc := (s.rS a).setWidth 48 })
    ∧ (mine → n ≠ 4 → n ≠ 5 → n ≠ 17 → with_ k)
    ∧ (¬ mine → unassigned (.crr g d n) s ∧ unassigned (.crw g n a) s)
    ∧ k.settle.flags = (match k.flagWrite with
      | some v => v
      | none => k.flags) ||| k.flagSets
    ∧ k.settle.warn = (match k.warnWrite with
      | some v => v
      | none => k.warn) ||| k.warnSets

/-- Saving and restoring in T, giving way, halting, doing nothing. -/
def Obligations.SaveRestoreYieldHaltAndNop : Prop :=
  SaveRestoreAndYield ∧ HaltAndNop

/-- The one operation that takes a fault, in both its classes. What of the faulting cycle stands, and when the checkpoint was taken, are the
model's readings (log entries 48 and 73). -/
def Obligations.TakingAFault : Prop :=
  TakingADiscardFault ∧ OneFaultOfACycleIsTaken ∧ TakingAResumableFault

/-- Where an instruction is not assigned to its context, or an encoding to no instruction. -/
def Obligations.UnassignedInstructions : Prop :=
  InstructionsOfOtherContexts ∧ IllegalEncodingsFault

/-- R71, R72, R113, R114, R132: IDLE n takes n + 1 issue cycles; JOIN marks the strand done with its job; BLK opens the body of the next
nesting level for its count of passes, or with a count of 0 goes on behind the body; at a body's end the next pass begins. -/
def Obligations.StrandControl : Prop :=
  ∀ (s : State) (b k n : Nat) (cnt : BitVec 10) (depth : BitVec 3) (rsrc : Bool) (len : BitVec 10) (rep : BitVec 12),
    let t0 := s.strand b k
    let first := t0.opPc + 4
    let stop := first + 2 * len.toNat
    let fits := depth.toNat = t0.nest.length + 1 ∧ ∀ o r, t0.nest = o :: r → stop ≤ o.stop
    let count := if rsrc then (match openJob s b k n with
      | some j => (tget 0 j.lpImage (rep.toNat % 16)).toNat
      | none => 0) else rep.toNat + 1
    opAt s b k n →
    (∃ t, exec (.idle cnt) s = .next t ∧ (if t0.q = cnt.toNat then opEnds s t b k 1 else opStays s t b k) ∧ opEmits s t b k n [])
    ∧ (∃ t, exec .join s = .next t ∧ opEnds s t b k 1 ∧ opEmits s t b k n []
        ∧ ∀ j, openJob s b k n = some j → ∃ j', openJob t b k n = some j' ∧ j'.joined = k :: j.joined ∧ j'.start = j.start)
    ∧ (fits → ∃ t, exec (.blk depth rsrc len rep) s = .next t ∧ opKept s t b k ∧ opEmits s t b k n []
        ∧ (count = 0 → t.strand b k = t0.leave stop)
        ∧ (0 < count → 0 < len.toNat → (t.strand b k).nest = ⟨first, stop, count - 1⟩ :: t0.nest ∧ (t.strand b k).pc = first ∧ (t.strand b k).op = none))
    ∧ (¬ fits → opFaults (.blk depth rsrc len rep) s b k 1 0 false)
    ∧ (∀ o r pc, o.stop ≠ pc → unwind (o :: r) pc = (o :: r, pc)) ∧ (∀ o r, 0 < o.left → unwind (o :: r) o.stop = ({ o with left := o.left - 1 } :: r, o.start))
    ∧ (∀ o r, o.left = 0 → unwind (o :: r) o.stop = unwind r o.stop) ∧ ∀ pc, unwind [] pc = ([], pc)

/-- R160, R163: VADD, VSUB, VMUL, VFMA, VMIN and VMAX, lane by lane in FP32 or two BF16 halves, each one rounding; register and track sources
and destinations, any mask. An empty beat, or two markers that differ, is the stream-shape fault. Model's readings: a zero difference under
.rdn is −0, in VSUB too (log entry 13), and a nonzero value that rounds to 0 is tiny (log entry 14). -/
def Obligations.VectorArithmetic : Prop :=
  ∀ (s : State) (b n : Nat) (f : VxFrame) (av bv : List Word32) (ma mb m : Option Bool),
    let c := vxAddend s b f.d
    let does (i : Instr) (g : BinFmt → Rounding → Nat → Nat → Nat → Nat × FlagSet) : Prop :=
      vxDone i 6 f s b n m fun l => halved s b n f g l (wordAt av l) (wordAt bv l) (wordAt c l)
    let two (i : Instr) (g : BinFmt → Rounding → Nat → Nat → Nat × FlagSet) : Prop :=
      vxDone i 6 f s b n m fun l => halved s b n f (fun x r p q _ => g x r p q) l (wordAt av l) (wordAt bv l) 0
    opAt s b 3 n → vxSource s b f.a av ma → vxSource s b f.b bv mb →
    (vxMarks ma mb m → vxFree s b f.d 6 →
      two (.vadd f) (fun x r p q => x.round r (Fp.sum (r.mode == .rdn) [x.decode p, x.decode q]))
      ∧ two (.vsub f) (fun x r p q => x.round r (Fp.sum (r.mode == .rdn) [x.decode p, (x.decode q).neg]))
      ∧ two (.vmul f) (fun x r p q => x.round r ((x.decode p).mul (x.decode q)))
      ∧ does (.vfma f) (fun x r p q z => x.round r (Fp.sum (r.mode == .rdn) [(x.decode p).mul (x.decode q), x.decode z]))
      ∧ two (.vmin f) (fun x _ p q => (minmax false x p q, 0)) ∧ two (.vmax f) (fun x _ p q => (minmax true x p q, 0)))
    ∧ (∀ x y, ma = some x → mb = some y → x ≠ y → opFaults (.vadd f) s b 3 2 0 false ∧ opFaults (.vfma f) s b 3 2 0 false
        ∧ opFaults (.vcmp f) s b 3 2 0 false ∧ opFaults (.vsel f) s b 3 2 0 false ∧ opFaults (.vhist f) s b 3 2 0 false)

/-- The other lanewise VX operations, and the functions at their special values. Model's readings: the functions are computed to the bits of log
entry 30; a nonzero value that rounds to 0 is tiny (log entry 14); a zero sum under .rdn is −0 (log entry 13). -/
def Obligations.VectorOperations : Prop :=
  VectorOpsOfOneSource ∧ VectorOpsOfTwoSources ∧ VectorFunctionsAtSpecialValues

/-- R54, R169, R147, R173: VRED.sum, plain or as a compensated pair, and VRED.max send the root of the tree to every lane in cycle c + 10, with
the flags that its nodes and the last rounding raise; VCHK compares the Stopper signature with its constant and raises the mismatch in cycle
c + 6. VCHK's PR and RND are not among the fields that must be 0 (model's reading: log entry 79). -/
def Obligations.VectorReductionsAndCheck : Prop :=
  ∀ (s : State) (b n : Nat) (f : VxFrame) (av : List Word32) (m : Option Bool) (pr : Bool) (rnd : BitVec 3) (k : BitVec 32),
    let r := vxRounding s b n f
    let root {α : Type} (d : α) (node : Nat → α → α → α) (x : Nat → α) : α :=
      let t := treeLevel d node 6 3 (treeLevel d node 5 6 (treeLevel d node 4 12 (treeLevel d node 3 24 (treeLevel d node 2 48 (treeLevel d node 1 96 x)))))
      node 1344 (node 1152 (t 0) (t 1)) (t 2)
    let all (i : Instr) (w : Word32 × FlagSet) : Prop := vxFree s b f.d 10 → vxDone i 10 f s b n m fun _ => w
    let join {α : Type} (node : Nat → α → α → α × FlagSet) (i : Nat) (p q : α × FlagSet) : α × FlagSet :=
      ((node i p.1 q.1).1, p.2 ||| q.2 ||| (node i p.1 q.1).2)
    let sums := root (0, 0) (join fun i p q => roundW (r i) (Fp.sum ((r i).mode == .rdn) [valW p, valW q])) fun l => (wordAt av l, 0)
    let pairs := root (⟨0, 0⟩, 0) (join fun _ p q => pairNode p q) fun l => (⟨wordAt av l, 0⟩, 0)
    let last := roundW (r 1536) (Fp.sum ((r 0).mode == .rdn) [valW pairs.1.hi, valW pairs.1.lo])
    opAt s b 3 n →
    (vxSource s b f.a av m →
      (f.fn.getLsbD 0 = false → all (.vredSum f) sums)
      ∧ (f.fn.getLsbD 0 = true → all (.vredSum f) (last.1, pairs.2 ||| last.2))
      ∧ all (.vredMax f) (root 0 (fun _ p q => fMax p q) (wordAt av), 0))
    ∧ (∃ t, exec (.vchk pr rnd k) s = .next t ∧ opEnds s t b 3 4
        ∧ opEmits s t b 3 n [(s.cycle + 6, 0, if (s.braid b).regs.stopper = k then .nothing else .mismatch)])

/-- The MX ops around the tile commands. -/
def Obligations.MatrixZeroStopperAndBuffers : Prop :=
  MatrixZeroAndStopper ∧ MatrixBufferLoads

/-- R53, R146, R155, R263: MDRAIN sends the accumulator, as it stands in the op's first cycle, by its drain record, a beat each cycle, to a
track, to a stream of SRAM, or to the tile of a copy channel, two cycles later, with the flags its elements raise. Where and on which format
WARN bit 11 is set is the model's choice (log entry 96). -/
def Obligations.MatrixDrains : Prop :=
  ∀ (s : State) (b n : Nat) (acc trk ch : BitVec 2) (spb : BitVec 3) (pair : Bool) (p : Spb),
    let x := s.braid b
    let r := tget {} x.regs.drain acc.toNat
    let f := r.eff
    let q := (s.strand b 1).q
    let e := acc.toNat / 2 * 2
    let held := if q ≠ 0 then (s.strand b 1).held
      else if pair then tileWords (tget [] x.regs.acc e) ++ tileWords (tget [] x.regs.acc (e + 1)) else tileWords (tget [] x.regs.acc acc.toNat)
    let last := q + 1 == drainBeats f
    let per := r.count / drainBeats f
    let vs := (List.range per).map fun j => (drainElement r pair held (q * per + j)).1
    let goes (i : Instr) (eff : Eff) : Prop := ∃ t fl, exec i s = .next t
      ∧ (∀ z, fl.getLsbD z = true ↔ ∃ j < per, (drainElement r pair held (q * per + j)).2.getLsbD z = true) ∧ (if last then opEnds s t b 1 2 else opStays s t b 1 ∧ (t.strand b 1).held = held)
      ∧ opEmits s t b 1 n [(s.cycle + 2, fl, eff)]
    opAt s b 1 n →
    goes (.mdrainTrk acc trk pair) (.track trk.toNat (drainLanes f vs) last (BitVec.allOnes 192))
    ∧ (streamNow s b 1 n spb.toNat 0 0 p → (q = 0 → p.fmt = f ∧ p.count = r.count) → mayTouch s b 1 n true p (q * per) per →
        goes (.mdrainSpd acc spb pair) (.sram (((List.range per).map fun j => p.write (q * per + j) (vs.getD j 0)).flatten) false))
    ∧ ((q = 0 → ((s.bank b (s.strand b 1).bank).chan ch.toNat).tile = none) →
        goes (.mdrainCp acc ch pair) (.drain ch.toNat ((vs.map (natLe (fmtWidth f / 8))).flatten) last))
    ∧ (q = 0 → ((s.bank b (s.strand b 1).bank).chan ch.toNat).tile.isSome = true → opFaults (.mdrainCp acc ch pair) s b 1 3 0 false)

/-- R36 to R39, R76, R79, R136 to R142, R155: a tile command's issue cycle takes one step for each of 32 rows and 192 (complex: 96) columns
on the words it holds, with the block scales of its operands; its first cycle takes the next reserved format word of queue 8, writes the
drain records, and begins from +0 or from the chained accumulator; its last cycle ends the op and writes the accumulator, or the pair, ten
cycles later, chained at once. -/
def Obligations.TileCommandsAccumulate : Prop :=
  ∀ (s : State) (b n : Nat) (acc : BitVec 2) (aop bop : BitVec 3) (k : BitVec 14) (comp fz ca cb : Bool),
    let x := s.braid b
    let st := s.strand b 1
    let kb := s.bank b st.bank
    let q := st.q
    let does (i : Instr) (o : TileOp) : Prop := ∀ (w : FmtWord) (va vb : Nat → Nat → Nat) (xa xb : Nat → Nat),
      let fits := o.admits.contains w.afmt && o.admits.contains w.bfmt
      let fa := if fits then w.afmt else o.fa
      let fb := if fits then w.bfmt else o.fb
      let scales (f bit : Nat) : Bool := w.scale.testBit bit && (f == 3 || f == 4 || f == 5)
      let sa := scales fa 0
      let sb := scales fb 1
      let kpc := if o.cplx then 1 else if (fa = 3 ∨ fa = 4) ∧ (fb = 3 ∨ fb = 4) then 4 else 2
      let cycles := (o.k + kpc - 1) / kpc
      let last := q + 1 == cycles
      let np := min kpc (o.k - q * kpc)
      let wd := if o.cplx then 2 else 1
      let cols := if o.cplx then 96 else 192
      let hiAcc := if o.comp then o.acc / 2 * 2 else o.acc
      let loAcc := if o.comp then o.acc / 2 * 2 + 1 else o.acc
      let wbs := if q = 0 then x.regs.wb else st.wbAt
      let cbs := if q = 0 then x.regs.cb else st.cbAt
      let held := if q ≠ 0 then st.held else if w.accm then List.replicate (if o.comp then 12288 else 6144) 0
        else tileWords (tget [] x.chain hiAcc) ++ if o.comp then tileWords (tget [] x.chain loAcc) else []
      let book := tget [] cbs w.cbslot
      let scaled (on : Bool) (c : Nat) (l : List Fp) : List Fp := if on then l.map fun v => v.mul (scaleValue c) else l
      let row (r : Nat) : List Fp := scaled sa (xa r) (laneValues fa o.cplx o.fz book none ((List.range np).map (va r)))
      let col (c : Nat) : List Fp := scaled sb (xb c) (laneValues fb o.cplx o.fz book none ((List.range np).map (vb c)))
      let step (r c : Nat) := stepParts o.comp o.fz (stepTerms o.cplx o.conja o.conjb (row r) (col c))
        ((List.range wd).map fun j => held.getD (192 * r + wd * c + j) 0) ((List.range wd).map fun j => held.getD (6144 + 192 * r + wd * c + j) 0)
      let rec_ : DrainRec := { w.rec_ with cplx := o.cplx }
      (if q = 0 then (∃ e, reservedEntry s b 1 n 8 0 = some e ∧ parseFmtWord e.toNat = some w)
          ∧ operandOpens s b n o.aop fa 32 o.k cycles true sa ∧ operandOpens s b n o.bop fb cols o.k cycles false sb
        else parseFmtWord st.fw = some w) →
      held.length = (if o.comp then 12288 else 6144) →
      tileBits s b n q o.aop fa 32 kpc np last wbs va → tileBits s b n q o.bop fb cols kpc np last wbs vb →
      (sa = true → tileScales s b n q o.aop true 32 kpc st.scaleA xa) → (sb = true → tileScales s b n q o.bop false cols kpc st.scaleB xb) →
      ∃ t hi lo fl, exec i s = .next t
        ∧ (∀ r < 32, ∀ c < cols, ∀ j < wd, wordAt hi (192 * r + wd * c + j) = (step r c).1.getD j 0
            ∧ (o.comp = true → wordAt lo (192 * r + wd * c + j) = (step r c).2.1.getD j 0))
        ∧ (∀ z, fl.getLsbD z = true ↔ q ≠ 0 ∧ st.heldFlags.getLsbD z = true ∨ ∃ r < 32, ∃ c < cols, (step r c).2.2.getLsbD z = true)
        ∧ (last = false → opStays s t b 1 ∧ opEmits s t b 1 n [] ∧ (t.strand b 1).held = hi ++ (if o.comp then lo else []) ∧ (t.strand b 1).heldFlags = fl
            ∧ parseFmtWord (t.strand b 1).fw = some w ∧ (t.strand b 1).wbAt = wbs ∧ (t.strand b 1).cbAt = cbs
            ∧ (sa = true → ∀ r < 32, (t.strand b 1).scaleA.getD r 0 = xa r) ∧ (sb = true → ∀ c < cols, (t.strand b 1).scaleB.getD c 0 = xb c)
            ∧ (t.braid b).chain = x.chain)
        ∧ (last = true → opEnds s t b 1 2 ∧ opEmits s t b 1 n ((accAt s b hiAcc 10, fl, .acc hiAcc hi) ::
              if o.comp then [(accAt s b loAcc 10, 0, .acc loAcc lo)] else [])
            ∧ ∀ a, tget [] (t.braid b).chain a = if o.comp = true ∧ a = loAcc then lo else if a = hiAcc then hi else tget [] x.chain a)
        ∧ (∀ a, tget {} (t.braid b).regs.drain a = if q = 0 ∧ (a = hiAcc ∨ a = loAcc) then rec_ else tget {} x.regs.drain a)
        ∧ (t.bank b st.bank).queue 8 = (if q = 0 then (kb.queue 8).eraseIdx (heldBefore 8 st.bank n x.jobsOpen) else kb.queue 8)
        ∧ (∀ z, (t.bank b st.bank).warnSets.getLsbD z = true ↔ kb.warnSets.getLsbD z = true ∨ q = 0
            ∧ (z = 5 ∧ fits = false ∨ z = 6 ∧ (w.scale.testBit 0 = true ∧ sa = false ∨ w.scale.testBit 1 = true ∧ sb = false)
              ∨ z = 7 ∧ o.comp = true ∧ o.acc % 2 = 1))
    let mma (f g : Nat) (l : List Nat) : TileOp := ⟨acc.toNat, aop.toNat, bop.toNat, k.toNat + 1, comp, fz, false, false, false, f, g, l⟩
    let cmma (f : Nat) : TileOp := ⟨acc.toNat, aop.toNat, bop.toNat, k.toNat + 1, comp, fz, true, ca, cb, f, f, [f]⟩
    opAt s b 1 n →
    does (.mmaBf16 acc aop bop k comp fz) (mma 1 1 [1]) ∧ does (.mmaFp16 acc aop bop k comp fz) (mma 2 2 [2])
    ∧ does (.mmaFp8e4 acc aop bop k comp fz) (mma 3 3 [3, 4]) ∧ does (.mmaFp8e5 acc aop bop k comp fz) (mma 4 4 [3, 4])
    ∧ does (.mmaCb4 acc aop bop k comp fz) (mma 1 5 [1, 5]) ∧ does (.cmmaCbf16 acc aop bop k comp fz ca cb) (cmma 11)
    ∧ does (.cmmaCfp16 acc aop bop k comp fz ca cb) (cmma 12)
    ∧ (q = 0 → reservedEntry s b 1 n 8 0 = none → opFaults (.mmaBf16 acc aop bop k comp fz) s b 1 4 0 false
        ∧ opFaults (.cmmaCfp16 acc aop bop k comp fz ca cb) s b 1 4 0 false)
    ∧ (∀ e, q = 0 → reservedEntry s b 1 n 8 0 = some e → parseFmtWord e.toNat = none → opFaults (.mmaCb4 acc aop bop k comp fz) s b 1 1 0 false)

/-- R157, R174 to R177, R209, R211, R216: LDT and LDB drive a run of their stream each cycle, four cycles later, LDB's half-aware; LDX reads a
run of indices and gathers two cycles later; LDC sends a word to every lane; LDM takes six full windows of the mailbox and empties them.
Where both streams of LDX take their base from the queue, the index stream takes the first entry (model's choice: log entry 89). Which byte
of a refused access is named is the model's reading (log entry 46). -/
def Obligations.LoadStrandReadsItsStreams : Prop :=
  ∀ (s : State) (b n : Nat) (trk : BitVec 2) (spb dspb : BitVec 3) (addr : BitVec 24) (win : BitVec 13) (p d : Spb),
    let x := s.braid b
    let q := (s.strand b 0).q
    let all := BitVec.allOnes 192
    let goes (i : Instr) (last : Bool) (e : Nat × FlagSet × Eff) : Prop := ∃ t, exec i s = .next t
      ∧ (if last then opEnds s t b 0 2 else opStays s t b 0) ∧ opEmits s t b 0 n [e]
    let run (f : Nat → Byte) : List Word32 := packRun p.width ((List.range p.run).map fun j => p.read f (q * p.run + j))
    let a := addr.toNat
    let ws := (List.range 192).map fun j => 32 * win.toNat + j
    opAt s b 0 n →
    (streamNow s b 0 n spb.toNat 0 0 p → (q = 0 → p.run * p.width ≤ 6144) →
      (mayRead s b 0 n x id p (q * p.run) p.run →
        goes (.ldt trk spb) (q + 1 == p.runs) (s.cycle + 4, 0, .track trk.toNat (run x.sramAt) (q + 1 == p.runs) all))
      ∧ (mayRead s b 0 n x (x.awareAddr (s.strand b 0).bank) p (q * p.run) p.run → goes (.ldb trk spb) (q + 1 == p.runs) (s.cycle + 4, 0, .track trk.toNat (run (x.awareAt (s.strand b 0).bank)) (q + 1 == p.runs) all)))
    ∧ (streamNow s b 0 n spb.toNat 0 0 p → streamNow s b 0 n dspb.toNat 1 (if spb = 7 ∧ dspb = 7 then 1 else 0) d → (q = 0 → p.fmt = 9 ∧ p.run ≤ 192 ∧ d.width ≤ 32) →
      mayRead s b 0 n x id p (q * p.run) p.run → ∃ img, parseSpb img = some d
        ∧ goes (.ldx trk spb dspb) (q + 1 == p.runs)
            (s.cycle + 2, 0, .gather trk.toNat img ((List.range p.run).map fun j => BitVec.ofNat 32 (p.read x.sramAt (q * p.run + j))) (q + 1 == p.runs)))
    ∧ (inMail (a + 3) = false → (∀ j, openJob s b 0 n = some j → ∀ i < 4, inScratch (a + i) = true →
          ∃ r ∈ j.job.regions, regionHit r (a + i - Config.scratchBase) false = true) → (∀ i < 4, a + i ∉ x.bad) →
      goes (.ldc trk addr) true (s.cycle + 4, 0, .track trk.toNat (List.replicate 192 (BitVec.ofNat 32 (leNat (x.sramRead a 4)))) true all))
    ∧ (inMail (a + 3) = true → opFaults (.ldc trk addr) s b 0 7 a false)
    ∧ ((∀ w ∈ ws, tget false x.fullStart w = true ∧ x.taken.contains w = false) → ∃ t, goes (.ldm trk win) true (s.cycle + 4, 0,
          .track trk.toNat (ws.map fun w => BitVec.ofNat 32 (leNat (x.sramRead (0xB00000 + 4 * w) 4))) true all)
        ∧ exec (.ldm trk win) s = .next t ∧ (∀ w, tget false (t.braid b).full w = if w ∈ ws then false else tget false x.full w))
    ∧ (¬ (∀ w ∈ ws, tget false x.fullStart w = true ∧ x.taken.contains w = false) → opFaults (.ldm trk win) s b 0 2 0 false)

/-- The ops of the store strand. Model's choices: a packet to the own stop, and the stop of a cross-device STM (log entries 91 and 92); which
byte of a refused access is named (log entry 46). -/
def Obligations.StoreStrandAndMail : Prop :=
  StoreStrandWritesItsStreams ∧ StmSendsMail

/-- R55 to R59, R148 to R155: one cycle of SCAN.d and SCAN.c takes a decay and an input beat and the step's coefficients and updates every slot
of the state block; the last writes the block back; SCHUNK's cycle takes A and the P slots of the record before (A = 1.0, P = +0 at the
first) to the next and writes it; SCARRY's combines a record with the carried-in state, writes the result over its P rows and, with the
last, into the state block; SOUT drives a row; SLIN updates a band. Writes land eight cycles later, rows after two. Model's choices: a pair
whose hi is not finite (log entry 86), .fz and FADE (log entry 87), an op's own pending writes (log entry 90), R59's first step where x is
no FP32 number (log entry 80). -/
def Obligations.ScanOpsStep : Prop :=
  ∀ (s : State) (b n : Nat) (t1 t2 : BitVec 2) (comp fz : Bool) (spb rspb : BitVec 3) (cnt : BitVec 10) (d x : List Word32) (p r : Spb),
    let st := s.strand b 2
    let q := st.q
    let last := q == cnt.toNat
    let writes (p : Spb) (first : Nat) (ws : List Word32) (fl : FlagSet) : Nat × FlagSet × Eff := (s.cycle + 8, fl, .sram (scanPuts p first ws) true)
    let v := (s.braid b).scanView st.bank n
    let may (p : Spb) (first len : Nat) : Prop := mayRead s b 2 n v (v.awareAddr st.bank) p first len
    let mayPut (p : Spb) (first len : Nat) : Prop := mayTouch s b 2 n true p first len
    let goes (i : Instr) (l : List (Nat × FlagSet × Eff)) (held : List Word32) (fl : FlagSet) : Prop := ∃ t, exec i s = .next t ∧ opEmits s t b 2 n l
      ∧ (if last then opEnds s t b 2 2 else opStays s t b 2 ∧ (t.strand b 2).held = held ∧ (t.strand b 2).heldFlags = fl)
    let beats := beatOn s b 2 t1.toNat d last ∧ beatOn s b 2 t2.toNat x last
    let cols (cplx : Bool) := if cplx then 96 else 192
    let slots := if comp then 4 else 8
    let row (j : Nat) := if comp then 2 * j else j
    let pRow := if comp then 2 else 1
    let size (cplx : Bool) := (if comp then 10 else 9) * cols cplx
    let second (k : BitVec 3) := if spb = 7 ∧ k = 7 then 1 else 0
    let beat (cplx : Bool) (l : List Word32) (c : Nat) : List Fp := rowParts false fz cplx (wordAt l) 0 c
    let scan (i : Instr) (cplx : Bool) : Prop :=
      let blk := wordAt (if q = 0 then scanWords s b n p 0 (8 * cols cplx) else st.held)
      let cs := wordAt (scanWords s b n r (q * slots) slots)
      let h (j c i : Nat) := scanUpdate comp fz (beat cplx d c) (rowParts comp fz cplx blk (row j) c) (cross id (beat cplx x c) (rowParts false fz cplx cs 0 j)) i
      beats → streamNow s b 2 n spb.toNat 0 0 p → streamNow s b 2 n (spb.toNat ^^^ 1) 1 0 r → p.fmt = (if cplx then 13 else 0) → r.fmt = p.fmt →
      (q = 0 → p.count = 8 * cols cplx ∧ r.count = (cnt.toNat + 1) * slots ∧ may p 0 (8 * cols cplx)) → may r (q * slots) slots →
      (last = true → mayPut p 0 (8 * cols cplx)) →
      ∃ u fl, u.length = 1536 ∧ slotsHold comp cplx slots 0 u h ∧ (∀ z, fl.getLsbD z = true ↔ st.heldFlags.getLsbD z = true ∨ slotsRaise cplx slots h z)
        ∧ goes i (if last then [writes p 0 u fl] else []) u fl
    opAt s b 2 n →
    scan (.scanD t1 t2 comp fz spb cnt) false ∧ scan (.scanC t1 t2 comp fz spb cnt) true
    ∧ (beats → streamNow s b 2 n (spb.toNat ^^^ 1) 0 0 r → streamNow s b 2 n spb.toNat 1 0 p → p.fmt = 0 ∨ p.fmt = 13 → r.fmt = p.fmt →
        let cplx := p.fmt == 13
        let old (i : Nat) : Word32 := if q ≠ 0 then wordAt st.held i else if i < 192 ∧ (cplx = true → i % 2 = 0) then 0x3F800000 else 0
        let cs := wordAt (scanWords s b n r (q * slots) slots)
        let A (_ c i : Nat) := scanUpdate comp fz (beat cplx d c) (rowParts comp fz cplx old 0 c) [] i
        let P (j c i : Nat) := scanUpdate comp fz (beat cplx d c) (rowParts comp fz cplx old (pRow + row j) c)
          (cross id (beat cplx x c) (rowParts false fz cplx cs 0 j)) i
        (q = 0 → r.count = (cnt.toNat + 1) * slots ∧ p.count = (cnt.toNat + 1) * size cplx) → may r (q * slots) slots →
        mayPut p (q * size cplx) (size cplx) →
        ∃ u fl, u.length = (if comp then 1920 else 1728) ∧ slotsHold comp cplx 1 0 u A ∧ slotsHold comp cplx slots pRow u P
          ∧ (∀ z, fl.getLsbD z = true ↔ slotsRaise cplx 1 A z ∨ slotsRaise cplx slots P z)
          ∧ goes (.schunk t1 t2 comp fz spb cnt) [writes p (q * size cplx) u fl] u st.heldFlags)
    ∧ (streamNow s b 2 n spb.toNat 0 0 p → streamNow s b 2 n rspb.toNat 1 (second rspb) r → r.fmt = 0 ∨ r.fmt = 13 → p.fmt = r.fmt →
        let cplx := r.fmt == 13
        let hin := if q = 0 then scanWords s b n p 0 (8 * cols cplx) else st.held
        let rec_ := wordAt (scanWords s b n r (q * size cplx) (size cplx))
        let h (j c i : Nat) := scanUpdate comp false (rowParts comp false cplx rec_ 0 c) (rowParts comp false cplx (wordAt hin) (row j) c)
          ((rowParts comp false cplx rec_ (pRow + row j) c).map fun v => [v]) i
        (q = 0 → p.count = 8 * cols cplx ∧ r.count = (cnt.toNat + 1) * size cplx ∧ may p 0 (8 * cols cplx)) → may r (q * size cplx) (size cplx) →
        mayPut r (q * size cplx + pRow * cols cplx) (8 * cols cplx) → (last = true → mayPut p 0 (8 * cols cplx)) →
        ∃ u fl, u.length = 1536 ∧ slotsHold comp cplx slots 0 u h ∧ (∀ z, fl.getLsbD z = true ↔ slotsRaise cplx slots h z)
          ∧ goes (.scarry spb rspb comp cnt) (writes r (q * size cplx + pRow * cols cplx) u fl :: if last then [writes p 0 u 0] else []) hin st.heldFlags)
    ∧ (streamNow s b 2 n spb.toNat 0 0 p → p.fmt = 0 ∨ p.fmt = 13 →
        let w := if p.fmt = 13 then 96 else 192
        let rows := if comp then 2 else 1
        let l := wordAt (scanWords s b n p (q * rows * w) (rows * w))
        let out (i : Nat) : Word32 × FlagSet := if comp then fl32 false (Fp.sum false [valW (l i), valW (l (192 + i))]) else (l i, 0)
        (q = 0 → p.count = rows * (cnt.toNat + 1) * w) → may p (q * rows * w) (rows * w) →
        ∃ lanes fl, (∀ i < 192, wordAt lanes i = (out i).1) ∧ (∀ z, fl.getLsbD z = true ↔ ∃ i < 192, (out i).2.getLsbD z = true)
          ∧ goes (.sout t1 spb comp cnt) [(s.cycle + 2, fl, .track t1.toNat lanes last (BitVec.allOnes 192))] st.held st.heldFlags)
    ∧ (beats → streamNow s b 2 n spb.toNat 0 0 p → p.fmt = 0 →
        let band := wordAt (scanWords s b n p (1536 * q) 1536)
        let h (j c i : Nat) := scanUpdate comp false [valW (wordAt d (8 + j))] (rowParts comp false false band (row j) c)
          [[(valW (wordAt d j)).mul (valW (wordAt x c))]] i
        (q = 0 → p.count = (cnt.toNat + 1) * 1536) → may p (1536 * q) 1536 → mayPut p (1536 * q) 1536 →
        ∃ u fl, u.length = 1536 ∧ slotsHold comp false slots 0 u h ∧ (∀ z, fl.getLsbD z = true ↔ slotsRaise false slots h z)
          ∧ goes (.slin t1 t2 spb comp cnt) [writes p (1536 * q) u fl] st.held st.heldFlags)

/-- JOB_START, RENDEZVOUS and OVERRUN. That a region is checked beat by beat is the model's reading (log entry 47). -/
def Obligations.JobsStartAndEnd : Prop :=
  JobsStart ∧ JobsEndAtTheirRendezvous

/-- R48, R112, R123, R175, R179: in its cycle a result lands: lanes under its mask, masks, accumulators, buffers, codebooks, the signature, a
beat on its track, bytes of SRAM, a packet in the send queue, LDX's gather; its flags are raised. The Stopper's mismatch (R326) and a
half-aware write over the other bank's W bit (R307) fault in its place and set no flag. Results not yet due, or of the other half of the
cycle, stay. An STM's packet to its own stop holds its job no longer once due (model's choice: log entry 91). -/
def Obligations.ResultsLand : Prop :=
  ∀ (s : State) (b : Nat) (late : Bool) (l1 l2 : List Pend) (p : Pend),
    let x := s.braid b
    let g := x.regs
    let waits (q : Pend) : Prop := s.cycle < q.due ∨ q.eff.late ≠ late
    let lands (f : State → Prop) : Prop := ∃ t, exec (.opResult b late) s = .next t ∧ f t
    let quiet (t : State) : Prop := onlyBraidOf s t b ∧ (t.braid b).pend = l1 ++ l2 ∧ (t.bank b p.bank).flagSets = (s.bank b p.bank).flagSets ||| p.flags
      ∧ ∀ m c, (t.bank b m).ctx c = (s.bank b m).ctx c
    x.pend = l1 ++ p :: l2 → (∀ q ∈ l1, waits q) → (∀ q ∈ l2, waits q) → p.due ≤ s.cycle → p.eff.late = late → p.pos < 5 → p.bank < 2 →
    s.agent.2.2 ≠ 1 → (∃ o ∈ x.jobsOpen, o.bank = p.bank ∧ o.job.num = p.job) →
    let faults (f : State → State) : Prop := exec (.opResult b late) s = .next (f (s.setBraid b { x with pend := l1 ++ l2 }))
    (∀ r lanes mask, p.eff = .vreg r lanes mask → lands fun t => quiet t ∧ (t.braid b).sram = x.sram
        ∧ (∀ i < 192, wordAt (tget [] (t.braid b).regs.v r) i = if mask.getLsbD i then wordAt lanes i else wordAt (tget [] g.v r) i)
        ∧ (∀ q, q ≠ r → tget [] (t.braid b).regs.v q = tget [] g.v q) ∧ { (t.braid b).regs with v := g.v } = g)
    ∧ (∀ m val mask, p.eff = .vmask m val mask → lands fun t => quiet t
        ∧ (∀ i < 192, (tget 0 (t.braid b).regs.m m).getLsbD i = if mask.getLsbD i then val.getLsbD i else (tget 0 g.m m).getLsbD i)
        ∧ (∀ q, q ≠ m → tget 0 (t.braid b).regs.m q = tget 0 g.m q) ∧ { (t.braid b).regs with m := g.m } = g)
    ∧ (∀ a d, p.eff = .acc a d → lands fun t => quiet t ∧ (∀ q, tget [] (t.braid b).regs.acc q = if q = a then d else tget [] g.acc q)
        ∧ { (t.braid b).regs with acc := g.acc } = g)
    ∧ (∀ i d, p.eff = .cbook i d → lands fun t => quiet t ∧ (∀ q, tget [] (t.braid b).regs.cb q = if q = i then d else tget [] g.cb q)
        ∧ { (t.braid b).regs with cb := g.cb } = g)
    ∧ (∀ i w, p.eff = .wbuf i w → lands fun t => quiet t ∧ tget {} (t.braid b).regs.wb i = ⟨w.beats, w.data ++ (tget {} g.wb i).data.drop w.beats⟩
        ∧ { (t.braid b).regs with wb := g.wb } = g)
    ∧ (∀ w, p.eff = .stopper w → lands fun t => quiet t ∧ (t.braid b).regs = { g with stopper := w })
    ∧ (∀ n lanes marker, p.eff = .track n lanes marker (BitVec.allOnes 192) → lands fun t => quiet t ∧ (t.braid b).regs = g
        ∧ ∀ q, tget ⟨[], false⟩ (t.braid b).driven q = if q = 5 * n + p.pos then ⟨lanes, marker⟩ else tget ⟨[], false⟩ x.driven q)
    ∧ (∀ a v, p.eff = .sram [⟨a, v, 0xFF⟩] false → a < 0xC00000 → lands fun t => quiet t ∧ (t.braid b).regs = g
        ∧ ∀ y, (t.braid b).sramNow y = if y = a then v else x.sramNow y)
    ∧ (p.eff = .mismatch → faults fun u => u.strandFault b p.pos 19 p.pc 0)
    ∧ (∀ w m, p.eff = .sram [w] true → granuleOf w.addr = some m → tget false (x.bank (1 - p.bank)).w (swapGranule (x.bank p.bank).curBank m) = true →
        faults fun u => u.strandFault b p.pos 6 p.pc w.addr true)
    ∧ (∀ q st, p.eff = .send q → (q.dest ≠ b ∨ q.ddev ≠ s.cfg.dev) → (∀ o ∈ x.jobsOpen, o.bank = p.bank → o.job.num = p.job → o.start = st) →
        lands fun t => quiet t ∧ (t.braid b).regs = g ∧ (t.braid b).sendQ = x.sendQ ++ [q] ∧ (t.braid b).sendOf = x.sendOf ++ [st]
          ∧ (t.braid b).out = x.out + 1 ∧ (t.braid b).jobsOpen = x.jobsOpen)
    ∧ (∀ n img d idx marker, p.eff = .gather n img idx marker → parseSpb img = some d →
        let inside (v : Word32) : Prop := 0 ≤ v.toInt ∧ v.toInt < (d.count : Int)
        (∀ v ∈ idx, inside v → (∀ y ∈ upto (d.addr v.toInt.toNat) d.bytes, y ∉ x.bad)
          ∧ ∀ y ∈ [d.addr v.toInt.toNat, d.addr v.toInt.toNat + d.bytes - 1], inScratch y = true →
            ∀ o ∈ x.jobsOpen, o.bank = p.bank → o.job.num = p.job → ∃ r ∈ o.job.regions, regionHit r (y - Config.scratchBase) false = true) →
        lands fun t => ∃ lanes, onlyBraidOf s t b ∧ (t.braid b).regs = g ∧ (t.braid b).sram = x.sram
          ∧ (t.braid b).pend = l1 ++ l2 ++ [⟨s.cycle + 2, p.pos, p.bank, p.job, p.pc, 0, .track n lanes marker (BitVec.allOnes 192)⟩]
          ∧ lanes.length = max 192 idx.length ∧ (∀ i, idx.length ≤ i → wordAt lanes i = 0)
          ∧ ∀ i v, idx[i]? = some v → (inside v → wordAt lanes i = BitVec.ofNat 32 (d.read x.sramAt v.toInt.toNat)) ∧ (¬ inside v → wordAt lanes i = 0))

/-- R12, R119, R120, R135, R200, R281, R284, R286, R291: a launched task whose delivery has come starts with its arguments; the head of a device
task queue starts 679 cycles after its TASK retired and not before; in the sixth cycle a starting bank's contexts run, to issue in the twelfth.
Model's choices: which bank (log entry 63), a delivery that finds no free bank (log entry 62), the bank's own W bits (log entry 56), a writer
map that cannot be read (log entry 57), the context vector of an ENTRY below 16 (log entry 95), the cycle of the checkpoint (log entry 73),
the sequencer's pins (log entry 105), the cycle of the first issue (log entry 115), a braid that still holds a task of the record's launch
(log entry 117). -/
def Obligations.TasksStart : Prop :=
  ∀ (s : State) (b : Nat),
    let x := s.braid b
    (∀ (u : Nat) (l : Launch), s.cur = .agent u b 0 → s.launch u = some l → (∃ e ∈ l.deliver, e.1 = b ∧ e.2 ≤ s.cycle) → l.preempted = false →
        (l.kind = 1 → l.resident = true) → l.wmap = 0 → l.args.length = 12 →
        let rank := s.arcNo l.vi b - l.braid0
        ∃ t y, exec .taskStart s = .next t
          ∧ taskStarts s t b (s.emptyBank b u) y (l.args ++ [BitVec.ofNat 64 rank, BitVec.ofNat 64 (if l.kind = 1 then l.sid else 0), BitVec.ofNat 64 l.issueSlot])
          ∧ y.tid = rank ∧ y.rank = rank ∧ y.vi = l.vi ∧ y.launch = u ∧ y.entry = BitVec.ofNat 48 l.entry ∧ y.phase = 0 ∧ y.spawned = false ∧ y.round = none
          ∧ (t.braid b).reserved = none ∧ t.links = s.links ∧ keptMem s t ∧ (s.stableBlocks l.vi = [] → t.mem = s.mem ∧ y.pins = []))
    ∧ (∀ (r : Spawn) (rest : List Spawn) (l : Launch), s.cur = .agent b 0 1 → x.taskQ = r :: rest → s.launch r.launch = some l → x.outOfService = false →
        x.testEnd = none → x.b0.mode.occupies = false → x.b1.mode.occupies = false → (x.b0.task = none ∨ x.b1.task = none) → x.reserved = none →
        s.refsHold b x.runBank r.record.preds = true → l.preempted = false → l.wmap = 0 → r.record.args.length = 12 →
        (s.bankOf b l.uid = none → r.retired + 679 ≤ s.cycle → ∃ t y, exec .taskStart s = .next t
          ∧ taskStarts s t b (s.emptyBank b l.uid) y (r.record.args ++ [BitVec.ofNat 64 r.record.tid, r.record.gain.setWidth 64,
              if Braid.isEast b then s.clock.slotE else s.clock.slot])
          ∧ y.tid = r.record.tid ∧ y.entry = BitVec.ofNat 48 r.record.entry ∧ y.launch = r.launch ∧ y.spawned = true
          ∧ (t.braid b).taskQ = rest ∧ t.mem = s.mem)
        ∧ (s.cycle < r.retired + 679 ∨ s.bankOf b l.uid ≠ none → exec .taskStart s = .next s))
    ∧ (∀ i, i < 2 → s.cur = .agent b i 2 → x.runBank = i → (s.bank b i).mode = .starting → (s.bank b i).x.began = true →
        (s.bank b i).startAt ≤ s.cycle → ∃ t, exec .taskStart s = .next t ∧ t = (s.modBank b i fun _ => t.bank b i) ∧ (t.bank b i).mode = .running
          ∧ (∀ c, c ≠ .T → (t.bank b i).ctx c = { (s.bank b i).ctx c with run := ((s.bank b i).ctx c).began, issueAt := s.cycle + 6 })
          ∧ (t.bank b i).ckpt.isSome = true)

/-- The launch queues and the sequencer. Model's choices: deadlines already past (log entry 60), braids that a heap launch keeps (log entry 61),
delivery cycles (log entry 62), a record that cannot be read (log entry 64), ERR of a queue (log entry 65), inserted idle cycles (log entry
67), the cycles counted as use (log entry 76), fenced braids (log entry 77), lines fetched before a prefix launch issues (log entry 82). -/
def Obligations.LaunchesAndRecords : Prop :=
  RecordsAreTaken ∧ LaunchesIssueAndComplete

/-- R291, R295, R296, R298: a spilled record returns to a queue with room; the prefix lookup answers the longest hit and pins it; an insert of a
pair the table holds leaves its entry and frees the handle it brought, a new pair takes the lowest free entry, else the unpinned one of
least HITS and then lowest number, whose handle is freed, and finds none where all 64 are pinned; an unpin takes one pin, if there is one.
Each writes its result line and ends its launch with status 0, or with 3 where the line cannot be written. Model's choices: the order and
places of spilled records (log entry 75); HITS wraps, PIN is checked by the operation, and lines are there before the launch issues (log
entry 82). -/
def Obligations.SpillsAndPrefixes : Prop :=
  ∀ (s : State) (l : Launch),
    let u := l.uid
    let ends (t w : State) (rstat : Nat) (e : Option PEntry) : Prop := ∃ v, w.seqWrite l.vi l.res (resultLine rstat e) = (v, .ok ()) ∧ t = v.endLaunch u 0
    let writable (w : State) (rstat : Nat) (e : Option PEntry) : Prop := ∃ v, w.seqWrite l.vi l.res (resultLine rstat e) = (v, .ok ())
    let here (op : Nat) : Prop := l.kind = 3 ∧ l.issued = true ∧ l.finished = false ∧ l.op = op
    let frees (w : State) (h : Nat) : State := w.modIface l.vi fun i => i.freeQuiet h
    let mine (n : Nat) : Prop := 64 * l.vi ≤ n ∧ n < 64 * l.vi + 64
    let entry (n : Nat) : PEntry := tget ⟨0, 0, emptyHandle, 0, 0⟩ s.prefix_ n
    let taken : PEntry := ⟨l.hash, l.n, l.handle, 0, 0⟩
    s.cur = .agent u 0 0 → s.launch u = some l →
    (∀ l1 r l2, l.spill = l1 ++ r :: l2 → (∀ o ∈ l1, 64 ≤ (s.braid o.target).taskQ.length) → (s.braid r.target).taskQ.length < 64 →
      ∃ t, exec .taskSpillReturn s = .next t ∧ (∀ b, t.braid b = if b = r.target then { s.braid b with taskQ := (s.braid b).taskQ ++ [r] } else s.braid b)
        ∧ t.launch u = some { l with spill := l1 ++ l2 } ∧ t.mem = s.mem)
    ∧ ((∀ o ∈ l.spill, 64 ≤ (s.braid o.target).taskQ.length) → exec .taskSpillReturn s = .next s)
    ∧ (∀ v hs n, s.longest v hs 0 = none ∧ s.longest v hs (n + 1) = match s.prefixFind v (BitVec.ofNat 64 (fieldLe hs (8 * n) 8)) (n + 1) with
        | some e => some e
        | none => s.longest v hs n)
    ∧ (s.resOk l.vi l.res ≠ some true → (here 0 → exec .prefixLookup s = .next (s.endLaunch u 3))
        ∧ (here 1 → exec .prefixInsert s = .next (s.endLaunch u 3)) ∧ (here 2 → exec .prefixUnpin s = .next (s.endLaunch u 3)))
    ∧ (s.resOk l.vi l.res = some true →
      (here 0 →
        (s.longest l.vi l.hashes l.n = none → writable s 1 none → ∃ t, exec .prefixLookup s = .next t ∧ ends t s 1 none)
        ∧ ∀ n e, s.longest l.vi l.hashes l.n = some (n, e) →
          let e1 : PEntry := { e with pin := e.pin + 1, hits := (e.hits + 1) % 2 ^ 32 }
          (e.pin ≠ 65535 → writable (s.prefixPut n e1) 0 (some e1) → ∃ t, exec .prefixLookup s = .next t ∧ ends t (s.prefixPut n e1) 0 (some e1))
          ∧ (e.pin = 65535 → writable s 3 none → ∃ t, exec .prefixLookup s = .next t ∧ ends t s 3 none))
      ∧ (here 1 →
        ((s.ifaceD l.vi).holdsHandle l.handle = false → writable s 4 none → ∃ t, exec .prefixInsert s = .next t ∧ ends t s 4 none)
        ∧ ((s.ifaceD l.vi).holdsHandle l.handle = true →
          (∀ n e, s.prefixFind l.vi l.hash l.n = some (n, e) → writable (frees s l.handle) 0 (some e) →
            ∃ t, exec .prefixInsert s = .next t ∧ ends t (frees s l.handle) 0 (some e))
          ∧ (s.prefixFind l.vi l.hash l.n = none →
            (∀ n, mine n → thas s.prefix_ n = false → (∀ m, mine m → m < n → thas s.prefix_ m = true) → writable (s.prefixPut n taken) 0 (some taken) →
              ∃ t, exec .prefixInsert s = .next t ∧ ends t (s.prefixPut n taken) 0 (some taken))
            ∧ ((∀ m, mine m → thas s.prefix_ m = true) → (s.prefix_.map Prod.fst).Pairwise (· < ·) →
              (∀ n, mine n → (entry n).pin = 0 →
                (∀ m, mine m → (entry m).pin = 0 → (entry n).hits < (entry m).hits ∨ ((entry n).hits = (entry m).hits ∧ n ≤ m)) →
                let w := (frees s (entry n).handle).prefixPut n taken
                writable w 0 (some taken) → ∃ t, exec .prefixInsert s = .next t ∧ ends t w 0 (some taken))
              ∧ ((∀ m, mine m → (entry m).pin ≠ 0) → writable s 2 none → ∃ t, exec .prefixInsert s = .next t ∧ ends t s 2 none)))))
      ∧ (here 2 →
        (∀ n e, s.prefixFind l.vi l.hash l.n = some (n, e) →
          let e1 : PEntry := { e with pin := e.pin - 1 }
          (e.pin ≠ 0 → writable (s.prefixPut n e1) 0 (some e1) → ∃ t, exec .prefixUnpin s = .next t ∧ ends t (s.prefixPut n e1) 0 (some e1))
          ∧ (e.pin = 0 → writable s 4 none → ∃ t, exec .prefixUnpin s = .next t ∧ ends t s 4 none))
        ∧ (s.prefixFind l.vi l.hash l.n = none → writable s 4 none → ∃ t, exec .prefixUnpin s = .next t ∧ ends t s 4 none)))

/-- FLIT_SEND, FLIT and PACKET_DELIVERY. Model's choices: packets between short rings (log entry 25), the memory queue's rank (log entry 38), a
packet to the own stop (log entry 39), UCIe flits (log entry 42), a packet cut short (log entry 43), a closing link over a crossing and X0
as stop 72 (log entry 44), two packets for one reassembly buffer (log entry 93). -/
def Obligations.RingMovesPackets : Prop :=
  OutputsSendTheOldestFlit ∧ FlitsArriveAndPacketsAreDelivered

/-- R183, R190, R191, R323, R338: the 16 bits of a return word or audit; a return word adds its counts at the sender, and any word of bad
parity quiesces the link; in an audit cycle every port sends its free counts, and the audit that comes corrects each of the sender's counts
by the difference, and what audits still under way compare with, counting each that disagrees; the last link's first since a retrain ends
the retrain; a packet of a reserved type is recorded. What is compared with what is Link.auditWord and Link.auditSums: for slots freed just before an audit, log entry 27's reading. A word
of zeros stands for one that is not listed (log entry 41). -/
def Obligations.ReturnWordsAndAudits : Prop :=
  (∀ (w : RetWord) (ok : Bool), let x := wordReceived w ok
    x.getLsbD 15 = w.aud ∧ x.extractLsb' 11 3 = 0 ∧ x.extractLsb' 8 3 = BitVec.ofNat 3 w.e1 ∧ x.extractLsb' 5 3 = BitVec.ofNat 3 w.e0
      ∧ x.extractLsb' 0 5 = BitVec.ofNat 5 w.sh ∧ (((upto 0 16).filter fun i => x.getLsbD i).length % 2 = 0 ↔ ok = true))
  ∧ (∀ (s : State) (stop k at_ : Nat) (ccw : Bool) (w : RetWord),
    let l := s.link k
    let rest := l.words.erase (at_, w)
    let onlyLink (t : State) : Prop := t = { s with links := t.links } ∧ ∀ j, j ≠ k → t.link j = s.link j
    (s.wordLink stop ccw false = some (k, at_, w) →
      (∃ t, exec (.returnWord stop ccw true) s = .next t ∧ onlyLink t
        ∧ t.link k = { l with words := rest, sSh := l.sSh + w.sh, sE0 := l.sE0 + w.e0, sE1 := l.sE1 + w.e1 })
      ∧ ∃ t, exec (.returnWord stop ccw false) s = .next t ∧ onlyLink t ∧ t.link k = { l with words := rest, quiesced := true })
    ∧ (s.wordLink stop ccw false = none → exec (.returnWord stop ccw true) s = .next s
      ∧ ∃ t, exec (.returnWord stop ccw false) s = .next t ∧ t = { s with links := t.links }
        ∧ ∀ j, t.link j = if j ∈ s.feeders stop (if ccw then 1 else 0) then { s.link j with quiesced := true } else s.link j)
    ∧ (s.wordLink stop ccw true = none → ∀ ok, exec (.auditFlit stop ccw ok) s = .next s)
    ∧ (∀ sh e0 e1 fresh more, s.wordLink stop ccw true = some (k, at_, w) → l.audits = (sh, e0, e1, fresh) :: more →
      let fixed : Link := { l with
        words := rest, quiesced := false,
        audits := more.map fun a => (a.1 + w.sh - sh, a.2.1 + w.e0 - e0, a.2.2.1 + w.e1 - e1, a.2.2.2),
        sSh := l.sSh + w.sh - sh, sE0 := l.sE0 + w.e0 - e0, sE1 := l.sE1 + w.e1 - e1,
        auditCor := l.auditCor + (if sh = w.sh then 0 else 1) + (if e0 = w.e0 then 0 else 1) + (if e1 = w.e1 then 0 else 1) }
      (∃ t, exec (.auditFlit stop ccw false) s = .next t ∧ onlyLink t ∧ t.link k = { l with words := rest, audits := more, quiesced := true })
      ∧ (s.crossOf k = none ∨ fresh = false ∨ (∃ c, s.crossOf k = some c ∧ k ∉ (s.crossing c).auditsDue) → ∃ t, exec (.auditFlit stop ccw true) s = .next t ∧ onlyLink t ∧ t.link k = fixed)
      ∧ (∀ c, s.crossOf k = some c → fresh = true → k ∈ (s.crossing c).auditsDue →
        ∃ t, exec (.auditFlit stop ccw true) s = .next t ∧ t.link k = fixed ∧ (∀ j, j ≠ k → t.link j = s.link j)
          ∧ ((∃ j ∈ (s.crossing c).auditsDue, j ≠ k) → t = { s with links := t.links, crossings := t.crossings }
            ∧ t.crossing c = { s.crossing c with auditsDue := (s.crossing c).auditsDue.filter (· != k) })
          ∧ ((∀ j ∈ (s.crossing c).auditsDue, j = k) → t.crossing c = { s.crossing c with auditsDue := [], retrains := (s.crossing c).retrains + 1 }))))
  ∧ (∀ s : State, (s.cycle % 4096 ≠ 0 → exec .auditTick s = .next s)
    ∧ (s.cycle % 4096 = 0 → ∃ t, exec .auditTick s = .next t
        ∧ t = { s with links := t.links, crossings := t.crossings, ports := t.ports, hostOut := t.hostOut }
        ∧ (s.hopOpen = false → t.ports = s.ports ∧ t.hostOut = s.hostOut)
        ∧ ∀ j, (thas s.links j = false ∨ s.auditsNow j = false → t.link j = s.link j)
          ∧ ((s.links.map Prod.fst).count j = 1 → s.crossOf j = none →
            let sums := (s.link j).auditSums s.cycle
            t.link j = { s.link j with audits := (s.link j).audits ++ [(sums.1, sums.2.1, sums.2.2, true)],
                                       words := (s.link j).words ++ [(s.cycle + s.linkLat j, (s.link j).auditWord s.cycle)] })))
  ∧ ∀ (s : State) (p : Packet), ∃ t, exec (.reservedPacket p) s = .next t ∧ t.braids = s.braids ∧ t.links = s.links
    ∧ (p.dest < 48 → tget {} t.mem.errW 22 = (tget {} s.mem.errW 22).note true false (p.dest % 48) 3 p.dest s.clock.slot.toNat ∧ t.mem.errE = s.mem.errE)
    ∧ (48 ≤ p.dest → tget {} t.mem.errE 22 = (tget {} s.mem.errE 22).note true false (p.dest % 48) 3 p.dest s.clock.slotE.toNat ∧ t.mem.errW = s.mem.errW)

/-- R179, R189, R194, R195, R213, R216, R328: a MAIL packet fills 192 words of its destination's mailbox and is answered by DONE, a refused one
or one to a braid out of service changes nothing there; DONE counts OUT down, and a refusal is the sender's fault; BARA of a member whose
task waits at the barrier is noted by the root's braid under the task's launch, BARR releases the member that waits. With two tasks at one
barrier in both banks of a braid, the running bank's is meant (model's choice: log entry 49). The map a packet is checked by is that of the
bank that runs or ran last (model's choice: log entry 58); a refusal is the fault of the task that sent the mail, and none's where that has
ended (model's choice: log entry 120). -/
def Obligations.MailDoneAndBarriers : Prop :=
  ∀ (s : State) (p : Packet),
    let b := p.dest
    let x := s.braid b
    let r := x.runBank
    let answer (arg bank sq : Nat) : Packet := ⟨1, b, p.src, 0, arg, 1, s.cfg.dev, p.sdev, .ack bank sq⟩
    let waitsAt (c i root : Nat) : Prop := (∃ a, (s.bank c i).arrive = some a ∧ a.level = p.arg / 2048 % 4
      ∧ a.gen = p.arg % 2048 ∧ a.released = false) ∧ (s.members c i (p.arg / 2048 % 4)).headD c = root
    x.runBank < 2 → (s.braid p.src).runBank < 2 →
    (∀ w bank sq, p.body = .mail w bank sq → p.src ≠ b → p.sdev = s.cfg.dev →
     let queued (t : State) (arg : Nat) : Prop := (t.braid b).ctlQ = x.ctlQ ++ [answer arg bank sq]
     (p.arg + 6 ≤ 8192 → x.outOfService = false → s.mailRefused p = false →
      ∃ t, exec (.mail p) s = .next t ∧ onlyBraidOf s t b ∧ queued t 0
        ∧ (∀ i < 192, leNat ((t.braid b).sramReadNow (0xB00000 + 128 * p.arg + 4 * i) 4) = (wordAt w i).toNat)
        ∧ (∀ a, ¬(0xB00000 + 128 * p.arg ≤ a ∧ a < 0xB00000 + 128 * p.arg + 768) → (t.braid b).sramNow a = x.sramNow a)
        ∧ (∀ i, tget false (t.braid b).full i = if 32 * p.arg ≤ i ∧ i < 32 * p.arg + 192 then true else tget false x.full i)
        ∧ ∀ m c, (t.bank b m).ctx c = (s.bank b m).ctx c)
     ∧ (x.outOfService = false → s.mailRefused p = true →
      ∃ t, exec (.mail p) s = .next t ∧ onlyBraidOf s t b ∧ queued t 1 ∧ (t.braid b).sram = x.sram ∧ (t.braid b).full = x.full)
     ∧ (x.outOfService = true →
      ∃ t, exec (.mail p) s = .next t ∧ onlyBraidOf s t b ∧ queued t 3 ∧ (t.braid b).sram = x.sram ∧ (t.braid b).full = x.full))
    ∧ (∀ bank sq, p.body = .ack bank sq → x.outOfService = false → p.sdev = s.cfg.dev →
      let sent : Prop := ∃ y, (s.bank b bank).task = some y ∧ y.sq = sq
      (bitAt p.arg 0 = false ∨ ¬ sent → exec (.done p) s = .next (s.modBraid b fun y => { y with out := y.out - 1 }))
      ∧ (bitAt p.arg 0 = true → sent → exec (.done p) s = .next ((s.modBraid b fun y => { y with out := y.out - 1 }).fault b bank
          { code := if bitAt p.arg 1 then 27 else 8, src := 5, ctx := .X, epc := (x.bank bank).x.pc })))
    ∧ (x.outOfService = false →
      (∀ i k, i < 2 → (s.bank p.src i).task = some k → waitsAt p.src i b → (i ≠ (s.braid p.src).runBank → ¬ waitsAt p.src (s.braid p.src).runBank b) →
        exec (.bara p) s = .next (s.modBraid b fun y => { y with baras := y.baras ++ [(k.launch, p.arg / 2048 % 4, p.arg % 2048, p.src)] }))
      ∧ ((∀ i < 2, ¬ waitsAt p.src i b) → exec (.bara p) s = .next s)
      ∧ (∀ i a, i < 2 → (s.bank b i).arrive = some a → waitsAt b i p.src → (i ≠ r → ¬ waitsAt b r p.src) →
        exec (.barr p) s = .next (s.modBank b i fun k => { k with arrive := some { a with released := true } }))
      ∧ ((∀ i < 2, ¬ waitsAt b i p.src) → exec (.barr p) s = .next s))
    ∧ (x.outOfService = true → exec (.bara p) s = .next s ∧ exec (.barr p) s = .next s)

/-- R230, R243, R321, R342, R343, R347, R359, R361, R368: a line request at its home waits out inserted idle cycles, is answered with the 64
bytes as the asking interface sees them and whether they came in error, or waits for the host, which is asked once; the line comes to the
context that asked; an AMO request changes its word once, whole, and answers the old value; the answer goes to the AMO that waits for its
number, and a line asked for by an access that began anew is dropped. What stays of memory is stated where the line is not in error: an
error met is recorded in the device ring, which may lie there.
Model's choices: the memory queue (log entry 38), inserted idle cycles (log entry 67). -/
def Obligations.LinesAndAmosAtTheirHome : Prop :=
  ∀ (s : State) (p : Packet) (bank : Nat) (c : CtxId),
    let here := p.dest
    let k := s.bank here bank
    let answered (t : State) (typ : Nat) (body : Body) : Prop :=
      (t.braid here).memQ = (s.braid here).memQ ++ [⟨typ, here, p.src, 0, p.arg, 1, s.cfg.dev, s.cfg.dev, body⟩]
    (∀ pa vi na, p.body = .lineReq pa vi bank c na → here ≠ p.src →
      let ln := pa / 64
      let gap := s.boot.gapTill (Braid.isEast here)
      (s.cycle < gap → exec (.rdreq p) s = .next (s.later gap (packetEvent p)))
      ∧ (gap ≤ s.cycle →
        ((isHost pa = true → s.mem.holds ln = true) → ∃ t, exec (.rdreq p) s = .next t
          ∧ answered t 9 (.line (64 * ln) bank c (s.homeBytes vi (64 * ln) 64) (s.linePoison ln)) ∧ (∀ b, (t.braid b).sram = (s.braid b).sram)
          ∧ (s.linePoison ln = false → keptMem s t))
        ∧ (isHost pa = true → s.mem.holds ln = false → ∃ t, exec (.rdreq p) s = .next t ∧ t.braids = s.braids
          ∧ t.mem.hostWait = s.mem.hostWait ++ [⟨64 * ln, p⟩] ∧ t.mem.mem = s.mem.mem
          ∧ (s.mem.hostAsked.contains ln = false → sentToHost s t [.cacheRead (64 * ln)] ∧ t.mem.hostAsked = ln :: s.mem.hostAsked
              ∧ ∀ x, x ∈ t.mem.hostNa ↔ x = ln ∧ na = true ∨ x ≠ ln ∧ x ∈ s.mem.hostNa)
          ∧ (s.mem.hostAsked.contains ln = true → sentToHost s t [] ∧ t.mem.hostAsked = s.mem.hostAsked
              ∧ ∀ x, x ∈ t.mem.hostNa ↔ x ∈ s.mem.hostNa ∧ (x = ln → na = true)))))
    ∧ (∀ pa data poison, p.body = .line pa bank c data poison → (k.ctx c).stale.contains (pa / 64) = true →
      exec (.rdrsp p) s = .next (s.modBank here bank fun k => k.setCtx c { k.ctx c with stale := (k.ctx c).stale.erase (pa / 64) }))
    ∧ (∀ pa data poison, p.body = .line pa bank c data poison → (k.ctx c).stale.contains (pa / 64) = false → (k.ctx c).missing.contains (pa / 64) = true →
      exec (.rdrsp p) s = .next (s.modBank here bank fun k => k.setCtx c { k.ctx c with
        fills := tput (k.ctx c).fills (pa / 64) ⟨data, poison⟩, missing := (k.ctx c).missing.filter (· ≠ pa / 64) }))
    ∧ (∀ pa data poison, p.body = .line pa bank c data poison → (k.ctx c).stale.contains (pa / 64) = false → (k.ctx c).missing.contains (pa / 64) = false →
      exec (.rdrsp p) s = .next s)
    ∧ (∀ pa op wide z (x e : Word64) vi, p.body = .amo pa op wide z x e vi bank c → here ≠ p.src →
      let n := if wide then 8 else 4
      let old := s.homeNat vi pa n
      let gap := s.boot.gapTill (Braid.isEast here)
      (isLpddr pa = true → s.cycle < gap → exec (.amoreq p) s = .next (s.later gap (packetEvent p)))
      ∧ (s.memOk → isLpddr pa = true → gap ≤ s.cycle → pa % n = 0 → (wide = false → x.toNat < 2 ^ 32 ∧ e.toNat < 2 ^ 32) →
      (homeEast pa = Braid.isEast p.src ∨ ∀ q ∈ tget [] s.mem.amoPairs (pairKey here p.src), q.1 ≠ p.arg) →
      ∃ t, exec (.amoreq p) s = .next t ∧ answered t 12 (.amoOld (BitVec.ofNat 64 old) bank c)
        ∧ t.homeNat vi pa n = amoNew op n z old x.toNat e.toNat
        ∧ (∀ a, a / 64 = pa / 64 → ¬(pa ≤ a ∧ a < pa + n) → t.homeByte vi a = s.homeByte vi a)
        ∧ (∀ a, a / 64 ≠ pa / 64 → t.mem.stored a = s.mem.stored a ∧ t.mem.storedKey (a / 64) = s.mem.storedKey (a / 64))
        ∧ ∀ b, (t.braid b).sram = (s.braid b).sram))
    ∧ (∀ pa op wide z x e vi old, p.body = .amo pa op wide z x e vi bank c → here ≠ p.src → homeEast pa ≠ Braid.isEast p.src →
      (isLpddr pa = true → s.boot.gapTill (Braid.isEast here) ≤ s.cycle) → (tget [] s.mem.amoPairs (pairKey here p.src)).find? (fun q : Nat × Word64 => q.1 == p.arg) = some (p.arg, old) →
      ∃ t, exec (.amoreq p) s = .next t ∧ answered t 12 (.amoOld old bank c) ∧ t.mem = s.mem)
    ∧ (∀ old q, p.body = .amoOld old bank c → (k.ctx c).amoOld = none → (k.ctx c).amo = some q →
      (q.arg = p.arg ∧ q.dest = p.src → exec (.amorsp p) s = .next (s.modBank here bank fun k => k.setCtx c { k.ctx c with amoOld := some old }))
      ∧ (q.arg ≠ p.arg ∨ q.dest ≠ p.src → exec (.amorsp p) s = .next s))

/-- R189, R198, R201, R249, R291, R292, R293, R302, R340, R342, R368: a prepared write or reduction is reported to its sender, a piece's request
waits out inserted idle cycles and is answered with its lines, which of host memory are asked for first, and which a tile load locks until it
releases them; the report counts down what its event, or the command that asked, waits for; a task record joins its
target's queue of 64, or the spill area in its order, or, of a launch that is over, goes; a gain operation is held by its heap, is dropped
outside its round, or comes back as the issuer's invalid-gain fault. When a record's own spawner still runs, a full area is its fault; the
case where it has ended is log entry 100's choice and is not stated. Model's choices: how many ENGINE packets there are and what they carry
(log entry 40), a refused gain's delay and a voided round's records (log entry 70), the places of spilled records (log entry 75), which
packets lock and unlock (log entry 102). -/
def Obligations.PreparationsRecordsAndGains : Prop :=
  ∀ (s : State) (p : Packet),
    let packet (typ flits : Nat) (body : Body) : Packet := ⟨typ, p.dest, p.src, 0, p.arg, flits, s.cfg.dev, s.cfg.dev, body⟩
    let answered (typ flits : Nat) (body : Body) (i : Instr) : Prop := p.dest ≠ p.src →
      ∃ t, exec i s = .next t ∧ onlyBraidOf s t p.dest
        ∧ (t.braid p.dest).memQ = (s.braid p.dest).memQ ++ [packet typ flits body]
        ∧ (t.braid p.dest).sram = (s.braid p.dest).sram ∧ ∀ i c, (t.bank p.dest i).ctx c = (s.bank p.dest i).ctx c
    (∀ e l, p.body = .prep e l → answered 15 1 (.prepared e) (.prep p))
    ∧ (∀ e tid place r, p.body = .red e tid place r → answered 15 1 (.prepared e) (.redent p))
    ∧ (∀ b bank ch ask vi load lines, p.body = .engine b bank ch ask vi load false lines →
      let asked := (lines.filter fun e => e.2.1.isEmpty).map fun e => e.1
      let gap := s.boot.gapTill (Braid.isEast p.dest)
      (s.cycle < gap → lines ≠ [] → exec (.engine p) s = .next (s.later gap (packetEvent p)))
      ∧ (gap ≤ s.cycle ∨ lines = [] →
        ((∀ x ∈ asked, isHost (64 * x) = true → s.mem.holds x = true) → p.dest ≠ p.src → ∃ t, exec (.engine p) s = .next t
          ∧ (t.braid p.dest).memQ = (s.braid p.dest).memQ ++ [packet 14 (max 1 ((64 * asked.length + 111) / 112))
              (.engine b bank ch ask vi load true (asked.map fun x => (x, s.homeBytes vi (64 * x) 64, s.linePoison x)))]
          ∧ t.mem.locks = s.mem.locks ++ (if load then asked.map fun x => ⟨x, b, bank, ch, ask⟩ else [])
          ∧ (∀ c, (t.braid c).sram = (s.braid c).sram)
          ∧ ((∀ x ∈ asked, s.linePoison x = false) → keptMem s t))
        ∧ ((∃ x ∈ asked, isHost (64 * x) = true ∧ s.mem.holds x = false) → ∃ t ln, exec (.engine p) s = .next t ∧ t.braids = s.braids
          ∧ t.mem.mem = s.mem.mem ∧ t.mem.locks = s.mem.locks ∧ t.mem.hostWait = s.mem.hostWait ++ [⟨64 * ln, p⟩] ∧ ln ∈ asked ∧ s.mem.holds ln = false
          ∧ ∀ x, x ∈ t.mem.hostAsked ↔ x ∈ s.mem.hostAsked ∨ x ∈ asked ∧ isHost (64 * x) = true ∧ s.mem.holds x = false)))
    ∧ (∀ b bank ch ask vi load lines, p.body = .engine b bank ch ask vi load true lines →
        let add (m : Tab Fill) (waits : Prop) (n : Tab Fill) : Prop := (¬ waits → n = m) ∧ (waits → (lines.map fun e => e.1).Nodup → ∀ x,
          tget ⟨[], false⟩ n x = match lines.find? fun e => e.1 == x with
            | some e => ⟨e.2.1, e.2.2⟩
            | none => tget ⟨[], false⟩ m x)
        (ch = 4 → exec (.engine p) s = .next (s.modBank b bank fun k => { k with rv := { k.rv with awaits := k.rv.awaits - 1 } }))
        ∧ (ch ≠ 4 → let h := (s.bank b bank).chan ch
          ∃ now got lasts, exec (.engine p) s = .next (s.modBank b bank fun k => k.setChan ch { h with awaits := now, lines := got, lasts := lasts })
            ∧ now = (if h.asked = true ∧ h.ask = ask then h.awaits - 1 else h.awaits) ∧ add h.lines (h.asked = true ∧ h.ask = ask) got
            ∧ lasts.length = h.lasts.length ∧ ∀ (n : Nat) l, h.lasts[n]? = some l → ∃ m l', lasts[n]? = some l' ∧ add l.lines (l.ask = ask) m
              ∧ l' = { l with awaits := if l.ask = ask then l.awaits - 1 else l.awaits, lines := m }))
    ∧ (∀ b bank ch ask, p.body = .unlock b bank ch ask →
        ∃ locks, exec (.ctrl p) s = .next { s with mem := { s.mem with locks := locks } }
          ∧ ∀ k, k ∈ locks ↔ k ∈ s.mem.locks ∧ ¬(k.braid = b ∧ k.bank = bank ∧ k.ch = ch ∧ k.ask = ask ∧ sliceStop (64 * k.line) = p.dest))
    ∧ (∀ id, p.body = .prepared id → exec (.ctrl p) s = .next { s with events := s.events.map fun e => if e.1 = id then (id, { e.2 with left := e.2.left - 1 }) else e })
    ∧ (∀ r l, p.body = .spawn r → s.launch r.launch = some l →
      let live := l.status = 0 ∧ l.doomed = false ∧ ∀ e ∈ s.heaps, ∀ n, r.round = some (e.1, n) → e.2.launch = l.uid → n ∉ e.2.voided
      (live → (∀ q ∈ l.spill, q.target ≠ r.target) → (s.braid r.target).taskQ.length < 64 →
        exec (.ctrl p) s = .next (s.modBraid r.target fun x => { x with taskQ := x.taskQ ++ [r] }))
      ∧ (live → ((∃ q ∈ l.spill, q.target = r.target) ∨ 64 ≤ (s.braid r.target).taskQ.length) →
        (∀ w at_, 128 * (l.spill.length + 1) ≤ l.tsps * 1024 → s.seqTouch l.vi .seqWrite (l.tspb + 128 * l.spill.length) 128 = (w, .ok at_) →
          exec (.ctrl p) s = .next ((w.homePuts l.vi (at_.zip (taskImage r.record))).modLaunch r.launch fun l => { l with spill := l.spill ++ [r] }))
        ∧ (∀ y, l.tsps * 1024 < 128 * (l.spill.length + 1) → (s.bank r.spawner r.spawnerBank).task = some y → y.launch = r.launch → y.sq = r.sq →
          exec (.ctrl p) s = .next (s.fault r.spawner r.spawnerBank
            { code := 3, src := 0, ctx := .X, epc := (s.bank r.spawner r.spawnerBank).x.pc, va := 0, write := true })))
      ∧ (¬ live → exec (.ctrl p) s = .next (s.modLaunch r.launch fun l => { l with pendingSpawns := l.pendingSpawns - 1 })))
    ∧ (∀ o h, p.body = .gain o → s.heap (16 * o.die + o.heap) = some h → p.src = p.dest →
        let joins := exec (.heap p) s = .next (s.modHeap (16 * o.die + o.heap) fun h => { h with heldOps := h.heldOps ++ [o] })
        (h.st ≠ .run → joins)
        ∧ (∀ r, h.st = .run → o.round = some r → h.roundOpen = true → h.paused = false → r = h.tries → o.launch = h.launch → joins)
        ∧ (∀ r, h.st = .run → o.round = some r → (h.roundOpen = false ∨ h.paused = true ∨ r ≠ h.tries ∨ o.launch ≠ h.launch) → exec (.heap p) s = .next s)
        ∧ (h.st = .run → o.round = none → ∃ n t, exec (.heap p) s = .next t ∧ t = { s with pending := t.pending, free := s.free + 1 }
            ∧ t.pending = s.pending ++ [(s.cycle + 1 + n, .event (.gainRefusal o) 0 0 0)]))
    ∧ (∀ o h, p.body = .gain o → s.heap (16 * o.die + o.heap) = some h → p.src ≠ p.dest → h.st = .fill →
        ∃ t, exec (.heap p) s = .next t ∧ t.heap (16 * o.die + o.heap) = some { h with heldOps := h.heldOps ++ [o] }
          ∧ (t.braid p.dest).ctlQ = (s.braid p.dest).ctlQ ++ [⟨1, p.dest, p.src, 0, 0, 1, s.cfg.dev, s.cfg.dev, .empty⟩] ∧ t.mem = s.mem)
    ∧ (∀ o y, (s.bank o.braid o.bank).task = some y →
        (y.launch = o.launch → y.tid = o.issuer →
          exec (.gainRefusal o) s = .next (s.fault o.braid o.bank { code := 18, src := 0, ctx := .X, epc := o.pc }))
        ∧ (y.launch ≠ o.launch ∨ y.tid ≠ o.issuer → exec (.gainRefusal o) s = .next s))

/-- R195, R199, R226, R234, R235, R236, R245, R249, R251, R340: once every participant has arrived the event is checked and its preparation
opens; the first participant, by id, that writes beyond the event's region takes the fault at its lowest such byte, else a byte that two
write is the fault of the lower id; when its write set stands prepared, and no tile load holds a lock of its lines, it is applied whole, each
byte with its last writer's value and an integer reduction's word with its result, its participants' buffers are empty and BEGUN counts it;
what it does not write stands as it stood, and its interface reads it as before, where the L2 does not hold it for another; when it has been applied ENDED counts it
and its participants' commits may retire, a root sending BARR to its members as its control queue has room. A round's event counts as a
phase of the launch's tasks on the heap's members (model's reading: log entry 97). Model's readings: one record for each pair of writers
(log entry 59), and a group applied in one action (log entry 102). -/
def Obligations.CommitEventsRun : Prop :=
  ∀ (s : State) (b bank z id : Nat),
    let k := s.bank b bank
    let beyond (level : Nat) (p : Part) (x : Nat) : Prop :=
      (∃ l ∈ p.allLines, l.page.kind = 1 ∧ level < l.page.olev ∧ ∃ e ∈ l.bytes, x = l.pa + e.1) ∨ ∃ r ∈ p.reds, level < r.red.level ∧ x = r.red.pa
    let both (p q : Part) : Prop := ∃ l ∈ p.allLines, ∃ m ∈ q.allLines, l.pa = m.pa ∧ ∃ e ∈ l.bytes, thas m.bytes e.1 = true
    (∀ a y, s.cur = .agent b bank z → bank < 2 → k.arrive = some a → k.task = some y →
      let ps := sortBy Part.before ((s.partBanks b bank a.level).map fun e => s.partOf e.1 e.2)
      let come := (s.members b bank a.level).headD b = b
        ∧ ∀ m ∈ s.members b bank a.level, m ≠ b → (y.launch, a.level, a.gen, m) ∈ (s.braid b).baras
      (a.event = none → a.passed = false → k.mode = .running → come → eventCheck a.level ps = none →
        ∃ t e, exec .commitEvent s = .next t ∧ t.events.find? (fun e => e.1 == s.eventNext) = some (s.eventNext, e) ∧ t.eventNext = s.eventNext + 1
          ∧ e.level = a.level ∧ e.vi = y.vi ∧ e.round = none ∧ e.parts = ps ∧ e.begun = false ∧ t.mem = s.mem
          ∧ (t.bank b bank).arrive = some { a with event := some s.eventNext } ∧ (∀ c, (t.braid c).sram = (s.braid c).sram)
          ∧ ∀ r, r ∈ (t.braid b).baras ↔ r ∈ (s.braid b).baras ∧ ¬(r.1 = y.launch ∧ r.2.1 = a.level ∧ r.2.2.1 = a.gen))
      ∧ (∀ p f, a.event = none → a.passed = false → k.mode = .running → come → eventCheck a.level ps = some (p, f) →
        exec .commitEvent s = .next (s.raise p.braid p.bank { f with epc := (s.bank p.braid p.bank).x.pc }))
      ∧ (¬ come ∨ a.event ≠ none ∨ a.passed = true ∨ k.mode ≠ .running → exec .commitEvent s = .next s))
    ∧ (∀ level pre p post x, (∀ q ∈ pre, ∀ y, ¬ beyond level q y) → beyond level p x → (∀ y, beyond level p y → x ≤ y) →
        eventCheck level (pre ++ p :: post) = some (p, { code := 11, src := 0, ctx := .X, epc := 0, va := x, write := true }))
    ∧ (∀ level pre p mid q post, (∀ r ∈ pre ++ p :: mid ++ q :: post, ∀ y, ¬ beyond level r y) → both p q →
        ∃ r f, eventCheck level (pre ++ p :: mid ++ q :: post) = some (r, f) ∧ f.code = 14 ∧ f.write = true ∧ r.tid ≤ f.tid2
          ∧ (r.tid < min p.tid q.tid ∨ r.tid = min p.tid q.tid ∧ f.tid2 ≤ max p.tid q.tid))
    ∧ (∀ level ps r f, eventCheck level ps = some (r, f) → r ∈ ps ∧ f.src = 0 ∧ f.ctx = .X ∧ f.write = true
        ∧ (f.code = 11 ∧ beyond level r f.va ∨ f.code = 14 ∧ r.tid ≤ f.tid2 ∧ (∀ p ∈ ps, ∀ y, ¬ beyond level p y) ∧ ∃ q ∈ ps, q.tid = f.tid2))
    ∧ (∀ e i, s.cur = .agent id bank z → s.events.find? (fun e => e.1 == id) = some (id, e) → s.iface e.vi = some i →
      let locked : Prop := ∃ k ∈ s.mem.locks, ∃ p ∈ e.parts, ∃ l ∈ p.allLines, l.pa / 64 = k.line
      (e.begun = false → e.left = 0 → ¬ locked →
        ∃ t, exec .eventPrepared s = .next t ∧ t.events.find? (fun e => e.1 == id) = some (id, { e with begun := true })
          ∧ t.iface e.vi = some { i with begun := (i.begun + 1) % 2 ^ 32 }
          ∧ (e.round = none → ∀ p ∈ e.parts, p.bank < 2 → let n := t.bank p.braid p.bank
              n.spilled = [] ∧ n.parked = [] ∧ n.staged = [] ∧ n.reds = [] ∧ n.conflicts = [])
          ∧ (s.memOk → (∀ p ∈ e.parts, p.reds = []) →
              let cells := (e.parts.map fun p => (p.groups.map fun g => (g.2.2.map MLine.cells).flatten).flatten).flatten
              (∀ x ∈ cells, isLpddr x.1 = true) → ∀ a, isLpddr a = true →
                let ln := a / 64
                (∀ x, cells.reverse.find? (fun x => x.1 == a) = some x →
                  t.mem.stored a = x.2 ∧ t.mem.storedKey ln = s.keyOf e.vi ∧ t.homeByte e.vi a = x.2)
                ∧ ((∀ x ∈ cells, x.1 / 64 ≠ ln) → t.mem.stored a = s.mem.stored a ∧ t.mem.storedKey ln = s.mem.storedKey ln)
                ∧ ((∀ x ∈ cells, x.1 ≠ a) → s.mem.storedKey ln = 0 ∨ s.mem.storedKey ln = s.keyOf e.vi → thas s.mem.l2Data ln = thas s.mem.l2Key ln →
                  t.homeByte e.vi a = s.homeByte e.vi a))
          ∧ (∀ p r, s.memOk → e.parts = [p] → p.allLines = [] → p.reds = [r] → r.red.op ≤ 2 → isLpddr r.red.pa = true →
              let n := if r.red.wide then 8 else 4
              let old := s.homeNat e.vi r.red.pa n
              let v := t.homeNat e.vi r.red.pa n
              n ≤ r.red.cut → r.red.pa % n = 0 → r.red.x.toNat < 2 ^ (8 * n) →
              (r.red.op = 0 → v = (old + r.red.x.toNat) % 2 ^ (8 * n))
              ∧ (r.red.op = 1 → (v = old ∨ v = r.red.x.toNat)
                ∧ intValue (8 * n) r.red.z v = min (intValue (8 * n) r.red.z old) (intValue (8 * n) r.red.z r.red.x.toNat))
              ∧ (r.red.op = 2 → (v = old ∨ v = r.red.x.toNat)
                ∧ intValue (8 * n) r.red.z v = max (intValue (8 * n) r.red.z old) (intValue (8 * n) r.red.z r.red.x.toNat))))
      ∧ (e.begun = true ∨ e.left ≠ 0 ∨ locked → exec .eventPrepared s = .next s)
      ∧ (∀ p a, z = 0 → e.begun = true → e.round = none → e.level = 0 → e.parts = [p] → p.bank < 2 →
          (s.bank p.braid p.bank).arrive = some a → a.event = some id → a.level = 0 → a.released = false →
        ∃ t, exec .eventComplete s = .next t ∧ (t.bank p.braid p.bank).arrive = some { a with passed := true, barr := [], released := true }
          ∧ thas t.events id = false ∧ t.mem = s.mem ∧ ∃ j, t.iface e.vi = some j ∧ j.ended = (i.ended + 1) % 2 ^ 32 ∧ j.begun = i.begun)
      ∧ (∀ die n h, z = 0 → e.begun = true → (e.level = 3 → s.stableAway e.vi = []) → e.round = some (die, n) → s.heap (16 * die + n) = some h → h.members.Nodup →
        ∃ t, exec .eventComplete s = .next t ∧ t.heap (16 * die + n) = some { h with committing := false, updating := h.committing, parts := [] }
          ∧ thas t.events id = false ∧ ∀ m ∈ h.members, ∀ i < 2, ∀ y, (s.bank m i).task = some y →
            (t.bank m i).task = some (if y.launch = h.launch then { y with phase := y.phase + 1 } else y))
      ∧ (e.begun = false → z = 0 → exec .eventComplete s = .next s))
    ∧ ∀ a, s.cur = .agent b bank 1 → bank < 2 → k.arrive = some a → a.passed = true → a.released = false → (s.members b bank a.level).headD b = b →
        let barr (m : Nat) : Packet := ⟨3, b, m, 0, 2048 * a.level + a.gen, 1, s.cfg.dev, s.cfg.dev, .empty⟩
        ((s.braid b).ctlQ.length + a.barr.length ≤ 32 →
          ∃ t, exec .eventComplete s = .next t ∧ onlyBraidOf s t b ∧ (t.bank b bank).arrive = some { a with barr := [], released := true }
            ∧ (t.braid b).ctlQ = (s.braid b).ctlQ ++ a.barr.map barr)
        ∧ (∀ now later, a.barr = now ++ later → later ≠ [] → (s.braid b).ctlQ.length + now.length = 32 →
          ∃ t, exec .eventComplete s = .next t ∧ onlyBraidOf s t b ∧ (t.bank b bank).arrive = some { a with barr := later }
            ∧ (t.braid b).ctlQ = (s.braid b).ctlQ ++ now.map barr)

/-- R198, R199, R200, R201, R203: a heap takes the gains it holds as its fill ends, pops in each round at most K entries of the highest gains
above 0, the lower task id first among equals, places them by task id and starts each with its id, gain and round; when they have ended the
round's event opens; a batch is checked whole before any of it is applied, and its failure has its status; the end of a round counts it, and
a heap completes with status 1 when none is left to pop, with 0 below its tolerance, with 2 at its last round. Model's choices: the area of
a member's next round task (log entry 53), which invalid operation is named and that a fresh install drops held ones (log entry 71), the
bank (log entry 63), a gain set to what it is (log entry 109), a round popped as its launch is pre-empted (log entry 116), a braid that
still holds a task of the launch (log entry 117). -/
def Obligations.HeapRoundsRun : Prop :=
  ∀ (s : State) (die n i : Nat) (h : Heap),
    let key := 16 * die + n
    let set (g : Heap) : Prop := exec .heapRun s = .next (s.modHeap key fun _ => g)
    let first (a b : HEntry) : Prop := b.gain.toNat < a.gain.toNat ∨ a.gain = b.gain ∧ a.tid ≤ b.tid
    let o := h.open_
    (s.cur = .agent die n i → s.heap key = some h →
      (h.st = .done → exec .heapRun s = .next s)
      ∧ (h.st = .fill → s.fillOver h = false → exec .heapRun s = .next s)
      ∧ (∀ h1, h.st = .fill → s.fillOver h = true → h.applyAll (batchOrder h.heldOps) = .ok h1 → set { h1 with st := .run, heldOps := [], r := (pairWord h1.resid).1 })
      ∧ (∀ st o, h.st = .fill → s.fillOver h = true → h.applyAll (batchOrder h.heldOps) = .error (st, o) → exec .heapRun s = .next (s.batchFails key st o))
      ∧ (h.st = .run → h.updating = false → h.committing = false → h.paused = false → h.roundOpen = false →
          (h.pop = [] → exec .heapRun s = .next (s.completeHeap key 1 0 0))
          ∧ (h.pop ≠ [] → exec .heapRun s = .next (s.modHeap key Heap.open_)))
      ∧ (h.st = .run → h.updating = false → h.committing = false → h.paused = false → h.roundOpen = true →
          (h.ended.length ≠ h.popped.length → exec .heapRun s = .next s)
          ∧ (h.ended.length = h.popped.length → n < 16 → eventCheck h.level (sortBy Part.before h.parts) = none →
            ∃ t e, exec .heapRun s = .next t ∧ t.events.find? (fun e => e.1 == s.eventNext) = some (s.eventNext, e) ∧ t.eventNext = s.eventNext + 1
              ∧ e.level = h.level ∧ e.vi = h.vi ∧ e.round = some (die, n) ∧ e.parts = sortBy Part.before h.parts ∧ e.begun = false
              ∧ t.heap key = some { h with committing := true } ∧ t.mem = s.mem))
      ∧ (h.st = .run → h.updating = false → (h.committing = true ∨ h.paused = true) → exec .heapRun s = .next s)
      ∧ (∀ st o, h.st = .run → h.updating = true → h.applyAll (batchOrder h.heldOps) = .error (st, o) → exec .heapRun s = .next (s.batchFails key st o))
      ∧ (∀ h1, h.st = .run → h.updating = true → h.applyAll (batchOrder h.heldOps) = .ok h1 →
          let r := (pairWord h1.resid).1
          let h2 : Heap := { h1 with heldOps := [], updating := false, roundOpen := false, popped := [], started := [], ended := [], round := h1.round + 1, r := r }
          let below := (match valW r, valW h.tol with
            | .nan _, _ => false
            | a, b => Fp.lt a b)
          (below = false → h2.round ≠ h2.maxr → set h2) ∧ (below = true → exec .heapRun s = .next ((s.modHeap key fun _ => h2).completeHeap key 0 0 0))
          ∧ (below = false → h2.round = h2.maxr → exec .heapRun s = .next ((s.modHeap key fun _ => h2).completeHeap key 2 0 0))))
    ∧ (h.pop.length ≤ h.k ∧ (∀ e ∈ h.pop, e ∈ h.entries ∧ 0 < e.gain.toNat) ∧ h.pop.Pairwise first
        ∧ ((∃ e ∈ h.entries, 0 < e.gain.toNat) → 0 < h.k → h.pop ≠ [])
        ∧ ∀ e ∈ h.entries, 0 < e.gain.toNat → e ∉ h.pop → h.pop.length = h.k ∧ ∀ q ∈ h.pop, first q e)
    ∧ (o = { h with entries := o.entries, popped := o.popped, started := [], ended := [], parts := [], roundOpen := true, tries := h.tries + 1 }
        ∧ o.entries = (h.entries.map fun e => if h.pop.any fun q => q.tid == e.tid then { e with popped := true } else e)
        ∧ (o.popped.map Prod.fst).Pairwise (· ≤ ·) ∧ o.popped.length = h.pop.length
        ∧ ∀ x, x ∈ o.popped ↔ ∃ e ∈ h.pop, x = (e.tid, e.gain, e.entry, e.args))
    ∧ (∀ w : Word32, gainOk w = true ↔ ¬ fp32Nan w ∧ (w.getLsbD 31 = false ∨ fp32Zero w))
    ∧ (∀ l : List HeapOp, (∃ o ∈ l, gainOk o.x = false) → ∃ o ∈ l, gainOk o.x = false ∧ h.applyAll l = .error (3, o))
    ∧ (∀ (l : List HeapOp) h1, h.applyAll l = .ok h1 ↔ (∀ o ∈ l, gainOk o.x = true) ∧ h.applyEach l = .ok h1)
    ∧ (∀ (l : List HeapOp) o, (∀ q ∈ l, gainOk q.x = true) → (h.applyAll l = .error (4, o) ↔ h.applyEach l = .error o))
    ∧ (∀ (o : HeapOp) (r : List HeapOp), (∀ h1, h.applyOp o = some h1 → h.applyEach (o :: r) = h1.applyEach r)
        ∧ (h.applyOp o = none → h.applyEach (o :: r) = .error o) ∧ h.applyEach [] = .ok h)
    ∧ (∀ o : HeapOp, (∀ e ∈ h.entries, e.tid ≠ o.target) →
        (∀ r, o.kind = .insert → o.record = some r → h.cap ≤ h.entries.length → h.applyOp o = none)
        ∧ (∀ r, o.kind = .insert → o.record = some r → h.entries.length < h.cap → ∃ h1, h.applyOp o = some h1
            ∧ h1.entries = h.entries ++ [⟨o.target, if r.gain = 0x80000000 then 0 else r.gain, r.entry, r.args, false⟩])
        ∧ (o.kind ≠ .insert → h.applyOp o = some h))
    ∧ (∀ (o : HeapOp) l1 e l2, h.entries = l1 ++ e :: l2 → (∀ q ∈ l1 ++ l2, q.tid ≠ e.tid) → o.target = e.tid → o.kind ≠ .insert →
        let g := (match o.kind with
          | .add => (fl32 false (Fp.sum false [valW e.gain, valW o.x])).1
          | .max => if e.gain.toNat < (if o.x = 0x80000000 then 0 else o.x.toNat) then o.x else e.gain
          | _ => o.x)
        ∃ h1, h.applyOp o = some h1 ∧ h1.entries = l1 ++ { e with gain := if g = 0x80000000 then 0 else g } :: l2)
    ∧ ∀ (l : Launch) (tid : Nat) (gain : Word32) (entry : Nat) (args : List Word64),
      let b := h.members.getD (i % h.members.length) 0
      let x := s.braid b
      s.cur = .agent die n i → s.heap key = some h → s.launch h.launch = some l → h.popped[i]? = some (tid, gain, entry, args) → args.length = 12 → l.wmap = 0 →
      h.roundOpen = true → h.committing = false → h.updating = false → h.paused = false → h.started.contains i = false →
      (i < h.members.length ∨ h.ended.contains (i - h.members.length) = true) → l.doomed = false → l.preempted = false → x.outOfService = false →
      x.b0.mode.occupies = false → x.b1.mode.occupies = false → (x.b0.task = none ∨ x.b1.task = none) → s.bankOf b l.uid = none →
      ∃ t y, exec .roundTaskStart s = .next t
        ∧ taskStarts s t b (s.emptyBank b l.uid) y (args ++ [BitVec.ofNat 64 tid, gain.setWidth 64, BitVec.ofNat 64 h.round])
        ∧ y.tid = tid ∧ y.gain = gain ∧ y.round = some (die, n, i) ∧ y.entry = BitVec.ofNat 48 entry ∧ y.launch = l.uid ∧ y.rank = i % h.members.length
        ∧ t.heap key = some { h with started := i :: h.started } ∧ t.mem = s.mem

/-- R231, R248, R249, R253, R255, R259 to R265, R277, R300, R342, R359, R368: the head command of a channel starts once its predecessors hold,
its drain tile stands and its pages translate, and keeps their translation; it asks the slice of each line of a piece once, at most 28 lines
to a packet, takes a superblock it pins but once, and, when the answers have come, releases what a tile load locked, and reads the piece into
SRAM element by element with 0 outside the tensor, or stages its lines, or one addition for each inside element; after the last piece it
retires. A removed command's last piece is done when its lines have come. A fault is one of its cycle's for the task that issued the command,
and only recorded where that runs no more in the bank. Which of two values both allowed a byte takes is free. Model's choices: values free
byte by byte (log entry 11), what an acquire covers (log entry 12), ENGINE packets (log entry 40), inserted idle cycles (log entry 67),
which entry of the area a line takes (log entry 106). -/
def Obligations.CopiesRunPieceByPiece : Prop :=
  ∀ (s : State) (b bank ch : Nat) (c : CopyCmd) (rest : List CopyCmd),
    let h := (s.bank b bank).chan ch
    let q := h.pieces
    let set (w t : State) (g : Chan) : Prop := onlyBraidOf w t b ∧ (t.bank b bank).chan ch = g
    let progress := if q + 1 < c.pieces then { h with pieces := q + 1, asked := false, awaits := 0, lines := [] } else { h with
      queue := rest, running := false, pieces := 0, asked := false, awaits := 0, lines := [], done := c.num, tile := if c.src then none else h.tile }
    let fault (code va : Nat) : FaultInfo := { code, src := 0, ctx := c.ctx, epc := c.pc, va, write := c.isOut, engine := true }
    let ready := s.chansRun b bank = true ∧ s.refsHold b bank c.preds = true ∧ (c.src = true → ∃ d, h.tile = some d ∧ d.full = true)
    let fits := c.src = true → ∃ d, h.tile = some d ∧ d.fmt = c.fmt ∧ 8 * d.data.length = c.count * c.bits_
    let walk := s.walkPages c.vi b c.access (firstPages [] (((upto 0 c.count).filter c.inside).map c.elemBytes).flatten) h.tlb
    let lines := linesOf ((c.pieceBytes h q).map fun e => e.2.1)
    let image (i : Nat) : Byte := if c.src then (match h.tile with
      | some d => d.data.getD i 0
      | none => 0) else (s.braid b).sramAt (c.local_ + i)
    let clear (g : Chan) (c : CopyCmd) (q : Nat) : Prop := ∀ e ∈ c.pieceBytes g q,
      (tget ⟨[], false⟩ g.lines (e.2.1 / 64)).poison = false ∧ (leafKind e.2.2 = 2 → s.mem.quarantined e.2.1 = false)
    let loads (g : Chan) (c : CopyCmd) (q : Nat) (t : State) : Prop := ∀ f ∈ c.pieceElems q, ∃ byte : Nat → Byte,
      (c.inside f = false → ∀ i, byte i = 0)
      ∧ (c.inside f = true → ∀ i < c.bytes_, ∀ pa leaf, g.copyPa (((c.elemAt f).1 + i) % 2 ^ 48) = some (pa, leaf) → mayCopy s b bank g c pa leaf (byte i))
      ∧ (c.bits_ ≠ 4 → ∀ i < c.bytes_, (t.braid b).sramNow (c.local_ + f * c.bytes_ + i) = byte i)
      ∧ (c.bits_ = 4 → ((t.braid b).sramNow (c.local_ + f / 2) >>> (4 * (f % 2))) &&& 15 = (if (c.elemAt f).2 then byte 0 >>> 4 else byte 0) &&& 15)
    let does := h.running = true ∧ h.asked = true ∧ h.awaits = 0
    s.cur = .agent b bank ch → bank < 2 →
    (∀ p, h.queue = [] → h.lasts = [p] → p.awaits = 0 → p.cmd.local_ + p.cmd.size ≤ 0xC00000 →
      let g : Chan := { h with lines := p.lines, pages := p.pages }
      clear g p.cmd p.piece → ∃ t, exec .copyPiece s = .next t ∧ (t.bank b bank).chan ch = { h with lasts := [] } ∧ t.mem = s.mem ∧ loads g p.cmd p.piece t)
    ∧ (h.queue = [] → (∀ p ∈ h.lasts, p.awaits ≠ 0) → exec .copyPiece s = .next s)
    ∧ (h.queue = c :: rest → (∀ p ∈ h.lasts, p.awaits ≠ 0) →
    (h.running = true ∨ h.stalled = true ∨ ¬ ready → exec .copyStart s = .next s)
    ∧ (h.running = false → h.stalled = false → ready →
      (¬ fits → ∃ t, exec .copyStart s = .next t ∧ set s t { h with failing := some (fault 2 0) })
      ∧ (∀ w tlb pages, fits → walk = (w, tlb, .ok pages) → ∃ t, exec .copyStart s = .next t
          ∧ set w t { h with tlb := tlb, pages := pages, running := true, pieces := 0, asked := false, awaits := 0, lines := [], pinned := [] })
      ∧ (∀ w tlb va code, fits → walk = (w, tlb, .error (.fault va code)) → ∃ t, exec .copyStart s = .next t
          ∧ set w t { h with tlb := tlb, failing := some (fault code va) }))
    ∧ (∀ f, h.failing = some f →
      let left : Chan := { h with failing := none, stalled := f.resumes, asked := false, awaits := 0, lines := [] }
      ((s.bank b bank).task.map Task.sq = some c.owner → ∃ u, set s u left ∧ exec .copyPiece s = .next (u.defer b bank f))
      ∧ ((s.bank b bank).task.map Task.sq ≠ some c.owner → ∃ u, set s u left
          ∧ exec .copyPiece s = .next (u.postDevice (faultRecord f false (u.arcNo c.vi b) bank c.vi 0xFFFFFFFF 0 u.clock.slot 0 0))))
    ∧ (h.failing = none →
      (h.running = false → exec .copyPiece s = .next s)
    ∧ (h.running = true → h.asked = false → (s.chansRun b bank = false ∨ h.stalled = true ∨ s.cycle < s.boot.gapTill (Braid.isEast b)) → exec .copyPiece s = .next s)
    ∧ (h.running = true → h.asked = false → s.chansRun b bank = true → h.stalled = false → s.boot.gapTill (Braid.isEast b) ≤ s.cycle →
        let runs := sliceRuns lines
        let request (r : Nat × List Nat) : Packet :=
          ⟨14, b, r.1, 0, 0, max 1 (((if c.isOut then 64 else 8) * r.2.length + 111) / 112), s.cfg.dev, s.cfg.dev,
            .engine b bank ch (h.ask + 1) c.vi (!c.isOut) false (if c.isOut = false ∨ c.bits_ = 4 then r.2.map fun ln => (ln, [], false) else [])⟩
        (∀ r ∈ runs, r.2 ≠ [] ∧ r.2.length ≤ 28 ∧ ∀ ln ∈ r.2, sliceStop (64 * ln) = r.1) ∧ (∀ ln, (runs.map fun r => r.2.count ln).sum = lines.count ln)
        ∧ ∃ t pins, exec .copyPiece s = .next t
          ∧ (t.bank b bank).chan ch = { h with asked := true, ask := h.ask + 1, awaits := runs.length, lines := [], pinned := pins ++ h.pinned }
          ∧ pins.Nodup ∧ (∀ x, x ∈ pins ↔ c.pin = true ∧ x ∉ h.pinned ∧ ∃ ln ∈ lines, ln / 4 = x) ∧ keptMem s t
          ∧ (t.braid b).memQ = (s.braid b).memQ ++ (runs.filter fun r => r.1 != b).map request
          ∧ t.pending = s.pending ++ (runs.filter fun r => r.1 == b).map fun r => (s.cycle + 1, packetEvent (request r)))
    ∧ (h.running = true → h.asked = true → h.awaits ≠ 0 → exec .copyPiece s = .next s)
    ∧ (does → c.isOut = false → c.local_ + c.size ≤ 0xC00000 → clear h c q →
        ∃ t, exec .copyPiece s = .next t ∧ (t.bank b bank).chan ch = progress ∧ t.mem = s.mem ∧ loads h c q t
          ∧ let stops := distinct (h.lines.map fun e => sliceStop (64 * e.1))
            let release (stop : Nat) : Packet := ⟨15, b, stop, 0, 0, 1, s.cfg.dev, s.cfg.dev, .unlock b bank ch h.ask⟩
            (t.braid b).memQ = (s.braid b).memQ ++ (stops.filter fun x => x != b).map release
            ∧ t.pending = s.pending ++ (stops.filter fun x => x == b).map fun x => (s.cycle + 1, packetEvent (release x)))
    ∧ (does → c.isOut = true → c.op = 0 →
        let made := s.pieceLines b bank c q
        let placed := made.1.zip ((s.bank b bank).freeEntries made.1.length)
        let group := match (s.bank b bank).task with
          | some y => y.groups + 1
          | none => 1
        (∀ u, made.1 ≠ [] → s.areaPuts b bank group c.k c.sid placed = (u, none) →
          ∃ t, exec .copyPiece s = .next t ∧ (t.bank b bank).chan ch = progress ∧ t.mem = u.mem
            ∧ (t.bank b bank).staged = (s.bank b bank).staged ++ [⟨c.k, q, ch, c.num, placed.map fun e => ({ e.1 with slot := some e.2 } : MLine)⟩]
            ∧ (t.bank b bank).conflicts = made.2 ++ (s.bank b bank).conflicts)
        ∧ (c.bits_ ≠ 4 →
          (∀ f ∈ c.pieceInside q, ∀ i < c.bytes_, ∀ pa leaf, h.copyPa (((c.elemAt f).1 + i) % 2 ^ 48) = some (pa, leaf) →
            ∃ l ∈ made.1, l.pa = 64 * (pa / 64) ∧ thas l.bytes (pa % 64) = true)
          ∧ ∀ l ∈ made.1, ∀ e ∈ l.bytes, e.2.tag = c.sid ∧ ∃ f ∈ c.pieceInside q, ∃ i < c.bytes_, ∃ leaf,
            h.copyPa (((c.elemAt f).1 + i) % 2 ^ 48) = some (l.pa + e.1, leaf) ∧ e.2.val = image (f * c.bytes_ + i)))
    ∧ (does → c.isOut = true → c.op = 1 → c.fmt = 0 ∨ c.fmt = 9 ∨ c.fmt = 10 ∨ c.fmt = 13 →
        (∀ f ∈ c.pieceInside q, ∀ i < c.bytes_, (h.copyPa (((c.elemAt f).1 + i) % 2 ^ 48)).isSome = true) →
        ∃ t, ∃ items : List RedItem, exec .copyPiece s = .next t ∧ (t.bank b bank).reds = (s.bank b bank).reds ++ items ∧ (t.bank b bank).chan ch = progress ∧ t.mem = s.mem
          ∧ items.length = (c.pieceInside q).length ∧ ∀ (j f : Nat), (c.pieceInside q)[j]? = some f → ∃ it : RedItem, items[j]? = some it
            ∧ it.place = c.place ∧ it.copied = true
            ∧ (∀ i < c.bytes_, ∃ leaf, h.copyPa (((c.elemAt f).1 + i) % 2 ^ 48) = some ((redAddrs it.red).getD i 0, leaf) ∧ leafOlev leaf ≤ it.red.level)
            ∧ (redAddrs it.red).length = c.bytes_ ∧ it.red.comp = false
            ∧ it.red.op = (if c.fmt = 0 then 3 else if c.fmt = 13 then 4 else 0)
            ∧ it.red.x = BitVec.ofNat 64 (leNat ((upto (f * c.bytes_) c.bytes_).map image)))))

/-- R253, R255, R268, R271, R275, R277, R285, R300, R321, R342, R359, R368: a Reeve command starts on its session's image once its predecessors
hold, and asks the slices of the frame's slots; RVIN writes each granule's half H with the frame's bytes and clears the tags it meets; RVOUT
makes an image that shares what it does not write with the one it began on, brings its new slots' bytes to their homes, and, when these have
answered, makes it the session's if the epoch still stands. A fault of its start is taken in the Reeve's turn. Model's choices: where the
frame store lies (log entry 33), ENGINE packets (log entry 40), a resident check's fault (log entry 61), inserted idle cycles (log entry 67),
a frame moved in one action at the command's end (log entry 72). -/
def Obligations.ReeveMovesFrames : Prop :=
  ∀ (s : State) (b bank z : Nat) (c : ReeveCmd) (rest : List ReeveCmd) (i : Iface),
    let k := s.bank b bank
    let r := k.rv
    let x := s.braid b
    let retired : Rv := { r with queue := rest, done := c.num, running := false, img := none, asked := false, awaits := 0, failing := none, made := none }
    let ready := s.reeveRuns b bank = true ∧ s.refsHold b bank c.preds = true ∧ s.boot.gapTill (Braid.isEast b) ≤ s.cycle
    let begun : Image := match r.img with
      | some m => i.image m
      | none => ⟨[], 0, 0⟩
    let drop (j : Iface) : Option Nat → Iface
      | some m => j.dropImage m
      | none => j
    let sends (t : State) (runs : List (Nat × List Nat)) (bytes : Nat → List Byte) : Prop :=
      let request (e : Nat × List Nat) : Packet :=
        ⟨14, b, e.1, 0, 0, max 1 (((e.2.map fun ln => max 8 (bytes ln).length).sum + 111) / 112), s.cfg.dev, s.cfg.dev,
          .engine b bank 4 0 c.vi false false (e.2.map fun ln => (ln, bytes ln, false))⟩
      (t.braid b).memQ = x.memQ ++ (runs.filter fun e => e.1 != b).map request
        ∧ t.pending = s.pending ++ (runs.filter fun e => e.1 == b).map fun e => (s.cycle + 1, packetEvent (request e))
    s.cur = .agent b bank z → bank < 2 → r.queue = c :: rest → s.iface c.vi = some i →
    (r.running = false → ready → (i.session c.sid).cur = none →
        ∃ t, exec .reeveStart s = .next t ∧ (t.bank b bank).rv = { r with running := true, img := none, asked := true, awaits := 0 }
          ∧ t.mem = s.mem ∧ (t.braid b).sram = x.sram ∧ t.iface c.vi = some i)
    ∧ (∀ m, r.running = false → ready → (i.session c.sid).cur = some m →
      (∀ j, i.takeImage m = some j →
        let runs := sliceRuns (((i.image m).touched c.sg c.cnt).map fun n => upto (s.mem.slotPa c.vi n / 64) 64).flatten
        ∃ t, exec .reeveStart s = .next t ∧ (t.bank b bank).rv = { r with running := true, img := some m, asked := true, awaits := runs.length }
          ∧ t.mem = s.mem ∧ (t.braid b).sram = x.sram ∧ t.iface c.vi = some j ∧ sends t runs (fun _ => []))
      ∧ (i.takeImage m = none → exec .reeveStart s = .next (s.modBank b bank fun k => { k with rv := { k.rv with failing := some 17 } })))
    ∧ (r.running = true ∨ ¬ ready → exec .reeveStart s = .next s)
    ∧ (∀ code, r.failing = some code → (c.isOut = false → exec .rvinRetire s = .next (s.reeveFault c code))
        ∧ (c.isOut = true → exec .rvoutRetire s = .next (s.reeveFault c code)))
    ∧ (∀ m, r.failing = none → r.running = true → r.awaits = 0 → c.isOut = false → r.img = some m →
      (s.rvinPoison c (i.image m) = none → c.launch = none → c.bank < 2 → c.first + c.cnt < 24576 →
        ∃ t, exec .rvinRetire s = .next t ∧ (t.bank b bank).rv = retired ∧ t.mem = s.mem ∧ (t.braid b).tags = x.tags.filter (fun t => !t.meets c)
          ∧ t.iface c.vi = some (i.dropImage m)
          ∧ (∀ j ≤ c.cnt, ∀ o < 64, (t.braid b).sramNow (halfBase (24576 * c.bank + c.first + j) (tget false x.h (24576 * c.bank + c.first + j)) + o)
              = (i.granule (i.image m) (c.sg + j)).getD o 0)
          ∧ ∀ a, (∀ j ≤ c.cnt, ∀ o < 64, a ≠ halfBase (24576 * c.bank + c.first + j) (tget false x.h (24576 * c.bank + c.first + j)) + o) →
              (t.braid b).sramNow a = x.sramNow a)
      ∧ (∀ line, s.rvinPoison c (i.image m) = some line → exec .rvinRetire s = .next ((s.modIface c.vi fun i => i.dropImage m).reeveFault c 20 line)))
    ∧ (r.failing = none → r.running = true → r.awaits = 0 → c.isOut = true →
      let data (sg : Nat) : List Byte :=
        x.sramRead (halfBase (24576 * c.bank + c.first + (sg - c.sg)) (tget false x.h (24576 * c.bank + c.first + (sg - c.sg)))) 64
      (∀ j n, r.made = none → i.writeOut begun c data = some (j, n) →
        let slots := (j.image n).touched c.sg c.cnt
        let runs := sliceRuns (slots.map fun n => upto (s.mem.slotPa c.vi n / 64) 64).flatten
        let page (y : Nat) : Nat := s.mem.slotPa c.vi y / 4096
        ∃ t bytes, exec .rvoutRetire s = .next t ∧ (t.bank b bank).rv = { r with made := some n, awaits := runs.length } ∧ t.mem = s.mem
          ∧ (t.braid b).sram = x.sram ∧ t.iface c.vi = some j ∧ sends t runs bytes
          ∧ ∀ (o : Nat) y ln, slots[o]? = some y → page y = ln / 64 → (∀ p < o, ∀ y, slots[p]? = some y → page y ≠ ln / 64) →
              bytes ln = j.granule (j.image n) (64 * (c.sg / 64 + o) + ln % 64))
      ∧ (r.made = none → i.writeOut begun c data = none → exec .rvoutRetire s = .next ((s.modIface c.vi fun i => drop i r.img).reeveFault c 17))
      ∧ (∀ n, r.made = some n →
        ∃ t, exec .rvoutRetire s = .next t ∧ (t.bank b bank).rv = retired ∧ t.mem = s.mem ∧ (t.braid b).sram = x.sram
          ∧ ((i.session c.sid).epoch = c.epoch → t.iface c.vi
              = some (drop (drop (i.setSession c.sid { i.session c.sid with cur := some n }) (i.session c.sid).cur) r.img))
          ∧ ((i.session c.sid).epoch ≠ c.epoch → t.iface c.vi = some (drop (i.dropImage n) r.img))))
    ∧ (∀ (base : Image) (data : Nat → List Byte) j n, i.writeOut base c data = some (j, n) → (∀ y, some y ∈ base.slots → thas i.slotRefs y = true) →
        (∀ sg, (data sg).length = 64) → (j.image n).len = max base.len (c.sg + c.cnt + 1) ∧ (j.image n).refs = 1 ∧ j.sessions = i.sessions
          ∧ (∀ sg, c.sg ≤ sg → sg ≤ c.sg + c.cnt → j.granule (j.image n) sg = data sg)
          ∧ (∀ sg < base.len, sg < c.sg ∨ c.sg + c.cnt < sg → j.granule (j.image n) sg = i.granule base sg))
    ∧ (r.failing = none → r.running = false ∨ r.awaits ≠ 0 → exec .rvinRetire s = .next s ∧ exec .rvoutRetire s = .next s)

/-- R222, R305, R306, R313, R316, R349: a bank that is to stop is saved once its open jobs, copy pieces and Reeve command are over; its
page-not-present fault goes to the host with a TOKEN; a light fault sets A, or A and D, in the entry; answered, it may run again, refused,
it takes the host-refusal fault; a runnable bank runs where no other occupies the braid, and one whose task started first displaces the
other. Lines whose area is not mapped stay with the bank, and while a table is away everything waits. Model's choices: the save area's index
and key (log entry 54), YIELD (log entries 55 and 101), the first TOKEN (log entry 69), a merge buffer that the area does not take (log
entry 74). -/
def Obligations.SuspensionAndResumption : Prop :=
  ∀ (s : State) (b bank z : Nat),
    let x := s.braid b
    let k := s.bank b bank
    let waited := (∀ j ∈ x.jobsOpen, j.bank ≠ bank) ∧ (∀ c, (k.ctx c).midway = false) ∧ (∀ e ∈ k.chans, e.2.asked = false) ∧ k.rv.running = false
      ∧ (k.mode = .suspending → ∀ u, k.susp = some u → u.cycle ≠ s.cycle)
    let goes := k.mode = .suspending ∨ k.mode = .preempting ∨ k.mode = .switching
    let a := s.cfg.saveBase + 310272 * (2 * b + bank)
    let saved (t : State) (m : Mode) (u : Option Susp) : Prop := (t.bank b bank).mode = m ∧ (t.bank b bank).susp = u
      ∧ (t.bank b bank).preempts = (if k.mode = .preempting then k.preempts + 1 else k.preempts)
      ∧ (∀ c, (t.bank b bank).ctx c = { (k.ctx c).retired with amo := (k.ctx c).amo, amoOld := (k.ctx c).amoOld })
      ∧ (t.bank b bank).q = k.q ∧ (t.bank b bank).jobs = k.jobs ∧ (t.braid b).merge = [] ∧ (t.braid b).sram = x.sram
    let picked (i : Nat) : Prop := s.runnable b i = true ∧ (s.runnable b (1 - i) = false ∨ x.b0.yielded = false ∧ x.b1.yielded = false ∧ x.firstBank = i
      ∨ (s.bank b x.runBank).yielded = true ∧ x.runBank = 1 - i)
    (s.cur = .agent b bank z → bank < 2 →
      (goes → waited → x.runBank = bank →
        (s.memOk → x.merge = [] → isLpddr (a + 310271) = true →
          ∃ t, exec .suspend s = .next t ∧ saved t (if k.mode = .suspending then .suspended else .preempted) k.susp ∧ (t.bank b bank).parked = []
            ∧ (∀ i < 64, t.homeByte k.vi (a + i) = (saveHead [] x.regs).getD i 0)
            ∧ (∀ i < (saveTail x.regs x.spbs).length, 1408 + i < 310272 → t.homeByte k.vi (a + 1408 + i) = (saveTail x.regs x.spbs).getD i 0))
        ∧ (∀ w, (s.saveRegs b bank).spillAll b bank x.merge.reverse = (w, none) →
          ∃ t, exec .suspend s = .next t ∧ saved t (if k.mode = .suspending then .suspended else .preempted) k.susp ∧ t.mem = w.mem
            ∧ (t.bank b bank).spilled = (w.bank b bank).spilled)
        ∧ (∀ w va, (s.saveRegs b bank).spillAll b bank x.merge.reverse = (w, some (.fault va 9)) →
          ∃ t, exec .suspend s = .next t ∧ t.mem = w.mem ∧ (t.bank b bank).spilled = (w.bank b bank).spilled ∧ (t.bank b bank).parked = (w.braid b).merge
            ∧ saved t .suspended (some (k.susp.getD { code := 9, src := 0, ctx := .X, epc := k.x.pc, write := true, va := va, token := none, posted := false,
                                                      answered := false, cycle := s.cycle })))
        ∧ (∀ w ln, (s.saveRegs b bank).spillAll b bank x.merge.reverse = (w, some (.away ln)) → exec .suspend s = .next w))
      ∧ (¬ goes ∨ ¬ waited → exec .suspend s = .next s)
      ∧ (∀ u tok s2 r, k.mode = .suspended → k.susp = some u → u.code = 9 → u.posted = false → u.token = some tok →
          s.postTry k.vi (s.recordFault b bank u.info tok) = (s2, r) →
          (r = .done → exec .tokenRecordPost s = .next (s2.modSusp b bank fun u => { u with posted := true }))
          ∧ (r = .dropped → exec .tokenRecordPost s = .next (s2.raise b bank { u.info with code := 28 }))
          ∧ (r = .full ∨ r = .away → exec .tokenRecordPost s = .next s2))
      ∧ (∀ u s2, k.mode = .suspended → k.susp = some u → u.code = 9 → u.posted = false → u.token = none →
          let tok := (s.ifaceD k.vi).token
          let s1 := (s.modIface k.vi fun i => { i with token := (tok + 1) % 2 ^ 32 }).modSusp b bank fun u => { u with token := some tok }
          s1.postTry k.vi (s1.recordFault b bank u.info tok) = (s2, .done) →
          exec .tokenRecordPost s = .next (s2.modSusp b bank fun u => { u with posted := true }))
      ∧ (∀ u, k.susp = some u → u.code ≠ 9 ∨ u.posted = true → exec .tokenRecordPost s = .next s)
      ∧ (∀ u entry w, k.mode = .suspended → k.susp = some u → u.code = 10 → u.answered = false → s.translate k.vi b u.access u.va = .light entry w →
          s.memOk → isLpddr entry = true → ∃ t, exec .lightFault s = .next t ∧ t.homeByte k.vi entry = s.homeByte k.vi entry ||| (if w then 12 else 4)
            ∧ (∀ y, y / 64 = entry / 64 → y ≠ entry → t.homeByte k.vi y = s.homeByte k.vi y)
            ∧ (∀ y, y / 64 ≠ entry / 64 → t.mem.stored y = s.mem.stored y ∧ t.mem.storedKey (y / 64) = s.mem.storedKey (y / 64))
            ∧ (t.bank b bank).susp = some { u with answered := true } ∧ (t.bank b bank).mode = .suspended))
    ∧ (∀ v tok c i u, s.tokenBank v tok = some (c, i, u) → (u.token = some tok ∧ u.posted = true ∧ u.answered = false)
          ∧ exec (.tokenRetry v tok) s = .next (s.modBank c i fun k => { k with susp := k.susp.map fun u => { u with answered := true } })
          ∧ exec (.tokenRefuse v tok) s = .next (s.raise c i { u.info with code := 28 }))
    ∧ (∀ v tok, s.tokenBank v tok = none → exec (.tokenRetry v tok) s = .next s ∧ exec (.tokenRefuse v tok) s = .next s)
    ∧ (s.cur = .agent b bank z → x.outOfService = false → x.reserved = none → x.testAsked = false → x.testEnd = none →
      (∀ i < 2, x.runBank < 2 → x.b0.mode.occupies = false → x.b1.mode.occupies = false → picked i →
        ∃ t, exec .bankSwitch s = .next t ∧ onlyBraidOf s t b ∧ (t.braid b).runBank = i ∧ (t.bank b i).susp = none ∧ (t.bank b i).yielded = false
          ∧ (t.bank b i).mode = (if (s.bank b i).x.began then .running else .starting) ∧ (∀ c, (t.bank b i).ctx c = (s.bank b i).ctx c)
          ∧ (t.braid b).sram = x.sram ∧ (t.braid b).merge = (s.bank b i).parked ∧ t.bank b (1 - i) = s.bank b (1 - i)
          ∧ ∀ e ∈ (t.bank b i).chans, e.2.stalled = false)
      ∧ (x.b0.mode.occupies = false → x.b1.mode.occupies = false → s.runnable b 0 = false → s.runnable b 1 = false → exec .bankSwitch s = .next s)
      ∧ (∀ i, i < 2 → x.firstBank = i → s.runnable b i = true → (s.bank b i).yielded = false → (s.bank b (1 - i)).mode = .running →
          (s.bank b (1 - i)).task.isSome = true →
          exec .bankSwitch s = .next (s.modBank b (1 - i) fun k => { k with mode := .switching, yielded := true })))

/-- R289, R302, R303, R308, R316, R318, R319: a preempted or cancelled task's bank stops, at once or after its open job, and one saved already
counts its pre-emption; a discard ends its task and counts its braid once; a preempted launch goes on where it stopped; the 4,096th cycle of a stall is the stall fault in X. Model's choices: the checkpoint
(log entry 73), a voided round (log entry 70), what of the cycle stands (log entry 48), when a launch counts as pre-empted (log entry
118). -/
def Obligations.StopsAndStalls : Prop :=
  ∀ (s : State) (u b i z : Nat),
    let k := s.bank b i
    let x := s.braid b
    let gone (t : State) : Prop := (t.bank b i).task = none ∧ (t.bank b i).mode = .idle ∧ (t.bank b i).jobs = [] ∧ (t.bank b i).reds = []
      ∧ (t.bank b i).spilled = [] ∧ (t.bank b i).staged = [] ∧ t.mem.mem = s.mem.mem ∧ (t.braid b).sram = x.sram
    (s.cur = .agent u b 0 → s.heapOf u = none → s.bankOf b u = some i →
      (k.mode = .running ∨ k.mode = .starting ∨ k.mode = .switching → ∃ t, exec .preemption s = .next t ∧ t = { s with braids := t.braids, launches := t.launches }
        ∧ (∀ c, c ≠ b → t.braid c = s.braid c) ∧ (t.bank b i).mode = .preempting ∧ (∀ c, (t.bank b i).ctx c = k.ctx c) ∧ (t.braid b).sram = x.sram
        ∧ ∀ l, s.launch u = some l → t.launch u = some { l with requests := l.requests.filter (· ≠ b) })
      ∧ (k.mode ≠ .running → k.mode ≠ .starting → k.mode ≠ .switching → ∃ t, exec .preemption s = .next t
        ∧ t.bank b i = { k with preempts := k.preempts + 1 } ∧ t.mem = s.mem)
      ∧ (s.jobIn b i = true → k.tActive = false → ∃ t, exec .cancellation s = .next t ∧ (t.bank b i).mode = .cancelling ∧ t.mem = s.mem ∧ (∀ c, (t.bank b i).ctx c = k.ctx c)
        ∧ (t.braid b).taskQ = x.taskQ.filter (fun r => r.launch != u))
      ∧ (∀ y, (s.jobIn b i = false ∨ k.tActive = true) → k.arrive = none → k.task = some y → y.round = none →
          ∃ t, exec .cancellation s = .next t ∧ (t.bank b i).task = none ∧ (t.bank b i).mode = .idle)
      ∧ (∀ y, k.arrive = none → k.task = some y → y.round = none → ∃ t, exec .discard s = .next t ∧ gone t
          ∧ ∀ l, s.launch u = some l → ∃ m, t.launch u = some m ∧ m.discards = if b ∈ l.discards then l.discards else b :: l.discards))
    ∧ (s.cur = .agent u b 0 → s.bankOf b u = none → exec .discard s = .next s)
    ∧ (s.cur = .agent b i 1 → (k.mode ≠ .cancelling ∨ s.jobIn b i = true → exec .cancellation s = .next s)
        ∧ (k.mode = .cancelling → s.jobIn b i = false → exec .cancellation s = .next (s.cancelTask b i)))
    ∧ (∀ l, s.cur = .agent u b z → s.chosen (u == 1) = some l → l.issued = true → s.heapOf l.uid = none → s.banksOf l = [(b, i)] → i < 2 → l.deliver = [] →
        k.mode = .preempted → ∃ t, exec .launchResume s = .next t ∧ (t.braid b).runBank = i ∧ (t.bank b i).mode = (if k.x.began then .running else .starting)
          ∧ (∀ c, (t.bank b i).ctx c = k.ctx c) ∧ t.mem = s.mem
          ∧ ∀ m, t.launch m = if m = l.uid then (s.launch m).map (fun y => { y with preempted := false }) else s.launch m)
    ∧ (s.cur = .agent u b z → s.chosen (u == 1) = none → exec .launchResume s = .next s)
    ∧ (s.cur = .agent b i z → let r := x.runBank
        (s.stalled b = false → exec .braidStall s = .next (if (s.bank b r).stall = 0 then s else s.modBank b r fun k => { k with stall := 0 }))
        ∧ (s.stalled b = true → (s.bank b r).stall + 1 < 4096 → exec .braidStall s = .next (s.modBank b r fun k => { k with stall := k.stall + 1 }))
        ∧ (s.stalled b = true → 4096 ≤ (s.bank b r).stall + 1 → exec .braidStall s
            = .next ((s.modBank b r fun k => { k with stall := 0 }).raise b r { code := 22, src := 0, ctx := .X, epc := (s.bank b r).x.pc })))
    ∧ (s.stalled b = true → (∀ j ∈ x.jobsOpen, j.bank ≠ x.runBank) ∧ (∀ e ∈ (s.bank b x.runBank).chans, e.2.queue = []) ∧ (s.bank b x.runBank).rv.queue = [])

/-- R9, R287, R288, R341: a die's slot counter increases in the cycle its next boundary falls due and not before; West announces the next to
East, which follows an announcement of its next number; an edge of SLOTREF slews by at most 10 ns, and one more than 1,000 ns off, or none
in two periods, is the slot error; a launch past its deadline ends with status 2 unissued, or is cancelled nine cycles on. Model's choices:
a boundary acts at the end of its cycle and its successor is announced at it (log entry 76), and a deadline that has passed (log entry 60). -/
def Obligations.SlotBoundaries : Prop :=
  ∀ (s : State) (d z y : Nat),
    let c := s.clock
    (s.boot.ready = true → s.cur = .agent d y z →
      (d = 0 → s.cycle < Config.nsCycles s.dueW → exec .slotBoundary s = .next s)
      ∧ (d = 0 → Config.nsCycles s.dueW ≤ s.cycle → ∃ t, exec .slotBoundary s = .next t ∧ t.clock.slot = c.slot + 1 ∧ t.clock.lastW = s.dueW
          ∧ t.clock.cycleW = s.cycle ∧ t.clock.slotE = c.slotE ∧ t.clock.lastE = c.lastE ∧ t.clock.errW = c.errW ∧ t.clock.errE = c.errE
          ∧ t.clock.announced = some ((c.slot + 1).toNat + 1, (((s.dueW + s.cfg.period : Nat) : Int) + c.slew).toNat)
          ∧ t.braids = s.braids ∧ t.mem = s.mem ∧ (s.launches = [] → t.launches = []))
      ∧ (d = 1 → s.cycle < Config.nsCycles s.dueE.1 → exec .slotBoundary s = .next s)
      ∧ (d = 1 → Config.nsCycles s.dueE.1 ≤ s.cycle → ∃ t, exec .slotBoundary s = .next t ∧ t.clock.slotE = c.slotE + 1 ∧ t.clock.lastE = s.dueE.1
          ∧ t.clock.cycleE = s.cycle ∧ t.clock.slot = c.slot ∧ t.clock.errE = (c.errE || !s.dueE.2) ∧ t.braids = s.braids ∧ t.mem = s.mem))
    ∧ (s.boot.ready = false → exec .slotBoundary s = .next s)
    ∧ (∀ t0, c.announced = none → s.dueW = c.lastW + s.cfg.period ∧ (c.heard = some (c.slotE.toNat + 1, t0) → s.dueE = (t0, true))
        ∧ (c.heard = none → s.dueE = (c.lastE + s.cfg.period, false)))
    ∧ (∀ off : Int, (s.cfg.dmode = 0 → exec (.slotref off) s = .next s)
        ∧ (s.cfg.dmode ≠ 0 → -1000 ≤ off → off ≤ 1000 → ∃ t, exec (.slotref off) s = .next t ∧ t = { s with clock := t.clock }
            ∧ t.clock = { c with errW := false, slew := t.clock.slew, lastEdge := s.cycle } ∧ -10 ≤ t.clock.slew ∧ t.clock.slew ≤ 10
            ∧ (-10 ≤ off → off ≤ 10 → t.clock.slew = off))
        ∧ (s.cfg.dmode ≠ 0 → off < -1000 ∨ 1000 < off → exec (.slotref off) s = .next { s with clock := { c with errW := true, slew := 0, lastEdge := s.cycle } }))
    ∧ (s.cfg.dmode = 1 → s.boot.ready = true → c.errW = false → c.lastEdge + Config.nsCycles (2 * s.cfg.period) < s.cycle →
        exec .slotrefTimeout s = .next { s with clock := { c with errW := true, slew := 0 } })
    ∧ (s.cycle ≤ c.lastEdge + Config.nsCycles (2 * s.cfg.period) → exec .slotrefTimeout s = .next s)
    ∧ (∀ num tick, ∃ t, exec (.slotAnnouncement num tick) s = .next t ∧ t = { s with clock := t.clock, pending := t.pending }
        ∧ t.clock = { c with heard := some (num, tick), errE := c.errE && num != c.slotE.toNat + 1 }
        ∧ t.pending = if s.crossingUp then s.pending ++ [(s.cycle + s.crossLat 0, .event (.slotAck num) 0 0 0)] else s.pending)
    ∧ (∀ num, exec (.slotAck num) s = .next { s with clock := { c with acked := some (num, s.cycle) } })
    ∧ (∀ (slot : Nat) (l : Launch), (l.finished = true ∨ l.deadline = 0 ∨ slot < l.deadline → s.deadline slot l = s)
        ∧ (l.finished = false → l.deadline ≠ 0 → l.deadline ≤ slot → l.issued = false → s.deadline slot l = s.endLaunch l.uid 2)
        ∧ (∀ b, l.finished = false → l.deadline ≠ 0 → l.deadline ≤ slot → l.issued = true → l.kind ≠ 3 → l.status = 0 → s.launchOver l = false → l.phys = [b] →
            (s.deadline slot l).pending = s.pending ++ [(s.cycle + 9, .event .cancellation l.uid b 0)]))

/-- R322, R323, R325, R326, R327, R329: an activation counts the row and records the errors its scrub meets, an uncorrectable line becoming
poisoned; a scrubbed superblock in error is recorded and written back; a due in-field test takes a free braid for 4,600,000 cycles, after
which a pass returns it to service and a failure fences it; the host's clear empties an error bank. Model's choices: which lines an eighth
of a row holds is free (log entry 99), which lines are in error comes from outside (log entry 85), the outcome of a test (log entry 37),
units and types in the error banks (log entry 78). -/
def Obligations.ScrubsAndTests : Prop :=
  ∀ (s : State) (b y z : Nat),
    let x := s.braid b
    let slot := s.clock.slot.toNat
    (∀ die row, ∃ t, exec (.rowRefresh die row []) s = .next t ∧ t = { s with mem := { s.mem with rows := t.mem.rows } }
        ∧ ∀ r, tget 0 t.mem.rows r = if r = 2 * row + die % 2 then tget 0 s.mem.rows r + 1 else tget 0 s.mem.rows r)
    ∧ (∀ row line uc, isLpddr (64 * line) = true → homeEast (64 * line) = false → Config.rowEighth 0 row ((tget 0 s.mem.rows (2 * row) + 1) % 8) line = true →
        ∃ t, exec (.rowRefresh 0 row [(line, uc)]) s = .next t ∧ t.braids = s.braids
        ∧ tget {} t.mem.errW (bits (64 * line) 13 3) = (tget {} s.mem.errW (bits (64 * line) 13 3)).note uc uc 0 0 (64 * line) slot
        ∧ (uc = true → t.mem.poison.contains line = true))
    ∧ (∀ row line uc, Config.rowEighth 0 row ((tget 0 s.mem.rows (2 * row) + 1) % 8) line = false → exec (.rowRefresh 0 row [(line, uc)]) s = exec (.rowRefresh 0 row []) s)
    ∧ (∀ die sb, exec (.l2Scrub die sb none) s = .next s)
    ∧ (∀ sb i, i < 4 → let line := 4 * sb + i
        ∃ t, exec (.l2Scrub 0 sb (some i)) s = .next t ∧ t.braids = s.braids ∧ keptMem s t
        ∧ t.mem.l2w = s.mem.l2w.map (fun e => if e.tag = sb then { e with dirty := e.dirty &&& (15 - 2 ^ i) } else e)
        ∧ tget {} t.mem.errW (8 + bits sb 0 3) = (tget {} s.mem.errW (8 + bits sb 0 3)).note false false 0 0 (64 * line) slot
        ∧ ((∃ e ∈ s.mem.l2w, e.tag = sb ∧ bitAt e.dirty i = true) → line ∈ s.mem.hostDirty →
            sentToHost s t [.writeBack (64 * line) (tget [] s.mem.hostLines line)] ∧ line ∉ t.mem.hostDirty)
        ∧ ((∀ e ∈ s.mem.l2w, e.tag = sb → bitAt e.dirty i = false) ∨ line ∉ s.mem.hostDirty → sentToHost s t []))
    ∧ (s.cur = .agent b y z → s.testDue b = false → exec .inFieldTest s = .next s)
    ∧ (s.cur = .agent b y z → s.testDue b = true → x.held = false → x.reserved = none → x.taskQ = [] → x.b0.mode.occupies = false → x.b1.mode.occupies = false →
        s.keptByHeap b s.launchNext = false →
        exec .inFieldTest s = .next (s.modBraid b fun x => { x with testAsked := false, testEnd := some (s.cycle + 4600000) }))
    ∧ (s.cur = .agent b y z → s.testDue b = true → (x.held = true ∨ x.taskQ ≠ [] ∨ x.b0.mode.occupies = true ∨ x.b1.mode.occupies = true) →
        exec .inFieldTest s = .next (s.modBraid b fun x => { x with testAsked := true }))
    ∧ (∀ e pass, x.testEnd = some e → s.cycle < e → exec (.inFieldTestEnd b pass) s = .next s)
    ∧ (∀ e, x.testEnd = some e → e ≤ s.cycle → ∃ t, exec (.inFieldTestEnd b true) s = .next t ∧ t = { s with braids := t.braids, ifaces := t.ifaces }
        ∧ t.braid b = { x with testEnd := none, testAt := s.cycle, testPass := slot } ∧ (∀ c, c ≠ b → t.braid c = s.braid c)
        ∧ ∀ v i, s.iface v = some i → t.iface v = some { i with parts := tdel i.parts b })
    ∧ (∀ e, x.testEnd = some e → e ≤ s.cycle → (∀ v ∈ s.ifaces, thas v.2.parts b = false) → exec (.inFieldTestEnd b false) s
        = .next ((s.modBraid b fun x => { x with testEnd := none, testAt := s.cycle }).fence b))
    ∧ (x.b0.task = none → x.b1.task = none → s.launches = [] → s.fence b = s.modBraid b fun x => { x with fencedOff := true })
    ∧ (∀ die bank, bank < 32 → ∃ t, exec (.errbankClear die bank) s = .next t ∧ t = { s with mem := { s.mem with errE := t.mem.errE, errW := t.mem.errW } }
        ∧ (let e := tget {} (if die = 1 then t.mem.errE else t.mem.errW) bank
           e.v = false ∧ e.uc = false ∧ e.ovf = false ∧ e.poison = false ∧ e.ue = 0 ∧ e.ce = 0)
        ∧ (∀ k, k ≠ bank → tget {} t.mem.errE k = tget {} s.mem.errE k ∧ tget {} t.mem.errW k = tget {} s.mem.errW k))

/-- R333, R334, R336, R337, R338, R339, R355, R357: a UCIe flit in order hands on what it carries, one in error is discarded with the later ones
of its module and replayed; a retrain empties the flight and ends with the width its lanes allow, the replay buffers and audits following;
one that has not succeeded in 230,000 cycles is a link down; a port takes the next frame in order and discards any other. Model's choices:
what shares a UCIe flit (log entry 42), a closing link over a crossing (log entry 44), words of zeros (log entry 41), counts and frames at
the end of a retrain (log entry 98), the error banks' units and types (log entry 78), a replay's free delay (log entry 9). -/
def Obligations.SpliceAndPorts : Prop :=
  ∀ (s : State) (c k y z : Nat) (east : Bool),
    let x := s.crossing c
    let l := x.lane east
    let d := if east then 1 else 0
    let only (t : State) (f : Lane) : Prop := (t.crossing c).lane east = f ∧ (t.crossing c).lane (!east) = x.lane (!east)
      ∧ ∀ e, e ≠ c → t.crossing e = s.crossing e
    (∀ at_ (g : Carried), l.fly.find? (fun e => decide (e.1 ≤ s.cycle) && e.2.1 == l.taken) = some (at_, k, g) → g.slots.length ≤ 2 → g.words.length ≤ 2 →
      (g.mask = 0 → (g.slots.map Prod.fst).Nodup → (∀ e ∈ g.slots, e.1 < 192) → (∀ e ∈ g.words, e.1 < 192) → ∃ t, exec (.spliceFlit c east true) s = .next t
        ∧ only t { l with taken := k + 1, fly := l.fly.filter (fun e => k < e.2.1), replay := l.replay.filter (fun e => k < e.1) }
        ∧ (∀ j, t.link j = { s.link j with fly := (s.link j).fly ++ (g.slots.filter fun e => e.1 == j).map fun e => (s.cycle, e.2),
                                           words := (s.link j).words ++ (g.words.filter fun e => e.1 == j).map fun e => (s.cycle, e.2) })
        ∧ (let last (a : Act) : Bool := decide (a = .event .auditTick 0 0 0 ∧ g.words ≠ [])
          t.todo = (g.slots.map fun e => .event (.flit (s.linkTo e.1) (linkDir e.1 == 1) true) 0 0 0) ++ (s.todo.filter fun a => !last a)
            ++ (g.words.map fun e => .event (if e.2.aud then .auditFlit (s.linkTo e.1) (linkDir e.1 == 1) true else .returnWord (s.linkTo e.1) (linkDir e.1 == 1) true) 0 0 0)
            ++ s.todo.filter last)
        ∧ t.mem = s.mem)
      ∧ ∀ ok, ok = false ∨ g.mask ≠ 0 → ∃ t, exec (.spliceFlit c east ok) s = .next t
        ∧ only t { l with fly := l.fly.filter (fun e => !(k ≤ e.2.1 && e.2.1 % 2 == k % 2)), nak := some k } ∧ t.links = s.links ∧ t.todo = s.todo
        ∧ tget {} (if east then t.mem.errE else t.mem.errW) 23
          = (tget {} (if east then s.mem.errE else s.mem.errW) 23).note false false c 1 k (if east then s.clock.slotE else s.clock.slot).toNat)
    ∧ (l.fly.find? (fun e => decide (e.1 ≤ s.cycle) && e.2.1 == l.taken) = none → ∀ ok, exec (.spliceFlit c east ok) s = .next s)
    ∧ (∀ (f : Lane) arrive (g h : Carried), g.slots.length ≤ 2 → g.words.length ≤ 2 →
        (∀ fly, f.newAt = some arrive → f.fly = fly ++ [(arrive, f.sent - 1, g)] → 0 < f.sent → g.slots.length + h.slots.length ≤ 2 → g.words.length + h.words.length ≤ 2 →
          (f.put arrive h).fly = fly ++ [(arrive, f.sent - 1, { g with slots := g.slots ++ h.slots, words := g.words ++ h.words })] ∧ (f.put arrive h).sent = f.sent)
        ∧ (f.fly = [] ∨ f.newAt ≠ some arrive → (f.put arrive h).newAt = some arrive ∧ (f.put arrive h).fly = f.fly ++ [(arrive, f.sent, h)] ∧ (f.put arrive h).sent = f.sent + 1 ∧ (f.put arrive h).replay = f.replay ++ [(f.sent, h)]))
    ∧ (s.cur = .agent c d z → l.nak = none → exec .flitReplay s = .next s)
    ∧ (s.cur = .agent c d z → l.nak = some k → x.training = false → x.width ≠ 0 → ∃ t n, exec .flitReplay s = .next t
        ∧ only t { l with nak := none, fly := l.fly ++ resent (s.cycle + s.crossLat c + n) (l.replay.filter fun e => k ≤ e.1 && e.1 % 2 == k % 2) })
    ∧ (∀ (n : Nat), s.admin.linkDown = false → n < 5 → (s.crossing n).training = false → (s.crossing n).width ≠ 0 →
        let begun (r : Bool) : State := s.modCrossing n fun e =>
          { e with training := true, since := s.cycle, restore := r, east := { e.east with fly := [], nak := none, newAt := none },
                   west := { e.west with fly := [], nak := none, newAt := none } }
        (s.cur = .agent n y z → exec .retrain s = .next (begun false)) ∧ (n = 0 → exec .spliceRetrainA s = .next (begun true))
          ∧ (n = 1 → exec .spliceRetrainB s = .next (begun true)) ∧ (n = 2 → exec .hostLinkRetrain s = .next (begun true)))
    ∧ (∀ a b, x.training = true → (c < 3 → a < 32 ∨ b < 32 → exec (.retrainComplete c a b) s = .next s)
        ∧ (2 = c → 32 ≤ a → a ≤ 64 → 32 ≤ b → b ≤ 64 → ∃ t, exec (.retrainComplete c a b) s = .next t ∧ (t.crossing c).training = false
            ∧ (t.crossing c).width = (if a = 64 ∧ b = 64 ∧ (x.restore = true ∨ x.width = 2) then 2 else 1) ∧ (t.crossing c).retrains = x.retrains + 1 ∧ t.mem = s.mem)
        ∧ (c < 2 → 32 ≤ a → a ≤ 64 → 32 ≤ b → b ≤ 64 →
            let w := if a = 64 ∧ b = 64 ∧ (x.restore = true ∨ x.width = 2) then 2 else 1
            let old (l : Link) : List (Nat × Nat × Nat × Bool) := l.audits.map fun a => (a.1, a.2.1, a.2.2.1, false)
            let lanes := (if c = 0 then [94, 97] else [1, 190]) ++ if c = 0 ∧ s.divided = true ∧ 48 ≤ (s.ringEnds 47).2 then [192 + (s.ringEnds 47).2] else []
            ∃ t, exec (.retrainComplete c a b) s = .next t ∧ (t.crossing c).training = false ∧ (t.crossing c).width = w ∧ (t.crossing c).retrains = x.retrains
            ∧ (t.crossing c).auditsDue = lanes ∧ t.mem.mem = s.mem.mem
            ∧ (∀ j ∈ lanes, ∃ sums : Nat × Nat × Nat, t.link j = { s.link j with sSh := 24, sE0 := 4, sE1 := 4, audits := old (s.link j) ++ [(sums.1, sums.2.1, sums.2.2, true)] })
            ∧ (∀ j, j ∉ lanes → t.link j = s.link j)
            ∧ tget {} t.mem.errW 23 = (if w < x.width then (tget {} s.mem.errW 23).note false false c 2 0 s.clock.slot.toNat else tget {} s.mem.errW 23)
            ∧ tget {} t.mem.errE 23 = (if w < x.width then (tget {} s.mem.errE 23).note false false c 2 0 s.clock.slotE.toNat else tget {} s.mem.errE 23))
        ∧ (c = 3 → a = 16 → ∃ t w, exec (.retrainComplete c a b) s = .next t ∧ (t.crossing 3).training = false ∧ (t.crossing 3).retrains = x.retrains + 1
            ∧ w.aud = true ∧ t.hostOut = s.hostOut ++ (tget {} s.ports 0).replay.map (fun f => .portFrame 0 f)
              ++ [.portFrame 0 { seq := x.east.sent % 65536, flit := none, maskOk := true, crcOk := true, words := [w], esc := false }])
        ∧ (c = 4 → a = 16 → ∃ t, exec (.retrainComplete c a b) s = .next t ∧ t.crossing 4 = { x with training := false, auditsDue := [0] }
            ∧ t.hostOut = s.hostOut ++ (tget {} s.ports 1).replay.map (fun f => .portFrame 1 f)
            ∧ let l := (tget {} s.ports 1).link
              (tget {} t.ports 1).link = { l with
                sSh := 24, sE0 := 4, sE1 := 4, words := [], audits := l.audits.map fun a => (a.1, a.2.1, a.2.2.1, false),
                fly := l.fly.map fun e => if x.since < e.1 then (s.cycle + 260, e.2) else e })
        ∧ (3 ≤ c → a ≠ 16 → exec (.retrainComplete c a b) s = .next s))
    ∧ (∀ a b, x.training = false → exec (.retrainComplete c a b) s = .next s)
    ∧ (s.cur = .agent c y z → x.training = true → s.cycle < x.since + 230000 → exec .linkDown s = .next s)
    ∧ (let down := s.modCrossing c fun x => { x with training := false, width := 0 }
       s.cur = .agent c y z → x.training = true → x.since + 230000 ≤ s.cycle →
        (c < 3 → exec .linkDown s = .next (({ down with admin := { s.admin with linkDown := true } } : State).linkDownFor fun _ => true))
        ∧ (3 ≤ c → exec .linkDown s
            = .next (({ down with ports := tmod {} s.ports (c - 3) fun x => { x with broken := true } } : State).linkDownFor fun v => (s.ifaceD v).chain)))
    ∧ (∀ p, s.launches = [] → (∀ b i y, (s.bank b i).task = some y → p y.vi = false) → s.linkDownFor p = s)
    ∧ (∀ fr : PortFrame, (s.crossing 3).training = false → (tget {} s.ports 0).broken = false →
        let w := (s.crossing 3).west
        (fr.crcOk = true → fr.maskOk = true → fr.seq ≠ w.taken % 65536 → exec (.portFrame 0 fr) s = .next s)
        ∧ (fr.crcOk = false ∨ fr.maskOk = false → exec (.portFrame 0 fr) s = .next (s.noteErr true 24 false false 0 1 fr.seq))
        ∧ (∀ p i vc, fr.crcOk = true → fr.maskOk = true → fr.seq = w.taken % 65536 → fr.flit = some (p, i, vc) → i + 1 = p.flits → p.typ = 0 ∨ p.typ = 1 →
          ∃ t, exec (.portFrame 0 fr) s = .next t ∧ (t.crossing 3).west.taken = w.taken + 1 ∧ t.mem = s.mem
            ∧ (p.ddev ≠ s.cfg.dev → (tget {} t.ports 1).outQ = (tget {} s.ports 1).outQ ++ [(p, vc)] ∧ t.braids = s.braids)
            ∧ (p.ddev = s.cfg.dev → p.dest ≠ 72 → (t.braid 72).memQ = (s.braid 72).memQ ++ [p])
            ∧ (p.ddev = s.cfg.dev → p.dest = 72 → t.pending = s.pending ++ [(s.cycle + 1, packetEvent p)] ∧ t.braids = s.braids)))
    ∧ (∀ (fr : PortFrame) w, (s.crossing 4).training = false → (tget {} s.ports 1).broken = false → fr.crcOk = true → fr.maskOk = true →
        fr.seq = (s.crossing 4).west.taken % 65536 → fr.flit = none → fr.words = [w] → w.aud = false →
        let n := (tget {} s.ports 1).link
        ∃ t, exec (.portFrame 1 fr) s = .next t ∧ (t.crossing 4).west.taken = (s.crossing 4).west.taken + 1 ∧ t.braids = s.braids ∧ t.mem = s.mem
          ∧ (tget {} t.ports 1).link.sSh = n.sSh + w.sh ∧ (tget {} t.ports 1).link.sE0 = n.sE0 + w.e0 ∧ (tget {} t.ports 1).link.sE1 = n.sE1 + w.e1)

/-- R228, R230, R232, R322, R344, R345, R347: the host reads and writes the granules its interface owns, as that interface sees them, and gets
ones and poison elsewhere, where its writes do nothing; a snooped line leaves the L2 and every L1, a dirty one by being written back; a line
the host sends stands in the L2 with what was written meanwhile over it, and one that only no-allocate accesses asked for goes to them and
back to the host; what the device has for the host waits for the link. Model's choices: when ownership of a HOST line is asked (log entry
45), second reads (log entry 85), what another key's line reads as (log entry 34), the error banks' units and types (log entry 78). -/
def Obligations.HostAccesses : Prop :=
  ∀ (s : State) (v off n : Nat) (data : List Byte),
    let line := off / 64
    let ours (ln : Nat) : Prop := (s.mem.storedKey ln = 0 ∨ s.mem.storedKey ln = s.keyOf v) ∧ thas s.mem.l2Data ln = thas s.mem.l2Key ln
    (s.ownsAll v off n = true → ∃ t out, exec (.cxlMemRead v off n) s = .next t
        ∧ sentToHost s t (out ++ [.memRead v off (s.homeBytes v off n) ((upto off n).any fun pa => s.linePoison (pa / 64))])
        ∧ (∀ o ∈ out, (∃ pa d, o = .writeBack pa d) ∨ ∃ pa, o = .cacheOwn pa) ∧ t.braids = s.braids
        ∧ ((∀ pa ∈ upto off n, s.linePoison (pa / 64) = false) → keptMem s t))
    ∧ (s.ownsAll v off n = false → ∃ t, exec (.cxlMemRead v off n) s = .next t ∧ sentToHost s t [.memRead v off (List.replicate n 0xFF) true]
        ∧ t.mem.mem = s.mem.mem ∧ t.braids = s.braids)
    ∧ (s.memOk → s.ownsAll v off data.length = true → ∃ t, exec (.cxlMemWrite v off data) s = .next t ∧ t.braids = s.braids
        ∧ (∀ i < data.length, t.homeByte v (off + i) = data.getD i 0 ∧ t.mem.stored (off + i) = data.getD i 0 ∧ t.mem.storedKey ((off + i) / 64) = s.keyOf v)
        ∧ (∀ a, isLpddr a = true → ¬(off ≤ a ∧ a < off + data.length) → ours (a / 64) → t.homeByte v a = s.homeByte v a)
        ∧ ∀ a, (∀ i < data.length, (off + i) / 64 ≠ a / 64) → t.mem.stored a = s.mem.stored a ∧ t.mem.storedKey (a / 64) = s.mem.storedKey (a / 64))
    ∧ (s.ownsAll v off data.length = false → ∃ t, exec (.cxlMemWrite v off data) s = .next t ∧ t.mem.mem = s.mem.mem ∧ sentToHost s t []
        ∧ tget {} t.mem.errW 24 = (tget {} s.mem.errW 24).note false false 0 2 off s.clock.slot.toNat)
    ∧ (∃ t, exec (.snoop off) s = .next t ∧ t.mem.holds line = false ∧ t.mem.mem = s.mem.mem
        ∧ (s.mem.holds line = true → s.mem.hostDirty.contains line = true → sentToHost s t [.writeBack (64 * line) (tget [] s.mem.hostLines line)])
        ∧ (s.mem.holds line = false ∨ s.mem.hostDirty.contains line = false → sentToHost s t [.snoopClean (64 * line)])
        ∧ ∀ b, (t.braid b).sram = (s.braid b).sram ∧ ∀ sb ∈ (t.braid b).l1, ∀ e ∈ sb.lines, e.2.pa / 64 ≠ line)
    ∧ (s.mem.hostAsked.contains line = false ∨ isHost (64 * line) = false → exec (.cxlCacheResponse off data) s = .next s)
    ∧ (s.mem.hostAsked.contains line = true → (s.mem.l2w.filter fun e => l2Set e.tag == l2Set (line / 4)).length < 16 → isHost (64 * line) = true →
        (line ∉ s.mem.hostNa ∨ ∃ w ∈ s.mem.hostWait, w.pa / 64 = line ∧ ∀ pa vi bank c, w.req.body ≠ .lineReq pa vi bank c true) →
        ∃ t, exec (.cxlCacheResponse off data) s = .next t ∧ t.mem.holds line = true ∧ t.mem.hostAsked.contains line = false ∧ t.mem.mem = s.mem.mem
          ∧ (∀ a, a / 64 = line → t.mem.hostByte a = if thas s.mem.hostOver a then tget 0 s.mem.hostOver a else data.getD (a % 64) 0)
          ∧ t.todo = ((s.mem.hostWait.filter fun w => w.pa / 64 == line).map fun w => packetEvent w.req) ++ s.todo ∧ ∀ b, t.braid b = s.braid b)
    ∧ (∀ w pa vi bank c, s.mem.hostAsked.contains line = true → isHost (64 * line) = true → line ∈ s.mem.hostNa →
        s.mem.hostWait.filter (fun w => w.pa / 64 == line) = [w] → w.req.body = .lineReq pa vi bank c true → w.req.dest ≠ w.req.src →
        let bytes := (upto (64 * line) 64).map fun a => if thas s.mem.hostOver a then tget 0 s.mem.hostOver a else data.getD (a % 64) 0
        ∃ t, exec (.cxlCacheResponse off data) s = .next t ∧ t.mem.hostLines = s.mem.hostLines ∧ t.mem.hostAsked.contains line = false ∧ t.todo = s.todo
          ∧ t.mem.l2w = s.mem.l2w ∧ (t.braid w.req.dest).memQ = (s.braid w.req.dest).memQ ++ [⟨9, w.req.dest, w.req.src, 0, w.req.arg, 1, s.cfg.dev, s.cfg.dev,
              .line (64 * line) bank c bytes false⟩]
          ∧ ((∀ e ∈ s.mem.hostOver, e.1 / 64 ≠ line) → sentToHost s t []) ∧ ((∃ e ∈ s.mem.hostOver, e.1 / 64 = line) → sentToHost s t [.writeBack (64 * line) bytes]))

/-- R232, R268, R345, R346, R348, R351, R353, R366: a ready device that is not BUSY takes an admin command: CREATE makes the interface with its
granules and new keys, DESTROY removes it, ASSIGN hands granules over, MIGRATE copies its page unless a fault on it is unanswered, ATTEST
writes its report to host memory; wrong operands answer 1 and change nothing else; a device that is BUSY or not ready takes none. Model's
choices: the page of a fault (log entry 28), operands by byte (log entry 31), where the frame store lies (log entry 33), keys and salts (log
entry 34), when a command's effect is made (log entry 66), RSASSA-PSS and byte orders (log entry 104); the helper
data's place in part 3 (log entry 35). -/
def Obligations.AdminCommands : Prop :=
  ∀ (s : State) (v first count src dst size addr : Nat) (c : CreateArgs) (nonce : List Byte),
    (s.takes = false → exec (.create v c) s = .next s ∧ exec (.destroy v) s = .next s ∧ exec (.assign v first count) s = .next s
      ∧ exec (.migrate v src dst size) s = .next s ∧ exec (.attest addr nonce) s = .next s)
    ∧ (s.takes = true ↔ s.boot.ready = true ∧ s.admin.busy = false)
    ∧ (∀ gs, s.takes = true → s.createOk v c = true → s.carve granules (storeGranules c.slots) = some gs → ∃ t i, exec (.create v c) s = .next t
        ∧ answersWith s t 0 ∧ t.iface v = some i ∧ (∀ w, w ≠ v → t.iface w = s.iface w) ∧ i.mode = c.mode ∧ i.first = c.firstBand ∧ i.bands = c.bands
        ∧ i.share = c.share ∧ i.nsess = c.nsess ∧ i.slots = c.slots ∧ i.chain = c.chain ∧ i.key = s.mem.keyNext ∧ t.mem.keyNext = s.mem.keyNext + 1
        ∧ ∀ g, thas t.mem.frameGranules g = (gs.contains g || thas s.mem.frameGranules g))
    ∧ (s.takes = true → s.createOk v c = false → ∃ t, exec (.create v c) s = .next t ∧ answersWith s t 1 ∧ t.ifaces = s.ifaces ∧ t.mem = s.mem)
    ∧ (∀ g n gs, s.carve g n = some gs → gs.length = n ∧ ∀ x ∈ gs, x < g ∧ s.freeGranule x = true)
    ∧ (s.takes = true → thas s.ifaces v = true → s.taskOf v = true → ∃ t, exec (.destroy v) s = .next t ∧ answersWith s t 2 ∧ t.ifaces = s.ifaces)
    ∧ (s.takes = true → thas s.ifaces v = true → s.taskOf v = false → ∃ t, exec (.destroy v) s = .next t ∧ t.iface v = none
        ∧ (∀ w, w ≠ v → t.iface w = s.iface w) ∧ (∃ n, t.admin.due = some (s.cycle + 1 + n, 0)) ∧ (∀ l ∈ t.launches, l.vi ≠ v) ∧ t.mem.mem = s.mem.mem
        ∧ (∀ e ∈ t.mem.frameGranules, e.2 ≠ v) ∧ ∀ b, (t.braid b).sram = (s.braid b).sram)
    ∧ (s.takes = true → (v = 64 ∨ thas s.ifaces v = true) → first + count ≤ granules →
        (∀ g, first ≤ g → g < first + count → thas s.mem.frameGranules g = false ∧ s.saveGranule g = false) →
        ∃ t, exec (.assign v first count) s = .next t ∧ answersWith s t 0
          ∧ ∀ g, tget 64 t.mem.owner g = if first ≤ g ∧ g < first + count then v else tget 64 s.mem.owner g)
    ∧ (s.takes = true → (v ≠ 64 ∧ thas s.ifaces v = false ∨ granules < first + count) →
        ∃ t, exec (.assign v first count) s = .next t ∧ answersWith s t 1 ∧ t.mem = s.mem)
    ∧ (s.takes = true → s.migrateOk v src dst size = true → s.awaited v src size = false → s.admin.contended = [] →
        ∃ t, exec (.migrate v src dst size) s = .next t ∧ answersWith s t 0 ∧ t.admin.migrate = some (v, src, dst, size) ∧ t.mem = s.mem)
    ∧ (s.takes = true → s.migrateOk v src dst size = true → isHost dst = true → s.awaited v src size = true →
        ∃ t, exec (.migrate v src dst size) s = .next t ∧ answersWith s t 3 ∧ t.mem = s.mem
          ∧ t.admin.contended = ((upto (src / 65536) (size / 65536)).map fun u => (65536 * u, s.cycle)) ++ s.admin.contended)
    ∧ (∀ e ∈ s.admin.contended, s.takes = true → s.migrateOk v src dst size = true → e.1 < src + size → src < e.1 + 65536 → s.cycle < e.2 + 2300000 →
        ∃ t, exec (.migrate v src dst size) s = .next t ∧ answersWith s t 3 ∧ t.admin.migrate = s.admin.migrate ∧ t.mem = s.mem)
    ∧ (s.takes = true → addr % 64 = 0 → isHost addr = true → isHost (addr + 575) = true →
        ∃ t, exec (.attest addr nonce) s = .next t ∧ t.admin.busy = true ∧ (∃ n, t.admin.due = some (s.cycle + 1 + n, 0)) ∧ keptMem s t
          ∧ ((∀ i < 576, s.mem.holds ((addr + i) / 64) = false) → ∀ i < 576, t.homeByte 64 (addr + i) = (s.attestation nonce).getD i 0))
    ∧ (∀ r, r = s.attestation nonce → nonce.length ≤ 32 → (∀ i < 32, r.getD i 0 = nonce.getD i 0) ∧ (∀ i < 3, fieldLe r (32 + 4 * i) 4 = s.boot.versions.getD i 0 % 2 ^ 32)
          ∧ fieldLe r 44 4 = s.boot.count % 2 ^ 32 ∧ fieldLe r 48 8 = s.clock.slot.toNat ∧ fieldLe r 56 8 = 0
          ∧ ∃ salt, r.drop 64 = rsaSign (identity.1, identity.2.2) (r.take 64 ++ sha512 ((s.boot.parts.map sha512).flatten)) salt)
    ∧ deviceId = sha512 (natBe 512 identity.1)
    ∧ (s.takes = true → addr % 64 ≠ 0 → ∃ t, exec (.attest addr nonce) s = .next t ∧ answersWith s t 1 ∧ t.mem = s.mem)
    ∧ (∀ n st, s.admin.due = some (n, st) →
        (s.cycle < n → exec .adminCommandComplete s = .next s)
        ∧ (n ≤ s.cycle → s.admin.migrate = none → exec .adminCommandComplete s
            = .next { s with admin := { s.admin with busy := false, due := none, status := st, migrate := none, migrateVoid := false } })
        ∧ (∀ w, s.memOk → n ≤ s.cycle → s.admin.migrate = some (w, src, dst, size) →
            (∀ i < size, isLpddr (src + i) = true ∧ isHost (dst + i) = true ∧ s.mem.holds ((dst + i) / 64) = false)
              ∨ isLpddr src = false ∧ ∀ i < size, isHost (src + i) = true ∧ s.mem.holds ((src + i) / 64) = true ∧ isLpddr (dst + i) = true →
            0 < size → size % 64 = 0 → src % 64 = 0 → ∃ t, exec .adminCommandComplete s = .next t ∧ t.admin.busy = false ∧ t.admin.due = none
              ∧ t.admin.migrate = none ∧ t.admin.status = (if s.admin.migrateVoid then 3 else st) ∧ ∀ i < size, t.homeByte w (dst + i) = s.homeByte w (src + i)))
    ∧ (s.admin.due = none → exec .adminCommandComplete s = .next s)

/-- R278, R314, R348, R349, R350, R362, R368: a 64-bit register write goes to the register's own event, or sets the fields of the queue or
fault-ring register it names; other offsets, and a device that is not ready, ignore it; HOLDREL, PTROOT, TLBSYNC and CAP do what their
registers say. Model's choices: operands of admin commands by byte (log entry 31), when they take effect and how long TLBSYNC takes (log
entry 66), the device ring's address (log entry 81). -/
def Obligations.RegisterWrites : Prop :=
  ∀ (s : State) (v off val b w : Nat) (i : Iface),
    let sends (a : Act) : Prop := exec (.registerWrite v off val) s = .next { s with todo := a :: s.todo }
    let ignored := exec (.registerWrite v off val) s = .next s
    (off % 8 ≠ 0 → ignored) ∧ (v < 64 → s.boot.ready = false → ignored) ∧ (64 < v → ignored)
    ∧ (v < 64 → s.boot.ready = true →
        (off = 0x440 → sends (.event (.ptroot v val) 0 0 0)) ∧ (off = 0x448 → bitAt val 0 = true → sends (.event (.tlbsync v) 0 0 0))
        ∧ (off = 0x4C0 → bitAt val 32 = true → sends (.event (.tokenRefuse v (bits val 0 32)) 0 0 0))
        ∧ (off = 0x4C0 → bitAt val 32 = false → sends (.event (.tokenRetry v (bits val 0 32)) 0 0 0))
        ∧ (∀ q < 16, s.iface v = some i →
            let d := i.queue q
            let set (d1 : LQueue) : Prop := ∃ t, exec (.registerWrite v off val) s = .next t ∧ ∃ j, t.iface v = some j ∧ j.queue q = d1 ∧ (∀ p, p ≠ q → j.queue p = i.queue p)
              ∧ t.mem = s.mem ∧ t.braids = s.braids
            (off = 0x40 + 64 * q → set { d with ring := bits val 0 48, logn := bits val 48 4, en := bitAt val 52 })
            ∧ (off = 0x48 + 64 * q → set { d with pia := bits val 0 48 }) ∧ (off = 0x50 + 64 * q → set { d with cring := bits val 0 48 })
            ∧ (off = 0x58 + 64 * q → set d) ∧ (off = 0x60 + 64 * q → set { d with cci := bits val 0 32 }))
        ∧ (off = 0x480 → s.iface v = some i → ∃ t, exec (.registerWrite v off val) s = .next t
            ∧ t.iface v = some { i with fring := bits val 0 48, flog := bits val 48 4, fset := true })
        ∧ (off = 0x490 → s.iface v = some i → ∃ t, exec (.registerWrite v off val) s = .next t ∧ t.iface v = some { i with fci := bits val 0 32 })
        ∧ (0x4C8 ≤ off → off % 8 = 0 → ignored))
    ∧ (v = 64 → 4 ≤ s.boot.step → off = 0x20 → sends (.event (.reset val) 0 0 0))
    ∧ (∀ die n, v = 64 → 4 ≤ s.boot.step → die < 2 → n < 32 → off = 0x1000 + 0x400 * die + 32 * n → bits val 0 32 = 0 → sends (.event (.errbankClear die n) 0 0 0))
    ∧ (v = 64 → 4 ≤ s.boot.step → s.boot.ready = true → (off = 0x200 → sends (.event (.holdrel (bits val 0 7)) 0 0 0))
        ∧ (off = 0x480 → sends (.event (.cap (bits val 0 11)) 0 0 0))
        ∧ (off = 0x008 → exec (.registerWrite v off val) s = .next { s with todo := (if bitAt val 4 then [.event .spliceRetrainA 0 0 0] else [])
            ++ (if bitAt val 5 then [.event .spliceRetrainB 0 0 0] else []) ++ (if bitAt val 6 then [.event .hostLinkRetrain 0 0 0] else []) ++ s.todo })
        ∧ (off = 0x040 → exec (.registerWrite v off val) s
            = .next { s with admin := { s.admin with dfring := bits val 0 48, dflog := bits val 48 4, dfset := true } })
        ∧ (off = 0x050 → exec (.registerWrite v off val) s = .next { s with admin := { s.admin with dfci := bits val 0 32 } })
        ∧ (0x100 ≤ off → off ≤ 0x138 → off % 8 = 0 → ∃ w : State, w = { s with admin := { s.admin with cmd := w.admin.cmd } }
          ∧ (∀ i, w.admin.cmdByte i = if off - 0x100 ≤ i ∧ i < off - 0x100 + 8 then BitVec.ofNat 8 (val / 256 ^ (i - (off - 0x100))) else s.admin.cmdByte i)
          ∧ (off ≠ 0x138 → exec (.registerWrite v off val) s = .next w)
          ∧ (∀ a, off = 0x138 → w.admin.command = some a → exec (.registerWrite v off val) s = .next { w with todo := .event a 0 0 0 :: s.todo })
          ∧ (off = 0x138 → w.admin.command = none → s.admin.busy = true → exec (.registerWrite v off val) s = .next w)
          ∧ (off = 0x138 → w.admin.command = none → s.admin.busy = false → ∃ t, exec (.registerWrite v off val) s = .next t ∧ answersWith w t 1))
        ∧ (∀ a : Admin, a.cmdNat 0 1 = 6 → a.command = some (.attest (a.cmdNat 8 8) ((upto 16 32).map a.cmdByte)))
        ∧ (∀ a : Admin, a.cmdNat 0 1 = 0 ∨ a.cmdNat 0 1 = 5 ∨ 6 < a.cmdNat 0 1 → a.command = none))
    ∧ (exec (.holdrel b) s = .next (if s.boot.ready && decide (b < 96) && thas s.braids b then s.modBraid b fun x => { x with held := false } else s))
    ∧ (s.taskOf v = true → exec (.ptroot v val) s = .next s)
    ∧ (s.taskOf v = false → s.iface v = some i → ∃ t, exec (.ptroot v val) s = .next t ∧ t.mem = s.mem ∧ t.braids = s.braids
        ∧ t.iface v = some { i with ptroot := bits val 12 34 * 4096, ptv := bitAt val 0 } ∧ ∀ u, u ≠ v → t.iface u = s.iface u)
    ∧ (s.cur = .nobody → s.iface v = some i → ∃ t n, exec (.tlbsync v) s = .next t ∧ t.iface v = some { i with tlbsync := true }
        ∧ t.pending = s.pending ++ [(s.cycle + 1 + n, .event (.tlbsync v) 0 0 1)] ∧ t.mem = s.mem ∧ t.braids = s.braids)
    ∧ (s.cur = .agent 0 0 1 → s.iface v = some i → ∃ t, exec (.tlbsync v) s = .next t ∧ t.iface v = some { i with tlbsync := false } ∧ t.mem = s.mem
        ∧ ∀ x, s.physOf v 0 ≤ x → x < s.physOf v 0 + 8 * (s.arc v).2 → thas s.braids x = true → (t.braid x).tlb = []
            ∧ ∀ n < 2, (t.bank x n).rv.tlb = [] ∧ ∀ ch, ((t.bank x n).chan ch).tlb = [])
    ∧ (450 ≤ w → w ≤ 1050 → exec (.cap w) s = .next { s with boot := { s.boot with capNext := w } })
    ∧ (w < 450 ∨ 1050 < w → exec (.cap w) s = .next s)

/-- R362, R363, R364, R365, R367, R368: a device reset discards everything but the boot count and leaves the device in boot step 1; RESET_N
resets after 2,300 cycles low; the boot goes step by step, a failed step standing with its code; 115 °C trips the device; a die
above TALARM has its target lowered, further at each evaluation, and takes idle cycles where the power is above its target; a closed gate
delays job starts by at most 1,024 cycles. The first boundary after step 7 is announced in it. Model's choices: values before step 7 (log
entry 4), the header's and the image's layout (log entries 32 and 35), keys and responses (log entry 34), what comes from outside (log entry
36), idle cycles, inserted above the cap or TALARM only (log entry 67), what a reset keeps (log entry 68), RSASSA-PSS (log entry 104). -/
def Obligations.ResetBootAndPower : Prop :=
  ∀ (s : State) (ok : Bool) (img : BootImage),
    let after : State := { State.reset with cycle := s.cycle, inputs := s.inputs, seqErrs := s.seqErrs, free := s.free, hostOut := s.hostOut,
                                            boot := { step := 1, count := s.boot.count, resetLow := s.boot.resetLow } }
    let up (t : State) : Prop := t.boot.step = s.boot.step + 1 ∧ t.boot.code = 0 ∧ t.boot.ready = s.boot.ready
    let fails (n : Nat) : Prop := exec (.bootStep ok img) s = .next { s with boot := { s.boot with code := n } }
    let runs (f : State → Prop) : Prop := ∃ t, exec (.bootStep ok img) s = .next t ∧ f t
    let image := configOf (s.boot.parts.getD 2 [])
    exec .thermalTrip s = .next after
    ∧ (∀ val, bitAt val 0 = true → 4 ≤ s.boot.step → exec (.reset val) s = .next after)
    ∧ (∀ val, bitAt val 0 = false ∨ s.boot.step < 4 → exec (.reset val) s = .next s)
    ∧ (s.cur = .nobody → s.boot.resetLow = none → ∃ t, exec (.resetN true) s = .next t ∧ t.boot = { s.boot with resetLow := some s.cycle }
        ∧ t.pending = s.pending ++ [(s.cycle + 2300, .event (.resetN true) 0 0 1)] ∧ t.mem = s.mem ∧ t.braids = s.braids)
    ∧ (s.cur = .nobody → exec (.resetN false) s = .next { s with boot := { s.boot with resetLow := none } })
    ∧ (∀ n, s.cur = .agent 0 0 1 → s.boot.resetLow = some n → (n + 2300 ≤ s.cycle → exec (.resetN true) s = .next after)
        ∧ (s.cycle < n + 2300 → exec (.resetN true) s = .next s))
    ∧ (s.cur = .agent 0 0 1 → s.boot.resetLow = none → exec (.resetN true) s = .next s)
    ∧ (s.boot.resetLow ≠ none → exec (.bootStep ok img) s = .next s)
    ∧ (s.boot.code ≠ 0 → exec (.bootStep ok img) s = .next s)
    ∧ (s.boot.resetLow = none → s.boot.code = 0 →
        (s.boot.step = 1 → runs fun t => up t ∧ t.boot.count = s.boot.count + 1 ∧ t.mem = s.mem)
        ∧ (s.boot.step = 2 → ok = true → 32 ≤ img.lanesA → img.lanesA ≤ 64 → 32 ≤ img.lanesB → img.lanesB ≤ 64 → runs fun t => up t
            ∧ (t.crossing 0).width = (if img.lanesA = 64 then 2 else 1) ∧ (t.crossing 1).width = (if img.lanesB = 64 then 2 else 1))
        ∧ (s.boot.step = 2 → (ok = false ∨ img.lanesA < 32 ∨ img.lanesB < 32) → fails 1)
        ∧ (s.boot.step = 3 → ok = true → 32 ≤ img.lanesH → runs fun t => up t ∧ (t.crossing 2).width = (if img.lanesH = 64 then 2 else 1))
        ∧ (s.boot.step = 3 → (ok = false ∨ img.lanesH < 32) → exec (.bootStep ok img) s = .next s)
        ∧ (s.boot.step = 4 → ok = true → runs fun t => if bundleOk img = true then up t ∧ t.boot.versions = ([1, 2, 3].map fun n => (partOf img n).version)
              ∧ t.boot.parts = [1, 2, 3].map fun n => (partOf img n).data
            else t = { s with boot := { s.boot with code := 2 } })
        ∧ (s.boot.step = 4 → ok = false → fails 2)
        ∧ (s.boot.step = 5 → ok = false → fails 3) ∧ (s.boot.step = 5 → ok = true → runs fun t =>
            if s.identityOk = true then up t ∧ t.boot.idReady = true else t = { s with boot := { s.boot with code := 3 } })
        ∧ (s.boot.step = 6 → ok = true → runs fun t => up t ∧ t.mem.mem = [] ∧ t.mem.poison = [] ∧ ∀ v a, isLpddr a = true → t.homeByte v a = 0)
        ∧ (s.boot.step = 6 → ok = false → fails 4)
        ∧ (s.boot.step = 7 → ok = true → configOk image = true → runs fun t => up t ∧ t.cfg = image ∧ t.clock.slot = 0 ∧ t.clock.slotE = 0
            ∧ t.clock.announced = some (1, s.nowNs + image.period) ∧ t.boot.cap = image.cap0 ∧ t.boot.capNext = image.cap0 ∧ ∀ b, (t.braid b).h = [] ∧ (t.braid b).full = [] ∧ (t.bank b 0).curBank = false ∧ (t.bank b 1).curBank = false)
        ∧ (s.boot.step = 7 → (ok = false ∨ configOk image = false) → fails 5)
        ∧ (s.boot.step = 8 → runs fun t => t.boot.ready = true ∧ t.mem = s.mem ∧ t.braids = s.braids))
    ∧ (∀ mw w e, w < 256 → e < 256 → mw < 2 ^ 32 → ∃ t, exec (.powerEvaluation mw w e) s = .next t ∧ t.boot.power = mw ∧ t.boot.tempW = w ∧ t.boot.tempE = e
        ∧ t.boot.cap = s.boot.capNext ∧ t.mem = s.mem ∧ t.braids = s.braids
        ∧ (w ≤ s.cfg.talarm → t.boot.lowW = 0) ∧ (s.cfg.talarm < w → s.boot.lowW < t.boot.lowW)
        ∧ (e ≤ s.cfg.talarm → t.boot.lowE = 0) ∧ (s.cfg.talarm < e → s.boot.lowE < t.boot.lowE)
        ∧ (∃ n m, t.boot.gapW = s.cycle + n ∧ t.boot.gapE = s.cycle + m
          ∧ t.boot.idles = s.boot.idles + n + m - (s.boot.gapW - s.cycle) - (s.boot.gapE - s.cycle)
          ∧ (mw + t.boot.lowW ≤ 1000 * s.boot.capNext → n = 0) ∧ (mw + t.boot.lowE ≤ 1000 * s.boot.capNext → m = 0))
        ∧ t.todo = if 115 ≤ w ∨ 115 ≤ e then .event .thermalTrip 0 0 0 :: s.todo else s.todo)
    ∧ (∀ b n, ∃ t, exec (.powerGateDecision b n) s = .next t ∧ onlyBraidOf { s with boot := t.boot } t b
        ∧ t.braid b = { s.braid b with gateTill := s.cycle + min n 1024 }
        ∧ t.boot.closures = if n = 0 then s.boot.closures else (s.boot.closures + 1) % 2 ^ 32)

/-- R17, R18, R19, R70, R72: decoding the encoding of any well-formed instruction, with any stream behind it, gives the instruction back with every operand, and
takes exactly its parcels: on the control core, and on each strand whose table holds the op. -/
def Obligations.DecodingInvertsEncoding : Prop :=
  ∀ (i : Instr) (rest : List Parcel), i.wf = true →
    (i.shape = .word ∨ i.shape = .half → decodeCtl (encode i ++ rest) = .ok (i, (encode i).length))
    ∧ (∀ k ∈ strandsOf i, decodeStrand k (encode i ++ rest) = .ok (i, (encode i).length))
    ∧ (i.shape = .short ∨ i.shape = .long ∨ i.shape = .check → strandsOf i ≠ [])

/-- R218, R228, R232: every step keeps the memory's canonical form and the L2s in order with it; canonical memories that read alike are equal,
and a byte written is read back, every other as before. -/
def Obligations.EveryStepKeepsMemoryCanonical : Prop :=
  (∀ s t : State, s.memOk → step s = .next t → t.memOk) ∧ CanonicalMemoriesAreEqualWhenTheyReadAlike ∧ MemoryReadsAfterAWrite

/-- R12, R14, R124, R125, R128, R209, R253, R291: every step keeps the registers, queues and tables of every braid in order: nothing stands for
s0 and p0, which read 0 and true; queues within their depths, at most 8 queued jobs, 16 commands in a copy channel and 64 task records; scalar
registers, loop parameters, SRAM and full bits as canonical tables, and no byte beyond the SRAM. -/
def Obligations.EveryStepKeepsRegistersAndQueues : Prop :=
  (∀ s t : State, s.tidy → step s = .next t → t.tidy) ∧ ∀ c : Ctx, c.getS 0 = 0 ∧ c.getP 0 = true

/-- R9, R17, R18, R19, R70, R71, R78, R108, R113: a step takes the next action of the cycle: an event runs as the instruction it is; a context with an issue slot and
nothing in progress fetches the parcels at its pc, and the instruction they decode to runs in its last cycle, or stays in progress until then;
a strand runs the op in progress, or the one its stream decodes to; with no action left the next cycle begins. -/
def Obligations.StepRunsTheDecodedInstruction : Prop :=
  ∀ (s : State) (rest : List Act) (b bank k : Nat) (c : CtxId) (i : Instr),
    let u := (s.setTodo rest).setCur (.ctx b bank c)
    let v := (s.setTodo rest).setCur (.strand b k)
    (∀ x y z, s.todo = .event i x y z :: rest → step s = exec i ((s.setTodo rest).setCur (.agent x y z)))
    ∧ (s.todo = .ctx b bank c :: rest →
      (u.ctxIssues = false → step s = .next u)
      ∧ (u.ctxIssues = true → u.myCtx.ins = some i → u.myCtx.retireAt.getD 0 ≤ s.cycle → u.barred i = false → step s = exec i u)
      ∧ (∀ n, u.ctxIssues = true → u.myCtx.ins = some i → u.myCtx.retireAt = some n → s.cycle < n → step s = .next u)
      ∧ (∀ u1 u2 ps len n, u.ctxIssues = true → u.myCtx.ins = none → u.fetchParcels = (u1, some ps) → decodeCtl ps = .ok (i, len) → u1.occupancy ps i = (u2, n) →
          let at_ := u.myCtx.retireAt.getD (s.cycle + n - 1)
          let w (o : Option (Nat × Nat)) := u2.modMyCtx fun c => { c with ins := some i, retireAt := some at_, wait := .none, store := o }
          (at_ ≤ s.cycle → (w none).barred i = false → step s = exec i (w none))
          ∧ (s.cycle < at_ → step s = .next (w (u1.storeOf i))))
      ∧ (∀ u1 ps e, u.ctxIssues = true → u.myCtx.ins = none → u.fetchParcels = (u1, some ps) → decodeCtl ps = .error e → step s = exec .illegalEncoding u1)
      ∧ (u.myCtx.pc.toNat + 4 ≤ 0xB00000 →
          let parcel (o : Nat) : Parcel := BitVec.ofNat 16 (leNat (u.myBraid.sramRead (u.myCtx.pc.toNat + o) 2))
          u.fetchParcels = (u, some (if (parcel 0).toNat % 4 = 3 then [parcel 0, parcel 2] else [parcel 0]))))
    ∧ (s.todo = .strand b k :: rest →
      ((s.strand b k).job = none → step s = .next v)
      ∧ ((s.strand b k).job.isSome = true → (s.strand b k).op = some i →
          (∀ j ∈ (s.braid b).jobsOpen, j.bank = (s.strand b k).bank → some j.job.num = (s.strand b k).job → k ∉ j.joined) → step s = exec i v)
      ∧ (∀ v1, (s.strand b k).job.isSome = true → (s.strand b k).op = none → (s.strand b k).nest = [] →
          (∀ j ∈ (s.braid b).jobsOpen, j.bank = (s.strand b k).bank → some j.job.num = (s.strand b k).job → k ∉ j.joined) →
          v.strandOp b k (s.strand b k).pc = (v1, .ok i) →
          step s = exec i (v1.modStrand b k fun t => { t with op := some i, opPc := t.pc, q := 0 })))
    ∧ (s.todo = [] → step s = .next s.beginCycle)

/-- Every instruction answers a next state: none faults and none refuses. -/
def Obligations.NoInstructionStops : Prop := ∀ (i : Instr) (s : State), ∃ t, exec i s = .next t

/-- R62 to R67, R70 to R74: words written out from the encoding tables decode to the instructions they stand for, and words the tables leave unassigned to none. -/
def Obligations.WordsDecodeAsTheTablesSay : Prop :=
  decodeCtl [0x8383#16, 0x0052#16] = .ok (.sub 0 7 8 9, 2) ∧ decodeCtl [0x0187#16, 0x0FFE#16] = .ok (.addi 0 3 0x7FF, 2)
  ∧ decodeCtl [0x4593#16, 0x0000#16] = .ok (.cmpiNe 0 1 3 0, 2) ∧ decodeCtl [0xFB3B#16, 0x1FFF#16] = .ok (.br 1 0x1FFFF6, 2)
  ∧ decodeCtl [0x22A3#16, 0x0180#16] = .ok (.ldW 0 false true 0 5 2, 2) ∧ decodeCtl [0x0063#16, 0x01C0#16] = .ok (.halt 0, 2)
  ∧ decodeCtl [0x0009#16] = .ok (.cNop, 1) ∧ decodeCtl [0x1450#16] = .ok (.cLdD 5 2, 1) ∧ decodeCtl [0x0000#16] = .error .zeroParcel
  ∧ decodeStrand .mx [0xA840#16, 0x0000#16] = .ok (.mdrainTrk 0 1 false, 2)

/-- R362: at reset the device is in boot step 1, not ready, with nothing begun: no braid, interface, launch, event or action stands, its memory is canonical, its braids are in
order and its slot counters are 0. The field values that carry no value of R362 are the model's choices (log entries 1 to 4). -/
def Obligations.ResetIsBootStepOne : Prop :=
  State.reset.memOk ∧ State.reset.tidy ∧ State.reset.boot.step = 1 ∧ State.reset.boot.ready = false ∧ State.reset.clock.slot = 0 ∧ State.reset.clock.slotE = 0
  ∧ State.reset.launches = [] ∧ State.reset.ifaces = [] ∧ State.reset.todo = [] ∧ (∀ b, (State.reset.braid b).b0.task = none ∧ (State.reset.braid b).b1.task = none)
  ∧ ∀ a, State.reset.homeByte 0 a = 0
end

