-- ==== Sys2Proof/Laws/Exec.lean ====
section
/-! SUPPORT. The arm of each instruction: `exec` of it is its meaning. -/

namespace Sys2Proof.Machine

@[simp] theorem exec_add (g : BitVec 4) (d : BitVec 5) (a : BitVec 5) (b : BitVec 5) (s : State) : exec (.add g d a b) s = execAdd g d a b s := rfl
@[simp] theorem exec_sub (g : BitVec 4) (d : BitVec 5) (a : BitVec 5) (b : BitVec 5) (s : State) : exec (.sub g d a b) s = execSub g d a b s := rfl
@[simp] theorem exec_mul (g : BitVec 4) (d : BitVec 5) (a : BitVec 5) (b : BitVec 5) (s : State) : exec (.mul g d a b) s = execMul g d a b s := rfl
@[simp] theorem exec_mulh (g : BitVec 4) (d : BitVec 5) (a : BitVec 5) (b : BitVec 5) (s : State) : exec (.mulh g d a b) s = execMulh g d a b s := rfl
@[simp] theorem exec_mulhz (g : BitVec 4) (d : BitVec 5) (a : BitVec 5) (b : BitVec 5) (s : State) : exec (.mulhz g d a b) s = execMulhz g d a b s := rfl
@[simp] theorem exec_div (g : BitVec 4) (d : BitVec 5) (a : BitVec 5) (b : BitVec 5) (s : State) : exec (.div g d a b) s = execDiv g d a b s := rfl
@[simp] theorem exec_divz (g : BitVec 4) (d : BitVec 5) (a : BitVec 5) (b : BitVec 5) (s : State) : exec (.divz g d a b) s = execDivz g d a b s := rfl
@[simp] theorem exec_rem (g : BitVec 4) (d : BitVec 5) (a : BitVec 5) (b : BitVec 5) (s : State) : exec (.rem g d a b) s = execRem g d a b s := rfl
@[simp] theorem exec_remz (g : BitVec 4) (d : BitVec 5) (a : BitVec 5) (b : BitVec 5) (s : State) : exec (.remz g d a b) s = execRemz g d a b s := rfl
@[simp] theorem exec_and (g : BitVec 4) (d : BitVec 5) (a : BitVec 5) (b : BitVec 5) (s : State) : exec (.and g d a b) s = execAnd g d a b s := rfl
@[simp] theorem exec_or (g : BitVec 4) (d : BitVec 5) (a : BitVec 5) (b : BitVec 5) (s : State) : exec (.or g d a b) s = execOr g d a b s := rfl
@[simp] theorem exec_xor (g : BitVec 4) (d : BitVec 5) (a : BitVec 5) (b : BitVec 5) (s : State) : exec (.xor g d a b) s = execXor g d a b s := rfl
@[simp] theorem exec_andn (g : BitVec 4) (d : BitVec 5) (a : BitVec 5) (b : BitVec 5) (s : State) : exec (.andn g d a b) s = execAndn g d a b s := rfl
@[simp] theorem exec_shl (g : BitVec 4) (d : BitVec 5) (a : BitVec 5) (b : BitVec 5) (s : State) : exec (.shl g d a b) s = execShl g d a b s := rfl
@[simp] theorem exec_shr (g : BitVec 4) (d : BitVec 5) (a : BitVec 5) (b : BitVec 5) (s : State) : exec (.shr g d a b) s = execShr g d a b s := rfl
@[simp] theorem exec_sra (g : BitVec 4) (d : BitVec 5) (a : BitVec 5) (b : BitVec 5) (s : State) : exec (.sra g d a b) s = execSra g d a b s := rfl
@[simp] theorem exec_min (g : BitVec 4) (d : BitVec 5) (a : BitVec 5) (b : BitVec 5) (s : State) : exec (.min g d a b) s = execMin g d a b s := rfl
@[simp] theorem exec_max (g : BitVec 4) (d : BitVec 5) (a : BitVec 5) (b : BitVec 5) (s : State) : exec (.max g d a b) s = execMax g d a b s := rfl
@[simp] theorem exec_minz (g : BitVec 4) (d : BitVec 5) (a : BitVec 5) (b : BitVec 5) (s : State) : exec (.minz g d a b) s = execMinz g d a b s := rfl
@[simp] theorem exec_maxz (g : BitVec 4) (d : BitVec 5) (a : BitVec 5) (b : BitVec 5) (s : State) : exec (.maxz g d a b) s = execMaxz g d a b s := rfl
@[simp] theorem exec_clz (g : BitVec 4) (d : BitVec 5) (a : BitVec 5) (s : State) : exec (.clz g d a) s = execClz g d a s := rfl
@[simp] theorem exec_popc (g : BitVec 4) (d : BitVec 5) (a : BitVec 5) (s : State) : exec (.popc g d a) s = execPopc g d a s := rfl
@[simp] theorem exec_bfx (g : BitVec 4) (d : BitVec 5) (a : BitVec 5) (b : BitVec 5) (s : State) : exec (.bfx g d a b) s = execBfx g d a b s := rfl
@[simp] theorem exec_bfi (g : BitVec 4) (d : BitVec 5) (a : BitVec 5) (b : BitVec 5) (s : State) : exec (.bfi g d a b) s = execBfi g d a b s := rfl
@[simp] theorem exec_sel (g : BitVec 4) (d : BitVec 5) (a : BitVec 5) (b : BitVec 5) (s : State) : exec (.sel g d a b) s = execSel g d a b s := rfl
@[simp] theorem exec_addi (g : BitVec 4) (d : BitVec 5) (imm : BitVec 11) (s : State) : exec (.addi g d imm) s = execAddi g d imm s := rfl
@[simp] theorem exec_andi (g : BitVec 4) (d : BitVec 5) (imm : BitVec 11) (s : State) : exec (.andi g d imm) s = execAndi g d imm s := rfl
@[simp] theorem exec_ori (g : BitVec 4) (d : BitVec 5) (imm : BitVec 11) (s : State) : exec (.ori g d imm) s = execOri g d imm s := rfl
@[simp] theorem exec_xori (g : BitVec 4) (d : BitVec 5) (imm : BitVec 11) (s : State) : exec (.xori g d imm) s = execXori g d imm s := rfl
@[simp] theorem exec_shli (g : BitVec 4) (d : BitVec 5) (sh : BitVec 6) (s : State) : exec (.shli g d sh) s = execShli g d sh s := rfl
@[simp] theorem exec_shri (g : BitVec 4) (d : BitVec 5) (sh : BitVec 6) (s : State) : exec (.shri g d sh) s = execShri g d sh s := rfl
@[simp] theorem exec_srai (g : BitVec 4) (d : BitVec 5) (sh : BitVec 6) (s : State) : exec (.srai g d sh) s = execSrai g d sh s := rfl
@[simp] theorem exec_movi (g : BitVec 4) (d : BitVec 5) (imm : BitVec 11) (s : State) : exec (.movi g d imm) s = execMovi g d imm s := rfl
@[simp] theorem exec_movhi (g : BitVec 4) (d : BitVec 5) (imm : BitVec 11) (s : State) : exec (.movhi g d imm) s = execMovhi g d imm s := rfl
@[simp] theorem exec_cmpEq (g : BitVec 4) (pd : BitVec 4) (a : BitVec 5) (b : BitVec 5) (s : State) : exec (.cmpEq g pd a b) s = execCmpEq g pd a b s := rfl
@[simp] theorem exec_cmpNe (g : BitVec 4) (pd : BitVec 4) (a : BitVec 5) (b : BitVec 5) (s : State) : exec (.cmpNe g pd a b) s = execCmpNe g pd a b s := rfl
@[simp] theorem exec_cmpLt (g : BitVec 4) (pd : BitVec 4) (a : BitVec 5) (b : BitVec 5) (s : State) : exec (.cmpLt g pd a b) s = execCmpLt g pd a b s := rfl
@[simp] theorem exec_cmpLe (g : BitVec 4) (pd : BitVec 4) (a : BitVec 5) (b : BitVec 5) (s : State) : exec (.cmpLe g pd a b) s = execCmpLe g pd a b s := rfl
@[simp] theorem exec_cmpLo (g : BitVec 4) (pd : BitVec 4) (a : BitVec 5) (b : BitVec 5) (s : State) : exec (.cmpLo g pd a b) s = execCmpLo g pd a b s := rfl
@[simp] theorem exec_cmpLs (g : BitVec 4) (pd : BitVec 4) (a : BitVec 5) (b : BitVec 5) (s : State) : exec (.cmpLs g pd a b) s = execCmpLs g pd a b s := rfl
@[simp] theorem exec_cmpiEq (g : BitVec 4) (pd : BitVec 4) (a : BitVec 3) (imm : BitVec 11) (s : State) : exec (.cmpiEq g pd a imm) s = execCmpiEq g pd a imm s := rfl
@[simp] theorem exec_cmpiNe (g : BitVec 4) (pd : BitVec 4) (a : BitVec 3) (imm : BitVec 11) (s : State) : exec (.cmpiNe g pd a imm) s = execCmpiNe g pd a imm s := rfl
@[simp] theorem exec_cmpiLt (g : BitVec 4) (pd : BitVec 4) (a : BitVec 3) (imm : BitVec 11) (s : State) : exec (.cmpiLt g pd a imm) s = execCmpiLt g pd a imm s := rfl
@[simp] theorem exec_cmpiLe (g : BitVec 4) (pd : BitVec 4) (a : BitVec 3) (imm : BitVec 11) (s : State) : exec (.cmpiLe g pd a imm) s = execCmpiLe g pd a imm s := rfl
@[simp] theorem exec_cmpiLo (g : BitVec 4) (pd : BitVec 4) (a : BitVec 3) (imm : BitVec 11) (s : State) : exec (.cmpiLo g pd a imm) s = execCmpiLo g pd a imm s := rfl
@[simp] theorem exec_cmpiLs (g : BitVec 4) (pd : BitVec 4) (a : BitVec 3) (imm : BitVec 11) (s : State) : exec (.cmpiLs g pd a imm) s = execCmpiLs g pd a imm s := rfl
@[simp] theorem exec_pand (g : BitVec 4) (pd : BitVec 4) (ps1 : BitVec 4) (ps2 : BitVec 4) (s : State) : exec (.pand g pd ps1 ps2) s = execPand g pd ps1 ps2 s := rfl
@[simp] theorem exec_por (g : BitVec 4) (pd : BitVec 4) (ps1 : BitVec 4) (ps2 : BitVec 4) (s : State) : exec (.por g pd ps1 ps2) s = execPor g pd ps1 ps2 s := rfl
@[simp] theorem exec_pxor (g : BitVec 4) (pd : BitVec 4) (ps1 : BitVec 4) (ps2 : BitVec 4) (s : State) : exec (.pxor g pd ps1 ps2) s = execPxor g pd ps1 ps2 s := rfl
@[simp] theorem exec_pnot (g : BitVec 4) (pd : BitVec 4) (ps1 : BitVec 4) (s : State) : exec (.pnot g pd ps1) s = execPnot g pd ps1 s := rfl
@[simp] theorem exec_pmov (g : BitVec 4) (pd : BitVec 4) (ps1 : BitVec 4) (s : State) : exec (.pmov g pd ps1) s = execPmov g pd ps1 s := rfl
@[simp] theorem exec_fadd (g : BitVec 4) (d : BitVec 5) (a : BitVec 5) (b : BitVec 5) (s : State) : exec (.fadd g d a b) s = execFadd g d a b s := rfl
@[simp] theorem exec_fsub (g : BitVec 4) (d : BitVec 5) (a : BitVec 5) (b : BitVec 5) (s : State) : exec (.fsub g d a b) s = execFsub g d a b s := rfl
@[simp] theorem exec_fmul (g : BitVec 4) (d : BitVec 5) (a : BitVec 5) (b : BitVec 5) (s : State) : exec (.fmul g d a b) s = execFmul g d a b s := rfl
@[simp] theorem exec_ffma (g : BitVec 4) (d : BitVec 5) (a : BitVec 5) (b : BitVec 5) (s : State) : exec (.ffma g d a b) s = execFfma g d a b s := rfl
@[simp] theorem exec_fmin (g : BitVec 4) (d : BitVec 5) (a : BitVec 5) (b : BitVec 5) (s : State) : exec (.fmin g d a b) s = execFmin g d a b s := rfl
@[simp] theorem exec_fmax (g : BitVec 4) (d : BitVec 5) (a : BitVec 5) (b : BitVec 5) (s : State) : exec (.fmax g d a b) s = execFmax g d a b s := rfl
@[simp] theorem exec_fabs (g : BitVec 4) (d : BitVec 5) (a : BitVec 5) (s : State) : exec (.fabs g d a) s = execFabs g d a s := rfl
@[simp] theorem exec_fneg (g : BitVec 4) (d : BitVec 5) (a : BitVec 5) (s : State) : exec (.fneg g d a) s = execFneg g d a s := rfl
@[simp] theorem exec_fcmpEq (g : BitVec 4) (pd : BitVec 4) (a : BitVec 5) (b : BitVec 5) (s : State) : exec (.fcmpEq g pd a b) s = execFcmpEq g pd a b s := rfl
@[simp] theorem exec_fcmpLt (g : BitVec 4) (pd : BitVec 4) (a : BitVec 5) (b : BitVec 5) (s : State) : exec (.fcmpLt g pd a b) s = execFcmpLt g pd a b s := rfl
@[simp] theorem exec_fcmpLe (g : BitVec 4) (pd : BitVec 4) (a : BitVec 5) (b : BitVec 5) (s : State) : exec (.fcmpLe g pd a b) s = execFcmpLe g pd a b s := rfl
@[simp] theorem exec_fcmpUn (g : BitVec 4) (pd : BitVec 4) (a : BitVec 5) (b : BitVec 5) (s : State) : exec (.fcmpUn g pd a b) s = execFcmpUn g pd a b s := rfl
@[simp] theorem exec_fcvt (g : BitVec 4) (df : BitVec 4) (sf : BitVec 4) (z : Bool) (rnd : BitVec 2) (d : BitVec 5) (a : BitVec 5) (s : State) : exec (.fcvt g df sf z rnd d a) s = execFcvt g df sf z rnd d a s := rfl
@[simp] theorem exec_ldB (g : BitVec 4) (na : Bool) (z : Bool) (sid : BitVec 4) (d : BitVec 5) (a : BitVec 5) (s : State) : exec (.ldB g na z sid d a) s = execLdB g na z sid d a s := rfl
@[simp] theorem exec_ldH (g : BitVec 4) (na : Bool) (z : Bool) (sid : BitVec 4) (d : BitVec 5) (a : BitVec 5) (s : State) : exec (.ldH g na z sid d a) s = execLdH g na z sid d a s := rfl
@[simp] theorem exec_ldW (g : BitVec 4) (na : Bool) (z : Bool) (sid : BitVec 4) (d : BitVec 5) (a : BitVec 5) (s : State) : exec (.ldW g na z sid d a) s = execLdW g na z sid d a s := rfl
@[simp] theorem exec_ldD (g : BitVec 4) (na : Bool) (z : Bool) (sid : BitVec 4) (d : BitVec 5) (a : BitVec 5) (s : State) : exec (.ldD g na z sid d a) s = execLdD g na z sid d a s := rfl
@[simp] theorem exec_stB (g : BitVec 4) (na : Bool) (sid : BitVec 4) (a : BitVec 5) (b : BitVec 5) (s : State) : exec (.stB g na sid a b) s = execStB g na sid a b s := rfl
@[simp] theorem exec_stH (g : BitVec 4) (na : Bool) (sid : BitVec 4) (a : BitVec 5) (b : BitVec 5) (s : State) : exec (.stH g na sid a b) s = execStH g na sid a b s := rfl
@[simp] theorem exec_stW (g : BitVec 4) (na : Bool) (sid : BitVec 4) (a : BitVec 5) (b : BitVec 5) (s : State) : exec (.stW g na sid a b) s = execStW g na sid a b s := rfl
@[simp] theorem exec_stD (g : BitVec 4) (na : Bool) (sid : BitVec 4) (a : BitVec 5) (b : BitVec 5) (s : State) : exec (.stD g na sid a b) s = execStD g na sid a b s := rfl
@[simp] theorem exec_ldf (g : BitVec 4) (d : BitVec 5) (a : BitVec 5) (s : State) : exec (.ldf g d a) s = execLdf g d a s := rfl
@[simp] theorem exec_ste (g : BitVec 4) (a : BitVec 5) (b : BitVec 5) (s : State) : exec (.ste g a b) s = execSte g a b s := rfl
@[simp] theorem exec_mbclr (g : BitVec 4) (a : BitVec 5) (s : State) : exec (.mbclr g a) s = execMbclr g a s := rfl
@[simp] theorem exec_mbstat (g : BitVec 4) (d : BitVec 5) (a : BitVec 5) (s : State) : exec (.mbstat g d a) s = execMbstat g d a s := rfl
@[simp] theorem exec_amoAdd (g : BitVec 4) (z : Bool) (wide : Bool) (d : BitVec 5) (a : BitVec 5) (b : BitVec 5) (s : State) : exec (.amoAdd g z wide d a b) s = execAmoAdd g z wide d a b s := rfl
@[simp] theorem exec_amoSwap (g : BitVec 4) (z : Bool) (wide : Bool) (d : BitVec 5) (a : BitVec 5) (b : BitVec 5) (s : State) : exec (.amoSwap g z wide d a b) s = execAmoSwap g z wide d a b s := rfl
@[simp] theorem exec_amoCas (g : BitVec 4) (z : Bool) (wide : Bool) (d : BitVec 5) (a : BitVec 5) (b : BitVec 5) (s : State) : exec (.amoCas g z wide d a b) s = execAmoCas g z wide d a b s := rfl
@[simp] theorem exec_amoMin (g : BitVec 4) (z : Bool) (wide : Bool) (d : BitVec 5) (a : BitVec 5) (b : BitVec 5) (s : State) : exec (.amoMin g z wide d a b) s = execAmoMin g z wide d a b s := rfl
@[simp] theorem exec_amoMax (g : BitVec 4) (z : Bool) (wide : Bool) (d : BitVec 5) (a : BitVec 5) (b : BitVec 5) (s : State) : exec (.amoMax g z wide d a b) s = execAmoMax g z wide d a b s := rfl
@[simp] theorem exec_amoAnd (g : BitVec 4) (z : Bool) (wide : Bool) (d : BitVec 5) (a : BitVec 5) (b : BitVec 5) (s : State) : exec (.amoAnd g z wide d a b) s = execAmoAnd g z wide d a b s := rfl
@[simp] theorem exec_amoOr (g : BitVec 4) (z : Bool) (wide : Bool) (d : BitVec 5) (a : BitVec 5) (b : BitVec 5) (s : State) : exec (.amoOr g z wide d a b) s = execAmoOr g z wide d a b s := rfl
@[simp] theorem exec_redAdd (g : BitVec 4) (z : Bool) (comp : Bool) (wide : Bool) (a : BitVec 5) (b : BitVec 5) (s : State) : exec (.redAdd g z comp wide a b) s = execRedAdd g z comp wide a b s := rfl
@[simp] theorem exec_redMin (g : BitVec 4) (z : Bool) (comp : Bool) (wide : Bool) (a : BitVec 5) (b : BitVec 5) (s : State) : exec (.redMin g z comp wide a b) s = execRedMin g z comp wide a b s := rfl
@[simp] theorem exec_redMax (g : BitVec 4) (z : Bool) (comp : Bool) (wide : Bool) (a : BitVec 5) (b : BitVec 5) (s : State) : exec (.redMax g z comp wide a b) s = execRedMax g z comp wide a b s := rfl
@[simp] theorem exec_redFadd (g : BitVec 4) (z : Bool) (comp : Bool) (wide : Bool) (a : BitVec 5) (b : BitVec 5) (s : State) : exec (.redFadd g z comp wide a b) s = execRedFadd g z comp wide a b s := rfl
@[simp] theorem exec_redCfadd (g : BitVec 4) (z : Bool) (comp : Bool) (wide : Bool) (a : BitVec 5) (b : BitVec 5) (s : State) : exec (.redCfadd g z comp wide a b) s = execRedCfadd g z comp wide a b s := rfl
@[simp] theorem exec_fenceS (g : BitVec 4) (sid : BitVec 4) (s : State) : exec (.fenceS g sid) s = execFenceS g sid s := rfl
@[simp] theorem exec_fenceJ (g : BitVec 4) (a : BitVec 5) (s : State) : exec (.fenceJ g a) s = execFenceJ g a s := rfl
@[simp] theorem exec_br (g : BitVec 4) (off : BitVec 21) (s : State) : exec (.br g off) s = execBr g off s := rfl
@[simp] theorem exec_jal (g : BitVec 4) (off : BitVec 21) (s : State) : exec (.jal g off) s = execJal g off s := rfl
@[simp] theorem exec_jalr (g : BitVec 4) (d : BitVec 5) (a : BitVec 5) (imm : BitVec 11) (s : State) : exec (.jalr g d a imm) s = execJalr g d a imm s := rfl
@[simp] theorem exec_qput (g : BitVec 4) (q : BitVec 3) (a : BitVec 5) (s : State) : exec (.qput g q a) s = execQput g q a s := rfl
@[simp] theorem exec_qget (g : BitVec 4) (d : BitVec 5) (q : BitVec 3) (s : State) : exec (.qget g d q) s = execQget g d q s := rfl
@[simp] theorem exec_lpw (g : BitVec 4) (lp : BitVec 4) (a : BitVec 5) (s : State) : exec (.lpw g lp a) s = execLpw g lp a s := rfl
@[simp] theorem exec_fmt (g : BitVec 4) (a : BitVec 5) (s : State) : exec (.fmt g a) s = execFmt g a s := rfl
@[simp] theorem exec_job (g : BitVec 4) (d : BitVec 5) (a : BitVec 5) (s : State) : exec (.job g d a) s = execJob g d a s := rfl
@[simp] theorem exec_jwait (g : BitVec 4) (a : BitVec 5) (s : State) : exec (.jwait g a) s = execJwait g a s := rfl
@[simp] theorem exec_cpin (g : BitVec 4) (d : BitVec 5) (ch : BitVec 2) (a : BitVec 5) (s : State) : exec (.cpin g d ch a) s = execCpin g d ch a s := rfl
@[simp] theorem exec_cpout (g : BitVec 4) (d : BitVec 5) (ch : BitVec 2) (a : BitVec 5) (s : State) : exec (.cpout g d ch a) s = execCpout g d ch a s := rfl
@[simp] theorem exec_waitx (g : BitVec 4) (ch : BitVec 3) (a : BitVec 5) (s : State) : exec (.waitx g ch a) s = execWaitx g ch a s := rfl
@[simp] theorem exec_rvin (g : BitVec 4) (d : BitVec 5) (a : BitVec 5) (s : State) : exec (.rvin g d a) s = execRvin g d a s := rfl
@[simp] theorem exec_rvout (g : BitVec 4) (d : BitVec 5) (a : BitVec 5) (s : State) : exec (.rvout g d a) s = execRvout g d a s := rfl
@[simp] theorem exec_commit (g : BitVec 4) (s : State) : exec (.commit g) s = execCommit g s := rfl
@[simp] theorem exec_commitSwap (g : BitVec 4) (s : State) : exec (.commitSwap g) s = execCommitSwap g s := rfl
@[simp] theorem exec_snap (g : BitVec 4) (d : BitVec 5) (a : BitVec 5) (s : State) : exec (.snap g d a) s = execSnap g d a s := rfl
@[simp] theorem exec_fork (g : BitVec 4) (d : BitVec 5) (a : BitVec 5) (s : State) : exec (.fork g d a) s = execFork g d a s := rfl
@[simp] theorem exec_rollb (g : BitVec 4) (a : BitVec 5) (b : BitVec 5) (s : State) : exec (.rollb g a b) s = execRollb g a b s := rfl
@[simp] theorem exec_freeh (g : BitVec 4) (a : BitVec 5) (s : State) : exec (.freeh g a) s = execFreeh g a s := rfl
@[simp] theorem exec_bar (g : BitVec 4) (k : BitVec 2) (s : State) : exec (.bar g k) s = execBar g k s := rfl
@[simp] theorem exec_task (g : BitVec 4) (a : BitVec 5) (s : State) : exec (.task g a) s = execTask g a s := rfl
@[simp] theorem exec_gadd (g : BitVec 4) (a : BitVec 5) (b : BitVec 5) (s : State) : exec (.gadd g a b) s = execGadd g a b s := rfl
@[simp] theorem exec_gset (g : BitVec 4) (a : BitVec 5) (b : BitVec 5) (s : State) : exec (.gset g a b) s = execGset g a b s := rfl
@[simp] theorem exec_gmax (g : BitVec 4) (a : BitVec 5) (b : BitVec 5) (s : State) : exec (.gmax g a b) s = execGmax g a b s := rfl
@[simp] theorem exec_resid (g : BitVec 4) (d : BitVec 5) (s : State) : exec (.resid g d) s = execResid g d s := rfl
@[simp] theorem exec_hmix (g : BitVec 4) (d : BitVec 5) (a : BitVec 5) (b : BitVec 5) (s : State) : exec (.hmix g d a b) s = execHmix g d a b s := rfl
@[simp] theorem exec_trap (g : BitVec 4) (code : BitVec 10) (s : State) : exec (.trap g code) s = execTrap g code s := rfl
@[simp] theorem exec_rte (g : BitVec 4) (s : State) : exec (.rte g) s = execRte g s := rfl
@[simp] theorem exec_crr (g : BitVec 4) (d : BitVec 5) (n : BitVec 5) (s : State) : exec (.crr g d n) s = execCrr g d n s := rfl
@[simp] theorem exec_crw (g : BitVec 4) (n : BitVec 5) (a : BitVec 5) (s : State) : exec (.crw g n a) s = execCrw g n a s := rfl
@[simp] theorem exec_tsave (g : BitVec 4) (a : BitVec 5) (s : State) : exec (.tsave g a) s = execTsave g a s := rfl
@[simp] theorem exec_trstr (g : BitVec 4) (a : BitVec 5) (s : State) : exec (.trstr g a) s = execTrstr g a s := rfl
@[simp] theorem exec_yield (g : BitVec 4) (s : State) : exec (.yield g) s = execYield g s := rfl
@[simp] theorem exec_halt (g : BitVec 4) (s : State) : exec (.halt g) s = execHalt g s := rfl
@[simp] theorem exec_cMov (d : BitVec 5) (a : BitVec 5) (s : State) : exec (.cMov d a) s = execCMov d a s := rfl
@[simp] theorem exec_cAdd (d : BitVec 5) (a : BitVec 5) (s : State) : exec (.cAdd d a) s = execCAdd d a s := rfl
@[simp] theorem exec_cAddi (d : BitVec 5) (imm : BitVec 6) (s : State) : exec (.cAddi d imm) s = execCAddi d imm s := rfl
@[simp] theorem exec_cLdD (d : BitVec 5) (a : BitVec 5) (s : State) : exec (.cLdD d a) s = execCLdD d a s := rfl
@[simp] theorem exec_cStD (a : BitVec 5) (b : BitVec 5) (s : State) : exec (.cStD a b) s = execCStD a b s := rfl
@[simp] theorem exec_cQput (q : BitVec 3) (a : BitVec 5) (s : State) : exec (.cQput q a) s = execCQput q a s := rfl
@[simp] theorem exec_cQget (d : BitVec 5) (q : BitVec 3) (s : State) : exec (.cQget d q) s = execCQget d q s := rfl
@[simp] theorem exec_cBr (off : BitVec 11) (s : State) : exec (.cBr off) s = execCBr off s := rfl
@[simp] theorem exec_cLpw (lp : BitVec 4) (a : BitVec 5) (s : State) : exec (.cLpw lp a) s = execCLpw lp a s := rfl
@[simp] theorem exec_cNop  (s : State) : exec (.cNop) s = execCNop s := rfl
@[simp] theorem exec_idle (n : BitVec 10) (s : State) : exec (.idle n) s = execIdle n s := rfl
@[simp] theorem exec_join  (s : State) : exec (.join) s = execJoin s := rfl
@[simp] theorem exec_blk (depth : BitVec 3) (rsrc : Bool) (len : BitVec 10) (rep : BitVec 12) (s : State) : exec (.blk depth rsrc len rep) s = execBlk depth rsrc len rep s := rfl
@[simp] theorem exec_mmaBf16 (acc : BitVec 2) (aop : BitVec 3) (bop : BitVec 3) (k : BitVec 14) (comp : Bool) (fz : Bool) (s : State) : exec (.mmaBf16 acc aop bop k comp fz) s = execMmaBf16 acc aop bop k comp fz s := rfl
@[simp] theorem exec_mmaFp16 (acc : BitVec 2) (aop : BitVec 3) (bop : BitVec 3) (k : BitVec 14) (comp : Bool) (fz : Bool) (s : State) : exec (.mmaFp16 acc aop bop k comp fz) s = execMmaFp16 acc aop bop k comp fz s := rfl
@[simp] theorem exec_mmaFp8e4 (acc : BitVec 2) (aop : BitVec 3) (bop : BitVec 3) (k : BitVec 14) (comp : Bool) (fz : Bool) (s : State) : exec (.mmaFp8e4 acc aop bop k comp fz) s = execMmaFp8e4 acc aop bop k comp fz s := rfl
@[simp] theorem exec_mmaFp8e5 (acc : BitVec 2) (aop : BitVec 3) (bop : BitVec 3) (k : BitVec 14) (comp : Bool) (fz : Bool) (s : State) : exec (.mmaFp8e5 acc aop bop k comp fz) s = execMmaFp8e5 acc aop bop k comp fz s := rfl
@[simp] theorem exec_mmaCb4 (acc : BitVec 2) (aop : BitVec 3) (bop : BitVec 3) (k : BitVec 14) (comp : Bool) (fz : Bool) (s : State) : exec (.mmaCb4 acc aop bop k comp fz) s = execMmaCb4 acc aop bop k comp fz s := rfl
@[simp] theorem exec_cmmaCbf16 (acc : BitVec 2) (aop : BitVec 3) (bop : BitVec 3) (k : BitVec 14) (comp : Bool) (fz : Bool) (conja : Bool) (conjb : Bool) (s : State) : exec (.cmmaCbf16 acc aop bop k comp fz conja conjb) s = execCmmaCbf16 acc aop bop k comp fz conja conjb s := rfl
@[simp] theorem exec_cmmaCfp16 (acc : BitVec 2) (aop : BitVec 3) (bop : BitVec 3) (k : BitVec 14) (comp : Bool) (fz : Bool) (conja : Bool) (conjb : Bool) (s : State) : exec (.cmmaCfp16 acc aop bop k comp fz conja conjb) s = execCmmaCfp16 acc aop bop k comp fz conja conjb s := rfl
@[simp] theorem exec_mzero (acc : BitVec 2) (pair : Bool) (s : State) : exec (.mzero acc pair) s = execMzero acc pair s := rfl
@[simp] theorem exec_mdrainTrk (acc : BitVec 2) (trk : BitVec 2) (pair : Bool) (s : State) : exec (.mdrainTrk acc trk pair) s = execMdrainTrk acc trk pair s := rfl
@[simp] theorem exec_mdrainSpd (acc : BitVec 2) (spb : BitVec 3) (pair : Bool) (s : State) : exec (.mdrainSpd acc spb pair) s = execMdrainSpd acc spb pair s := rfl
@[simp] theorem exec_mdrainCp (acc : BitVec 2) (ch : BitVec 2) (pair : Bool) (s : State) : exec (.mdrainCp acc ch pair) s = execMdrainCp acc ch pair s := rfl
@[simp] theorem exec_mwl (wb : BitVec 1) (src : BitVec 3) (k : BitVec 14) (s : State) : exec (.mwl wb src k) s = execMwl wb src k s := rfl
@[simp] theorem exec_mcb (cb : BitVec 2) (src : BitVec 3) (s : State) : exec (.mcb cb src) s = execMcb cb src s := rfl
@[simp] theorem exec_mstop (seed : BitVec 16) (s : State) : exec (.mstop seed) s = execMstop seed s := rfl
@[simp] theorem exec_scanD (dtrk : BitVec 2) (xtrk : BitVec 2) (comp : Bool) (fz : Bool) (spb : BitVec 3) (n : BitVec 10) (s : State) : exec (.scanD dtrk xtrk comp fz spb n) s = execScanD dtrk xtrk comp fz spb n s := rfl
@[simp] theorem exec_scanC (dtrk : BitVec 2) (xtrk : BitVec 2) (comp : Bool) (fz : Bool) (spb : BitVec 3) (n : BitVec 10) (s : State) : exec (.scanC dtrk xtrk comp fz spb n) s = execScanC dtrk xtrk comp fz spb n s := rfl
@[simp] theorem exec_schunk (dtrk : BitVec 2) (xtrk : BitVec 2) (comp : Bool) (fz : Bool) (spb : BitVec 3) (n : BitVec 10) (s : State) : exec (.schunk dtrk xtrk comp fz spb n) s = execSchunk dtrk xtrk comp fz spb n s := rfl
@[simp] theorem exec_scarry (spb : BitVec 3) (rspb : BitVec 3) (comp : Bool) (n : BitVec 10) (s : State) : exec (.scarry spb rspb comp n) s = execScarry spb rspb comp n s := rfl
@[simp] theorem exec_sout (trk : BitVec 2) (spb : BitVec 3) (comp : Bool) (n : BitVec 10) (s : State) : exec (.sout trk spb comp n) s = execSout trk spb comp n s := rfl
@[simp] theorem exec_slin (ktrk : BitVec 2) (vtrk : BitVec 2) (spb : BitVec 3) (comp : Bool) (n : BitVec 10) (s : State) : exec (.slin ktrk vtrk spb comp n) s = execSlin ktrk vtrk spb comp n s := rfl
@[simp] theorem exec_vadd (f : VxFrame) (s : State) : exec (.vadd f) s = execVadd f s := rfl
@[simp] theorem exec_vsub (f : VxFrame) (s : State) : exec (.vsub f) s = execVsub f s := rfl
@[simp] theorem exec_vmul (f : VxFrame) (s : State) : exec (.vmul f) s = execVmul f s := rfl
@[simp] theorem exec_vfma (f : VxFrame) (s : State) : exec (.vfma f) s = execVfma f s := rfl
@[simp] theorem exec_vmin (f : VxFrame) (s : State) : exec (.vmin f) s = execVmin f s := rfl
@[simp] theorem exec_vmax (f : VxFrame) (s : State) : exec (.vmax f) s = execVmax f s := rfl
@[simp] theorem exec_vneg (f : VxFrame) (s : State) : exec (.vneg f) s = execVneg f s := rfl
@[simp] theorem exec_vabs (f : VxFrame) (s : State) : exec (.vabs f) s = execVabs f s := rfl
@[simp] theorem exec_vcmp (f : VxFrame) (s : State) : exec (.vcmp f) s = execVcmp f s := rfl
@[simp] theorem exec_vsel (f : VxFrame) (s : State) : exec (.vsel f) s = execVsel f s := rfl
@[simp] theorem exec_vcvt (f : VxFrame) (s : State) : exec (.vcvt f) s = execVcvt f s := rfl
@[simp] theorem exec_vexp (f : VxFrame) (s : State) : exec (.vexp f) s = execVexp f s := rfl
@[simp] theorem exec_vlog (f : VxFrame) (s : State) : exec (.vlog f) s = execVlog f s := rfl
@[simp] theorem exec_vrcp (f : VxFrame) (s : State) : exec (.vrcp f) s = execVrcp f s := rfl
@[simp] theorem exec_vrsq (f : VxFrame) (s : State) : exec (.vrsq f) s = execVrsq f s := rfl
@[simp] theorem exec_vact (f : VxFrame) (s : State) : exec (.vact f) s = execVact f s := rfl
@[simp] theorem exec_vcmul (f : VxFrame) (s : State) : exec (.vcmul f) s = execVcmul f s := rfl
@[simp] theorem exec_vredSum (f : VxFrame) (s : State) : exec (.vredSum f) s = execVredSum f s := rfl
@[simp] theorem exec_vredMax (f : VxFrame) (s : State) : exec (.vredMax f) s = execVredMax f s := rfl
@[simp] theorem exec_vrot (f : VxFrame) (s : State) : exec (.vrot f) s = execVrot f s := rfl
@[simp] theorem exec_vkey (f : VxFrame) (s : State) : exec (.vkey f) s = execVkey f s := rfl
@[simp] theorem exec_vhist (f : VxFrame) (s : State) : exec (.vhist f) s = execVhist f s := rfl
@[simp] theorem exec_vchk (pr : Bool) (rnd : BitVec 3) (k : BitVec 32) (s : State) : exec (.vchk pr rnd k) s = execVchk pr rnd k s := rfl
@[simp] theorem exec_vmov (f : VxFrame) (s : State) : exec (.vmov f) s = execVmov f s := rfl
@[simp] theorem exec_vbit (f : VxFrame) (s : State) : exec (.vbit f) s = execVbit f s := rfl
@[simp] theorem exec_viadd (f : VxFrame) (s : State) : exec (.viadd f) s = execViadd f s := rfl
@[simp] theorem exec_vimul (f : VxFrame) (s : State) : exec (.vimul f) s = execVimul f s := rfl
@[simp] theorem exec_vpack (f : VxFrame) (s : State) : exec (.vpack f) s = execVpack f s := rfl
@[simp] theorem exec_vunpk (f : VxFrame) (s : State) : exec (.vunpk f) s = execVunpk f s := rfl
@[simp] theorem exec_ldt (trk : BitVec 2) (spb : BitVec 3) (s : State) : exec (.ldt trk spb) s = execLdt trk spb s := rfl
@[simp] theorem exec_ldx (trk : BitVec 2) (ispb : BitVec 3) (dspb : BitVec 3) (s : State) : exec (.ldx trk ispb dspb) s = execLdx trk ispb dspb s := rfl
@[simp] theorem exec_ldm (trk : BitVec 2) (win : BitVec 13) (s : State) : exec (.ldm trk win) s = execLdm trk win s := rfl
@[simp] theorem exec_ldc (trk : BitVec 2) (addr : BitVec 24) (s : State) : exec (.ldc trk addr) s = execLdc trk addr s := rfl
@[simp] theorem exec_ldb (trk : BitVec 2) (spb : BitVec 3) (s : State) : exec (.ldb trk spb) s = execLdb trk spb s := rfl
@[simp] theorem exec_stt (trk : BitVec 2) (spb : BitVec 3) (s : State) : exec (.stt trk spb) s = execStt trk spb s := rfl
@[simp] theorem exec_stx (dtrk : BitVec 2) (itrk : BitVec 2) (spb : BitVec 3) (s : State) : exec (.stx dtrk itrk spb) s = execStx dtrk itrk spb s := rfl
@[simp] theorem exec_stm (trk : BitVec 2) (stop : BitVec 7) (win : BitVec 13) (s : State) : exec (.stm trk stop win) s = execStm trk stop win s := rfl
@[simp] theorem exec_stb (trk : BitVec 2) (spb : BitVec 3) (s : State) : exec (.stb trk spb) s = execStb trk spb s := rfl
@[simp] theorem exec_jobStart  (s : State) : exec (.jobStart) s = execJobStart s := rfl
@[simp] theorem exec_opResult (b : Nat) (late : Bool) (s : State) : exec (.opResult b late) s = execOpResult b late s := rfl
@[simp] theorem exec_rendezvous  (s : State) : exec (.rendezvous) s = execRendezvous s := rfl
@[simp] theorem exec_overrun  (s : State) : exec (.overrun) s = execOverrun s := rfl
@[simp] theorem exec_taskStart  (s : State) : exec (.taskStart) s = execTaskStart s := rfl
@[simp] theorem exec_flit (stop : Nat) (ccw : Bool) (ok : Bool) (s : State) : exec (.flit stop ccw ok) s = execFlit stop ccw ok s := rfl
@[simp] theorem exec_returnWord (stop : Nat) (ccw : Bool) (ok : Bool) (s : State) : exec (.returnWord stop ccw ok) s = execReturnWord stop ccw ok s := rfl
@[simp] theorem exec_auditTick  (s : State) : exec (.auditTick) s = execAuditTick s := rfl
@[simp] theorem exec_auditFlit (stop : Nat) (ccw : Bool) (ok : Bool) (s : State) : exec (.auditFlit stop ccw ok) s = execAuditFlit stop ccw ok s := rfl
@[simp] theorem exec_packetDelivery  (s : State) : exec (.packetDelivery) s = execPacketDelivery s := rfl
@[simp] theorem exec_mail (p : Packet) (s : State) : exec (.mail p) s = execMail p s := rfl
@[simp] theorem exec_done (p : Packet) (s : State) : exec (.done p) s = execDone p s := rfl
@[simp] theorem exec_bara (p : Packet) (s : State) : exec (.bara p) s = execBara p s := rfl
@[simp] theorem exec_barr (p : Packet) (s : State) : exec (.barr p) s = execBarr p s := rfl
@[simp] theorem exec_heap (p : Packet) (s : State) : exec (.heap p) s = execHeap p s := rfl
@[simp] theorem exec_gainRefusal (o : HeapOp) (s : State) : exec (.gainRefusal o) s = execGainRefusal o s := rfl
@[simp] theorem exec_reservedPacket (p : Packet) (s : State) : exec (.reservedPacket p) s = execReservedPacket p s := rfl
@[simp] theorem exec_rdreq (p : Packet) (s : State) : exec (.rdreq p) s = execRdreq p s := rfl
@[simp] theorem exec_rdrsp (p : Packet) (s : State) : exec (.rdrsp p) s = execRdrsp p s := rfl
@[simp] theorem exec_prep (p : Packet) (s : State) : exec (.prep p) s = execPrep p s := rfl
@[simp] theorem exec_amoreq (p : Packet) (s : State) : exec (.amoreq p) s = execAmoreq p s := rfl
@[simp] theorem exec_amorsp (p : Packet) (s : State) : exec (.amorsp p) s = execAmorsp p s := rfl
@[simp] theorem exec_redent (p : Packet) (s : State) : exec (.redent p) s = execRedent p s := rfl
@[simp] theorem exec_engine (p : Packet) (s : State) : exec (.engine p) s = execEngine p s := rfl
@[simp] theorem exec_ctrl (p : Packet) (s : State) : exec (.ctrl p) s = execCtrl p s := rfl
@[simp] theorem exec_taskSpillReturn  (s : State) : exec (.taskSpillReturn) s = execTaskSpillReturn s := rfl
@[simp] theorem exec_commitEvent  (s : State) : exec (.commitEvent) s = execCommitEvent s := rfl
@[simp] theorem exec_eventPrepared  (s : State) : exec (.eventPrepared) s = execEventPrepared s := rfl
@[simp] theorem exec_eventComplete  (s : State) : exec (.eventComplete) s = execEventComplete s := rfl
@[simp] theorem exec_heapRun  (s : State) : exec (.heapRun) s = execHeapRun s := rfl
@[simp] theorem exec_roundTaskStart  (s : State) : exec (.roundTaskStart) s = execRoundTaskStart s := rfl
@[simp] theorem exec_copyStart  (s : State) : exec (.copyStart) s = execCopyStart s := rfl
@[simp] theorem exec_copyPiece  (s : State) : exec (.copyPiece) s = execCopyPiece s := rfl
@[simp] theorem exec_reeveStart  (s : State) : exec (.reeveStart) s = execReeveStart s := rfl
@[simp] theorem exec_rvinRetire  (s : State) : exec (.rvinRetire) s = execRvinRetire s := rfl
@[simp] theorem exec_rvoutRetire  (s : State) : exec (.rvoutRetire) s = execRvoutRetire s := rfl
@[simp] theorem exec_lightFault  (s : State) : exec (.lightFault) s = execLightFault s := rfl
@[simp] theorem exec_recordTake  (s : State) : exec (.recordTake) s = execRecordTake s := rfl
@[simp] theorem exec_launchIssue  (s : State) : exec (.launchIssue) s = execLaunchIssue s := rfl
@[simp] theorem exec_prefixLookup  (s : State) : exec (.prefixLookup) s = execPrefixLookup s := rfl
@[simp] theorem exec_prefixInsert  (s : State) : exec (.prefixInsert) s = execPrefixInsert s := rfl
@[simp] theorem exec_prefixUnpin  (s : State) : exec (.prefixUnpin) s = execPrefixUnpin s := rfl
@[simp] theorem exec_launchComplete  (s : State) : exec (.launchComplete) s = execLaunchComplete s := rfl
@[simp] theorem exec_slotBoundary  (s : State) : exec (.slotBoundary) s = execSlotBoundary s := rfl
@[simp] theorem exec_slotref (offset : Int) (s : State) : exec (.slotref offset) s = execSlotref offset s := rfl
@[simp] theorem exec_slotrefTimeout  (s : State) : exec (.slotrefTimeout) s = execSlotrefTimeout s := rfl
@[simp] theorem exec_slotAnnouncement (num : Nat) (tick : Nat) (s : State) : exec (.slotAnnouncement num tick) s = execSlotAnnouncement num tick s := rfl
@[simp] theorem exec_slotAck (num : Nat) (s : State) : exec (.slotAck num) s = execSlotAck num s := rfl
@[simp] theorem exec_cancellation  (s : State) : exec (.cancellation) s = execCancellation s := rfl
@[simp] theorem exec_discard  (s : State) : exec (.discard) s = execDiscard s := rfl
@[simp] theorem exec_suspend  (s : State) : exec (.suspend) s = execSuspend s := rfl
@[simp] theorem exec_tokenRetry (v : Nat) (tok : Nat) (s : State) : exec (.tokenRetry v tok) s = execTokenRetry v tok s := rfl
@[simp] theorem exec_tokenRefuse (v : Nat) (tok : Nat) (s : State) : exec (.tokenRefuse v tok) s = execTokenRefuse v tok s := rfl
@[simp] theorem exec_tokenRecordPost  (s : State) : exec (.tokenRecordPost) s = execTokenRecordPost s := rfl
@[simp] theorem exec_bankSwitch  (s : State) : exec (.bankSwitch) s = execBankSwitch s := rfl
@[simp] theorem exec_braidStall  (s : State) : exec (.braidStall) s = execBraidStall s := rfl
@[simp] theorem exec_preemption  (s : State) : exec (.preemption) s = execPreemption s := rfl
@[simp] theorem exec_launchResume  (s : State) : exec (.launchResume) s = execLaunchResume s := rfl
@[simp] theorem exec_rowRefresh (die : Nat) (row : Nat) (bad : List (Nat × Bool)) (s : State) : exec (.rowRefresh die row bad) s = execRowRefresh die row bad s := rfl
@[simp] theorem exec_l2Scrub (die : Nat) (sb : Nat) (err : Option Nat) (s : State) : exec (.l2Scrub die sb err) s = execL2Scrub die sb err s := rfl
@[simp] theorem exec_inFieldTest  (s : State) : exec (.inFieldTest) s = execInFieldTest s := rfl
@[simp] theorem exec_inFieldTestEnd (b : Nat) (pass : Bool) (s : State) : exec (.inFieldTestEnd b pass) s = execInFieldTestEnd b pass s := rfl
@[simp] theorem exec_spliceFlit (cr : Nat) (toEast : Bool) (ok : Bool) (s : State) : exec (.spliceFlit cr toEast ok) s = execSpliceFlit cr toEast ok s := rfl
@[simp] theorem exec_flitReplay  (s : State) : exec (.flitReplay) s = execFlitReplay s := rfl
@[simp] theorem exec_retrain  (s : State) : exec (.retrain) s = execRetrain s := rfl
@[simp] theorem exec_retrainComplete (link : Nat) (lanes0 : Nat) (lanes1 : Nat) (s : State) : exec (.retrainComplete link lanes0 lanes1) s = execRetrainComplete link lanes0 lanes1 s := rfl
@[simp] theorem exec_linkDown  (s : State) : exec (.linkDown) s = execLinkDown s := rfl
@[simp] theorem exec_portFrame (port : Nat) (fr : PortFrame) (s : State) : exec (.portFrame port fr) s = execPortFrame port fr s := rfl
@[simp] theorem exec_cxlMemRead (v : Nat) (off : Nat) (n : Nat) (s : State) : exec (.cxlMemRead v off n) s = execCxlMemRead v off n s := rfl
@[simp] theorem exec_cxlMemWrite (v : Nat) (off : Nat) (data : List Byte) (s : State) : exec (.cxlMemWrite v off data) s = execCxlMemWrite v off data s := rfl
@[simp] theorem exec_snoop (pa : Nat) (s : State) : exec (.snoop pa) s = execSnoop pa s := rfl
@[simp] theorem exec_create (v : Nat) (c : CreateArgs) (s : State) : exec (.create v c) s = execCreate v c s := rfl
@[simp] theorem exec_destroy (v : Nat) (s : State) : exec (.destroy v) s = execDestroy v s := rfl
@[simp] theorem exec_assign (v : Nat) (first : Nat) (count : Nat) (s : State) : exec (.assign v first count) s = execAssign v first count s := rfl
@[simp] theorem exec_migrate (v : Nat) (src : Nat) (dst : Nat) (size : Nat) (s : State) : exec (.migrate v src dst size) s = execMigrate v src dst size s := rfl
@[simp] theorem exec_attest (addr : Nat) (nonce : List Byte) (s : State) : exec (.attest addr nonce) s = execAttest addr nonce s := rfl
@[simp] theorem exec_spliceRetrainA  (s : State) : exec (.spliceRetrainA) s = execSpliceRetrainA s := rfl
@[simp] theorem exec_spliceRetrainB  (s : State) : exec (.spliceRetrainB) s = execSpliceRetrainB s := rfl
@[simp] theorem exec_hostLinkRetrain  (s : State) : exec (.hostLinkRetrain) s = execHostLinkRetrain s := rfl
@[simp] theorem exec_holdrel (b : Nat) (s : State) : exec (.holdrel b) s = execHoldrel b s := rfl
@[simp] theorem exec_errbankClear (die : Nat) (bank : Nat) (s : State) : exec (.errbankClear die bank) s = execErrbankClear die bank s := rfl
@[simp] theorem exec_ptroot (v : Nat) (val : Nat) (s : State) : exec (.ptroot v val) s = execPtroot v val s := rfl
@[simp] theorem exec_tlbsync (v : Nat) (s : State) : exec (.tlbsync v) s = execTlbsync v s := rfl
@[simp] theorem exec_cap (watts : Nat) (s : State) : exec (.cap watts) s = execCap watts s := rfl
@[simp] theorem exec_registerWrite (v : Nat) (off : Nat) (val : Nat) (s : State) : exec (.registerWrite v off val) s = execRegisterWrite v off val s := rfl
@[simp] theorem exec_powerEvaluation (mw : Nat) (tempW : Nat) (tempE : Nat) (s : State) : exec (.powerEvaluation mw tempW tempE) s = execPowerEvaluation mw tempW tempE s := rfl
@[simp] theorem exec_thermalTrip  (s : State) : exec (.thermalTrip) s = execThermalTrip s := rfl
@[simp] theorem exec_resetN (low : Bool) (s : State) : exec (.resetN low) s = execResetN low s := rfl
@[simp] theorem exec_reset (val : Nat) (s : State) : exec (.reset val) s = execReset val s := rfl
@[simp] theorem exec_bootStep (ok : Bool) (img : BootImage) (s : State) : exec (.bootStep ok img) s = execBootStep ok img s := rfl
@[simp] theorem exec_illegalEncoding  (s : State) : exec (.illegalEncoding) s = execIllegalEncoding s := rfl
@[simp] theorem exec_flitSend  (s : State) : exec (.flitSend) s = execFlitSend s := rfl
@[simp] theorem exec_cxlCacheResponse (pa : Nat) (data : List Byte) (s : State) : exec (.cxlCacheResponse pa data) s = execCxlCacheResponse pa data s := rfl
@[simp] theorem exec_adminCommandComplete  (s : State) : exec (.adminCommandComplete) s = execAdminCommandComplete s := rfl
@[simp] theorem exec_powerGateDecision (b : Nat) (cycles : Nat) (s : State) : exec (.powerGateDecision b cycles) s = execPowerGateDecision b cycles s := rfl

end Sys2Proof.Machine
end

