-- ==== Sys2Proof/Laws/Tables.lean ====
section
/-! SUPPORT. Sparse tables: reading after writing, and the canonical form. -/

namespace Sys2Proof.Machine

@[simp] theorem tget_nil {α : Type} (d : α) (i : Nat) : tget d [] i = d := rfl

@[simp] theorem tget_tput_same {α : Type} (d : α) (m : Tab α) (i : Nat) (x : α) : tget d (tput m i x) i = x := by
  induction m with
  | nil => simp [tput, tget]
  | cons e r ih =>
    obtain ⟨k, v⟩ := e
    unfold tput
    split
    · simp [tget]
    · split
      · simp [tget]
      · next h => simp [tget, h, ih]

theorem tget_tput_ne {α : Type} (d : α) (m : Tab α) {i j : Nat} (x : α) (h : j ≠ i) : tget d (tput m i x) j = tget d m j := by
  induction m with
  | nil => simp [tput, tget, h]
  | cons e r ih =>
    obtain ⟨k, v⟩ := e
    unfold tput
    split
    · simp [tget, h]
    · split
      · next hk => subst hk; simp [tget, h]
      · simp [tget, ih]

/-- Reading a table after a write: the value written at its key, the old one elsewhere. -/
theorem tget_tput {α : Type} (d : α) (m : Tab α) (i j : Nat) (x : α) :
    tget d (tput m i x) j = if j = i then x else tget d m j := by
  split
  · next h => subst h; simp
  · next h => exact tget_tput_ne d m x h

@[simp] theorem tput_tput {α : Type} (m : Tab α) (i : Nat) (x y : α) : tput (tput m i x) i y = tput m i y := by
  induction m with
  | nil => simp [tput]
  | cons e r ih =>
    obtain ⟨k, v⟩ := e
    by_cases h : i < k
    · simp [tput, h]
    · by_cases h2 : i = k
      · subst h2; simp [tput]
      · simp [tput, h, h2, ih]

@[simp] theorem tget_tdel_same {α : Type} (d : α) (m : Tab α) (i : Nat) : tget d (tdel m i) i = d := by
  induction m with
  | nil => rfl
  | cons e r ih =>
    obtain ⟨k, v⟩ := e
    unfold tdel
    split
    · exact ih
    · next h => simp [tget, Ne.symm h, ih]

theorem tget_tdel_ne {α : Type} (d : α) (m : Tab α) {i j : Nat} (h : j ≠ i) : tget d (tdel m i) j = tget d m j := by
  induction m with
  | nil => rfl
  | cons e r ih =>
    obtain ⟨k, v⟩ := e
    unfold tdel
    split
    · next hk => subst hk; simp [tget, h, ih]
    · simp [tget, ih]

/-- Reading a canonical table after a write: the value written at its key, the old one elsewhere. -/
theorem tget_tset {α : Type} [DecidableEq α] (d : α) (m : Tab α) (i j : Nat) (x : α) :
    tget d (tset d m i x) j = if j = i then x else tget d m j := by
  unfold tset
  by_cases hx : x = d
  · rw [if_pos hx]
    by_cases h : j = i
    · subst h; simp [hx]
    · simp [h, tget_tdel_ne]
  · rw [if_neg hx]; exact tget_tput d m i j x

@[simp] theorem tget_tset_same {α : Type} [DecidableEq α] (d : α) (m : Tab α) (i : Nat) (x : α) : tget d (tset d m i x) i = x := by
  simp [tget_tset]

theorem tget_tset_ne {α : Type} [DecidableEq α] (d : α) (m : Tab α) {i j : Nat} (x : α) (h : j ≠ i) :
    tget d (tset d m i x) j = tget d m j := by
  simp [tget_tset, h]

theorem twfFrom_tput {α : Type} [DecidableEq α] (d : α) (m : Tab α) (i : Nat) (x : α) (hx : x ≠ d) :
    ∀ lo : Option Nat, (∀ l, lo = some l → l < i) → twfFrom d lo m = true → twfFrom d lo (tput m i x) = true := by
  induction m with
  | nil =>
    intro lo hl _
    cases lo with
    | none => simp [tput, twfFrom, hx]
    | some l => simp [tput, twfFrom, hx, hl l rfl]
  | cons e r ih =>
    obtain ⟨k, v⟩ := e
    intro lo hl h
    unfold tput
    simp only [twfFrom, Bool.and_eq_true, decide_eq_true_eq] at h
    obtain ⟨⟨h1, h2⟩, h3⟩ := h
    split
    · next hk =>
      cases lo with
      | none => simp [twfFrom, hx, hk, h2, h3]
      | some l => simp [twfFrom, hx, hk, h2, h3, hl l rfl]
    · split
      · next hk2 =>
        subst hk2
        cases lo with
        | none => simp [twfFrom, hx, h3]
        | some l => simp [twfFrom, hx, h3, hl l rfl]
      · next hk hk2 =>
        have := ih (some k) (by intro l hl2; cases hl2; omega) h3
        cases lo with
        | none => simp [twfFrom, h2, this]
        | some l =>
          simp only [decide_eq_true_eq] at h1
          simp [twfFrom, h1, h2, this]

theorem twfFrom_weaken {α : Type} [DecidableEq α] (d : α) (m : Tab α) (lo : Option Nat) (k : Nat)
    (hk : ∀ l, lo = some l → l < k) (h : twfFrom d (some k) m = true) : twfFrom d lo m = true := by
  cases m with
  | nil => rfl
  | cons e r =>
    obtain ⟨i, v⟩ := e
    simp only [twfFrom, Bool.and_eq_true, decide_eq_true_eq] at h ⊢
    obtain ⟨⟨h1, h2⟩, h3⟩ := h
    refine ⟨⟨?_, h2⟩, h3⟩
    cases lo with
    | none => rfl
    | some l => have := hk l rfl; simp; omega

theorem twfFrom_tdel {α : Type} [DecidableEq α] (d : α) (m : Tab α) (i : Nat) :
    ∀ lo : Option Nat, twfFrom d lo m = true → twfFrom d lo (tdel m i) = true := by
  induction m with
  | nil => intro lo _; rfl
  | cons e r ih =>
    obtain ⟨k, v⟩ := e
    intro lo h
    simp only [twfFrom, Bool.and_eq_true, decide_eq_true_eq] at h
    obtain ⟨⟨h1, h2⟩, h3⟩ := h
    unfold tdel
    split
    · refine twfFrom_weaken d _ lo k ?_ (ih (some k) h3)
      intro l hl
      subst hl
      simpa using h1
    · simp [twfFrom, h1, h2, ih (some k) h3]

/-- Writing a value keeps the canonical form. -/
theorem twf_tset {α : Type} [DecidableEq α] (d : α) (m : Tab α) (i : Nat) (x : α) (h : twf d m = true) :
    twf d (tset d m i x) = true := by
  unfold tset
  split
  · exact twfFrom_tdel d m i none h
  · next hx => exact twfFrom_tput d m i x hx none (by simp) h

/-- In a canonical table every entry differs from the default and reads back. -/
theorem twfFrom_lt {α : Type} [DecidableEq α] (d : α) (m : Tab α) :
    ∀ (lo i : Nat), twfFrom d (some lo) m = true → i ≤ lo → tget d m i = d := by
  induction m with
  | nil => intros; rfl
  | cons e r ih =>
    obtain ⟨k, v⟩ := e
    intro lo i h hi
    simp only [twfFrom, Bool.and_eq_true, decide_eq_true_eq] at h
    obtain ⟨⟨h1, _⟩, h3⟩ := h
    have hne : i ≠ k := by omega
    simp [tget, hne, ih k i h3 (by omega)]

/-- Two canonical tables that read alike everywhere are the same data. -/
theorem twfFrom_ext {α : Type} [DecidableEq α] (d : α) :
    ∀ (m n : Tab α) (lo : Option Nat), twfFrom d lo m = true → twfFrom d lo n = true → (∀ i, tget d m i = tget d n i) → m = n := by
  intro m
  induction m with
  | nil =>
    intro n lo _ hn he
    cases n with
    | nil => rfl
    | cons e r =>
      obtain ⟨k, v⟩ := e
      simp only [twfFrom, Bool.and_eq_true, decide_eq_true_eq] at hn
      have := he k
      simp [tget] at this
      exact absurd this.symm hn.1.2
  | cons e r ih =>
    obtain ⟨k, v⟩ := e
    intro n lo hm hn he
    cases n with
    | nil =>
      simp only [twfFrom, Bool.and_eq_true, decide_eq_true_eq] at hm
      have := he k
      simp [tget] at this
      exact absurd this hm.1.2
    | cons e2 r2 =>
      obtain ⟨k2, v2⟩ := e2
      simp only [twfFrom, Bool.and_eq_true, decide_eq_true_eq] at hm hn
      have hk : k = k2 := by
        rcases Nat.lt_trichotomy k k2 with h | h | h
        · have h4 := he k
          have hne : k ≠ k2 := by omega
          simp [tget, hne, twfFrom_lt d r2 k2 k hn.2 (by omega)] at h4
          exact absurd h4 hm.1.2
        · exact h
        · have h4 := he k2
          have hne : k2 ≠ k := by omega
          simp [tget, hne, twfFrom_lt d r k k2 hm.2 (by omega)] at h4
          exact absurd h4.symm hn.1.2
      subst hk
      have hv : v = v2 := by have := he k; simpa [tget] using this
      subst hv
      have : r = r2 := by
        refine ih r2 (some k) hm.2 hn.2 ?_
        intro i
        have h5 := he i
        by_cases hi : i = k
        · subst hi
          rw [twfFrom_lt d r i i hm.2 (Nat.le_refl _), twfFrom_lt d r2 i i hn.2 (Nat.le_refl _)]
        · simpa [tget, hi] using h5
      rw [this]

theorem twf_ext {α : Type} [DecidableEq α] (d : α) (m n : Tab α) (hm : twf d m = true) (hn : twf d n = true)
    (he : ∀ i, tget d m i = tget d n i) : m = n := twfFrom_ext d m n none hm hn he

theorem thas_tput {α : Type} (m : Tab α) (i j : Nat) (x : α) : thas (tput m i x) j = (decide (j = i) || thas m j) := by
  induction m with
  | nil => simp [tput, thas]
  | cons e r ih =>
    obtain ⟨k, v⟩ := e
    simp only [tput]
    split
    · simp only [thas]; split <;> simp_all
    · split
      · subst_vars; simp only [thas]; split <;> simp_all
      · simp only [thas]; split
        · simp
        · exact ih
theorem thas_tdel {α : Type} (m : Tab α) (i j : Nat) : thas (tdel m i) j = (decide (j ≠ i) && thas m j) := by
  induction m with
  | nil => simp [tdel, thas]
  | cons e r ih =>
    obtain ⟨k, v⟩ := e
    simp only [tdel]
    split
    · subst_vars; rw [ih]; simp only [thas]; split <;> simp_all
    · simp only [thas]; split
      · subst_vars; simp_all
      · exact ih

theorem upto_length (a n : Nat) : (upto a n).length = n := by
  induction n generalizing a with
  | zero => rfl
  | succ n ih => simp [upto, ih]
theorem length_setNth {α : Type} (l : List α) : ∀ (i : Nat) (x : α), (setNth l i x).length = l.length := by
  induction l with
  | nil => exact fun _ _ => rfl
  | cons a r ih =>
    intro i x
    cases i with
    | zero => rfl
    | succ n => simp [setNth, ih]

end Sys2Proof.Machine
end

