-- ==== Sys2Proof/Laws/State.lean ====
section
/-! SUPPORT. One lemma per field per update of the state, the braid, the bank and the context, and what the accessors read after an update. -/

namespace Sys2Proof.Machine

section
variable (s : State) (b : Nat) (x : Braid)
@[simp] theorem State.setBraid_cycle : (s.setBraid b x).cycle = s.cycle := rfl
@[simp] theorem State.setBraid_cur : (s.setBraid b x).cur = s.cur := rfl
@[simp] theorem State.setBraid_todo : (s.setBraid b x).todo = s.todo := rfl
@[simp] theorem State.setBraid_inputs : (s.setBraid b x).inputs = s.inputs := rfl
@[simp] theorem State.setBraid_seqErrs : (s.setBraid b x).seqErrs = s.seqErrs := rfl
@[simp] theorem State.setBraid_pending : (s.setBraid b x).pending = s.pending := rfl
@[simp] theorem State.setBraid_free : (s.setBraid b x).free = s.free := rfl
@[simp] theorem State.setBraid_braids : (s.setBraid b x).braids = tput s.braids b x := rfl
@[simp] theorem State.setBraid_mem : (s.setBraid b x).mem = s.mem := rfl
@[simp] theorem State.setBraid_ifaces : (s.setBraid b x).ifaces = s.ifaces := rfl
@[simp] theorem State.setBraid_heaps : (s.setBraid b x).heaps = s.heaps := rfl
@[simp] theorem State.setBraid_launches : (s.setBraid b x).launches = s.launches := rfl
@[simp] theorem State.setBraid_launchNext : (s.setBraid b x).launchNext = s.launchNext := rfl
@[simp] theorem State.setBraid_prefix_ : (s.setBraid b x).prefix_ = s.prefix_ := rfl
@[simp] theorem State.setBraid_events : (s.setBraid b x).events = s.events := rfl
@[simp] theorem State.setBraid_eventNext : (s.setBraid b x).eventNext = s.eventNext := rfl
@[simp] theorem State.setBraid_links : (s.setBraid b x).links = s.links := rfl
@[simp] theorem State.setBraid_crossings : (s.setBraid b x).crossings = s.crossings := rfl
@[simp] theorem State.setBraid_ports : (s.setBraid b x).ports = s.ports := rfl
@[simp] theorem State.setBraid_seqs : (s.setBraid b x).seqs = s.seqs := rfl
@[simp] theorem State.setBraid_seen : (s.setBraid b x).seen = s.seen := rfl
@[simp] theorem State.setBraid_clock : (s.setBraid b x).clock = s.clock := rfl
@[simp] theorem State.setBraid_cfg : (s.setBraid b x).cfg = s.cfg := rfl
@[simp] theorem State.setBraid_boot : (s.setBraid b x).boot = s.boot := rfl
@[simp] theorem State.setBraid_admin : (s.setBraid b x).admin = s.admin := rfl
@[simp] theorem State.setBraid_hostOut : (s.setBraid b x).hostOut = s.hostOut := rfl
end

section
variable (s : State) (b : Nat) (f : Braid → Braid)
@[simp] theorem State.modBraid_cycle : (s.modBraid b f).cycle = s.cycle := rfl
@[simp] theorem State.modBraid_cur : (s.modBraid b f).cur = s.cur := rfl
@[simp] theorem State.modBraid_todo : (s.modBraid b f).todo = s.todo := rfl
@[simp] theorem State.modBraid_inputs : (s.modBraid b f).inputs = s.inputs := rfl
@[simp] theorem State.modBraid_seqErrs : (s.modBraid b f).seqErrs = s.seqErrs := rfl
@[simp] theorem State.modBraid_pending : (s.modBraid b f).pending = s.pending := rfl
@[simp] theorem State.modBraid_free : (s.modBraid b f).free = s.free := rfl
@[simp] theorem State.modBraid_braids : (s.modBraid b f).braids = tput s.braids b (f (s.braid b)) := rfl
@[simp] theorem State.modBraid_mem : (s.modBraid b f).mem = s.mem := rfl
@[simp] theorem State.modBraid_ifaces : (s.modBraid b f).ifaces = s.ifaces := rfl
@[simp] theorem State.modBraid_heaps : (s.modBraid b f).heaps = s.heaps := rfl
@[simp] theorem State.modBraid_launches : (s.modBraid b f).launches = s.launches := rfl
@[simp] theorem State.modBraid_launchNext : (s.modBraid b f).launchNext = s.launchNext := rfl
@[simp] theorem State.modBraid_prefix_ : (s.modBraid b f).prefix_ = s.prefix_ := rfl
@[simp] theorem State.modBraid_events : (s.modBraid b f).events = s.events := rfl
@[simp] theorem State.modBraid_eventNext : (s.modBraid b f).eventNext = s.eventNext := rfl
@[simp] theorem State.modBraid_links : (s.modBraid b f).links = s.links := rfl
@[simp] theorem State.modBraid_crossings : (s.modBraid b f).crossings = s.crossings := rfl
@[simp] theorem State.modBraid_ports : (s.modBraid b f).ports = s.ports := rfl
@[simp] theorem State.modBraid_seqs : (s.modBraid b f).seqs = s.seqs := rfl
@[simp] theorem State.modBraid_seen : (s.modBraid b f).seen = s.seen := rfl
@[simp] theorem State.modBraid_clock : (s.modBraid b f).clock = s.clock := rfl
@[simp] theorem State.modBraid_cfg : (s.modBraid b f).cfg = s.cfg := rfl
@[simp] theorem State.modBraid_boot : (s.modBraid b f).boot = s.boot := rfl
@[simp] theorem State.modBraid_admin : (s.modBraid b f).admin = s.admin := rfl
@[simp] theorem State.modBraid_hostOut : (s.modBraid b f).hostOut = s.hostOut := rfl
end

section
variable (s : State) (b i : Nat) (k : Bank)
@[simp] theorem State.setBank_cycle : (s.setBank b i k).cycle = s.cycle := rfl
@[simp] theorem State.setBank_cur : (s.setBank b i k).cur = s.cur := rfl
@[simp] theorem State.setBank_todo : (s.setBank b i k).todo = s.todo := rfl
@[simp] theorem State.setBank_inputs : (s.setBank b i k).inputs = s.inputs := rfl
@[simp] theorem State.setBank_seqErrs : (s.setBank b i k).seqErrs = s.seqErrs := rfl
@[simp] theorem State.setBank_pending : (s.setBank b i k).pending = s.pending := rfl
@[simp] theorem State.setBank_free : (s.setBank b i k).free = s.free := rfl
@[simp] theorem State.setBank_braids : (s.setBank b i k).braids = tput s.braids b ((s.braid b).setBank i k) := rfl
@[simp] theorem State.setBank_mem : (s.setBank b i k).mem = s.mem := rfl
@[simp] theorem State.setBank_ifaces : (s.setBank b i k).ifaces = s.ifaces := rfl
@[simp] theorem State.setBank_heaps : (s.setBank b i k).heaps = s.heaps := rfl
@[simp] theorem State.setBank_launches : (s.setBank b i k).launches = s.launches := rfl
@[simp] theorem State.setBank_launchNext : (s.setBank b i k).launchNext = s.launchNext := rfl
@[simp] theorem State.setBank_prefix_ : (s.setBank b i k).prefix_ = s.prefix_ := rfl
@[simp] theorem State.setBank_events : (s.setBank b i k).events = s.events := rfl
@[simp] theorem State.setBank_eventNext : (s.setBank b i k).eventNext = s.eventNext := rfl
@[simp] theorem State.setBank_links : (s.setBank b i k).links = s.links := rfl
@[simp] theorem State.setBank_crossings : (s.setBank b i k).crossings = s.crossings := rfl
@[simp] theorem State.setBank_ports : (s.setBank b i k).ports = s.ports := rfl
@[simp] theorem State.setBank_seqs : (s.setBank b i k).seqs = s.seqs := rfl
@[simp] theorem State.setBank_seen : (s.setBank b i k).seen = s.seen := rfl
@[simp] theorem State.setBank_clock : (s.setBank b i k).clock = s.clock := rfl
@[simp] theorem State.setBank_cfg : (s.setBank b i k).cfg = s.cfg := rfl
@[simp] theorem State.setBank_boot : (s.setBank b i k).boot = s.boot := rfl
@[simp] theorem State.setBank_admin : (s.setBank b i k).admin = s.admin := rfl
@[simp] theorem State.setBank_hostOut : (s.setBank b i k).hostOut = s.hostOut := rfl
end

section
variable (s : State) (b i : Nat) (f : Bank → Bank)
@[simp] theorem State.modBank_cycle : (s.modBank b i f).cycle = s.cycle := rfl
@[simp] theorem State.modBank_cur : (s.modBank b i f).cur = s.cur := rfl
@[simp] theorem State.modBank_todo : (s.modBank b i f).todo = s.todo := rfl
@[simp] theorem State.modBank_inputs : (s.modBank b i f).inputs = s.inputs := rfl
@[simp] theorem State.modBank_seqErrs : (s.modBank b i f).seqErrs = s.seqErrs := rfl
@[simp] theorem State.modBank_pending : (s.modBank b i f).pending = s.pending := rfl
@[simp] theorem State.modBank_free : (s.modBank b i f).free = s.free := rfl
@[simp] theorem State.modBank_braids : (s.modBank b i f).braids = tput s.braids b ((s.braid b).setBank i (f (s.bank b i))) := rfl
@[simp] theorem State.modBank_mem : (s.modBank b i f).mem = s.mem := rfl
@[simp] theorem State.modBank_ifaces : (s.modBank b i f).ifaces = s.ifaces := rfl
@[simp] theorem State.modBank_heaps : (s.modBank b i f).heaps = s.heaps := rfl
@[simp] theorem State.modBank_launches : (s.modBank b i f).launches = s.launches := rfl
@[simp] theorem State.modBank_launchNext : (s.modBank b i f).launchNext = s.launchNext := rfl
@[simp] theorem State.modBank_prefix_ : (s.modBank b i f).prefix_ = s.prefix_ := rfl
@[simp] theorem State.modBank_events : (s.modBank b i f).events = s.events := rfl
@[simp] theorem State.modBank_eventNext : (s.modBank b i f).eventNext = s.eventNext := rfl
@[simp] theorem State.modBank_links : (s.modBank b i f).links = s.links := rfl
@[simp] theorem State.modBank_crossings : (s.modBank b i f).crossings = s.crossings := rfl
@[simp] theorem State.modBank_ports : (s.modBank b i f).ports = s.ports := rfl
@[simp] theorem State.modBank_seqs : (s.modBank b i f).seqs = s.seqs := rfl
@[simp] theorem State.modBank_seen : (s.modBank b i f).seen = s.seen := rfl
@[simp] theorem State.modBank_clock : (s.modBank b i f).clock = s.clock := rfl
@[simp] theorem State.modBank_cfg : (s.modBank b i f).cfg = s.cfg := rfl
@[simp] theorem State.modBank_boot : (s.modBank b i f).boot = s.boot := rfl
@[simp] theorem State.modBank_admin : (s.modBank b i f).admin = s.admin := rfl
@[simp] theorem State.modBank_hostOut : (s.modBank b i f).hostOut = s.hostOut := rfl
end

section
variable (s : State) (f : Braid → Braid)
@[simp] theorem State.modMyBraid_cycle : (s.modMyBraid f).cycle = s.cycle := rfl
@[simp] theorem State.modMyBraid_cur : (s.modMyBraid f).cur = s.cur := rfl
@[simp] theorem State.modMyBraid_todo : (s.modMyBraid f).todo = s.todo := rfl
@[simp] theorem State.modMyBraid_inputs : (s.modMyBraid f).inputs = s.inputs := rfl
@[simp] theorem State.modMyBraid_seqErrs : (s.modMyBraid f).seqErrs = s.seqErrs := rfl
@[simp] theorem State.modMyBraid_pending : (s.modMyBraid f).pending = s.pending := rfl
@[simp] theorem State.modMyBraid_free : (s.modMyBraid f).free = s.free := rfl
@[simp] theorem State.modMyBraid_mem : (s.modMyBraid f).mem = s.mem := rfl
@[simp] theorem State.modMyBraid_ifaces : (s.modMyBraid f).ifaces = s.ifaces := rfl
@[simp] theorem State.modMyBraid_heaps : (s.modMyBraid f).heaps = s.heaps := rfl
@[simp] theorem State.modMyBraid_launches : (s.modMyBraid f).launches = s.launches := rfl
@[simp] theorem State.modMyBraid_launchNext : (s.modMyBraid f).launchNext = s.launchNext := rfl
@[simp] theorem State.modMyBraid_prefix_ : (s.modMyBraid f).prefix_ = s.prefix_ := rfl
@[simp] theorem State.modMyBraid_events : (s.modMyBraid f).events = s.events := rfl
@[simp] theorem State.modMyBraid_eventNext : (s.modMyBraid f).eventNext = s.eventNext := rfl
@[simp] theorem State.modMyBraid_links : (s.modMyBraid f).links = s.links := rfl
@[simp] theorem State.modMyBraid_crossings : (s.modMyBraid f).crossings = s.crossings := rfl
@[simp] theorem State.modMyBraid_ports : (s.modMyBraid f).ports = s.ports := rfl
@[simp] theorem State.modMyBraid_seqs : (s.modMyBraid f).seqs = s.seqs := rfl
@[simp] theorem State.modMyBraid_seen : (s.modMyBraid f).seen = s.seen := rfl
@[simp] theorem State.modMyBraid_clock : (s.modMyBraid f).clock = s.clock := rfl
@[simp] theorem State.modMyBraid_cfg : (s.modMyBraid f).cfg = s.cfg := rfl
@[simp] theorem State.modMyBraid_boot : (s.modMyBraid f).boot = s.boot := rfl
@[simp] theorem State.modMyBraid_admin : (s.modMyBraid f).admin = s.admin := rfl
@[simp] theorem State.modMyBraid_hostOut : (s.modMyBraid f).hostOut = s.hostOut := rfl
end

section
variable (s : State) (f : Bank → Bank)
@[simp] theorem State.modMyBank_cycle : (s.modMyBank f).cycle = s.cycle := rfl
@[simp] theorem State.modMyBank_cur : (s.modMyBank f).cur = s.cur := rfl
@[simp] theorem State.modMyBank_todo : (s.modMyBank f).todo = s.todo := rfl
@[simp] theorem State.modMyBank_inputs : (s.modMyBank f).inputs = s.inputs := rfl
@[simp] theorem State.modMyBank_seqErrs : (s.modMyBank f).seqErrs = s.seqErrs := rfl
@[simp] theorem State.modMyBank_pending : (s.modMyBank f).pending = s.pending := rfl
@[simp] theorem State.modMyBank_free : (s.modMyBank f).free = s.free := rfl
@[simp] theorem State.modMyBank_mem : (s.modMyBank f).mem = s.mem := rfl
@[simp] theorem State.modMyBank_ifaces : (s.modMyBank f).ifaces = s.ifaces := rfl
@[simp] theorem State.modMyBank_heaps : (s.modMyBank f).heaps = s.heaps := rfl
@[simp] theorem State.modMyBank_launches : (s.modMyBank f).launches = s.launches := rfl
@[simp] theorem State.modMyBank_launchNext : (s.modMyBank f).launchNext = s.launchNext := rfl
@[simp] theorem State.modMyBank_prefix_ : (s.modMyBank f).prefix_ = s.prefix_ := rfl
@[simp] theorem State.modMyBank_events : (s.modMyBank f).events = s.events := rfl
@[simp] theorem State.modMyBank_eventNext : (s.modMyBank f).eventNext = s.eventNext := rfl
@[simp] theorem State.modMyBank_links : (s.modMyBank f).links = s.links := rfl
@[simp] theorem State.modMyBank_crossings : (s.modMyBank f).crossings = s.crossings := rfl
@[simp] theorem State.modMyBank_ports : (s.modMyBank f).ports = s.ports := rfl
@[simp] theorem State.modMyBank_seqs : (s.modMyBank f).seqs = s.seqs := rfl
@[simp] theorem State.modMyBank_seen : (s.modMyBank f).seen = s.seen := rfl
@[simp] theorem State.modMyBank_clock : (s.modMyBank f).clock = s.clock := rfl
@[simp] theorem State.modMyBank_cfg : (s.modMyBank f).cfg = s.cfg := rfl
@[simp] theorem State.modMyBank_boot : (s.modMyBank f).boot = s.boot := rfl
@[simp] theorem State.modMyBank_admin : (s.modMyBank f).admin = s.admin := rfl
@[simp] theorem State.modMyBank_hostOut : (s.modMyBank f).hostOut = s.hostOut := rfl
end

section
variable (s : State) (f : Ctx → Ctx)
@[simp] theorem State.modMyCtx_cycle : (s.modMyCtx f).cycle = s.cycle := rfl
@[simp] theorem State.modMyCtx_cur : (s.modMyCtx f).cur = s.cur := rfl
@[simp] theorem State.modMyCtx_todo : (s.modMyCtx f).todo = s.todo := rfl
@[simp] theorem State.modMyCtx_inputs : (s.modMyCtx f).inputs = s.inputs := rfl
@[simp] theorem State.modMyCtx_seqErrs : (s.modMyCtx f).seqErrs = s.seqErrs := rfl
@[simp] theorem State.modMyCtx_pending : (s.modMyCtx f).pending = s.pending := rfl
@[simp] theorem State.modMyCtx_free : (s.modMyCtx f).free = s.free := rfl
@[simp] theorem State.modMyCtx_mem : (s.modMyCtx f).mem = s.mem := rfl
@[simp] theorem State.modMyCtx_ifaces : (s.modMyCtx f).ifaces = s.ifaces := rfl
@[simp] theorem State.modMyCtx_heaps : (s.modMyCtx f).heaps = s.heaps := rfl
@[simp] theorem State.modMyCtx_launches : (s.modMyCtx f).launches = s.launches := rfl
@[simp] theorem State.modMyCtx_launchNext : (s.modMyCtx f).launchNext = s.launchNext := rfl
@[simp] theorem State.modMyCtx_prefix_ : (s.modMyCtx f).prefix_ = s.prefix_ := rfl
@[simp] theorem State.modMyCtx_events : (s.modMyCtx f).events = s.events := rfl
@[simp] theorem State.modMyCtx_eventNext : (s.modMyCtx f).eventNext = s.eventNext := rfl
@[simp] theorem State.modMyCtx_links : (s.modMyCtx f).links = s.links := rfl
@[simp] theorem State.modMyCtx_crossings : (s.modMyCtx f).crossings = s.crossings := rfl
@[simp] theorem State.modMyCtx_ports : (s.modMyCtx f).ports = s.ports := rfl
@[simp] theorem State.modMyCtx_seqs : (s.modMyCtx f).seqs = s.seqs := rfl
@[simp] theorem State.modMyCtx_seen : (s.modMyCtx f).seen = s.seen := rfl
@[simp] theorem State.modMyCtx_clock : (s.modMyCtx f).clock = s.clock := rfl
@[simp] theorem State.modMyCtx_cfg : (s.modMyCtx f).cfg = s.cfg := rfl
@[simp] theorem State.modMyCtx_boot : (s.modMyCtx f).boot = s.boot := rfl
@[simp] theorem State.modMyCtx_admin : (s.modMyCtx f).admin = s.admin := rfl
@[simp] theorem State.modMyCtx_hostOut : (s.modMyCtx f).hostOut = s.hostOut := rfl
end

section
variable (s : State) (m : MemSide)
@[simp] theorem State.setMem_cycle : (s.setMem m).cycle = s.cycle := rfl
@[simp] theorem State.setMem_cur : (s.setMem m).cur = s.cur := rfl
@[simp] theorem State.setMem_todo : (s.setMem m).todo = s.todo := rfl
@[simp] theorem State.setMem_inputs : (s.setMem m).inputs = s.inputs := rfl
@[simp] theorem State.setMem_seqErrs : (s.setMem m).seqErrs = s.seqErrs := rfl
@[simp] theorem State.setMem_pending : (s.setMem m).pending = s.pending := rfl
@[simp] theorem State.setMem_free : (s.setMem m).free = s.free := rfl
@[simp] theorem State.setMem_braids : (s.setMem m).braids = s.braids := rfl
@[simp] theorem State.setMem_mem : (s.setMem m).mem = m := rfl
@[simp] theorem State.setMem_ifaces : (s.setMem m).ifaces = s.ifaces := rfl
@[simp] theorem State.setMem_heaps : (s.setMem m).heaps = s.heaps := rfl
@[simp] theorem State.setMem_launches : (s.setMem m).launches = s.launches := rfl
@[simp] theorem State.setMem_launchNext : (s.setMem m).launchNext = s.launchNext := rfl
@[simp] theorem State.setMem_prefix_ : (s.setMem m).prefix_ = s.prefix_ := rfl
@[simp] theorem State.setMem_events : (s.setMem m).events = s.events := rfl
@[simp] theorem State.setMem_eventNext : (s.setMem m).eventNext = s.eventNext := rfl
@[simp] theorem State.setMem_links : (s.setMem m).links = s.links := rfl
@[simp] theorem State.setMem_crossings : (s.setMem m).crossings = s.crossings := rfl
@[simp] theorem State.setMem_ports : (s.setMem m).ports = s.ports := rfl
@[simp] theorem State.setMem_seqs : (s.setMem m).seqs = s.seqs := rfl
@[simp] theorem State.setMem_seen : (s.setMem m).seen = s.seen := rfl
@[simp] theorem State.setMem_clock : (s.setMem m).clock = s.clock := rfl
@[simp] theorem State.setMem_cfg : (s.setMem m).cfg = s.cfg := rfl
@[simp] theorem State.setMem_boot : (s.setMem m).boot = s.boot := rfl
@[simp] theorem State.setMem_admin : (s.setMem m).admin = s.admin := rfl
@[simp] theorem State.setMem_hostOut : (s.setMem m).hostOut = s.hostOut := rfl
end

section
variable (s : State) (w : Who)
@[simp] theorem State.setCur_cycle : (s.setCur w).cycle = s.cycle := rfl
@[simp] theorem State.setCur_cur : (s.setCur w).cur = w := rfl
@[simp] theorem State.setCur_todo : (s.setCur w).todo = s.todo := rfl
@[simp] theorem State.setCur_inputs : (s.setCur w).inputs = s.inputs := rfl
@[simp] theorem State.setCur_seqErrs : (s.setCur w).seqErrs = s.seqErrs := rfl
@[simp] theorem State.setCur_pending : (s.setCur w).pending = s.pending := rfl
@[simp] theorem State.setCur_free : (s.setCur w).free = s.free := rfl
@[simp] theorem State.setCur_braids : (s.setCur w).braids = s.braids := rfl
@[simp] theorem State.setCur_mem : (s.setCur w).mem = s.mem := rfl
@[simp] theorem State.setCur_ifaces : (s.setCur w).ifaces = s.ifaces := rfl
@[simp] theorem State.setCur_heaps : (s.setCur w).heaps = s.heaps := rfl
@[simp] theorem State.setCur_launches : (s.setCur w).launches = s.launches := rfl
@[simp] theorem State.setCur_launchNext : (s.setCur w).launchNext = s.launchNext := rfl
@[simp] theorem State.setCur_prefix_ : (s.setCur w).prefix_ = s.prefix_ := rfl
@[simp] theorem State.setCur_events : (s.setCur w).events = s.events := rfl
@[simp] theorem State.setCur_eventNext : (s.setCur w).eventNext = s.eventNext := rfl
@[simp] theorem State.setCur_links : (s.setCur w).links = s.links := rfl
@[simp] theorem State.setCur_crossings : (s.setCur w).crossings = s.crossings := rfl
@[simp] theorem State.setCur_ports : (s.setCur w).ports = s.ports := rfl
@[simp] theorem State.setCur_seqs : (s.setCur w).seqs = s.seqs := rfl
@[simp] theorem State.setCur_seen : (s.setCur w).seen = s.seen := rfl
@[simp] theorem State.setCur_clock : (s.setCur w).clock = s.clock := rfl
@[simp] theorem State.setCur_cfg : (s.setCur w).cfg = s.cfg := rfl
@[simp] theorem State.setCur_boot : (s.setCur w).boot = s.boot := rfl
@[simp] theorem State.setCur_admin : (s.setCur w).admin = s.admin := rfl
@[simp] theorem State.setCur_hostOut : (s.setCur w).hostOut = s.hostOut := rfl
end

section
variable (s : State) (l : List Act)
@[simp] theorem State.setTodo_cycle : (s.setTodo l).cycle = s.cycle := rfl
@[simp] theorem State.setTodo_cur : (s.setTodo l).cur = s.cur := rfl
@[simp] theorem State.setTodo_todo : (s.setTodo l).todo = l := rfl
@[simp] theorem State.setTodo_inputs : (s.setTodo l).inputs = s.inputs := rfl
@[simp] theorem State.setTodo_seqErrs : (s.setTodo l).seqErrs = s.seqErrs := rfl
@[simp] theorem State.setTodo_pending : (s.setTodo l).pending = s.pending := rfl
@[simp] theorem State.setTodo_free : (s.setTodo l).free = s.free := rfl
@[simp] theorem State.setTodo_braids : (s.setTodo l).braids = s.braids := rfl
@[simp] theorem State.setTodo_mem : (s.setTodo l).mem = s.mem := rfl
@[simp] theorem State.setTodo_ifaces : (s.setTodo l).ifaces = s.ifaces := rfl
@[simp] theorem State.setTodo_heaps : (s.setTodo l).heaps = s.heaps := rfl
@[simp] theorem State.setTodo_launches : (s.setTodo l).launches = s.launches := rfl
@[simp] theorem State.setTodo_launchNext : (s.setTodo l).launchNext = s.launchNext := rfl
@[simp] theorem State.setTodo_prefix_ : (s.setTodo l).prefix_ = s.prefix_ := rfl
@[simp] theorem State.setTodo_events : (s.setTodo l).events = s.events := rfl
@[simp] theorem State.setTodo_eventNext : (s.setTodo l).eventNext = s.eventNext := rfl
@[simp] theorem State.setTodo_links : (s.setTodo l).links = s.links := rfl
@[simp] theorem State.setTodo_crossings : (s.setTodo l).crossings = s.crossings := rfl
@[simp] theorem State.setTodo_ports : (s.setTodo l).ports = s.ports := rfl
@[simp] theorem State.setTodo_seqs : (s.setTodo l).seqs = s.seqs := rfl
@[simp] theorem State.setTodo_seen : (s.setTodo l).seen = s.seen := rfl
@[simp] theorem State.setTodo_clock : (s.setTodo l).clock = s.clock := rfl
@[simp] theorem State.setTodo_cfg : (s.setTodo l).cfg = s.cfg := rfl
@[simp] theorem State.setTodo_boot : (s.setTodo l).boot = s.boot := rfl
@[simp] theorem State.setTodo_admin : (s.setTodo l).admin = s.admin := rfl
@[simp] theorem State.setTodo_hostOut : (s.setTodo l).hostOut = s.hostOut := rfl
end

section
variable (s : State) (l : List Act)
@[simp] theorem State.next_cycle : (s.next l).cycle = s.cycle := rfl
@[simp] theorem State.next_cur : (s.next l).cur = s.cur := rfl
@[simp] theorem State.next_todo : (s.next l).todo = l ++ s.todo := rfl
@[simp] theorem State.next_inputs : (s.next l).inputs = s.inputs := rfl
@[simp] theorem State.next_seqErrs : (s.next l).seqErrs = s.seqErrs := rfl
@[simp] theorem State.next_pending : (s.next l).pending = s.pending := rfl
@[simp] theorem State.next_free : (s.next l).free = s.free := rfl
@[simp] theorem State.next_braids : (s.next l).braids = s.braids := rfl
@[simp] theorem State.next_mem : (s.next l).mem = s.mem := rfl
@[simp] theorem State.next_ifaces : (s.next l).ifaces = s.ifaces := rfl
@[simp] theorem State.next_heaps : (s.next l).heaps = s.heaps := rfl
@[simp] theorem State.next_launches : (s.next l).launches = s.launches := rfl
@[simp] theorem State.next_launchNext : (s.next l).launchNext = s.launchNext := rfl
@[simp] theorem State.next_prefix_ : (s.next l).prefix_ = s.prefix_ := rfl
@[simp] theorem State.next_events : (s.next l).events = s.events := rfl
@[simp] theorem State.next_eventNext : (s.next l).eventNext = s.eventNext := rfl
@[simp] theorem State.next_links : (s.next l).links = s.links := rfl
@[simp] theorem State.next_crossings : (s.next l).crossings = s.crossings := rfl
@[simp] theorem State.next_ports : (s.next l).ports = s.ports := rfl
@[simp] theorem State.next_seqs : (s.next l).seqs = s.seqs := rfl
@[simp] theorem State.next_seen : (s.next l).seen = s.seen := rfl
@[simp] theorem State.next_clock : (s.next l).clock = s.clock := rfl
@[simp] theorem State.next_cfg : (s.next l).cfg = s.cfg := rfl
@[simp] theorem State.next_boot : (s.next l).boot = s.boot := rfl
@[simp] theorem State.next_admin : (s.next l).admin = s.admin := rfl
@[simp] theorem State.next_hostOut : (s.next l).hostOut = s.hostOut := rfl
end

section
variable (s : State) (c : Nat) (a : Act)
@[simp] theorem State.later_cycle : (s.later c a).cycle = s.cycle := rfl
@[simp] theorem State.later_cur : (s.later c a).cur = s.cur := rfl
@[simp] theorem State.later_todo : (s.later c a).todo = s.todo := rfl
@[simp] theorem State.later_inputs : (s.later c a).inputs = s.inputs := rfl
@[simp] theorem State.later_seqErrs : (s.later c a).seqErrs = s.seqErrs := rfl
@[simp] theorem State.later_pending : (s.later c a).pending = s.pending ++ [(c, a)] := rfl
@[simp] theorem State.later_free : (s.later c a).free = s.free := rfl
@[simp] theorem State.later_braids : (s.later c a).braids = s.braids := rfl
@[simp] theorem State.later_mem : (s.later c a).mem = s.mem := rfl
@[simp] theorem State.later_ifaces : (s.later c a).ifaces = s.ifaces := rfl
@[simp] theorem State.later_heaps : (s.later c a).heaps = s.heaps := rfl
@[simp] theorem State.later_launches : (s.later c a).launches = s.launches := rfl
@[simp] theorem State.later_launchNext : (s.later c a).launchNext = s.launchNext := rfl
@[simp] theorem State.later_prefix_ : (s.later c a).prefix_ = s.prefix_ := rfl
@[simp] theorem State.later_events : (s.later c a).events = s.events := rfl
@[simp] theorem State.later_eventNext : (s.later c a).eventNext = s.eventNext := rfl
@[simp] theorem State.later_links : (s.later c a).links = s.links := rfl
@[simp] theorem State.later_crossings : (s.later c a).crossings = s.crossings := rfl
@[simp] theorem State.later_ports : (s.later c a).ports = s.ports := rfl
@[simp] theorem State.later_seqs : (s.later c a).seqs = s.seqs := rfl
@[simp] theorem State.later_seen : (s.later c a).seen = s.seen := rfl
@[simp] theorem State.later_clock : (s.later c a).clock = s.clock := rfl
@[simp] theorem State.later_cfg : (s.later c a).cfg = s.cfg := rfl
@[simp] theorem State.later_boot : (s.later c a).boot = s.boot := rfl
@[simp] theorem State.later_admin : (s.later c a).admin = s.admin := rfl
@[simp] theorem State.later_hostOut : (s.later c a).hostOut = s.hostOut := rfl
end

section
variable (x : Braid) (i : Nat) (k : Bank)
@[simp] theorem Braid.setBank_runBank : (x.setBank i k).runBank = x.runBank := by unfold Braid.setBank; split <;> rfl
@[simp] theorem Braid.setBank_sram : (x.setBank i k).sram = x.sram := by unfold Braid.setBank; split <;> rfl
@[simp] theorem Braid.setBank_sramStart : (x.setBank i k).sramStart = x.sramStart := by unfold Braid.setBank; split <;> rfl
@[simp] theorem Braid.setBank_full : (x.setBank i k).full = x.full := by unfold Braid.setBank; split <;> rfl
@[simp] theorem Braid.setBank_fullStart : (x.setBank i k).fullStart = x.fullStart := by unfold Braid.setBank; split <;> rfl
@[simp] theorem Braid.setBank_taken : (x.setBank i k).taken = x.taken := by unfold Braid.setBank; split <;> rfl
@[simp] theorem Braid.setBank_stored : (x.setBank i k).stored = x.stored := by unfold Braid.setBank; split <;> rfl
@[simp] theorem Braid.setBank_h : (x.setBank i k).h = x.h := by unfold Braid.setBank; split <;> rfl
@[simp] theorem Braid.setBank_regs : (x.setBank i k).regs = x.regs := by unfold Braid.setBank; split <;> rfl
@[simp] theorem Braid.setBank_chain : (x.setBank i k).chain = x.chain := by unfold Braid.setBank; split <;> rfl
@[simp] theorem Braid.setBank_accReady : (x.setBank i k).accReady = x.accReady := by unfold Braid.setBank; split <;> rfl
@[simp] theorem Braid.setBank_strands : (x.setBank i k).strands = x.strands := by unfold Braid.setBank; split <;> rfl
@[simp] theorem Braid.setBank_arriving : (x.setBank i k).arriving = x.arriving := by unfold Braid.setBank; split <;> rfl
@[simp] theorem Braid.setBank_driven : (x.setBank i k).driven = x.driven := by unfold Braid.setBank; split <;> rfl
@[simp] theorem Braid.setBank_pend : (x.setBank i k).pend = x.pend := by unfold Braid.setBank; split <;> rfl
@[simp] theorem Braid.setBank_jobsOpen : (x.setBank i k).jobsOpen = x.jobsOpen := by unfold Braid.setBank; split <;> rfl
@[simp] theorem Braid.setBank_merge : (x.setBank i k).merge = x.merge := by unfold Braid.setBank; split <;> rfl
@[simp] theorem Braid.setBank_l1 : (x.setBank i k).l1 = x.l1 := by unfold Braid.setBank; split <;> rfl
@[simp] theorem Braid.setBank_tlb : (x.setBank i k).tlb = x.tlb := by unfold Braid.setBank; split <;> rfl
@[simp] theorem Braid.setBank_sendQ : (x.setBank i k).sendQ = x.sendQ := by unfold Braid.setBank; split <;> rfl
@[simp] theorem Braid.setBank_sendOf : (x.setBank i k).sendOf = x.sendOf := by unfold Braid.setBank; split <;> rfl
@[simp] theorem Braid.setBank_ctlQ : (x.setBank i k).ctlQ = x.ctlQ := by unfold Braid.setBank; split <;> rfl
@[simp] theorem Braid.setBank_memQ : (x.setBank i k).memQ = x.memQ := by unfold Braid.setBank; split <;> rfl
@[simp] theorem Braid.setBank_headAt : (x.setBank i k).headAt = x.headAt := by unfold Braid.setBank; split <;> rfl
@[simp] theorem Braid.setBank_out : (x.setBank i k).out = x.out := by unfold Braid.setBank; split <;> rfl
@[simp] theorem Braid.setBank_amoNext : (x.setBank i k).amoNext = x.amoNext := by unfold Braid.setBank; split <;> rfl
@[simp] theorem Braid.setBank_amoNear : (x.setBank i k).amoNear = x.amoNear := by unfold Braid.setBank; split <;> rfl
@[simp] theorem Braid.setBank_sqNext : (x.setBank i k).sqNext = x.sqNext := by unfold Braid.setBank; split <;> rfl
@[simp] theorem Braid.setBank_sqDone : (x.setBank i k).sqDone = x.sqDone := by unfold Braid.setBank; split <;> rfl
@[simp] theorem Braid.setBank_sqFin : (x.setBank i k).sqFin = x.sqFin := by unfold Braid.setBank; split <;> rfl
@[simp] theorem Braid.setBank_sqStart : (x.setBank i k).sqStart = x.sqStart := by unfold Braid.setBank; split <;> rfl
@[simp] theorem Braid.setBank_tags : (x.setBank i k).tags = x.tags := by unfold Braid.setBank; split <;> rfl
@[simp] theorem Braid.setBank_taskQ : (x.setBank i k).taskQ = x.taskQ := by unfold Braid.setBank; split <;> rfl
@[simp] theorem Braid.setBank_fencedOff : (x.setBank i k).fencedOff = x.fencedOff := by unfold Braid.setBank; split <;> rfl
@[simp] theorem Braid.setBank_held : (x.setBank i k).held = x.held := by unfold Braid.setBank; split <;> rfl
@[simp] theorem Braid.setBank_testAsked : (x.setBank i k).testAsked = x.testAsked := by unfold Braid.setBank; split <;> rfl
@[simp] theorem Braid.setBank_testEnd : (x.setBank i k).testEnd = x.testEnd := by unfold Braid.setBank; split <;> rfl
@[simp] theorem Braid.setBank_testPass : (x.setBank i k).testPass = x.testPass := by unfold Braid.setBank; split <;> rfl
@[simp] theorem Braid.setBank_testAt : (x.setBank i k).testAt = x.testAt := by unfold Braid.setBank; split <;> rfl
@[simp] theorem Braid.setBank_gateTill : (x.setBank i k).gateTill = x.gateTill := by unfold Braid.setBank; split <;> rfl
@[simp] theorem Braid.setBank_reserved : (x.setBank i k).reserved = x.reserved := by unfold Braid.setBank; split <;> rfl
@[simp] theorem Braid.setBank_started : (x.setBank i k).started = x.started := by unfold Braid.setBank; split <;> rfl
@[simp] theorem Braid.setBank_xheld : (x.setBank i k).xheld = x.xheld := by unfold Braid.setBank; split <;> rfl
@[simp] theorem Braid.setBank_bad : (x.setBank i k).bad = x.bad := by unfold Braid.setBank; split <;> rfl
@[simp] theorem Braid.setBank_baras : (x.setBank i k).baras = x.baras := by unfold Braid.setBank; split <;> rfl
end

section
variable (k : Bank) (c : CtxId) (x : Ctx)
@[simp] theorem Bank.setCtx_mode : (k.setCtx c x).mode = k.mode := by cases c <;> rfl
@[simp] theorem Bank.setCtx_task : (k.setCtx c x).task = k.task := by cases c <;> rfl
@[simp] theorem Bank.setCtx_causeCode : (k.setCtx c x).causeCode = k.causeCode := by cases c <;> rfl
@[simp] theorem Bank.setCtx_causeSrc : (k.setCtx c x).causeSrc = k.causeSrc := by cases c <;> rfl
@[simp] theorem Bank.setCtx_spc : (k.setCtx c x).spc = k.spc := by cases c <;> rfl
@[simp] theorem Bank.setCtx_flags : (k.setCtx c x).flags = k.flags := by cases c <;> rfl
@[simp] theorem Bank.setCtx_warn : (k.setCtx c x).warn = k.warn := by cases c <;> rfl
@[simp] theorem Bank.setCtx_flagSets : (k.setCtx c x).flagSets = k.flagSets := by cases c <;> rfl
@[simp] theorem Bank.setCtx_warnSets : (k.setCtx c x).warnSets = k.warnSets := by cases c <;> rfl
@[simp] theorem Bank.setCtx_flagWrite : (k.setCtx c x).flagWrite = k.flagWrite := by cases c <;> rfl
@[simp] theorem Bank.setCtx_warnWrite : (k.setCtx c x).warnWrite = k.warnWrite := by cases c <;> rfl
@[simp] theorem Bank.setCtx_lp : (k.setCtx c x).lp = k.lp := by cases c <;> rfl
@[simp] theorem Bank.setCtx_q : (k.setCtx c x).q = k.q := by cases c <;> rfl
@[simp] theorem Bank.setCtx_qStart : (k.setCtx c x).qStart = k.qStart := by cases c <;> rfl
@[simp] theorem Bank.setCtx_phaseStart : (k.setCtx c x).phaseStart = k.phaseStart := by cases c <;> rfl
@[simp] theorem Bank.setCtx_curStart : (k.setCtx c x).curStart = k.curStart := by cases c <;> rfl
@[simp] theorem Bank.setCtx_rerunStart : (k.setCtx c x).rerunStart = k.rerunStart := by cases c <;> rfl
@[simp] theorem Bank.setCtx_tpcStart : (k.setCtx c x).tpcStart = k.tpcStart := by cases c <;> rfl
@[simp] theorem Bank.setCtx_tcodeStart : (k.setCtx c x).tcodeStart = k.tcodeStart := by cases c <;> rfl
@[simp] theorem Bank.setCtx_tctxStart : (k.setCtx c x).tctxStart = k.tctxStart := by cases c <;> rfl
@[simp] theorem Bank.setCtx_tActiveStart : (k.setCtx c x).tActiveStart = k.tActiveStart := by cases c <;> rfl
@[simp] theorem Bank.setCtx_tSavedStart : (k.setCtx c x).tSavedStart = k.tSavedStart := by cases c <;> rfl
@[simp] theorem Bank.setCtx_jobs : (k.setCtx c x).jobs = k.jobs := by cases c <;> rfl
@[simp] theorem Bank.setCtx_jobNext : (k.setCtx c x).jobNext = k.jobNext := by cases c <;> rfl
@[simp] theorem Bank.setCtx_jobDone : (k.setCtx c x).jobDone = k.jobDone := by cases c <;> rfl
@[simp] theorem Bank.setCtx_jobFin : (k.setCtx c x).jobFin = k.jobFin := by cases c <;> rfl
@[simp] theorem Bank.setCtx_chans : (k.setCtx c x).chans = k.chans := by cases c <;> rfl
@[simp] theorem Bank.setCtx_rv : (k.setCtx c x).rv = k.rv := by cases c <;> rfl
@[simp] theorem Bank.setCtx_curBank : (k.setCtx c x).curBank = k.curBank := by cases c <;> rfl
@[simp] theorem Bank.setCtx_w : (k.setCtx c x).w = k.w := by cases c <;> rfl
@[simp] theorem Bank.setCtx_writerMap : (k.setCtx c x).writerMap = k.writerMap := by cases c <;> rfl
@[simp] theorem Bank.setCtx_mapVi : (k.setCtx c x).mapVi = k.mapVi := by cases c <;> rfl
@[simp] theorem Bank.setCtx_reds : (k.setCtx c x).reds = k.reds := by cases c <;> rfl
@[simp] theorem Bank.setCtx_conflicts : (k.setCtx c x).conflicts = k.conflicts := by cases c <;> rfl
@[simp] theorem Bank.setCtx_spilled : (k.setCtx c x).spilled = k.spilled := by cases c <;> rfl
@[simp] theorem Bank.setCtx_staged : (k.setCtx c x).staged = k.staged := by cases c <;> rfl
@[simp] theorem Bank.setCtx_tpc : (k.setCtx c x).tpc = k.tpc := by cases c <;> rfl
@[simp] theorem Bank.setCtx_tcode : (k.setCtx c x).tcode = k.tcode := by cases c <;> rfl
@[simp] theorem Bank.setCtx_tctx : (k.setCtx c x).tctx = k.tctx := by cases c <;> rfl
@[simp] theorem Bank.setCtx_tActive : (k.setCtx c x).tActive = k.tActive := by cases c <;> rfl
@[simp] theorem Bank.setCtx_tSaved : (k.setCtx c x).tSaved = k.tSaved := by cases c <;> rfl
@[simp] theorem Bank.setCtx_preempts : (k.setCtx c x).preempts = k.preempts := by cases c <;> rfl
@[simp] theorem Bank.setCtx_rerun : (k.setCtx c x).rerun = k.rerun := by cases c <;> rfl
@[simp] theorem Bank.setCtx_arrive : (k.setCtx c x).arrive = k.arrive := by cases c <;> rfl
@[simp] theorem Bank.setCtx_held : (k.setCtx c x).held = k.held := by cases c <;> rfl
@[simp] theorem Bank.setCtx_ckpt : (k.setCtx c x).ckpt = k.ckpt := by cases c <;> rfl
@[simp] theorem Bank.setCtx_inelig : (k.setCtx c x).inelig = k.inelig := by cases c <;> rfl
@[simp] theorem Bank.setCtx_regsWritten : (k.setCtx c x).regsWritten = k.regsWritten := by cases c <;> rfl
@[simp] theorem Bank.setCtx_unitsRead : (k.setCtx c x).unitsRead = k.unitsRead := by cases c <;> rfl
@[simp] theorem Bank.setCtx_unitsWritten : (k.setCtx c x).unitsWritten = k.unitsWritten := by cases c <;> rfl
@[simp] theorem Bank.setCtx_susp : (k.setCtx c x).susp = k.susp := by cases c <;> rfl
@[simp] theorem Bank.setCtx_late : (k.setCtx c x).late = k.late := by cases c <;> rfl
@[simp] theorem Bank.setCtx_parked : (k.setCtx c x).parked = k.parked := by cases c <;> rfl
@[simp] theorem Bank.setCtx_stall : (k.setCtx c x).stall = k.stall := by cases c <;> rfl
@[simp] theorem Bank.setCtx_yielded : (k.setCtx c x).yielded = k.yielded := by cases c <;> rfl
@[simp] theorem Bank.setCtx_startAt : (k.setCtx c x).startAt = k.startAt := by cases c <;> rfl
end

@[simp] theorem Braid.bank_setBank_same (x : Braid) (i : Nat) (k : Bank) : (x.setBank i k).bank i = k := by
  unfold Braid.bank Braid.setBank; split <;> rfl
@[simp] theorem Braid.setBank_setBank (x : Braid) (i : Nat) (k m : Bank) : (x.setBank i k).setBank i m = x.setBank i m := by
  unfold Braid.setBank; split <;> rfl
@[simp] theorem Braid.setBank_bank (x : Braid) (i : Nat) : x.setBank i (x.bank i) = x := by
  unfold Braid.setBank Braid.bank; split <;> rfl
/-- The banks of a braid are the two: number 0 and every other. -/
theorem Braid.bank_setBank_other (x : Braid) {i j : Nat} (k : Bank) (h : (i = 0) ≠ (j = 0)) : (x.setBank i k).bank j = x.bank j := by
  unfold Braid.bank Braid.setBank
  by_cases hi : i = 0 <;> by_cases hj : j = 0 <;> simp_all

@[simp] theorem Bank.ctx_setCtx_same (k : Bank) (c : CtxId) (x : Ctx) : (k.setCtx c x).ctx c = x := by cases c <;> rfl
theorem Bank.ctx_setCtx_ne (k : Bank) {c d : CtxId} (x : Ctx) (h : d ≠ c) : (k.setCtx c x).ctx d = k.ctx d := by
  cases c <;> cases d <;> first | rfl | exact absurd rfl h
@[simp] theorem Bank.setCtx_setCtx (k : Bank) (c : CtxId) (x y : Ctx) : (k.setCtx c x).setCtx c y = k.setCtx c y := by cases c <;> rfl
@[simp] theorem Bank.setCtx_ctx (k : Bank) (c : CtxId) : k.setCtx c (k.ctx c) = k := by cases c <;> rfl

@[simp] theorem State.braid_setBraid_same (s : State) (b : Nat) (x : Braid) : (s.setBraid b x).braid b = x := by
  simp [State.braid, State.setBraid]
theorem State.braid_setBraid (s : State) (b c : Nat) (x : Braid) : (s.setBraid b x).braid c = if c = b then x else s.braid c := by
  simp [State.braid, State.setBraid, tget_tput]
theorem State.braid_setBraid_ne (s : State) {b c : Nat} (x : Braid) (h : c ≠ b) : (s.setBraid b x).braid c = s.braid c := by
  simp [State.braid_setBraid, h]
@[simp] theorem State.setBraid_setBraid (s : State) (b : Nat) (x y : Braid) : (s.setBraid b x).setBraid b y = s.setBraid b y := by
  simp [State.setBraid]
@[simp] theorem State.braid_modBraid_same (s : State) (b : Nat) (f : Braid → Braid) : (s.modBraid b f).braid b = f (s.braid b) := by
  simp [State.modBraid]
theorem State.braid_modBraid_ne (s : State) {b c : Nat} (f : Braid → Braid) (h : c ≠ b) : (s.modBraid b f).braid c = s.braid c := by
  simp [State.modBraid, State.braid_setBraid_ne, h]
@[simp] theorem State.modBraid_modBraid (s : State) (b : Nat) (f g : Braid → Braid) :
    (s.modBraid b f).modBraid b g = s.modBraid b fun x => g (f x) := by
  simp [State.modBraid]
theorem State.modBraid_eq_setBraid (s : State) (b : Nat) (f : Braid → Braid) : s.modBraid b f = s.setBraid b (f (s.braid b)) := rfl
theorem State.setBank_eq_setBraid (s : State) (b i : Nat) (k : Bank) : s.setBank b i k = s.setBraid b ((s.braid b).setBank i k) := rfl
theorem State.modBank_eq_setBraid (s : State) (b i : Nat) (f : Bank → Bank) :
    s.modBank b i f = s.setBraid b ((s.braid b).setBank i (f ((s.braid b).bank i))) := rfl
@[simp] theorem State.bank_setBank_same (s : State) (b i : Nat) (k : Bank) : (s.setBank b i k).bank b i = k := by
  simp [State.bank, State.setBank]
@[simp] theorem State.bank_modBank_same (s : State) (b i : Nat) (f : Bank → Bank) : (s.modBank b i f).bank b i = f (s.bank b i) := by
  simp [State.modBank]
@[simp] theorem State.modBank_modBank (s : State) (b i : Nat) (f g : Bank → Bank) :
    (s.modBank b i f).modBank b i g = s.modBank b i fun k => g (f k) := by
  simp [State.modBank, State.setBank, State.bank]
theorem State.bank_eq (s : State) (b i : Nat) : s.bank b i = (s.braid b).bank i := rfl

section
variable (s : State) (b i : Nat) (x : Braid) (k : Bank) (f : Braid → Braid) (g : Bank → Bank) (h : Ctx → Ctx)
@[simp] theorem State.me_setBraid : (s.setBraid b x).me = s.me := rfl
@[simp] theorem State.me_modBraid : (s.modBraid b f).me = s.me := rfl
@[simp] theorem State.me_setBank : (s.setBank b i k).me = s.me := rfl
@[simp] theorem State.me_modBank : (s.modBank b i g).me = s.me := rfl
@[simp] theorem State.me_modMyBraid : (s.modMyBraid f).me = s.me := rfl
@[simp] theorem State.me_modMyBank : (s.modMyBank g).me = s.me := rfl
@[simp] theorem State.me_modMyCtx : (s.modMyCtx h).me = s.me := rfl
@[simp] theorem State.myBraid_modMyBraid : (s.modMyBraid f).myBraid = f s.myBraid := by
  simp [State.modMyBraid, State.myBraid]
@[simp] theorem State.myBank_modMyBank : (s.modMyBank g).myBank = g s.myBank := by
  simp [State.modMyBank, State.myBank]
@[simp] theorem State.myBraid_modMyBank : (s.modMyBank g).myBraid = s.myBraid.setBank s.me.2.1 (g s.myBank) := by
  simp [State.modMyBank, State.myBraid, State.myBank, State.modBank, State.setBank, State.bank]
@[simp] theorem State.myBank_modMyCtx : (s.modMyCtx h).myBank = s.myBank.setCtx s.me.2.2 (h s.myCtx) := by
  simp [State.modMyCtx, State.myCtx]
@[simp] theorem State.myCtx_modMyCtx : (s.modMyCtx h).myCtx = h s.myCtx := by
  simp [State.myCtx]
end

@[simp] theorem State.modMyBraid_modMyBraid (s : State) (f g : Braid → Braid) :
    (s.modMyBraid f).modMyBraid g = s.modMyBraid fun x => g (f x) := by
  simp [State.modMyBraid]
@[simp] theorem State.modMyBank_modMyBank (s : State) (f g : Bank → Bank) :
    (s.modMyBank f).modMyBank g = s.modMyBank fun k => g (f k) := by
  simp [State.modMyBank]
@[simp] theorem State.modMyCtx_modMyCtx (s : State) (f g : Ctx → Ctx) :
    (s.modMyCtx f).modMyCtx g = s.modMyCtx fun c => g (f c) := by
  simp [State.modMyCtx]

/-- A change of the issuing context leaves every other context of the device as it was. -/
theorem State.ctx_modMyCtx_other (s : State) (f : Ctx → Ctx) (b i : Nat) (c : CtxId)
    (h : b ≠ s.me.1 ∨ (i = 0) ≠ (s.me.2.1 = 0) ∨ c ≠ s.me.2.2) : ((s.modMyCtx f).bank b i).ctx c = (s.bank b i).ctx c := by
  by_cases hb : b = s.me.1
  · subst hb
    by_cases hi : (s.me.2.1 = 0) = (i = 0)
    · have hc : c ≠ s.me.2.2 := by
        rcases h with h | h | h
        · exact absurd rfl h
        · exact absurd hi.symm h
        · exact h
      have hbank : ∀ (x : Braid) (k : Bank), (x.setBank s.me.2.1 k).bank i = k := by
        intro x k
        unfold Braid.bank Braid.setBank
        by_cases h0 : i = 0 <;> simp_all
      have hread : (s.braid s.me.1).bank i = (s.braid s.me.1).bank s.me.2.1 := by
        unfold Braid.bank
        by_cases h0 : i = 0 <;> simp_all
      simp [State.modMyCtx, State.modMyBank, State.modBank, State.setBank, State.bank, hbank, Bank.ctx_setCtx_ne, hc, hread]
    · simp [State.modMyCtx, State.modMyBank, State.modBank, State.setBank, State.bank, Braid.bank_setBank_other _ _ hi]
  · simp [State.modMyCtx, State.modMyBank, State.modBank, State.setBank, State.bank, State.braid_modBraid_ne, hb]

/-! Registers of a context. -/

@[simp] theorem Ctx.getS_zero (c : Ctx) : c.getS 0#5 = 0 := by simp [Ctx.getS]
@[simp] theorem Ctx.getP_zero (c : Ctx) : c.getP 0#4 = true := by simp [Ctx.getP]
@[simp] theorem Ctx.setS_zero (c : Ctx) (v : Word64) : c.setS 0#5 v = c := by simp [Ctx.setS]
@[simp] theorem Ctx.setP_zero (c : Ctx) (v : Bool) : c.setP 0#4 v = c := by simp [Ctx.setP]

/-- Reading a scalar register after a write (R12, R87). -/
theorem Ctx.getS_setS (c : Ctx) (d r : BitVec 5) (v : Word64) :
    (c.setS d v).getS r = if r = d ∧ d ≠ 0 then v else c.getS r := by
  by_cases hd : d = 0
  · have hc : ¬(r = d ∧ d ≠ 0) := fun h => h.2 hd
    rw [if_neg hc, hd]; exact congrArg (·.getS r) (Ctx.setS_zero c v)
  · have hw : c.setS d v = { c with s := tset 0 c.s d.toNat v } := if_neg hd
    rw [hw]
    by_cases h : r = d
    · subst h
      have hc : r = r ∧ r ≠ 0 := ⟨rfl, hd⟩
      rw [if_pos hc]
      exact (if_neg hd).trans (tget_tset_same 0 c.s r.toNat v)
    · have hn : r.toNat ≠ d.toNat := fun hn => h (BitVec.eq_of_toNat_eq hn)
      have hc : ¬(r = d ∧ d ≠ 0) := fun h2 => h h2.1
      rw [if_neg hc]
      exact congrArg (ite (r = 0) 0) (tget_tset_ne 0 c.s v hn)

/-- Reading a predicate after a write (R12, R87). -/
theorem Ctx.getP_setP (c : Ctx) (d r : BitVec 4) (v : Bool) :
    (c.setP d v).getP r = if r = d ∧ d ≠ 0 then v else c.getP r := by
  by_cases hd : d = 0
  · have hc : ¬(r = d ∧ d ≠ 0) := fun h => h.2 hd
    rw [if_neg hc, hd]; exact congrArg (·.getP r) (Ctx.setP_zero c v)
  · have hw : c.setP d v = { c with p := (c.p &&& ~~~(1#16 <<< d.toNat)) ||| (if v then 1#16 <<< d.toNat else 0) } := if_neg hd
    have hlt : r.toNat < 16 := r.isLt
    rw [hw]
    unfold Ctx.getP
    by_cases h : r = d
    · subst h
      have hc : r = r ∧ r ≠ 0 := ⟨rfl, hd⟩
      have hr : (r == 0) = false := beq_eq_false_iff_ne.mpr hd
      rw [if_pos hc, hr]
      cases v <;> simp [hlt]
    · have hn : r.toNat ≠ d.toNat := fun hn => h (BitVec.eq_of_toNat_eq hn)
      have hc : ¬(r = d ∧ d ≠ 0) := fun h2 => h h2.1
      have hz : ¬r.toNat < d.toNat → r.toNat - d.toNat ≠ 0 := by omega
      rw [if_neg hc]
      congr 1
      by_cases hl : r.toNat < d.toNat
      · cases v <;> simp [hlt, hl]
      · cases v <;> simp [hlt, hl, hz hl]

section
variable (c : Ctx) (d : BitVec 5) (v : Word64)
@[simp] theorem Ctx.setS_p : (c.setS d v).p = c.p := by unfold Ctx.setS; split <;> rfl
@[simp] theorem Ctx.setS_pc : (c.setS d v).pc = c.pc := by unfold Ctx.setS; split <;> rfl
@[simp] theorem Ctx.setS_run : (c.setS d v).run = c.run := by unfold Ctx.setS; split <;> rfl
@[simp] theorem Ctx.setS_halt : (c.setS d v).halt = c.halt := by unfold Ctx.setS; split <;> rfl
@[simp] theorem Ctx.setS_fault : (c.setS d v).fault = c.fault := by unfold Ctx.setS; split <;> rfl
@[simp] theorem Ctx.setS_epc : (c.setS d v).epc = c.epc := by unfold Ctx.setS; split <;> rfl
@[simp] theorem Ctx.setS_retireAt : (c.setS d v).retireAt = c.retireAt := by unfold Ctx.setS; split <;> rfl
@[simp] theorem Ctx.setS_ins : (c.setS d v).ins = c.ins := by unfold Ctx.setS; split <;> rfl
@[simp] theorem Ctx.setS_began : (c.setS d v).began = c.began := by unfold Ctx.setS; split <;> rfl
@[simp] theorem Ctx.setS_wait : (c.setS d v).wait = c.wait := by unfold Ctx.setS; split <;> rfl
@[simp] theorem Ctx.setS_fills : (c.setS d v).fills = c.fills := by unfold Ctx.setS; split <;> rfl
@[simp] theorem Ctx.setS_missing : (c.setS d v).missing = c.missing := by unfold Ctx.setS; split <;> rfl
@[simp] theorem Ctx.setS_stale : (c.setS d v).stale = c.stale := by unfold Ctx.setS; split <;> rfl
@[simp] theorem Ctx.setS_issueAt : (c.setS d v).issueAt = c.issueAt := by unfold Ctx.setS; split <;> rfl
@[simp] theorem Ctx.setS_holding : (c.setS d v).holding = c.holding := by unfold Ctx.setS; split <;> rfl
@[simp] theorem Ctx.setS_amo : (c.setS d v).amo = c.amo := by unfold Ctx.setS; split <;> rfl
@[simp] theorem Ctx.setS_amoOld : (c.setS d v).amoOld = c.amoOld := by unfold Ctx.setS; split <;> rfl
@[simp] theorem Ctx.setS_store : (c.setS d v).store = c.store := by unfold Ctx.setS; split <;> rfl
@[simp] theorem Ctx.setS_copies : (c.setS d v).copies = c.copies := by unfold Ctx.setS; split <;> rfl
end
section
variable (c : Ctx) (d : BitVec 4) (v : Bool)
@[simp] theorem Ctx.setP_s : (c.setP d v).s = c.s := by unfold Ctx.setP; split <;> rfl
@[simp] theorem Ctx.setP_pc : (c.setP d v).pc = c.pc := by unfold Ctx.setP; split <;> rfl
@[simp] theorem Ctx.setP_run : (c.setP d v).run = c.run := by unfold Ctx.setP; split <;> rfl
@[simp] theorem Ctx.setP_halt : (c.setP d v).halt = c.halt := by unfold Ctx.setP; split <;> rfl
@[simp] theorem Ctx.setP_fault : (c.setP d v).fault = c.fault := by unfold Ctx.setP; split <;> rfl
@[simp] theorem Ctx.setP_epc : (c.setP d v).epc = c.epc := by unfold Ctx.setP; split <;> rfl
@[simp] theorem Ctx.setP_retireAt : (c.setP d v).retireAt = c.retireAt := by unfold Ctx.setP; split <;> rfl
@[simp] theorem Ctx.setP_ins : (c.setP d v).ins = c.ins := by unfold Ctx.setP; split <;> rfl
@[simp] theorem Ctx.setP_began : (c.setP d v).began = c.began := by unfold Ctx.setP; split <;> rfl
@[simp] theorem Ctx.setP_wait : (c.setP d v).wait = c.wait := by unfold Ctx.setP; split <;> rfl
@[simp] theorem Ctx.setP_fills : (c.setP d v).fills = c.fills := by unfold Ctx.setP; split <;> rfl
@[simp] theorem Ctx.setP_missing : (c.setP d v).missing = c.missing := by unfold Ctx.setP; split <;> rfl
@[simp] theorem Ctx.setP_stale : (c.setP d v).stale = c.stale := by unfold Ctx.setP; split <;> rfl
@[simp] theorem Ctx.setP_issueAt : (c.setP d v).issueAt = c.issueAt := by unfold Ctx.setP; split <;> rfl
@[simp] theorem Ctx.setP_holding : (c.setP d v).holding = c.holding := by unfold Ctx.setP; split <;> rfl
@[simp] theorem Ctx.setP_amo : (c.setP d v).amo = c.amo := by unfold Ctx.setP; split <;> rfl
@[simp] theorem Ctx.setP_amoOld : (c.setP d v).amoOld = c.amoOld := by unfold Ctx.setP; split <;> rfl
@[simp] theorem Ctx.setP_store : (c.setP d v).store = c.store := by unfold Ctx.setP; split <;> rfl
@[simp] theorem Ctx.setP_copies : (c.setP d v).copies = c.copies := by unfold Ctx.setP; split <;> rfl
end
section
variable (c : Ctx) (a : Addr)
@[simp] theorem Ctx.retired_s : c.retired.s = c.s := rfl
@[simp] theorem Ctx.goto_s : (c.goto a).s = c.s := rfl
@[simp] theorem Ctx.retired_p : c.retired.p = c.p := rfl
@[simp] theorem Ctx.goto_p : (c.goto a).p = c.p := rfl
@[simp] theorem Ctx.retired_pc : c.retired.pc = c.pc := rfl
@[simp] theorem Ctx.goto_pc : (c.goto a).pc = a &&& ~~~1#48 := rfl
@[simp] theorem Ctx.retired_run : c.retired.run = c.run := rfl
@[simp] theorem Ctx.goto_run : (c.goto a).run = c.run := rfl
@[simp] theorem Ctx.retired_halt : c.retired.halt = c.halt := rfl
@[simp] theorem Ctx.goto_halt : (c.goto a).halt = c.halt := rfl
@[simp] theorem Ctx.retired_fault : c.retired.fault = c.fault := rfl
@[simp] theorem Ctx.goto_fault : (c.goto a).fault = c.fault := rfl
@[simp] theorem Ctx.retired_epc : c.retired.epc = c.epc := rfl
@[simp] theorem Ctx.goto_epc : (c.goto a).epc = c.epc := rfl
@[simp] theorem Ctx.retired_retireAt : c.retired.retireAt = none := rfl
@[simp] theorem Ctx.goto_retireAt : (c.goto a).retireAt = none := rfl
@[simp] theorem Ctx.retired_ins : c.retired.ins = none := rfl
@[simp] theorem Ctx.goto_ins : (c.goto a).ins = none := rfl
@[simp] theorem Ctx.retired_began : c.retired.began = c.began := rfl
@[simp] theorem Ctx.goto_began : (c.goto a).began = c.began := rfl
@[simp] theorem Ctx.retired_wait : c.retired.wait = .none := rfl
@[simp] theorem Ctx.goto_wait : (c.goto a).wait = .none := rfl
@[simp] theorem Ctx.retired_fills : c.retired.fills = [] := rfl
@[simp] theorem Ctx.goto_fills : (c.goto a).fills = [] := rfl
@[simp] theorem Ctx.retired_missing : c.retired.missing = [] := rfl
@[simp] theorem Ctx.goto_missing : (c.goto a).missing = [] := rfl
@[simp] theorem Ctx.retired_stale : c.retired.stale = c.stale ++ c.missing := rfl
@[simp] theorem Ctx.goto_stale : (c.goto a).stale = c.stale ++ c.missing := rfl
@[simp] theorem Ctx.retired_issueAt : c.retired.issueAt = c.issueAt := rfl
@[simp] theorem Ctx.goto_issueAt : (c.goto a).issueAt = c.issueAt := rfl
@[simp] theorem Ctx.retired_holding : c.retired.holding = false := rfl
@[simp] theorem Ctx.goto_holding : (c.goto a).holding = false := rfl
@[simp] theorem Ctx.retired_amo : c.retired.amo = none := rfl
@[simp] theorem Ctx.goto_amo : (c.goto a).amo = none := rfl
@[simp] theorem Ctx.retired_amoOld : c.retired.amoOld = none := rfl
@[simp] theorem Ctx.goto_amoOld : (c.goto a).amoOld = none := rfl
@[simp] theorem Ctx.retired_store : c.retired.store = none := rfl
@[simp] theorem Ctx.goto_store : (c.goto a).store = none := rfl
@[simp] theorem Ctx.retired_copies : c.retired.copies = none := rfl
@[simp] theorem Ctx.goto_copies : (c.goto a).copies = none := rfl
end
@[simp] theorem Ctx.getS_goto (c : Ctx) (a : Addr) (r : BitVec 5) : (c.goto a).getS r = c.getS r := rfl
@[simp] theorem Ctx.getP_goto (c : Ctx) (a : Addr) (r : BitVec 4) : (c.goto a).getP r = c.getP r := rfl
@[simp] theorem Ctx.getS_setP (c : Ctx) (d : BitVec 4) (v : Bool) (r : BitVec 5) : (c.setP d v).getS r = c.getS r := by simp [Ctx.getS]
@[simp] theorem Ctx.getP_setS (c : Ctx) (d : BitVec 5) (v : Word64) (r : BitVec 4) : (c.setS d v).getP r = c.getP r := by simp [Ctx.getP]

end Sys2Proof.Machine
end

