-- ==== Sys2Proof/Laws/Memory.lean ====
section
/-! SUPPORT. Device memory: reading after writing, the canonical form and the L2s' agreement with it kept by every memory operation, and what
those operations leave alone. -/

namespace Sys2Proof.Machine

/-- The memory after reset is canonical, and nothing stands in the L2s. -/
theorem reset_memOk : State.reset.memOk := ⟨rfl, by
  refine ⟨by simp [State.reset], by simp [State.reset], by simp [State.reset], by simp [State.reset], fun ln => ?_⟩
  simp [State.reset, MemSide.l2State, thas]⟩

theorem memPuts_wf (l : List Byte) : ∀ (m : Memory) (a : Nat), Memory.wf m = true → Memory.wf (memPuts m a l) = true := by
  induction l with
  | nil => exact fun _ _ h => h
  | cons b r ih => exact fun m a h => ih _ _ (twf_tset 0 m a b h)

/-- Reading after writing consecutive bytes. -/
theorem tget_memPuts (l : List Byte) : ∀ (m : Memory) (a x : Nat),
    tget 0 (memPuts m a l) x = if a ≤ x ∧ x < a + l.length then l.getD (x - a) 0 else tget 0 m x := by
  induction l with
  | nil => intro m a x; rw [memPuts, if_neg (by simp only [List.length_nil]; omega)]
  | cons b r ih =>
    intro m a x
    rw [memPuts, ih, tget_tset]
    rcases Nat.lt_trichotomy x a with h | h | h
    · have h1 : ¬(a + 1 ≤ x ∧ x < a + 1 + r.length) := by omega
      have h2 : ¬(a ≤ x ∧ x < a + (b :: r).length) := by omega
      rw [if_neg h1, if_neg h2, if_neg (by omega)]
    · subst h
      simp
    · by_cases h3 : x < a + 1 + r.length
      · rw [if_pos ⟨by omega, h3⟩, if_pos ⟨by omega, by simp only [List.length_cons]; omega⟩]
        obtain ⟨k, rfl⟩ : ∃ k, x = a + 1 + k := ⟨x - (a + 1), by omega⟩
        rw [show a + 1 + k - (a + 1) = k by omega, show a + 1 + k - a = k + 1 by omega]
        rfl
      · have h4 : ¬(a ≤ x ∧ x < a + (b :: r).length) := by simp only [List.length_cons]; omega
        rw [if_neg (by omega), if_neg h4, if_neg (by omega)]

/-- A line of LPDDR6 written under a key keeps the canonical form, and so does a line that the L2 writes back. -/
theorem MemSide.dramPut_wf (m : MemSide) (k line : Nat) (l : List Byte) (h : Memory.wf m.mem = true) : Memory.wf (m.dramPut k line l).mem = true :=
  memPuts_wf _ _ _ h
theorem MemSide.wroteBack_wf (m : MemSide) (line : Nat) (h : Memory.wf m.mem = true) : Memory.wf (m.wroteBack line).mem = true := by
  unfold MemSide.wroteBack
  dsimp only
  split
  · exact memPuts_wf _ _ _ h
  · exact h

theorem bitAt_testBit (a i : Nat) : bitAt a i = Nat.testBit a i := by
  rw [bitAt, Nat.testBit_eq_decide_div_mod_eq]; rfl
theorem bitAt_or (a b i : Nat) : bitAt (a ||| b) i = (bitAt a i || bitAt b i) := by simp [bitAt_testBit]
theorem bitAt_two_pow (k i : Nat) : bitAt (2 ^ k) i = decide (k = i) := by simp [bitAt_testBit, Nat.testBit_two_pow]
theorem bitAt_zero (i : Nat) : bitAt 0 i = false := by simp [bitAt_testBit]

/-- Valid and dirty bits of a line among the superblocks of a die. -/
def lineIn (l : List L2Sb) (line : Nat) : Bool × Bool :=
  match l.find? fun x => x.tag == line / 4 with
  | some x => (bitAt x.valid (line % 4), bitAt x.dirty (line % 4))
  | none => (false, false)
theorem lineIn_cons (y : L2Sb) (l : List L2Sb) (line : Nat) :
    lineIn (y :: l) line = if y.tag = line / 4 then (bitAt y.valid (line % 4), bitAt y.dirty (line % 4)) else lineIn l line := by
  by_cases h : y.tag = line / 4 <;> simp [lineIn, h]
theorem lineIn_without (l : List L2Sb) (tag line : Nat) :
    lineIn (l.filter fun x => x.tag != tag) line = if line / 4 = tag then (false, false) else lineIn l line := by
  induction l with
  | nil => simp [lineIn]
  | cons y r ih =>
    by_cases h : y.tag = tag
    · rw [List.filter_cons_of_neg (by simp [h]), ih, lineIn_cons, h]
      split <;> simp_all [eq_comm]
    · rw [List.filter_cons_of_pos (by simp [h]), lineIn_cons, ih, lineIn_cons]
      split
      · rw [if_neg (by omega)]
      · rfl
theorem l2Room_lines (l : List L2Sb) (tag line : Nat) :
    lineIn (l2Room l tag).1 line = match (l2Room l tag).2 with
      | some v => if line / 4 = v.tag then (false, false) else lineIn l line
      | none => lineIn l line := by
  unfold l2Room
  dsimp only
  split
  · rfl
  · split
    · exact lineIn_without _ _ _
    · rfl

/-- What LPDDR6 and the L2 hold of a line is as before. -/
def sameLine (m n : MemSide) (ln : Nat) : Prop :=
  (thas n.l2Data ln = thas m.l2Data ln ∧ tget [] n.l2Data ln = tget [] m.l2Data ln)
    ∧ (thas n.l2Key ln = thas m.l2Key ln ∧ tget 0 n.l2Key ln = tget 0 m.l2Key ln)
    ∧ tget 0 n.keyOf ln = tget 0 m.keyOf ln ∧ ∀ pa, pa / 64 = ln → tget 0 n.mem pa = tget 0 m.mem pa
/-- A line stands, wherever, with the bytes and the key it had. -/
def keptLine (m n : MemSide) (ln : Nat) : Prop :=
  n.storedKey ln = m.storedKey ln ∧ ∀ pa, pa / 64 = ln → n.stored pa = m.stored pa
/-- The L2 holds nothing of a line that LPDDR6 does not. -/
def cleanLine (m : MemSide) (ln : Nat) : Prop := thas m.l2Data ln = false ∧ thas m.l2Key ln = false

theorem sameLine.refl (m : MemSide) (ln : Nat) : sameLine m m ln := ⟨⟨rfl, rfl⟩, ⟨rfl, rfl⟩, rfl, fun _ _ => rfl⟩
theorem sameLine.trans {m n o : MemSide} {ln : Nat} (h : sameLine m n ln) (g : sameLine n o ln) : sameLine m o ln :=
  ⟨⟨g.1.1.trans h.1.1, g.1.2.trans h.1.2⟩, ⟨g.2.1.1.trans h.2.1.1, g.2.1.2.trans h.2.1.2⟩, g.2.2.1.trans h.2.2.1,
    fun pa e => (g.2.2.2 pa e).trans (h.2.2.2 pa e)⟩
theorem sameLine.kept {m n : MemSide} {ln : Nat} (h : sameLine m n ln) : keptLine m n ln := by
  refine ⟨?_, fun pa e => ?_⟩
  · rw [MemSide.storedKey, MemSide.storedKey, h.2.1.1, h.2.1.2, h.2.2.1]
  · subst e
    rw [MemSide.stored, MemSide.stored, h.2.1.1, h.1.2, h.2.2.2 pa rfl]
theorem keptLine.trans {m n o : MemSide} {ln : Nat} (h : keptLine m n ln) (g : keptLine n o ln) : keptLine m o ln :=
  ⟨g.1.trans h.1, fun pa e => (g.2 pa e).trans (h.2 pa e)⟩

theorem MemSide.wroteBack_other (m : MemSide) {line ln : Nat} (h : ln ≠ line) (hl : (tget [] m.l2Data line).length = 64 ∨ thas m.l2Data line = false) :
    sameLine m (m.wroteBack line) ln := by
  unfold MemSide.wroteBack
  dsimp only
  split
  · next h0 =>
    have h6 : (tget [] m.l2Data line).length = 64 := by simp_all
    refine ⟨⟨by simp [MemSide.l2Same, MemSide.dramPut, thas_tdel, h], ?_⟩, ⟨by simp [MemSide.l2Same, MemSide.dramPut, thas_tdel, h], ?_⟩, ?_, fun pa e => ?_⟩
    · exact tget_tdel_ne _ _ h
    · exact tget_tdel_ne _ _ h
    · exact tget_tput_ne _ _ _ h
    · show tget 0 (memPuts _ _ _) pa = _
      rw [tget_memPuts, if_neg (by omega)]
  · exact sameLine.refl m ln
theorem MemSide.wroteBack_line (m : MemSide) {line : Nat} (hk : thas m.l2Key line = true) (hd : thas m.l2Data line = true)
    (h6 : (tget [] m.l2Data line).length = 64) : keptLine m (m.wroteBack line) line ∧ cleanLine (m.wroteBack line) line := by
  unfold MemSide.wroteBack
  dsimp only
  rw [if_pos hd]
  refine ⟨⟨?_, fun pa e => ?_⟩, by simp [MemSide.l2Same, MemSide.dramPut, thas_tdel], by simp [MemSide.l2Same, MemSide.dramPut, thas_tdel]⟩
  · simp [MemSide.storedKey, MemSide.l2Same, MemSide.dramPut, thas_tdel, hk]
  · subst e
    simp only [MemSide.stored, MemSide.l2Same, MemSide.dramPut, thas_tdel, hk, ne_eq, not_true_eq_false, decide_false, Bool.false_and, Bool.false_eq_true, if_false,
      if_true, tget_memPuts, h6]
    rw [if_pos (by omega), show pa - 64 * (pa / 64) = pa % 64 by omega]
theorem MemSide.l2Same_other (m : MemSide) {line ln : Nat} (h : ln ≠ line) : sameLine m (m.l2Same line) ln :=
  ⟨⟨by simp [MemSide.l2Same, thas_tdel, h], tget_tdel_ne _ _ h⟩, ⟨by simp [MemSide.l2Same, thas_tdel, h], tget_tdel_ne _ _ h⟩, rfl, fun _ _ => rfl⟩
theorem MemSide.l2Same_line (m : MemSide) {line : Nat} (hk : thas m.l2Key line = false) :
    keptLine m (m.l2Same line) line ∧ cleanLine (m.l2Same line) line := by
  refine ⟨⟨?_, fun pa e => ?_⟩, by simp [MemSide.l2Same, thas_tdel], by simp [MemSide.l2Same, thas_tdel]⟩
  · simp [MemSide.storedKey, MemSide.l2Same, thas_tdel, hk]
  · subst e
    simp [MemSide.stored, MemSide.l2Same, thas_tdel, hk]

/-- The parts of the memory side that say what stands where. -/
def MemSide.alike (m n : MemSide) : Prop :=
  n.mem = m.mem ∧ n.keyOf = m.keyOf ∧ n.l2w = m.l2w ∧ n.l2e = m.l2e ∧ n.l2Data = m.l2Data ∧ n.l2Key = m.l2Key
theorem MemSide.alike.same {m n : MemSide} (h : m.alike n) (ln : Nat) : sameLine m n ln := by
  obtain ⟨h1, h2, -, -, h5, h6⟩ := h
  exact ⟨by simp [h5], by simp [h6], by rw [h2], fun _ _ => by rw [h1]⟩
theorem MemSide.alike.l2State {m n : MemSide} (h : m.alike n) (ln : Nat) : n.l2State ln = m.l2State ln := by
  rw [MemSide.l2State, MemSide.l2State, h.2.2.1, h.2.2.2.1]
theorem MemSide.alike.l2Ok {m n : MemSide} (h : m.alike n) (g : m.l2Ok) : n.l2Ok := by
  obtain ⟨g1, g2, g3, g4, g5⟩ := g
  refine ⟨by rw [h.2.2.1]; exact g1, by rw [h.2.2.2.1]; exact g2, by rw [h.2.2.1]; exact g3, by rw [h.2.2.2.1]; exact g4, fun ln => ?_⟩
  rw [h.2.2.2.2.1, h.2.2.2.2.2, h.l2State]
  exact g5 ln

theorem State.toHost_alike (s : State) (l : List HostOut) : s.mem.alike (s.toHost l).mem := by
  unfold State.toHost
  dsimp only
  split <;> exact ⟨rfl, rfl, rfl, rfl, rfl, rfl⟩
theorem State.dropHost_alike (s : State) (line : Nat) : s.mem.alike (s.dropHost line).mem := by
  unfold State.dropHost
  split
  · exact ⟨rfl, rfl, rfl, rfl, rfl, rfl⟩
  · exact State.toHost_alike _ _

/-- A line that may leave the L2 with this dirty bit: it holds nothing of it, or it is to be written back where it is dirty. -/
def mayLeave (m : MemSide) (line : Nat) (d : Bool) : Prop :=
  cleanLine m line ∨ d = thas m.l2Key line ∧ (thas m.l2Key line = true → thas m.l2Data line = true ∧ (tget [] m.l2Data line).length = 64)
theorem mayLeave.of_same {m n : MemSide} {line : Nat} {d : Bool} (h : mayLeave m line d) (e : sameLine m n line) : mayLeave n line d := by
  rw [mayLeave, cleanLine, e.1.1, e.1.2, e.2.1.1]
  exact h
/-- A line that leaves the L2 is written back where it has to be; the other lines stand as they did. -/
theorem State.l2Drop_lines (s : State) {line : Nat} {d : Bool} (hl : mayLeave s.mem line d) :
    (keptLine s.mem (s.l2Drop line d).mem line ∧ cleanLine (s.l2Drop line d).mem line)
      ∧ ∀ ln, ln ≠ line → sameLine s.mem (s.l2Drop line d).mem ln := by
  have hs := (s.dropHost_alike line).same
  have hl0 := hl.of_same (hs line)
  have key (m : MemSide) (w : (keptLine (s.dropHost line).mem m line ∧ cleanLine m line) ∧ ∀ ln, ln ≠ line → sameLine (s.dropHost line).mem m ln) :
      (keptLine s.mem m line ∧ cleanLine m line) ∧ ∀ ln, ln ≠ line → sameLine s.mem m ln :=
    ⟨⟨(hs line).kept.trans w.1.1, w.1.2⟩, fun ln g => (hs ln).trans (w.2 ln g)⟩
  suffices (keptLine (s.dropHost line).mem (s.l2Drop line d).mem line ∧ cleanLine (s.l2Drop line d).mem line)
      ∧ ∀ ln, ln ≠ line → sameLine (s.dropHost line).mem (s.l2Drop line d).mem ln from key _ this
  generalize hm : (s.dropHost line).mem = m at hl0
  have e : (s.l2Drop line d).mem = (let n := if d then m.wroteBack line else m.l2Same line; { n with l2Poison := n.l2Poison.filter (· ≠ line) }) := by
    simp [State.l2Drop, hm]
  rw [e]
  rcases hl0 with hc | ⟨hd, hk⟩
  · cases d
    · exact ⟨MemSide.l2Same_line m hc.2, fun ln g => MemSide.l2Same_other m g⟩
    · have w (ln : Nat) : sameLine m { m.wroteBack line with l2Poison := (m.wroteBack line).l2Poison.filter (· ≠ line) } ln := by
        by_cases g : ln = line
        · subst g
          simp only [MemSide.wroteBack, hc.1, Bool.false_eq_true, if_false]
          exact sameLine.refl m ln
        · exact MemSide.wroteBack_other m g (.inr hc.1)
      refine ⟨⟨(w line).kept, (w line).1.1.trans hc.1, (w line).2.1.1.trans hc.2⟩, fun ln _ => w ln⟩
  · cases d
    · exact ⟨MemSide.l2Same_line m hd.symm, fun ln g => MemSide.l2Same_other m g⟩
    · obtain ⟨h1, h2⟩ := hk hd.symm
      exact ⟨MemSide.wroteBack_line m hd.symm h1 h2, fun ln g => MemSide.wroteBack_other m g (.inl h2)⟩
theorem State.l2Drop_l2 (s : State) (line : Nat) (d : Bool) : (s.l2Drop line d).mem.l2w = s.mem.l2w ∧ (s.l2Drop line d).mem.l2e = s.mem.l2e := by
  have h := s.dropHost_alike line
  cases d
  · exact ⟨h.2.2.1, h.2.2.2.1⟩
  · refine ⟨Eq.trans ?_ h.2.2.1, Eq.trans ?_ h.2.2.2.1⟩ <;>
      · simp only [State.l2Drop, if_true, MemSide.wroteBack]
        split <;> rfl

/-- The lines of a superblock that leaves the L2. -/
theorem State.l2Leave_lines (t : Nat) (dirty : Nat) (l : List Nat) : ∀ s : State, l.Nodup →
    (∀ i ∈ l, mayLeave s.mem (4 * t + i) (bitAt dirty i)) →
    let u := l.foldl (fun (st : State) i => st.l2Drop (4 * t + i) (bitAt dirty i)) s
    (u.mem.l2w = s.mem.l2w ∧ u.mem.l2e = s.mem.l2e) ∧ (∀ ln, keptLine s.mem u.mem ln)
      ∧ (∀ i ∈ l, cleanLine u.mem (4 * t + i)) ∧ ∀ ln, (∀ i ∈ l, ln ≠ 4 * t + i) → sameLine s.mem u.mem ln := by
  induction l with
  | nil => exact fun s _ _ => ⟨⟨rfl, rfl⟩, fun ln => (sameLine.refl _ ln).kept, fun i h => absurd h (by simp), fun ln _ => sameLine.refl _ ln⟩
  | cons i r ih =>
    intro s hn hi
    obtain ⟨hi0, hir⟩ := List.forall_mem_cons.1 hi
    obtain ⟨hni, hnr⟩ := List.nodup_cons.1 hn
    obtain ⟨⟨k1, c1⟩, o1⟩ := s.l2Drop_lines hi0
    have l1 := s.l2Drop_l2 (4 * t + i) (bitAt dirty i)
    obtain ⟨l2, k2, c2, o2⟩ := ih (s.l2Drop (4 * t + i) (bitAt dirty i)) hnr (fun j hj => by
      have hj0 : 4 * t + j ≠ 4 * t + i := fun e => hni (by rwa [show i = j by omega])
      exact (hir j hj).of_same (o1 _ hj0))
    refine ⟨⟨l2.1.trans l1.1, l2.2.trans l1.2⟩, fun ln => ?_, ?_, fun ln hl => ?_⟩
    · by_cases h : ln = 4 * t + i
      · subst h; exact k1.trans (k2 _)
      · exact ((o1 ln h).kept).trans (k2 ln)
    · refine List.forall_mem_cons.2 ⟨?_, c2⟩
      have o := o2 (4 * t + i) (fun j hj e => hni (by rwa [show i = j by omega]))
      exact ⟨o.1.1.trans c1.1, o.2.1.1.trans c1.2⟩
    · exact (o1 ln (hl i (by simp))).trans (o2 ln fun j hj => hl j (by simp [hj]))

theorem isLpddr_line (ln : Nat) : isLpddr (64 * ln) = isLpddr (256 * (ln / 4)) := by
  have h : Config.lpddrBytes = 256 * 2000000000 := rfl
  simp only [isLpddr, h, decide_eq_decide]
  omega
theorem homeEast_line (ln : Nat) : homeEast (64 * ln) = homeEast (256 * (ln / 4)) := by
  have h : 64 * ln / 2 ^ 12 = 256 * (ln / 4) / 2 ^ 12 := by omega
  rw [homeEast, homeEast, isLpddr_line, bitAt, bitAt, h]
theorem MemSide.l2State_eq (m : MemSide) (ln : Nat) : m.l2State ln = lineIn (if homeEast (64 * ln) then m.l2e else m.l2w) ln := rfl

/-- Superblocks of one die, each once. -/
def blocksOk (east : Bool) (l : List L2Sb) : Prop := (∀ x ∈ l, homeEast (256 * x.tag) = east) ∧ (l.map L2Sb.tag).Nodup
theorem blocksOk.filter {east : Bool} {l : List L2Sb} (h : blocksOk east l) (p : L2Sb → Bool) : blocksOk east (l.filter p) :=
  ⟨fun x hx => h.1 x (List.mem_filter.1 hx).1, h.2.sublist (List.filter_sublist.map _)⟩
theorem blocksOk.cons {east : Bool} {l : List L2Sb} (h : blocksOk east l) {y : L2Sb} (hy : homeEast (256 * y.tag) = east)
    (hn : ∀ x ∈ l, x.tag ≠ y.tag) : blocksOk east (y :: l) := by
  refine ⟨List.forall_mem_cons.2 ⟨hy, h.1⟩, List.nodup_cons.2 ⟨fun g => ?_, h.2⟩⟩
  obtain ⟨x, hx, e⟩ := List.mem_map.1 g
  exact hn x hx e
theorem blocksOk.lineIn {east : Bool} {l : List L2Sb} (h : blocksOk east l) {v : L2Sb} (hv : v ∈ l) (ln : Nat) (e : ln / 4 = v.tag) :
    lineIn l ln = (bitAt v.valid (ln % 4), bitAt v.dirty (ln % 4)) := by
  induction l with
  | nil => simp at hv
  | cons y r ih =>
    rw [lineIn_cons]
    have hr : blocksOk east r := ⟨fun x hx => h.1 x (by simp [hx]), (List.nodup_cons.1 h.2).2⟩
    rcases List.mem_cons.1 hv with rfl | g
    · rw [if_pos e.symm]
    · rw [if_neg, ih hr g]
      intro e2
      exact (List.nodup_cons.1 h.2).1 (List.mem_map.2 ⟨v, g, by omega⟩)

/-- What the L2 says of a line: where it holds bytes of its own they are of LPDDR6, the line valid, and dirty if they are to be written back. -/
def lineOk (m : MemSide) (ln : Nat) (v d : Bool) : Prop :=
  (thas m.l2Data ln = true → isLpddr (64 * ln) = true ∧ v = true ∧ (tget [] m.l2Data ln).length = 64)
    ∧ (thas m.l2Key ln = true → thas m.l2Data ln = true) ∧ (thas m.l2Key ln = true ↔ isLpddr (64 * ln) = true ∧ d = true)
theorem MemSide.l2Ok_iff (m : MemSide) :
    m.l2Ok ↔ (blocksOk false m.l2w ∧ blocksOk true m.l2e) ∧ ∀ ln, lineOk m ln (m.l2State ln).1 (m.l2State ln).2 :=
  ⟨fun ⟨a, b, c, d, e⟩ => ⟨⟨⟨a, c⟩, b, d⟩, e⟩, fun ⟨⟨⟨a, c⟩, b, d⟩, e⟩ => ⟨a, b, c, d, e⟩⟩
theorem lineOk.of_same {m n : MemSide} {ln : Nat} {v d : Bool} (h : lineOk m ln v d) (e : sameLine m n ln) : lineOk n ln v d := by
  rw [lineOk, e.1.1, e.1.2, e.2.1.1]
  exact h
theorem lineOk.of_clean {m : MemSide} {ln : Nat} (h : cleanLine m ln) {v d : Bool} (hd : isLpddr (64 * ln) = true → d = false) : lineOk m ln v d := by
  rw [lineOk, h.1, h.2]
  refine ⟨by simp, by simp, by simpa using hd⟩
theorem lineOk.mayLeave {m : MemSide} {ln : Nat} {v d : Bool} (h : lineOk m ln v d) : mayLeave m ln d := by
  by_cases hl : isLpddr (64 * ln) = true
  · refine .inr ⟨?_, fun hk => ⟨h.2.1 hk, (h.1 (h.2.1 hk)).2.2⟩⟩
    have := h.2.2
    rw [hl] at this
    cases d <;> simp_all
  · refine .inl ⟨?_, ?_⟩
    · exact Bool.eq_false_iff.2 fun g => hl (h.1 g).1
    · exact Bool.eq_false_iff.2 fun g => hl (h.1 (h.2.1 g)).1

/-- The blocks of a die after room has been made. -/
theorem l2Room_spec {east : Bool} {l : List L2Sb} (h : blocksOk east l) (tag : Nat) :
    blocksOk east (l2Room l tag).1 ∧ (∀ x ∈ (l2Room l tag).1, x ∈ l) ∧ ∀ v, (l2Room l tag).2 = some v → v ∈ l := by
  unfold l2Room
  dsimp only
  split
  · exact ⟨h, fun _ => id, by simp⟩
  · split
    · next v hv =>
      refine ⟨h.filter _, fun x hx => (List.mem_filter.1 hx).1, fun w hw => ?_⟩
      obtain rfl : v = w := by simpa using hw
      have := List.mem_of_getLast? hv
      exact (List.mem_filter.1 (List.mem_filter.1 this).1).1
    · exact ⟨h, fun _ => id, by simp⟩

/-- What bringing a superblock into its home's L2 does to the lines: its own get the bits; those of the one that leaves are written back
and the L2 holds nothing of them; every line stands with the bytes and the key it had. -/
def broughtLine (m n : MemSide) (tag valid dirty ln : Nat) : Prop :=
  keptLine m n ln ∧
    if ln / 4 = tag then n.l2State ln = ((m.l2State ln).1 || bitAt valid (ln % 4), (m.l2State ln).2 || bitAt dirty (ln % 4)) ∧ sameLine m n ln
    else n.l2State ln = m.l2State ln ∧ sameLine m n ln ∨ n.l2State ln = (false, false) ∧ cleanLine n ln

theorem State.setL2_parts (s : State) (east : Bool) (l : List L2Sb) :
    (∀ ln, sameLine s.mem (s.setL2 east l).mem ln)
      ∧ ∀ ln, (s.setL2 east l).mem.l2State ln = lineIn (if homeEast (64 * ln) = east then l else if homeEast (64 * ln) then s.mem.l2e else s.mem.l2w) ln := by
  cases east
  · refine ⟨fun ln => sameLine.refl _ ln, fun ln => ?_⟩
    rw [MemSide.l2State_eq]
    cases homeEast (64 * ln) <;> rfl
  · refine ⟨fun ln => sameLine.refl _ ln, fun ln => ?_⟩
    rw [MemSide.l2State_eq]
    cases homeEast (64 * ln) <;> rfl
theorem State.setL2_blocks {s : State} {east : Bool} {l : List L2Sb} (h : blocksOk false s.mem.l2w ∧ blocksOk true s.mem.l2e) (hl : blocksOk east l) :
    blocksOk false (s.setL2 east l).mem.l2w ∧ blocksOk true (s.setL2 east l).mem.l2e := by
  cases east
  · exact ⟨hl, h.2⟩
  · exact ⟨h.1, hl⟩

theorem State.l2Bring_lines {s : State} {tag valid dirty : Nat} (hb : blocksOk false s.mem.l2w ∧ blocksOk true s.mem.l2e)
    (hl : ∀ ln, ln / 4 ≠ tag → lineOk s.mem ln (s.mem.l2State ln).1 (s.mem.l2State ln).2) :
    (blocksOk false (s.l2Bring tag valid dirty).mem.l2w ∧ blocksOk true (s.l2Bring tag valid dirty).mem.l2e)
      ∧ ∀ ln, broughtLine s.mem (s.l2Bring tag valid dirty).mem tag valid dirty ln := by
  have hd : blocksOk (homeEast (256 * tag)) (s.l2 (homeEast (256 * tag))) := by
    unfold State.l2
    cases homeEast (256 * tag)
    · exact hb.1
    · exact hb.2
  have hS (ln : Nat) (e : homeEast (64 * ln) = homeEast (256 * tag)) : s.mem.l2State ln = lineIn (s.l2 (homeEast (256 * tag))) ln := by
    rw [MemSide.l2State_eq, e]
    unfold State.l2
    cases homeEast (256 * tag) <;> rfl
  have hO (ln : Nat) (e : homeEast (64 * ln) ≠ homeEast (256 * tag)) : ln / 4 ≠ tag := fun g => e (by rw [homeEast_line, g])
  unfold State.l2Bring
  dsimp only
  generalize hE : homeEast (256 * tag) = east at *
  generalize hL : s.l2 east = l at *
  cases hf : l.find? fun x => x.tag == tag with
  | some x =>
    dsimp only
    have hx : x.tag = tag := by simpa using List.find?_some hf
    have hxl : x ∈ l := List.mem_of_find?_eq_some hf
    have hl' : blocksOk east ({ x with valid := x.valid ||| valid, dirty := x.dirty ||| dirty } :: l.filter fun y => y.tag != tag) :=
      (hd.filter _).cons (by rw [hx, hE]) (fun y hy => by have := (List.mem_filter.1 hy).2; simpa [hx] using this)
    obtain ⟨p1, p2⟩ := s.setL2_parts east ({ x with valid := x.valid ||| valid, dirty := x.dirty ||| dirty } :: l.filter fun y => y.tag != tag)
    refine ⟨State.setL2_blocks hb hl', fun ln => ⟨(p1 ln).kept, ?_⟩⟩
    rw [p2]
    by_cases e : homeEast (64 * ln) = east
    · rw [if_pos e, lineIn_cons, lineIn_without, hS ln e]
      split
      · next g =>
        rw [if_pos (show x.tag = ln / 4 by omega), hd.lineIn hxl ln (by rw [hx]; exact g)]
        exact ⟨by simp [bitAt_or], p1 ln⟩
      · next g =>
        rw [if_neg (show ¬x.tag = ln / 4 by omega)]
        exact .inl ⟨rfl, p1 ln⟩
    · rw [if_neg e, if_neg (hO ln e), ← MemSide.l2State_eq]
      exact .inl ⟨rfl, p1 ln⟩
  | none =>
    dsimp only
    have hno : ∀ x ∈ l, x.tag ≠ tag := by simpa using hf
    obtain ⟨r1, r2, r3⟩ := l2Room_spec hd tag
    have hl' : blocksOk east (⟨tag, valid, dirty, 0⟩ :: (l2Room l tag).1) := r1.cons hE fun x hx => hno x (r2 x hx)
    obtain ⟨p1, p2⟩ := s.setL2_parts east (⟨tag, valid, dirty, 0⟩ :: (l2Room l tag).1)
    have hb' := State.setL2_blocks hb hl'
    have hnew (ln : Nat) (g : ln / 4 = tag) : (s.setL2 east (⟨tag, valid, dirty, 0⟩ :: (l2Room l tag).1)).mem.l2State ln
        = ((s.mem.l2State ln).1 || bitAt valid (ln % 4), (s.mem.l2State ln).2 || bitAt dirty (ln % 4)) := by
      have e : homeEast (64 * ln) = east := by rw [homeEast_line, g, hE]
      have h0 : lineIn l ln = (false, false) := by
        unfold lineIn
        rw [g, hf]
      rw [p2, if_pos e, lineIn_cons, if_pos g.symm, hS ln e, h0]
      simp
    cases hr : (l2Room l tag).2 with
    | none =>
      dsimp only
      refine ⟨hb', fun ln => ⟨(p1 ln).kept, ?_⟩⟩
      split
      · next g => exact ⟨hnew ln g, p1 ln⟩
      · next g =>
        rw [p2]
        by_cases e : homeEast (64 * ln) = east
        · rw [if_pos e, lineIn_cons, if_neg (by simp only; omega), l2Room_lines, hr, hS ln e]
          exact .inl ⟨rfl, p1 ln⟩
        · rw [if_neg e, ← MemSide.l2State_eq]
          exact .inl ⟨rfl, p1 ln⟩
    | some v =>
      dsimp only
      have hv := r3 v hr
      have hvt : v.tag ≠ tag := hno v hv
      have hv4 (i : Nat) (hi : i ∈ upto 0 4) : (4 * v.tag + i) / 4 = v.tag ∧ (4 * v.tag + i) % 4 = i := by
        simp only [upto, List.mem_cons, List.not_mem_nil, or_false] at hi
        omega
      obtain ⟨q1, q2, q3, q4⟩ := State.l2Leave_lines v.tag v.dirty (upto 0 4) (s.setL2 east (⟨tag, valid, dirty, 0⟩ :: (l2Room l tag).1)) (by decide)
        (fun i hi => by
          obtain ⟨h4, h5⟩ := hv4 i hi
          refine mayLeave.of_same ?_ (p1 _)
          have := (hl (4 * v.tag + i) (by rw [h4]; exact hvt)).mayLeave
          rwa [hS _ (by rw [homeEast_line, h4]; exact hd.1 v hv), hd.lineIn hv _ h4, h5] at this)
      change (_ = _ ∧ _ = _) at q1
      refine ⟨?_, fun ln => ⟨(p1 ln).kept.trans (q2 ln), ?_⟩⟩
      · unfold State.l2Leave
        rw [q1.1, q1.2]
        exact hb'
      · have hu : ((s.setL2 east (⟨tag, valid, dirty, 0⟩ :: (l2Room l tag).1)).l2Leave v).mem.l2State ln
            = (s.setL2 east (⟨tag, valid, dirty, 0⟩ :: (l2Room l tag).1)).mem.l2State ln := by
          unfold State.l2Leave
          rw [MemSide.l2State_eq, MemSide.l2State_eq, q1.1, q1.2]
        rw [hu]
        by_cases gv : ln / 4 = v.tag
        · rw [if_neg (by omega)]
          right
          have e : homeEast (64 * ln) = east := by rw [homeEast_line, gv]; exact hd.1 v hv
          refine ⟨?_, ?_⟩
          · rw [p2, if_pos e, lineIn_cons, if_neg (by simp only; omega), l2Room_lines, hr]
            exact if_pos gv
          · have := q3 (ln % 4) (by simp only [upto, List.mem_cons, List.not_mem_nil, or_false]; omega)
            rwa [show 4 * v.tag + ln % 4 = ln by omega] at this
        · have hq : sameLine s.mem ((s.setL2 east (⟨tag, valid, dirty, 0⟩ :: (l2Room l tag).1)).l2Leave v).mem ln :=
            (p1 ln).trans (q4 ln fun i hi e => gv (by rw [e]; exact (hv4 i hi).1))
          split
          · next g => exact ⟨hnew ln g, hq⟩
          · next g =>
            left
            refine ⟨?_, hq⟩
            rw [p2]
            by_cases e : homeEast (64 * ln) = east
            · rw [if_pos e, lineIn_cons, if_neg (by simp only; omega), l2Room_lines, hr, hS ln e]
              exact if_neg gv
            · rw [if_neg e, ← MemSide.l2State_eq]

theorem length_overLine (line : Nat) (l : List (Nat × Byte)) : ∀ old : List Byte, (overLine line old l).length = old.length := by
  induction l with
  | nil => exact fun _ => rfl
  | cons e r ih =>
    intro old
    refine (ih _).trans ?_
    dsimp only
    split
    · exact length_setNth _ _ _
    · rfl
theorem MemSide.length_lpLine (m : MemSide) (k line : Nat) : (m.lpLine k line).length = 64 := by simp [MemSide.lpLine, upto_length]

theorem MemSide.l2Ok.congr {m n : MemSide} (g : m.l2Ok) (h1 : n.l2w = m.l2w) (h2 : n.l2e = m.l2e) (h3 : n.l2Data = m.l2Data) (h4 : n.l2Key = m.l2Key) :
    n.l2Ok := by
  have h (ln : Nat) : n.l2State ln = m.l2State ln := by rw [MemSide.l2State, MemSide.l2State, h1, h2]
  simp only [MemSide.l2Ok, h, h1, h2, h3, h4]
  exact g
theorem lineOk.mono {m : MemSide} {ln : Nat} {v d : Bool} (h : lineOk m ln v d) : lineOk m ln true d := ⟨fun g => ⟨(h.1 g).1, rfl, (h.1 g).2.2⟩, h.2⟩

/-- The line an L2 fills: what it holds of it may be other than what LPDDR6 holds, which stands. -/
theorem State.l2Fill_lines {s : State} (h : s.mem.l2Ok) (v line : Nat) :
    ((s.l2Fill v line).mem.l2w = s.mem.l2w ∧ (s.l2Fill v line).mem.l2e = s.mem.l2e)
      ∧ (∀ ln, ln ≠ line → sameLine s.mem (s.l2Fill v line).mem ln)
      ∧ keptLine s.mem (s.l2Fill v line).mem line ∧ lineOk (s.l2Fill v line).mem line true (s.mem.l2State line).2 := by
  have hl := ((MemSide.l2Ok_iff _).1 h).2 line
  unfold State.l2Fill
  split
  · exact ⟨⟨rfl, rfl⟩, fun ln _ => sameLine.refl _ ln, (sameLine.refl _ line).kept, hl.mono⟩
  · next hv =>
    simp only [Bool.or_eq_true, Bool.not_eq_true', not_or, Bool.not_eq_true] at hv
    have hd : thas s.mem.l2Data line = false := Bool.eq_false_iff.2 fun g => by
      have := (hl.1 g).2.1
      exact absurd (this.symm.trans hv.1) (by simp)
    have hk : thas s.mem.l2Key line = false := Bool.eq_false_iff.2 fun g => by simp [hl.2.1 g] at hd
    dsimp only
    split
    · exact ⟨⟨rfl, rfl⟩, fun ln _ => sameLine.refl _ ln, (sameLine.refl _ line).kept, hl.mono⟩
    · refine ⟨⟨rfl, rfl⟩, fun ln g => ⟨⟨by simp [thas_tput, g], tget_tput_ne _ _ _ g⟩, ⟨rfl, rfl⟩, rfl, fun _ _ => rfl⟩, ⟨rfl, fun pa e => ?_⟩, ?_⟩
      · subst e
        simp [MemSide.stored, hk]
      · refine ⟨fun _ => ⟨by simpa using hv.2, rfl, ?_⟩, fun g => absurd (hk.symm.trans g) (by simp), hl.2.2⟩
        simp [MemSide.length_lpLine]

/-- A line brought into its home's L2: it is valid there, and dirty where it was or is to be; every byte stands as it did. -/
theorem State.l2Take_lines {s : State} (h : s.mem.l2Ok) (v line : Nat) (dirty : Bool) :
    (blocksOk false (s.l2Take v line dirty).mem.l2w ∧ blocksOk true (s.l2Take v line dirty).mem.l2e)
      ∧ (∀ ln, keptLine s.mem (s.l2Take v line dirty).mem ln)
      ∧ (∀ ln, ln ≠ line → lineOk (s.l2Take v line dirty).mem ln ((s.l2Take v line dirty).mem.l2State ln).1 ((s.l2Take v line dirty).mem.l2State ln).2)
      ∧ (s.l2Take v line dirty).mem.l2State line = (true, (s.mem.l2State line).2 || dirty)
      ∧ lineOk (s.l2Take v line dirty).mem line true (s.mem.l2State line).2 := by
  obtain ⟨hb, hl⟩ := (MemSide.l2Ok_iff _).1 h
  obtain ⟨f1, f2, f3, f4⟩ := State.l2Fill_lines h v line
  have fs (ln : Nat) : (s.l2Fill v line).mem.l2State ln = s.mem.l2State ln := by rw [MemSide.l2State, MemSide.l2State, f1.1, f1.2]
  obtain ⟨b1, b2⟩ := State.l2Bring_lines (s := s.l2Fill v line) (tag := line / 4) (valid := 2 ^ (line % 4)) (dirty := if dirty then 2 ^ (line % 4) else 0)
    (by rw [f1.1, f1.2]; exact hb) (fun ln g => by rw [fs]; exact (hl ln).of_same (f2 ln fun e => g (by rw [e])))
  have hbit (i : Nat) : bitAt (if dirty then 2 ^ (line % 4) else 0) i = (dirty && decide (line % 4 = i)) := by cases dirty <;> simp [bitAt_two_pow, bitAt_zero]
  refine ⟨b1, fun ln => ?_, fun ln g => ?_, ?_, ?_⟩
  · refine keptLine.trans ?_ (b2 ln).1
    by_cases g : ln = line
    · subst g; exact f3
    · exact (f2 ln g).kept
  · have e := (b2 ln).2
    have ho := (hl ln).of_same (f2 ln g)
    unfold State.l2Take
    split at e
    · next gt =>
      rw [e.1, fs, hbit, bitAt_two_pow, show decide (line % 4 = ln % 4) = false from decide_eq_false (by omega)]
      simpa using ho.of_same e.2
    · rcases e with e | e
      · rw [e.1, fs]; exact ho.of_same e.2
      · rw [e.1]; exact lineOk.of_clean e.2 fun _ => rfl
  · have e := (b2 line).2
    rw [if_pos rfl] at e
    unfold State.l2Take
    rw [e.1, fs, hbit, bitAt_two_pow]
    simp
  · have e := (b2 line).2
    rw [if_pos rfl] at e
    exact f4.of_same e.2

/-- What an operation of device memory may do: nothing but the memory side and what goes to the host differs, the memory keeps its canonical
form, and the L2s go on agreeing with it. -/
def State.OnlyMem (s t : State) : Prop := t = { s with mem := t.mem, hostOut := t.hostOut } ∧ (s.memOk → t.memOk)
/-- One that besides changes no byte. -/
def State.OnlyReads (s t : State) : Prop := s.OnlyMem t ∧ keptMem s t

theorem State.OnlyMem.refl (s : State) : s.OnlyMem s := ⟨rfl, id⟩
theorem State.OnlyMem.trans {s t u : State} (h : s.OnlyMem t) (g : t.OnlyMem u) : s.OnlyMem u :=
  ⟨by rw [g.1, h.1], g.2 ∘ h.2⟩
theorem State.OnlyMem.foldl {α : Type} (f : State → α → State) (hf : ∀ (s : State) a, s.OnlyMem (f s a)) (l : List α) :
    ∀ s : State, s.OnlyMem (l.foldl f s) := by
  induction l with
  | nil => exact fun s => .refl s
  | cons a r ih => exact fun s => (hf s a).trans (ih _)
theorem keptMem.of_alike {s t : State} (h : s.mem.alike t.mem) : keptMem s t := fun _ pa =>
  ⟨(h.same (pa / 64)).kept.2 pa rfl, (h.same (pa / 64)).kept.1⟩
theorem State.OnlyReads.refl (s : State) : s.OnlyReads s := ⟨.refl s, fun _ _ => ⟨rfl, rfl⟩⟩
theorem State.OnlyReads.trans {s t u : State} (h : s.OnlyReads t) (g : t.OnlyReads u) : s.OnlyReads u :=
  ⟨h.1.trans g.1, fun o pa => ⟨((g.2 (h.1.2 o) pa).1).trans (h.2 o pa).1, ((g.2 (h.1.2 o) pa).2).trans (h.2 o pa).2⟩⟩
theorem State.OnlyReads.foldl {α : Type} (f : State → α → State) (hf : ∀ (s : State) a, s.OnlyReads (f s a)) (l : List α) :
    ∀ s : State, s.OnlyReads (l.foldl f s) := by
  induction l with
  | nil => exact fun s => .refl s
  | cons a r ih => exact fun s => (hf s a).trans (ih _)
/-- An update that leaves alone what stands where. -/
theorem State.OnlyReads.of {s : State} (m : MemSide) (o : List HostOut) (h : s.mem.alike m) : s.OnlyReads { s with mem := m, hostOut := o } :=
  ⟨⟨rfl, fun g => ⟨(congrArg Memory.wf h.1).trans g.1, h.l2Ok g.2⟩⟩, .of_alike h⟩
/-- An update of the memory that leaves the L2s alone. -/
theorem State.OnlyMem.ofWf {s : State} (m : MemSide) (h : Memory.wf s.mem.mem = true → Memory.wf m.mem = true) (g : s.mem.l2Ok → m.l2Ok) :
    s.OnlyMem { s with mem := m } := ⟨rfl, fun o => ⟨h o.1, g o.2⟩⟩

theorem State.toHost_only (s : State) (l : List HostOut) : s.OnlyReads (s.toHost l) := by
  unfold State.toHost
  dsimp only
  split <;> exact .of _ _ ⟨rfl, rfl, rfl, rfl, rfl, rfl⟩
theorem State.askLineOf_only (s : State) (line : Nat) (own na : Bool) : s.OnlyReads (s.askLineOf line own na) :=
  (State.OnlyReads.of _ s.hostOut ⟨rfl, rfl, rfl, rfl, rfl, rfl⟩).trans (State.toHost_only _ _)
theorem State.askHost_only (s : State) (line : Nat) (own : Bool) : s.OnlyReads (s.askHost line own) := s.askLineOf_only _ _ _
theorem State.countHint_only (s : State) (east : Bool) : s.OnlyReads (s.countHint east) := by
  unfold State.countHint
  cases east <;> exact .of _ _ ⟨rfl, rfl, rfl, rfl, rfl, rfl⟩
theorem State.dropHost_only (s : State) (line : Nat) : s.OnlyReads (s.dropHost line) := by
  unfold State.dropHost
  split
  · exact .refl s
  · exact (State.OnlyReads.of _ s.hostOut ⟨rfl, rfl, rfl, rfl, rfl, rfl⟩).trans (State.toHost_only _ _)

/-- An operation of the L2s, as a whole: only the memory side differs, and LPDDR6 keeps its form. -/
def State.onlyWf (s t : State) : Prop := t = { s with mem := t.mem, hostOut := t.hostOut } ∧ (Memory.wf s.mem.mem = true → Memory.wf t.mem.mem = true)
theorem State.onlyWf.trans {s t u : State} (h : s.onlyWf t) (g : t.onlyWf u) : s.onlyWf u := ⟨by rw [g.1, h.1], g.2 ∘ h.2⟩
theorem State.onlyWf.foldl {α : Type} (f : State → α → State) (hf : ∀ (s : State) a, s.onlyWf (f s a)) (l : List α) :
    ∀ s : State, s.onlyWf (l.foldl f s) := by
  induction l with
  | nil => exact fun s => ⟨rfl, id⟩
  | cons a r ih => exact fun s => (hf s a).trans (ih _)
theorem State.setL2_wf (s : State) (east : Bool) (l : List L2Sb) : s.onlyWf (s.setL2 east l) := by
  unfold State.setL2
  cases east <;> exact ⟨rfl, id⟩
theorem State.toHost_wf (s : State) (l : List HostOut) : s.onlyWf (s.toHost l) := by
  unfold State.toHost
  dsimp only
  split <;> exact ⟨rfl, id⟩
theorem State.dropHost_wf (s : State) (line : Nat) : s.onlyWf (s.dropHost line) := by
  unfold State.dropHost
  split
  · exact ⟨rfl, id⟩
  · exact State.onlyWf.trans ⟨rfl, id⟩ (State.toHost_wf _ _)
theorem State.l2Drop_wf (s : State) (line : Nat) (d : Bool) : s.onlyWf (s.l2Drop line d) := by
  refine (s.dropHost_wf line).trans ⟨rfl, fun h => ?_⟩
  cases d
  · exact h
  · exact MemSide.wroteBack_wf _ _ h
theorem State.l2Take_wf (s : State) (v line : Nat) (d : Bool) : s.onlyWf (s.l2Take v line d) := by
  have h0 : s.onlyWf (s.l2Fill v line) := by
    unfold State.l2Fill
    split
    · exact ⟨rfl, id⟩
    · refine ⟨rfl, fun h => ?_⟩
      dsimp only
      split <;> exact h
  refine h0.trans ?_
  unfold State.l2Take State.l2Bring
  dsimp only
  split
  · exact State.setL2_wf _ _ _
  · split
    · exact State.setL2_wf _ _ _
    · exact (State.setL2_wf _ _ _).trans (.foldl _ (fun _ _ => State.l2Drop_wf _ _ _) _ _)
theorem State.l2Take_kept (s : State) (v line : Nat) (d : Bool) : keptMem s (s.l2Take v line d) := fun h pa =>
  have k := (State.l2Take_lines h.2 v line d).2.1 (pa / 64)
  ⟨k.2 pa rfl, k.1⟩
/-- A line brought in to be read, and one of host memory. -/
theorem State.l2Take_only (s : State) (v line : Nat) (d : Bool) (hd : d = true → isLpddr (64 * line) = false) : s.OnlyReads (s.l2Take v line d) := by
  have w := s.l2Take_wf v line d
  refine ⟨⟨w.1, fun h => ⟨w.2 h.1, ?_⟩⟩, s.l2Take_kept v line d⟩
  obtain ⟨b, -, o, e, l⟩ := State.l2Take_lines h.2 v line d
  refine (MemSide.l2Ok_iff _).2 ⟨b, fun ln => ?_⟩
  by_cases g : ln = line
  · subst g
    rw [e]
    refine ⟨l.1, l.2.1, l.2.2.trans (and_congr_right fun hl => ?_)⟩
    cases d
    · simp
    · simp [hd rfl] at hl
  · exact o ln g
theorem State.l2Use_only (s : State) (v line : Nat) : s.OnlyReads (s.l2Use v line false) := by
  unfold State.l2Use
  split
  · exact s.l2Take_only _ _ _ (by simp)
  · exact .refl s
theorem State.l2Read_only (s : State) (v line : Nat) (na : Bool) : s.OnlyReads (s.l2Read v line na) := by
  unfold State.l2Read
  split
  · exact s.l2Use_only _ _
  · split
    · exact s.countHint_only _
    · exact .refl s
/-- Bytes of a line of LPDDR6 that the L2 takes, and then holds dirty. -/
theorem MemSide.l2Put_ok {m : MemSide} {k line : Nat} (l : List (Nat × Byte)) (hb : blocksOk false m.l2w ∧ blocksOk true m.l2e)
    (ho : ∀ ln, ln ≠ line → lineOk m ln (m.l2State ln).1 (m.l2State ln).2) (hs : m.l2State line = (true, true)) (hp : isLpddr (64 * line) = true) :
    (m.l2Put k line l).l2Ok := by
  refine (MemSide.l2Ok_iff _).2 ⟨hb, fun ln => ?_⟩
  change lineOk _ ln (m.l2State ln).1 (m.l2State ln).2
  by_cases g : ln = line
  · subst g
    rw [hs]
    refine ⟨fun _ => ⟨hp, rfl, ?_⟩, fun _ => ?_, ?_⟩
    · simp [MemSide.l2Put, length_overLine, MemSide.length_lpLine]
    · simp [MemSide.l2Put, thas_tput]
    · simp [MemSide.l2Put, thas_tput, hp]
  · exact (ho ln g).of_same ⟨⟨by simp [MemSide.l2Put, thas_tput, g], tget_tput_ne _ _ _ g⟩, ⟨by simp [MemSide.l2Put, thas_tput, g], tget_tput_ne _ _ _ g⟩,
      rfl, fun _ _ => rfl⟩
/-- Bytes of a line of LPDDR6, and of host memory, written at the home. -/
theorem State.lpWrite_only (s : State) (v line : Nat) (na : Bool) (l : List (Nat × Byte)) (hp : isLpddr (64 * line) = true) :
    s.OnlyMem (s.lpWrite v line na l) := by
  unfold State.lpWrite
  dsimp only
  split
  · have w := s.l2Take_wf v line true
    refine ⟨by rw [w.1], fun h => ⟨w.2 h.1, ?_⟩⟩
    obtain ⟨b, -, o, e, -⟩ := State.l2Take_lines h.2 v line true
    exact MemSide.l2Put_ok l b o (by rw [e]; simp) hp
  · split
    · exact .ofWf _ (memPuts_wf _ _ _) fun h => h.congr rfl rfl rfl rfl
    · next e =>
      refine .ofWf _ (memPuts_wf _ _ _) fun h => ?_
      obtain ⟨hb, hl⟩ := (MemSide.l2Ok_iff _).1 h
      refine (MemSide.l2Ok_iff _).2 ⟨hb, fun ln => ?_⟩
      change lineOk _ ln (s.mem.l2State ln).1 (s.mem.l2State ln).2
      by_cases g : ln = line
      · subst g
        refine lineOk.of_clean ⟨by simp [MemSide.l2Same, MemSide.dramPut, thas_tdel], by simp [MemSide.l2Same, MemSide.dramPut, thas_tdel]⟩ fun _ => ?_
        exact congrArg Prod.snd e
      · have d := MemSide.l2Same_other (s.mem.dramPut (s.keyOf v) line (overLine line (s.mem.lpLine (s.keyOf v) line) l)) g
        exact (show lineOk (s.mem.dramPut (s.keyOf v) line _) ln _ _ from hl ln).of_same d
    · next e =>
      refine State.OnlyMem.trans (State.OnlyMem.ofWf (s.mem.l2Put (s.keyOf v) line l) id fun h => ?_) (State.countHint_only _ _).1
      obtain ⟨hb, hl⟩ := (MemSide.l2Ok_iff _).1 h
      exact MemSide.l2Put_ok l hb (fun ln _ => hl ln) e hp
theorem State.hostWrite_only (s : State) (line : Nat) (na : Bool) (l : List (Nat × Byte)) (hp : isLpddr (64 * line) = false) :
    s.OnlyReads (s.hostWrite line na l) := by
  have own : s.OnlyReads (if s.mem.hostDirty.contains line = true then s else s.toHost [.cacheOwn (64 * line)]) := by
    split
    · exact .refl s
    · exact s.toHost_only _
  unfold State.hostWrite
  dsimp only
  split
  · generalize (if s.mem.hostDirty.contains line = true then s else s.toHost [.cacheOwn (64 * line)]) = s1 at own ⊢
    have put (m : MemSide) (h : s1.mem.alike m) : s.OnlyReads { s1 with mem := m } := own.trans (.of m s1.hostOut h)
    split
    · exact (put _ ⟨rfl, rfl, rfl, rfl, rfl, rfl⟩).trans (State.l2Take_only _ _ _ _ fun _ => hp)
    · split
      · exact (put _ ⟨rfl, rfl, rfl, rfl, rfl, rfl⟩).trans (State.countHint_only _ _)
      · exact (put _ ⟨rfl, rfl, rfl, rfl, rfl, rfl⟩).trans (State.toHost_only _ _)
  · exact (s.askLineOf_only line true na).trans (.of _ _ ⟨rfl, rfl, rfl, rfl, rfl, rfl⟩)
theorem isLpddr_of_host {a : Nat} (h : isHost a = true) : isLpddr a = false := by
  have h1 := (of_decide_eq_true h).1
  exact decide_eq_false (Nat.not_lt.2 (Nat.le_trans (by decide) h1))
/-- A group of bytes at the home. -/
theorem State.homeWrite_only (s : State) (v : Nat) (na : Nat → Bool) (l : List (Nat × Byte)) : s.OnlyMem (s.homeWrite v na l) := by
  refine State.OnlyMem.trans (.foldl _ (fun st ln => ?_) _ s) (.ofWf _ id fun h => h.congr rfl rfl rfl rfl)
  split
  · next h => exact st.lpWrite_only _ _ _ _ h
  · split
    · next h => exact (st.hostWrite_only _ _ _ (isLpddr_of_host h)).1
    · exact .refl st
theorem State.homePuts_only (s : State) (v : Nat) (l : List (Nat × Byte)) : s.OnlyMem (s.homePuts v l) := s.homeWrite_only v _ l
theorem State.walked_only (s : State) (v va : Nat) : s.OnlyReads (s.walked v va) := by
  refine .foldl _ (fun st a => ?_) _ _
  split
  · exact .refl st
  · exact st.l2Use_only _ _
/-- Serving a light fault, and the sequencer's accesses. -/
theorem State.serveLight_only (s : State) (v entry : Nat) (w : Bool) : s.OnlyMem (s.serveLight v entry w) := s.homePuts_only _ _
theorem State.seqBytes_only (v : Nat) (a : Acc) : ∀ (n va : Nat) (s : State), s.OnlyMem (s.seqBytes v a va n).1
  | 0, _, s => .refl s
  | n + 1, va, s => by
    have ih := State.seqBytes_only v a n ((va + 1) % 2 ^ 48)
    unfold State.seqBytes
    dsimp only
    generalize hs : (if va % 65536 = 0 then s.walked v va else s) = s0
    have h0 : s.OnlyMem s0 := by
      subst hs
      split
      · exact (s.walked_only v va).1
      · exact .refl s
    refine h0.trans ?_
    have go (s1 : State) (h1 : s0.OnlyMem s1) (r : Tr) : s0.OnlyMem (match r with
        | .ok pa _ =>
          match (s1.seqBytes v a ((va + 1) % 2 ^ 48) n).2 with
          | .ok l => ((s1.seqBytes v a ((va + 1) % 2 ^ 48) n).1, Except.ok (pa :: l))
          | .error e => ((s1.seqBytes v a ((va + 1) % 2 ^ 48) n).1, .error e)
        | .fault c => (s1, .error (.fault va c))
        | .light _ _ => (s1, .error (.fault va 9))
        | .away l => (s1.askHost l false, .error (.away l)) : State × Except Stop (List Nat)).1 := by
      cases r with
      | ok pa l => dsimp only; split <;> exact h1.trans (ih s1)
      | fault c => exact h1
      | light e w => exact h1
      | away l => exact h1.trans (s1.askHost_only l false).1
    cases s0.translate v 0 a va with
    | light e w => exact go _ (s0.serveLight_only v e w) _
    | ok pa l => exact go s0 (.refl s0) (.ok pa l)
    | fault c => exact go s0 (.refl s0) (.fault c)
    | away l => exact go s0 (.refl s0) (.away l)
theorem State.seqTouch_only (s : State) (v : Nat) (a : Acc) (va n : Nat) : s.OnlyMem (s.seqTouch v a va n).1 :=
  (s.walked_only v va).1.trans (State.seqBytes_only v a n va _)
theorem State.seqRead_only (s : State) (v va n : Nat) : s.OnlyMem (s.seqRead v va n).1 := by
  have h := s.seqTouch_only v .seqRead va n
  unfold State.seqRead
  split
  · next e => rw [e] at h; exact h
  · next e =>
    rw [e] at h
    split
    · exact h.trans (.foldl _ (fun _ _ => (State.l2Use_only _ _ _).1) _ _)
    · exact h.trans (.foldl _ (fun _ _ => (State.askHost_only _ _ _).1) _ _)
theorem State.seqWrite_only (s : State) (v va : Nat) (l : List Byte) : s.OnlyMem (s.seqWrite v va l).1 := by
  have h := s.seqTouch_only v .seqWrite va l.length
  unfold State.seqWrite
  dsimp only
  split
  · exact h.trans (State.homePuts_only _ _ _)
  · exact h

/-- The same facts as the callers use them. -/
theorem State.homePuts_memOk {s : State} (v : Nat) (l : List (Nat × Byte)) (h : s.memOk) : (s.homePuts v l).memOk := (s.homePuts_only v l).2 h
theorem State.homePuts_rest (s : State) (v : Nat) (l : List (Nat × Byte)) :
    s.homePuts v l = { s with mem := (s.homePuts v l).mem, hostOut := (s.homePuts v l).hostOut } := (s.homePuts_only v l).1
theorem State.seqRead_memOk {s : State} (v va n : Nat) (h : s.memOk) : (s.seqRead v va n).1.memOk := (s.seqRead_only v va n).2 h
theorem State.seqRead_rest (s : State) (v va n : Nat) :
    (s.seqRead v va n).1 = { s with mem := (s.seqRead v va n).1.mem, hostOut := (s.seqRead v va n).1.hostOut } := (s.seqRead_only v va n).1
theorem State.seqWrite_memOk {s : State} (v va : Nat) (l : List Byte) (h : s.memOk) : (s.seqWrite v va l).1.memOk := (s.seqWrite_only v va l).2 h
theorem State.seqWrite_rest (s : State) (v va : Nat) (l : List Byte) :
    (s.seqWrite v va l).1 = { s with mem := (s.seqWrite v va l).1.mem, hostOut := (s.seqWrite v va l).1.hostOut } := (s.seqWrite_only v va l).1

end Sys2Proof.Machine
end

