-- ==== Sys2Proof/Laws/Operands.lean ====
section
/-! SUPPORT. What retiring with a result does: one lemma for each shared form of the control core. -/

namespace Sys2Proof.Machine

@[simp] theorem State.rS_modMyCtx (s : State) (f : Ctx → Ctx) (r : BitVec 5) : (s.modMyCtx f).rS r = (f s.myCtx).getS r := by
  simp [State.rS]
theorem State.rS_eq (s : State) (r : BitVec 5) : s.rS r = s.myCtx.getS r := rfl

theorem State.advance_eq (s : State) (n : Nat) : s.advance n = s.modMyCtx fun c => c.goto (c.pc + BitVec.ofNat 48 n) := rfl
theorem State.result_eq (s : State) (n : Nat) (d : BitVec 5) (v : Word64) :
    s.result n d v = s.modMyCtx fun c => (c.setS d v).goto (c.pc + BitVec.ofNat 48 n) := by
  simp [State.result, State.wS, State.advance]
theorem State.resultP_eq (s : State) (n : Nat) (d : BitVec 4) (v : Bool) :
    s.resultP n d v = s.modMyCtx fun c => (c.setP d v).goto (c.pc + BitVec.ofNat 48 n) := by
  simp [State.resultP, State.wP, State.advance]

theorem onlyCtx_modMyCtx (s : State) (f : Ctx → Ctx) : onlyCtx s (s.modMyCtx f) := by
  simp [onlyCtx, State.modMyCtx, State.myCtx, State.modMyBank, State.modBank, State.myBank]
theorem onlyBank_modMyBank (s : State) (f : Bank → Bank) : onlyBank s (s.modMyBank f) := by
  simp [onlyBank, State.modMyBank, State.myBank, State.modBank]
theorem onlyBraid_modMyBraid (s : State) (f : Braid → Braid) : onlyBraid s (s.modMyBraid f) := by
  simp [onlyBraid, State.modMyBraid, State.myBraid, State.modBraid]

/-- Advancing does nothing else. -/
theorem advance_skipped (s : State) (n : Nat) : skipped s (s.advance n) n := by
  refine ⟨onlyCtx_modMyCtx s _, ?_, ?_, ?_⟩
  · simp [retired, retiredAt, State.advance]
  · intro r; simp [State.advance, State.rS_eq]
  · intro r; simp [State.advance]

/-- Retiring with a scalar result writes that register and advances. -/
theorem result_spec (s : State) (n : Nat) (d : BitVec 5) (v : Word64) : Machine.result s (s.result n d v) n d v := by
  rw [State.result_eq]
  refine ⟨onlyCtx_modMyCtx s _, ?_, ?_, ?_⟩
  · simp [retired, retiredAt]
  · intro r; rw [State.rS_modMyCtx, Ctx.getS_goto, Ctx.getS_setS]; rfl
  · intro r; simp

/-- Retiring with a predicate result writes that predicate and advances. -/
theorem resultP_spec (s : State) (n : Nat) (d : BitVec 4) (v : Bool) : Machine.resultP s (s.resultP n d v) n d v := by
  rw [State.resultP_eq]
  refine ⟨onlyCtx_modMyCtx s _, ?_, ?_, ?_⟩
  · simp [retired, retiredAt]
  · intro r; simp [State.rS_eq]
  · intro r; rw [State.myCtx_modMyCtx, Ctx.getP_goto, Ctx.getP_setP]

/-- A guarded instruction: its effect under a true guard, else only the pc's advance (R19). -/
theorem guarded_spec (g : BitVec 4) (n : Nat) (s : State) (f : State → State) (Q : State → Prop) (h : s.myCtx.getP g = true → Q (f s)) :
    ∃ t, guarded g n s f = .next t ∧ if s.myCtx.getP g then Q t else skipped s t n := by
  refine ⟨_, rfl, ?_⟩
  split
  · next hg => exact h hg
  · exact advance_skipped s n

/-- An instruction whose meaning is a guarded effect completes as that effect says. -/
theorem completes_of {i : Instr} {g : BitVec 4} {n : Nat} {s : State} {f : State → State} {Q : State → Prop}
    (h : exec i s = guarded g n s f) (hq : s.myCtx.getP g = true → Q (f s)) : completes i g n s Q := by
  unfold completes; rw [h]; exact guarded_spec g n s f Q hq

/-- The register forms write their function of the operands. -/
theorem aluRR_spec (g : BitVec 4) (n : Nat) (d a b : BitVec 5) (f : Word64 → Word64 → Word64) (s : State) (v : Word64)
    (hv : f (s.rS a) (s.rS b) = v) :
    ∃ t, aluRR g n d a b f s = .next t ∧ if s.myCtx.getP g then Machine.result s t n d v else skipped s t n :=
  guarded_spec g n s _ (Machine.result s · n d v) fun _ => hv ▸ result_spec s n d _
theorem aluRRD_spec (g : BitVec 4) (n : Nat) (d a b : BitVec 5) (f : Word64 → Word64 → Word64 → Word64) (s : State) (v : Word64)
    (hv : f (s.rS a) (s.rS b) (s.rS d) = v) :
    ∃ t, aluRRD g n d a b f s = .next t ∧ if s.myCtx.getP g then Machine.result s t n d v else skipped s t n :=
  guarded_spec g n s _ (Machine.result s · n d v) fun _ => hv ▸ result_spec s n d _
theorem aluD_spec (g : BitVec 4) (n : Nat) (d : BitVec 5) (f : Word64 → Word64) (s : State) (v : Word64) (hv : f (s.rS d) = v) :
    ∃ t, aluD g n d f s = .next t ∧ if s.myCtx.getP g then Machine.result s t n d v else skipped s t n :=
  guarded_spec g n s _ (Machine.result s · n d v) fun _ => hv ▸ result_spec s n d _
theorem cmpRR_spec (g pd : BitVec 4) (a b : BitVec 5) (f : Word64 → Word64 → Bool) (s : State) (v : Bool) (hv : f (s.rS a) (s.rS b) = v) :
    ∃ t, cmpRR g pd a b f s = .next t ∧ if s.myCtx.getP g then Machine.resultP s t 4 pd v else skipped s t 4 :=
  guarded_spec g 4 s _ (Machine.resultP s · 4 pd v) fun _ => hv ▸ resultP_spec s 4 pd _
theorem cmpRI_spec (g pd : BitVec 4) (a : BitVec 3) (imm : BitVec 11) (f : Word64 → Word64 → Bool) (s : State) (v : Bool)
    (hv : f (s.rS (a.setWidth 5)) (sext11 imm) = v) :
    ∃ t, cmpRI g pd a imm f s = .next t ∧ if s.myCtx.getP g then Machine.resultP s t 4 pd v else skipped s t 4 :=
  guarded_spec g 4 s _ (Machine.resultP s · 4 pd v) fun _ => hv ▸ resultP_spec s 4 pd _
theorem predForm_spec (g pd : BitVec 4) (f : Ctx → Bool) (s : State) (v : Bool) (hv : f s.myCtx = v) :
    ∃ t, predForm g pd f s = .next t ∧ if s.myCtx.getP g then Machine.resultP s t 4 pd v else skipped s t 4 :=
  guarded_spec g 4 s _ (Machine.resultP s · 4 pd v) fun _ => hv ▸ resultP_spec s 4 pd _
theorem fcmp_spec (g pd : BitVec 4) (a b : BitVec 5) (f : Word32 → Word32 → Bool) (s : State) (v : Bool) (hv : f (s.rF a) (s.rF b) = v) :
    ∃ t, fcmp g pd a b f s = .next t ∧ if s.myCtx.getP g then Machine.resultP s t 4 pd v else skipped s t 4 :=
  guarded_spec g 4 s _ (Machine.resultP s · 4 pd v) fun _ => hv ▸ resultP_spec s 4 pd _

/-- The same as claims about an instruction whose meaning has that form. -/
theorem writes_RR {i : Instr} {g : BitVec 4} {n : Nat} {d a b : BitVec 5} {f : Word64 → Word64 → Word64} {s : State} {v : Word64}
    (h : exec i s = aluRR g n d a b f s) (hv : f (s.rS a) (s.rS b) = v) : writes i g n s d v := by
  unfold writes completes; rw [h]; exact aluRR_spec g n d a b f s v hv
theorem writes_RRD {i : Instr} {g : BitVec 4} {n : Nat} {d a b : BitVec 5} {f : Word64 → Word64 → Word64 → Word64} {s : State} {v : Word64}
    (h : exec i s = aluRRD g n d a b f s) (hv : f (s.rS a) (s.rS b) (s.rS d) = v) : writes i g n s d v := by
  unfold writes completes; rw [h]; exact aluRRD_spec g n d a b f s v hv
theorem writes_D {i : Instr} {g : BitVec 4} {n : Nat} {d : BitVec 5} {f : Word64 → Word64} {s : State} {v : Word64}
    (h : exec i s = aluD g n d f s) (hv : f (s.rS d) = v) : writes i g n s d v := by
  unfold writes completes; rw [h]; exact aluD_spec g n d f s v hv
theorem decides_RR {i : Instr} {g pd : BitVec 4} {a b : BitVec 5} {f : Word64 → Word64 → Bool} {s : State} {v : Bool}
    (h : exec i s = cmpRR g pd a b f s) (hv : f (s.rS a) (s.rS b) = v) : decides i g 4 s pd v := by
  unfold decides completes; rw [h]; exact cmpRR_spec g pd a b f s v hv
theorem decides_RI {i : Instr} {g pd : BitVec 4} {a : BitVec 3} {imm : BitVec 11} {f : Word64 → Word64 → Bool} {s : State} {v : Bool}
    (h : exec i s = cmpRI g pd a imm f s) (hv : f (s.rS (a.setWidth 5)) (sext11 imm) = v) : decides i g 4 s pd v := by
  unfold decides completes; rw [h]; exact cmpRI_spec g pd a imm f s v hv
theorem decides_P {i : Instr} {g pd : BitVec 4} {f : Ctx → Bool} {s : State} {v : Bool}
    (h : exec i s = predForm g pd f s) (hv : f s.myCtx = v) : decides i g 4 s pd v := by
  unfold decides completes; rw [h]; exact predForm_spec g pd f s v hv
theorem decides_F {i : Instr} {g pd : BitVec 4} {a b : BitVec 5} {f : Word32 → Word32 → Bool} {s : State} {v : Bool}
    (h : exec i s = fcmp g pd a b f s) (hv : f (s.rF a) (s.rF b) = v) : decides i g 4 s pd v := by
  unfold decides completes; rw [h]; exact fcmp_spec g pd a b f s v hv

/-- A change of the bank's own fields that leaves its contexts alone, then retiring with a scalar result: one change of the bank. -/
theorem bank_result_eq (s : State) (h : Bank → Bank) (hc : ∀ k c, (h k).ctx c = k.ctx c) (n : Nat) (d : BitVec 5) (v : Word64) :
    (s.modMyBank h).result n d v =
      s.modMyBank fun k => (h k).setCtx s.me.2.2 (((k.ctx s.me.2.2).setS d v).goto ((k.ctx s.me.2.2).pc + BitVec.ofNat 48 n)) := by
  rw [State.result_eq]
  unfold State.modMyCtx
  rw [State.modMyBank_modMyBank]
  simp [hc]

/-- Raising flags and warnings and retiring with a scalar result. -/
theorem resultF_spec (s : State) (d : BitVec 5) (v : Word64) (fl : FlagSet) (wa : BitVec 12) :
    resultF s ((s.modMyBank fun k => { k with flagSets := k.flagSets ||| fl, warnSets := k.warnSets ||| wa }).result 4 d v) d v fl wa := by
  rw [bank_result_eq s _ (by intro k c; cases c <;> rfl)]
  refine ⟨⟨onlyBank_modMyBank s _, ?_⟩, ?_, ?_, ?_⟩
  · simp [State.myCtx]
  · simp [retired, retiredAt, State.myCtx]
  · intro r; simp [State.rS_eq, State.myCtx, Ctx.getS_setS]
  · intro r; simp [State.myCtx]

/-- The floating-point form: its result word and its flags (R96). -/
theorem writesF_of {i : Instr} {g : BitVec 4} {d a b : BitVec 5} {f : Word32 → Word32 → Word32 → Word32 × FlagSet} {s : State}
    {r : Word32 × FlagSet} (h : exec i s = fpu g d a b f s) (hr : f (s.rF a) (s.rF b) (s.rF d) = r) : writesF i g s d r := by
  unfold writesF completes; rw [h]
  refine guarded_spec g 4 s _ (fun t => resultF s t d (r.1.setWidth 64) r.2 0) fun _ => ?_
  rw [hr]
  have := resultF_spec s d (r.1.setWidth 64) r.2 0
  simpa [State.raiseFlags, Bank.raise] using this

end Sys2Proof.Machine
end

