-- ==== Sys2Proof/Laws/LoadPath.lean ====
section
/-! SUPPORT. What the path of a context access does on braid SRAM, and what it leaves alone of device memory. -/

namespace Sys2Proof.Machine

theorem mem_upto {a n x : Nat} : x ∈ upto a n ↔ a ≤ x ∧ x < a + n := by
  induction n generalizing a with
  | zero => simp [upto]
  | succ n ih => simp [upto, ih]; omega
theorem upto_eq_map (a n : Nat) : upto a n = (List.range n).map (a + ·) := by
  induction n generalizing a with
  | zero => rfl
  | succ n ih => rw [List.range_succ_eq_map, List.map_cons, upto, ih]; simp [Nat.add_assoc, Nat.add_comm 1]

/-- Bytes of braid SRAM need no translation. -/
theorem ctxTouch_local (s : State) (b vi : Nat) (a : Acc) (n : Nat) : ∀ va, va + n ≤ 0x1000000 →
    s.ctxTouch b vi a va n = (s, .ok (List.replicate n none)) := by
  induction n with
  | zero => intro va _; rfl
  | succ n ih =>
    intro va h
    have hl : isLocal va = true := by simp [isLocal]; omega
    rw [State.ctxTouch, hl, Bool.true_or, if_pos rfl, ih (va + 1) (by omega)]
    rfl

theorem find_inMail_none {va n : Nat} (h : ∀ i < n, inMail (va + i) = false) : (upto va n).find? inMail = none := by
  rw [List.find?_eq_none]
  intro x hx
  obtain ⟨h1, h2⟩ := mem_upto.mp hx
  have := h (x - va) (by omega)
  rw [show va + (x - va) = x by omega] at this
  simp [this]

theorem needs_val (l : List Byte) : needs (l.map Src.val) = [] := by
  induction l with
  | nil => rfl
  | cons b r ih => simpa [needs] using ih
theorem values_val (l : List Byte) : values (l.map Src.val) = l := by
  induction l with
  | nil => rfl
  | cons b r ih => simpa [values] using ih
theorem zip_replicate {α β : Type} (l : List α) (x : β) : l.zip (List.replicate l.length x) = l.map fun a => (a, x) := by
  induction l with
  | nil => rfl
  | cons a r ih => simp [List.replicate_succ, ih]

/-- Noting reads changes only what the bank notes of them, and no context. -/
theorem noteRead_eq (k : Bank) (l : List Nat) : ∃ u, l.foldl Bank.noteRead k = { k with unitsRead := u } := by
  induction l generalizing k with
  | nil => exact ⟨k.unitsRead, rfl⟩
  | cons a r ih =>
    rw [List.foldl_cons]
    unfold Bank.noteRead
    simp only
    split
    · exact ih k
    · obtain ⟨u, hu⟩ := ih { k with unitsRead := a / 1024 :: k.unitsRead }
      exact ⟨u, hu⟩
/-- Noting writes changes only what the bank notes of them, and no context. -/
theorem noteWrite_eq (k : Bank) (l : List Nat) : ∃ u w, l.foldl Bank.noteWrite k = { k with inelig := w, unitsWritten := u } := by
  induction l generalizing k with
  | nil => exact ⟨k.unitsWritten, k.inelig, rfl⟩
  | cons a r ih =>
    rw [List.foldl_cons]
    unfold Bank.noteWrite
    simp only
    split
    · exact ih k
    · generalize (k.inelig || k.unitsRead.contains (a / 1024)) = w0
      generalize (if k.unitsWritten.contains (a / 1024) = true then k.unitsWritten else a / 1024 :: k.unitsWritten) = u0
      obtain ⟨u, w, hu⟩ := ih { k with inelig := w0, unitsWritten := u0 }
      exact ⟨u, w, hu⟩

theorem State.modMyBank_modMyBraid_id (s : State) (f : Bank → Bank) : (s.modMyBraid fun y => y).modMyBank f = s.modMyBank f := by
  simp [State.modMyBank, State.modMyBraid, State.modBank, State.setBank, State.bank, State.modBraid, State.me]

/-- A load whose bytes all lie in braid SRAM outside the mailbox, without an error, with no job in the way, reads them as at the start of the cycle
and changes only what the bank notes of reads. -/
theorem ctxRead_local (s : State) (va n sid : Nat) (na : Bool) (h1 : va + n ≤ 0x1000000) (h2 : ∀ i < n, inMail (va + i) = false)
    (h3 : ∀ i < n, s.myBraid.jobHolds s.me.2.1 (va + i) true = false) (h4 : ∀ i < n, va + i ∉ s.myBraid.bad) :
    ∃ u : Bank → List Nat, s.ctxRead va n sid na =
      (s.modMyBank fun k => { k with unitsRead := u k }, some (s.myBraid.sramRead va n)) := by
  obtain ⟨u, hu⟩ : ∃ u : Bank → List Nat, ∀ k, (upto va n).foldl Bank.noteRead k = { k with unitsRead := u k } :=
    ⟨fun k => (noteRead_eq k (upto va n)).choose, fun k => (noteRead_eq k (upto va n)).choose_spec⟩
  refine ⟨u, ?_⟩
  have hj : ((upto va n).any fun a => s.myBraid.jobHolds s.me.2.1 a true) = false := by
    rw [List.any_eq_false]
    intro x hx
    obtain ⟨a, b⟩ := mem_upto.mp hx
    have := h3 (x - va) (by omega)
    rw [show va + (x - va) = x by omega] at this
    simp [this]
  have hz : (upto va n).zip (List.replicate n (none : Option (Nat × Nat))) = (upto va n).map fun a => (a, none) := by
    have := zip_replicate (upto va n) (none : Option (Nat × Nat))
    rwa [upto_length] at this
  have hs (F : Nat × Option (Nat × Nat) → Src) (hF : ∀ a ∈ upto va n, F (a, none) = Src.val (s.myBraid.sramAt a)) :
      ((upto va n).map fun a => (a, (none : Option (Nat × Nat)))).map F = (s.myBraid.sramRead va n).map Src.val := by
    rw [List.map_map, Braid.sramRead, List.map_map]
    exact List.map_congr_left hF
  unfold State.ctxRead
  simp only [find_inMail_none h2]
  change (if ((upto va n).any fun a => s.myBraid.jobHolds s.me.2.1 a true) = true then _ else _) = _
  rw [hj]
  have hb : ((upto va n).find? fun a => isLocal a && (s.braid s.me.1).bad.contains a) = none := by
    rw [List.find?_eq_none]
    intro x hx
    obtain ⟨a, b⟩ := mem_upto.mp hx
    have := h4 (x - va) (by omega)
    rw [show va + (x - va) = x by omega, State.myBraid] at this
    simp [this]
  simp only [Bool.false_eq_true, if_false, ctxTouch_local s _ _ .load n va h1, hb]
  have hf : (List.replicate n (none : Option (Nat × Nat))).filterMap id = [] := by
    rw [List.filterMap_eq_nil_iff]; intro x hx; rw [List.eq_of_mem_replicate hx]; rfl
  have hd : distinct ([] : List Nat) = [] := rfl
  have hm (F : Nat × Option (Nat × Nat) → Option (Nat × Nat × Nat × Bool)) (hF : ∀ a, F (a, none) = none) :
      ((upto va n).map fun a => (a, (none : Option (Nat × Nat)))).filterMap F = [] := by
    rw [List.filterMap_eq_nil_iff]; intro x hx; obtain ⟨a, -, rfl⟩ := List.mem_map.mp hx; exact hF a
  simp only [hz, hf, List.map_nil, List.flatten_nil, hd, State.areaRead, List.isEmpty_nil, if_true, List.foldl_nil]
  rw [hs _ (fun x hx => ?_), needs_val, values_val]
  swap
  · obtain ⟨a, b⟩ := mem_upto.mp hx
    have : isLocal x = true := by simp [isLocal]; omega
    simp [this, State.myBraid]
  rw [hm _ fun _ => rfl]
  simp only [State.consume]
  congr 1
  have hid (f : Bank → Bank) : (if na = true then s else s.modBraid s.me.1 fun y => { y with l1 := y.l1 }).modMyBank f = s.modMyBank f := by
    split
    · rfl
    · exact State.modMyBank_modMyBraid_id s f
  rw [hid]
  congr 1
  funext k
  exact hu k

/-- Writing local bytes one after another is writing them to braid SRAM. -/
theorem foldl_sramPut (F : State → (Nat × Option (Nat × Nat)) × Byte → State)
    (hF : ∀ st a v, a < 0x1000000 → F st ((a, none), v) = st.modMyBraid (·.sramPut a v)) (data : List Byte) : ∀ (s : State) (va : Nat),
    va + data.length ≤ 0x1000000 → data ≠ [] →
    (((upto va data.length).map fun a => (a, (none : Option (Nat × Nat)))).zip data).foldl F s = s.modMyBraid (·.sramPuts va data) := by
  induction data with
  | nil => intro s va _ h; exact absurd rfl h
  | cons v r ih =>
    intro s va h _
    have hl : va < 0x1000000 := by simp only [List.length_cons] at h; omega
    simp only [List.length_cons, upto, List.map_cons, List.zip_cons_cons, List.foldl_cons, hF _ _ _ hl]
    by_cases hr : r = []
    · subst hr; simp [upto, Braid.sramPuts]
    · rw [ih _ (va + 1) (by simp only [List.length_cons] at h; omega) hr, State.modMyBraid_modMyBraid]
      rfl

/-- A store whose bytes all lie in braid SRAM outside the mailbox, with no job in the way, writes them and changes otherwise only
what the bank notes of writes. -/
theorem ctxStore_local (s : State) (va sid : Nat) (na : Bool) (data : List Byte) (h0 : data ≠ []) (h1 : va + data.length ≤ 0x1000000)
    (h2 : ∀ i < data.length, inMail (va + i) = false)
    (h3 : ∀ i < data.length, s.myBraid.jobHolds s.me.2.1 (va + i) false = false) :
    ∃ (u : Bank → List Nat) (w : Bank → Bool), s.ctxStore va sid na data =
      ((s.modMyBraid (·.sramPuts va data)).modMyBank fun k => { k with unitsWritten := u k, inelig := w k }, true) := by
  obtain ⟨u, w, hu⟩ : ∃ (u : Bank → List Nat) (w : Bank → Bool), ∀ k,
      (upto va data.length).foldl Bank.noteWrite k = { k with inelig := w k, unitsWritten := u k } :=
    ⟨fun k => (noteWrite_eq k _).choose, fun k => (noteWrite_eq k _).choose_spec.choose, fun k => (noteWrite_eq k _).choose_spec.choose_spec⟩
  refine ⟨u, w, ?_⟩
  have hj : ((upto va data.length).any fun a => s.myBraid.jobHolds s.me.2.1 a false) = false := by
    rw [List.any_eq_false]
    intro x hx
    obtain ⟨a, b⟩ := mem_upto.mp hx
    have := h3 (x - va) (by omega)
    rw [show va + (x - va) = x by omega] at this
    simp [this]
  have hz : (upto va data.length).zip (List.replicate data.length (none : Option (Nat × Nat))) = (upto va data.length).map fun a => (a, none) := by
    have := zip_replicate (upto va data.length) (none : Option (Nat × Nat))
    rwa [upto_length] at this
  have hf : (List.replicate data.length (none : Option (Nat × Nat))).filterMap id = [] := by
    rw [List.filterMap_eq_nil_iff]; intro x hx; rw [List.eq_of_mem_replicate hx]; rfl
  unfold State.ctxStore
  simp only [find_inMail_none h2]
  change (if ((upto va data.length).any fun a => s.myBraid.jobHolds s.me.2.1 a false) = true then _ else _) = _
  rw [hj]
  simp only [Bool.false_eq_true, if_false, ctxTouch_local s _ _ .store data.length va h1, hf, List.foldl_nil, hz]
  rw [foldl_sramPut _ (fun st a v ha => by simp [isLocal, ha]) data s va h1 h0]
  congr 2
  funext k
  exact hu k

/-- Writing bytes leaves everything of the braid but its SRAM, and what errors stand in it. -/
theorem sramPuts_eq (data : List Byte) : ∀ (x : Braid) (va : Nat), ∃ m w, x.sramPuts va data = { x with sram := m, bad := w } := by
  induction data with
  | nil => intro x va; exact ⟨x.sram, x.bad, rfl⟩
  | cons v r ih =>
    intro x va
    obtain ⟨m, w, hm⟩ := ih (x.sramPut va v) (va + 1)
    refine ⟨m, w, ?_⟩
    rw [Braid.sramPuts, hm]
    unfold Braid.sramPut
    split <;> rfl
/-- The bytes of braid SRAM after a write of several. -/
theorem sramNow_sramPuts (data : List Byte) : ∀ (x : Braid) (va a : Nat), (x.sramPuts va data).sramNow a =
    if va ≤ a ∧ a < va + data.length ∧ a < Config.sramBytes then data.getD (a - va) 0 else x.sramNow a := by
  induction data with
  | nil => intro x va a; rw [if_neg (by simp; omega)]; rfl
  | cons v r ih =>
    intro x va a
    rw [Braid.sramPuts, ih]
    have hp : (x.sramPut va v).sramNow a = if a = va ∧ a < Config.sramBytes then v else x.sramNow a := by
      unfold Braid.sramPut Braid.sramNow
      by_cases h1 : a = va
      · subst h1
        by_cases h2 : a < Config.sramBytes <;> simp [h2]
      · by_cases h2 : va < Config.sramBytes
        · rw [if_pos h2, if_neg (show ¬(a = va ∧ a < Config.sramBytes) from fun h => h1 h.1)]
          simp only [tget_tset_ne _ _ _ h1]
        · rw [if_neg h2, if_neg (show ¬(a = va ∧ a < Config.sramBytes) from fun h => h1 h.1)]
    rw [hp]
    by_cases h : va + 1 ≤ a ∧ a < va + 1 + r.length ∧ a < Config.sramBytes
    · rw [if_pos h, if_pos ⟨by omega, by simp only [List.length_cons]; omega, h.2.2⟩, show a - va = (a - (va + 1)) + 1 by omega]; rfl
    · rw [if_neg h]
      by_cases h2 : a = va ∧ a < Config.sramBytes
      · rw [if_pos h2, if_pos ⟨by omega, by simp only [List.length_cons]; omega, h2.2⟩, h2.1]; simp
      · rw [if_neg h2, if_neg (by simp only [List.length_cons]; omega)]

/-- A read of the overflow area changes no byte. -/
theorem State.areaRead_only (b bank : Nat) (l : List Nat) : ∀ s : State, s.OnlyReads (s.areaRead b bank l).1 := by
  induction l with
  | nil => exact fun s => .refl s
  | cons e r ih =>
    intro s
    unfold State.areaRead
    dsimp only
    split
    · exact ((s.walked_only _ _).trans (.foldl _ (fun st ln => st.l2Use_only _ ln) _ _)).trans (ih _)
    · exact .refl s
    · exact .refl s
    · exact s.askHost_only _ _
/-- Nor does the translation of a context's access; the memory keeps its form. -/
theorem State.ctxTouch_kept (b vi : Nat) (a : Acc) (n : Nat) : ∀ (s : State) (va : Nat),
    (s.memOk → (s.ctxTouch b vi a va n).1.memOk) ∧ keptMem s (s.ctxTouch b vi a va n).1 := by
  have step (s t u : State) (h : (s.memOk → t.memOk) ∧ keptMem s t) (g : (t.memOk → u.memOk) ∧ keptMem t u) : (s.memOk → u.memOk) ∧ keptMem s u :=
    ⟨g.1 ∘ h.1, fun o pa => ⟨(g.2 (h.1 o) pa).1.trans (h.2 o pa).1, (g.2 (h.1 o) pa).2.trans (h.2 o pa).2⟩⟩
  induction n with
  | zero => exact fun s _ => ⟨id, fun _ _ => ⟨rfl, rfl⟩⟩
  | succ n ih =>
    intro s va
    unfold State.ctxTouch
    split
    · exact ih s (va + 1)
    · rcases hq : s.lookup vi b 64 a va (s.braid b).tlb with ⟨r, tlb, hit⟩
      dsimp only
      have w : s.OnlyReads (if hit then s else s.walked vi va) := by
        split
        · exact .refl s
        · exact s.walked_only vi va
      have h0 : (s.memOk → ((if hit then s else s.walked vi va).modBraid b fun x => { x with tlb }).memOk)
          ∧ keptMem s ((if hit then s else s.walked vi va).modBraid b fun x => { x with tlb }) := ⟨w.1.2, w.2⟩
      cases r with
      | ok pa leaf => exact step _ _ _ h0 (ih _ _)
      | fault c => exact h0
      | light e w => exact h0
      | away l => exact step _ _ _ h0 ⟨(State.askHost_only _ _ _).1.2, (State.askHost_only _ _ _).2⟩

end Sys2Proof.Machine
end

