-- ==== Sys2Proof/Laws/Strand.lean ====
section
/-! SUPPORT. What an issue cycle of a strand op can touch, said once for each shared operation of the strands. -/

namespace Sys2Proof.Machine

/-- The strand without the working values of the op in progress. -/
def Strand.plain (t : Strand) : Strand :=
  { t with opened := [], held := [], heldFlags := 0, scaleA := [], scaleB := [], fw := 0, wbAt := [], cbAt := [] }
theorem Strand.leave_plain (t : Strand) (pc : Nat) : t.plain.leave pc = t.leave pc := rfl

theorem plain_fields {t u : Strand} (h : t.plain = u.plain) :
    t.opPc = u.opPc ∧ t.bank = u.bank ∧ t.q = u.q ∧ t.job = u.job ∧ t.nest = u.nest ∧ t.spb = u.spb ∧ t.op = u.op := by
  refine ⟨?_, ?_, ?_, ?_, ?_, ?_, ?_⟩
  · exact (congrArg Strand.opPc h :)
  · exact (congrArg Strand.bank h :)
  · exact (congrArg Strand.q h :)
  · exact (congrArg Strand.job h :)
  · exact (congrArg Strand.nest h :)
  · exact (congrArg Strand.spb h :)
  · exact (congrArg Strand.op h :)

/-- What an op never changes of an open job: its header, its start, the images it took then. -/
def OpenJob.fixed (j : OpenJob) : Job × Nat × Nat × Tab Word32 × Tab Byte := (j.job, j.bank, j.start, j.lpImage, j.sram)

/-- Between `s` and `t` an op of strand `k` has touched nothing but its working values, the bank's notes, drain records and reservations,
and has added the results `l`. -/
structure OpTouch (s t : State) (b k n : Nat) (l : List (Nat × FlagSet × Eff)) : Prop where
  base : t = s ∨ t = s.setBraid b (t.braid b)
  sram : (t.braid b).sram = (s.braid b).sram
  regs : (t.braid b).regs = { (s.braid b).regs with drain := (t.braid b).regs.drain }
  arriving : (t.braid b).arriving = (s.braid b).arriving
  driven : (t.braid b).driven = (s.braid b).driven
  others : ∀ j, j ≠ k → t.strand b j = s.strand b j
  ctxs : ∀ m c, (t.bank b m).ctx c = (s.bank b m).ctx c
  emits : opEmits s t b k n l
  own : (t.strand b k).plain = (s.strand b k).plain
  jobs : (t.braid b).jobsOpen.map OpenJob.fixed = (s.braid b).jobsOpen.map OpenJob.fixed

theorem OpTouch.refl (s : State) (b k n : Nat) : OpTouch s s b k n [] :=
  ⟨.inl rfl, rfl, rfl, rfl, rfl, fun _ _ => rfl, fun _ _ => rfl, by simp [opEmits], rfl, rfl⟩

theorem OpTouch.cycle {s t : State} {b k n : Nat} {l : List (Nat × FlagSet × Eff)} (h : OpTouch s t b k n l) : t.cycle = s.cycle := by
  rcases h.base with e | e <;> rw [e]; rfl

theorem OpTouch.trans {s t u : State} {b k n : Nat} {l m : List (Nat × FlagSet × Eff)} (h : OpTouch s t b k n l) (g : OpTouch t u b k n m) :
    OpTouch s u b k n (l ++ m) := by
  refine ⟨?_, g.sram.trans h.sram, by rw [g.regs, h.regs], g.arriving.trans h.arriving, g.driven.trans h.driven,
    fun j hj => (g.others j hj).trans (h.others j hj), fun m c => (g.ctxs m c).trans (h.ctxs m c), ?_, g.own.trans h.own, g.jobs.trans h.jobs⟩
  · rcases g.base with e | e
    · rw [e]; exact h.base
    · rcases h.base with e' | e'
      · rw [e'] at e; exact .inr e
      · right; rw [e, e']; simp [State.setBraid, State.braid]
  · have e := g.emits
    have f := plain_fields h.own
    simp only [opEmits] at e ⊢
    rw [e, h.emits, f.1, f.2.1]; simp

theorem State.bank_modBank_ctx (s : State) (b i b' j : Nat) (f : Bank → Bank) (c : CtxId) (h : ∀ k : Bank, (f k).ctx c = k.ctx c) :
    ((s.modBank b i f).bank b' j).ctx c = (s.bank b' j).ctx c := by
  rcases Nat.decEq b' b with hb | rfl
  · simp [State.bank, State.modBank, State.setBank, State.modBraid, State.setBraid, State.braid, tget_tput_ne _ _ _ hb]
  · simp only [State.bank, State.modBank, State.setBank, State.modBraid, State.setBraid, State.braid, tget_tput_same]
    simp only [Braid.bank, Braid.setBank]
    split <;> split <;> simp_all

/-- Changing a bank but for its contexts. -/
theorem OpTouch.modBank (s : State) (b k n i : Nat) (f : Bank → Bank) (h : ∀ (x : Bank) c, (f x).ctx c = x.ctx c) :
    OpTouch s (s.modBank b i f) b k n [] := by
  refine ⟨.inr ?_, ?_, ?_, ?_, ?_, ?_, fun m c => State.bank_modBank_ctx s b i b m f c (h · c), ?_, ?_, ?_⟩ <;>
    simp [State.modBank, State.setBank, State.modBraid, State.setBraid, State.braid, State.strand, opEmits]

theorem foldl_ctx {α : Type} (g : Bank → α → Bank) (h : ∀ k a c, (g k a).ctx c = k.ctx c) (l : List α) (k : Bank) (c : CtxId) :
    (l.foldl g k).ctx c = k.ctx c := by
  induction l generalizing k with
  | nil => rfl
  | cons a r ih => rw [List.foldl_cons, ih, h]
theorem Bank.noteReg_ctx (k : Bank) (a : Nat) (c : CtxId) : (k.noteReg a).ctx c = k.ctx c := by
  unfold Bank.noteReg; split <;> cases c <;> rfl
theorem Bank.noteSet_ctx (k : Bank) (a : Nat) (c : CtxId) : (k.noteSet a).ctx c = k.ctx c := by
  unfold Bank.noteSet; split <;> cases c <;> rfl
theorem Bank.noteRead_ctx (k : Bank) (a : Nat) (c : CtxId) : (k.noteRead a).ctx c = k.ctx c := by
  unfold Bank.noteRead
  dsimp only
  split <;> cases c <;> rfl
theorem Bank.noteWrite_ctx (k : Bank) (a : Nat) (c : CtxId) : (k.noteWrite a).ctx c = k.ctx c := by
  unfold Bank.noteWrite
  dsimp only
  split <;> cases c <;> rfl

theorem OpTouch.noteRegs (a : At) (s : State) (l : List Nat) (k n : Nat) : OpTouch s (a.noteRegs s l) a.b k n [] :=
  .modBank _ _ _ _ _ _ fun x c => foldl_ctx _ Bank.noteReg_ctx l x c
theorem OpTouch.noteSets (a : At) (s : State) (l : List Nat) (k n : Nat) : OpTouch s (a.noteSets s l) a.b k n [] :=
  .modBank _ _ _ _ _ _ fun x c => foldl_ctx _ Bank.noteSet_ctx l x c
theorem OpTouch.noteReads (a : At) (s : State) (l : List Nat) (k n : Nat) : OpTouch s (a.noteReads s l) a.b k n [] :=
  .modBank _ _ _ _ _ _ fun x c => foldl_ctx _ Bank.noteRead_ctx l x c
theorem OpTouch.noteWrites (a : At) (s : State) (l : List Nat) (k n : Nat) : OpTouch s (a.noteWrites s l) a.b k n [] :=
  .modBank _ _ _ _ _ _ fun x c => foldl_ctx _ Bank.noteWrite_ctx l x c
theorem OpTouch.warnIf (a : At) (s : State) (w : Bool) (i k n : Nat) : OpTouch s (a.warnIf s w i) a.b k n [] := by
  unfold At.warnIf
  split
  · exact .modBank _ _ _ _ _ _ fun x c => by cases c <;> rfl
  · exact .refl ..

/-- Changing the op's own working values. -/
theorem OpTouch.modStrand (s : State) (b k n : Nat) (f : Strand → Strand) (h : ∀ t : Strand, (f t).plain = t.plain) :
    OpTouch s (s.modStrand b k f) b k n [] := by
  refine ⟨.inr ?_, ?_, ?_, ?_, ?_, ?_, ?_, ?_, ?_, ?_⟩ <;>
    simp +contextual [State.modStrand, Braid.modStrand, State.modBraid, State.setBraid, State.braid, State.strand, State.bank, Braid.bank, opEmits, tmod, tget_tput_ne, h]

/-- The op `a` of strand `k` in job `n` as it stands in `s`. -/
def At.is (a : At) (s : State) (b k n : Nat) : Prop := a = ⟨b, k, (s.strand b k).bank, (s.strand b k).q, s.cycle, n, (s.strand b k).opPc⟩

theorem At.is_of (a : At) {s t : State} {b k n : Nat} {l : List (Nat × FlagSet × Eff)} (h : a.is s b k n) (g : OpTouch s t b k n l) : a.is t b k n := by
  have f := plain_fields g.own
  rw [At.is] at *
  rw [h, f.1, f.2.1, f.2.2.1, g.cycle]

/-- Adding a result. -/
theorem OpTouch.emit (a : At) (s : State) (b k n due : Nat) (fl : FlagSet) (e : Eff) (h : a.is s b k n) :
    OpTouch s (a.emit s due fl e) b k n [(due, fl, e)] := by
  rw [At.is] at h; subst h
  refine ⟨.inr ?_, ?_, ?_, ?_, ?_, ?_, ?_, ?_, ?_, ?_⟩ <;>
    simp [At.emit, State.modBraid, State.setBraid, State.braid, State.strand, State.bank, Braid.bank, opEmits]

/-- Settling a job's reservations or its notes of joined strands and sent packets. -/
theorem OpTouch.modOpen (a : At) (s : State) (k n : Nat) (f : OpenJob → OpenJob) (h : ∀ j, (f j).fixed = j.fixed) :
    OpTouch s (a.modOpen s f) a.b k n [] := by
  refine ⟨.inr ?_, ?_, ?_, ?_, ?_, ?_, ?_, ?_, ?_, ?_⟩
  case refine_10 =>
    simp only [At.modOpen, State.modBraid, State.setBraid, State.braid, tget_tput_same, List.map_map]
    apply List.map_congr_left
    intro j _
    simp only [Function.comp]
    split
    · exact h j
    · rfl
  all_goals simp [At.modOpen, State.modBraid, State.setBraid, State.braid, State.strand, State.bank, Braid.bank, opEmits]

theorem find_fixed (p : Nat → Nat → Bool) : ∀ l m : List OpenJob, l.map OpenJob.fixed = m.map OpenJob.fixed →
    (l.find? fun j => p j.bank j.job.num).map OpenJob.fixed = (m.find? fun j => p j.bank j.job.num).map OpenJob.fixed
  | [], [], _ => rfl
  | [], _ :: _, h => by simp at h
  | _ :: _, [], h => by simp at h
  | a :: l, c :: m, h => by
    simp only [List.map_cons, List.cons.injEq] at h
    have e : a.bank = c.bank ∧ a.job = c.job := by
      have h1 := h.1
      simp only [OpenJob.fixed, Prod.mk.injEq] at h1
      exact ⟨h1.2.1, h1.1⟩
    rw [List.find?_cons, List.find?_cons, e.1, e.2]
    split
    · simp [h.1]
    · exact find_fixed p l m h.2

/-- The open job of an op keeps its header, its start and its images. -/
theorem openJob_touch {s t : State} {b k n : Nat} {l : List (Nat × FlagSet × Eff)} (h : OpTouch s t b k n l) (n' : Nat) :
    (openJob t b k n').map OpenJob.fixed = (openJob s b k n').map OpenJob.fixed := by
  have f := plain_fields h.own
  rw [openJob, openJob, f.2.1]
  exact find_fixed (fun x y => x == (s.strand b k).bank && y == n') _ _ h.jobs

theorem opEnds_of {s t : State} {b k n : Nat} {l : List (Nat × FlagSet × Eff)} (h : OpTouch s t b k n l) (len : Nat) :
    opEnds s (t.modStrand b k fun x => x.leave (x.opPc + 2 * len)) b k len
      ∧ opEmits s (t.modStrand b k fun x => x.leave (x.opPc + 2 * len)) b k n l := by
  have f := plain_fields h.own
  refine ⟨⟨⟨?_, ?_, ?_, ?_, ?_, ?_, ?_⟩, ?_⟩, ?_⟩
  · rcases h.base with e | e
    · rw [e]; simp [State.modStrand, State.modBraid, State.setBraid, State.braid]
    · rw [e]; simp [State.modStrand, State.modBraid, State.setBraid, State.braid]
  · simpa [State.modStrand, Braid.modStrand] using h.sram
  · simpa [State.modStrand, Braid.modStrand] using h.regs
  · simpa [State.modStrand, Braid.modStrand] using h.arriving
  · simpa [State.modStrand, Braid.modStrand] using h.driven
  · intro j hj
    rw [← h.others j hj]
    simp [State.modStrand, Braid.modStrand, State.strand, tmod, tget_tput_ne _ _ _ hj]
  · intro m c
    rw [← h.ctxs m c]
    simp [State.modStrand, Braid.modStrand, State.bank, Braid.bank]
  · rw [← f.1, ← Strand.leave_plain, ← h.own, Strand.leave_plain]
    simp [State.modStrand, Braid.modStrand, State.strand, tmod]
  · simpa [opEmits, State.modStrand, Braid.modStrand] using h.emits

theorem opStays_of {s t : State} {b k n : Nat} {l : List (Nat × FlagSet × Eff)} (h : OpTouch s t b k n l) :
    opStays s (t.modStrand b k fun x => { x with q := x.q + 1 }) b k ∧ opEmits s (t.modStrand b k fun x => { x with q := x.q + 1 }) b k n l := by
  have f := plain_fields h.own
  refine ⟨⟨⟨?_, ?_, ?_, ?_, ?_, ?_, ?_⟩, ?_⟩, ?_⟩
  · rcases h.base with e | e
    · rw [e]; simp [State.modStrand, State.modBraid, State.setBraid, State.braid]
    · rw [e]; simp [State.modStrand, State.modBraid, State.setBraid, State.braid]
  · simpa [State.modStrand, Braid.modStrand] using h.sram
  · simpa [State.modStrand, Braid.modStrand] using h.regs
  · simpa [State.modStrand, Braid.modStrand] using h.arriving
  · simpa [State.modStrand, Braid.modStrand] using h.driven
  · intro j hj
    rw [← h.others j hj]
    simp [State.modStrand, Braid.modStrand, State.strand, tmod, tget_tput_ne _ _ _ hj]
  · intro m c
    rw [← h.ctxs m c]
    simp [State.modStrand, Braid.modStrand, State.bank, Braid.bank]
  · simpa [State.modStrand, Braid.modStrand, State.strand, tmod] using ⟨f.2.2.1, f.2.2.2.2.2.2, f.1, f.2.2.2.2.1, f.2.2.2.2.2.1⟩
  · simpa [opEmits, State.modStrand, Braid.modStrand] using h.emits

/-- An issue cycle of an op: what `f` gives decides whether the op ends, stays or faults (R113, R122). -/
theorem strandForm_spec {s : State} {b k n : Nat} (h : opAt s b k n) (len k' : Nat) (f : State → At → Iss (State × Bool)) :
    strandForm k' len f s = match f s ⟨b, k, (s.strand b k).bank, (s.strand b k).q, s.cycle, n, (s.strand b k).opPc⟩ with
      | .error e => .next (s.strandFault b k e.code (s.strand b k).opPc e.va e.write)
      | .ok (s1, true) => .next (s1.modStrand b k fun t => t.leave (t.opPc + 2 * len))
      | .ok (s1, false) => .next (s1.modStrand b k fun t => { t with q := t.q + 1 }) := by
  obtain ⟨h1, h2⟩ := h
  simp only [strandForm, State.here, h1, h2] <;> rfl

/-- An op whose one issue cycle succeeds. -/
theorem op_ends {s s1 : State} {b k n len k' : Nat} {i : Instr} {f : State → At → Iss (State × Bool)} {l : List (Nat × FlagSet × Eff)}
    (hi : exec i s = strandForm k' len f s) (h : opAt s b k n)
    (hf : f s ⟨b, k, (s.strand b k).bank, (s.strand b k).q, s.cycle, n, (s.strand b k).opPc⟩ = .ok (s1, true)) (ht : OpTouch s s1 b k n l) :
    ∃ t, exec i s = .next t ∧ opEnds s t b k len ∧ opEmits s t b k n l := by
  refine ⟨_, ?_, opEnds_of ht len⟩
  rw [hi, strandForm_spec h, hf]

end Sys2Proof.Machine
end

