-- ==== Sys2Proof/Laws/Vector.lean ====
section
/-! SUPPORT. What the operations the vector ops share do: reading sources, writing the destination, lane by lane results. -/

namespace Sys2Proof.Machine

theorem wordAt_headD (p : List Word32) : p.headD 0 = wordAt p 0 := by cases p <;> rfl
theorem wordAt_tail (p : List Word32) (i : Nat) : wordAt p.tail i = wordAt p (i + 1) := by
  cases p <;> simp [wordAt]
theorem lanesFrom_getD (g : Nat → Word32 → Word32 → Word32 → Word32 × FlagSet) : ∀ n i p q r j, j < n →
    (lanesFrom g n i p q r).getD j (0,0) = g (i + j) (wordAt p j) (wordAt q j) (wordAt r j)
  | 0, _, _, _, _, _, h => by omega
  | n + 1, i, p, q, r, 0, _ => by
    rw [lanesFrom, List.getD_cons_zero, wordAt_headD, wordAt_headD, wordAt_headD]; rfl
  | n + 1, i, p, q, r, j + 1, h => by
    rw [lanesFrom, List.getD_cons_succ, lanesFrom_getD g n (i+1) _ _ _ j (by omega)]
    simp [wordAt_tail]; congr 1; omega
theorem lanesFrom_length (g : Nat → Word32 → Word32 → Word32 → Word32 × FlagSet) : ∀ n i p q r, (lanesFrom g n i p q r).length = n
  | 0, _, _, _, _ => rfl
  | n + 1, i, p, q, r => by simp [lanesFrom, lanesFrom_length g n]
theorem laneFlags_spec (mask : BitVec 192) : ∀ (l : List (Word32 × FlagSet)) (n k : Nat),
    (laneFlags mask n l).getLsbD k = true ↔ ∃ i < l.length, mask.getLsbD (n + i) = true ∧ (l.getD i (0,0)).2.getLsbD k = true
  | [], n, k => by simp [laneFlags]
  | e :: r, n, k => by
    rw [laneFlags, BitVec.getLsbD_or, Bool.or_eq_true, laneFlags_spec mask r (n+1) k]
    constructor
    · rintro (h | ⟨i, hi, h1, h2⟩)
      · refine ⟨0, by simp, ?_⟩
        split at h <;> simp_all
      · exact ⟨i + 1, by simpa using hi, by rw [← h1]; congr 1; omega, by simpa using h2⟩
    · rintro ⟨i, hi, h1, h2⟩
      cases i with
      | zero => left; simp_all
      | succ i => right; exact ⟨i, by simpa using hi, by rw [← h1]; congr 1; omega, by simpa using h2⟩


theorem source_spec {s : State} {b n : Nat} {a : At} (h : a.is s b 3 n) (r : BitVec 5) (l : List Word32) (m : Option Bool)
    (hs : vxSource s b r l m) : ∃ s1, a.source s r = .ok (s1, l, m) ∧ OpTouch s s1 b 3 n [] := by
  have hb : a.b = b := by rw [h]
  have hk : a.k = 3 := by rw [h]
  unfold vxSource at hs
  unfold At.source
  dsimp only
  split at hs
  · next hr =>
    obtain ⟨rfl, rfl⟩ := hs
    rw [if_pos hr, hb]
    exact ⟨_, rfl, hb ▸ OpTouch.noteRegs a s _ 3 n⟩
  · next hr =>
    obtain ⟨x, h1, h2, rfl, rfl⟩ := hs
    rw [if_neg hr]
    refine ⟨s, ?_, .refl ..⟩
    have : a.take s (r.toNat - 16) = .ok x := by
      simp [At.take, At.beat, hb, hk, h1, h2]
    rw [this]; rfl

theorem addend_spec {s : State} {b n : Nat} {a : At} (h : a.is s b 3 n) (r : BitVec 5) :
    ∃ s1, a.addend s r = (s1, vxAddend s b r) ∧ OpTouch s s1 b 3 n [] := by
  have hb : a.b = b := by rw [h]
  have hk : a.k = 3 := by rw [h]
  unfold At.addend vxAddend
  dsimp only
  split
  · exact ⟨_, by rw [hb], hb ▸ OpTouch.noteRegs a s _ 3 n⟩
  · refine ⟨s, ?_, .refl ..⟩
    simp only [At.beat, hb, hk]
    split <;> simp_all

theorem vxSource_touch {s t : State} {b n : Nat} {l} (h : OpTouch s t b 3 n l) (r : BitVec 5) (v : List Word32) (m : Option Bool) :
    vxSource t b r v m = vxSource s b r v m := by
  simp only [vxSource, h.arriving]; rw [h.regs]
theorem vxAddend_touch {s t : State} {b n : Nat} {l} (h : OpTouch s t b 3 n l) (r : BitVec 5) :
    vxAddend t b r = vxAddend s b r := by
  simp only [vxAddend, h.arriving]; rw [h.regs]

/-- Reading the operands of an op gives the lanes of its sources, the addend and the joined marker, and touches only the bank's notes. -/
theorem vxRead_spec {s : State} {b n : Nat} {a : At} (h : a.is s b 3 n) (u : VxUse) (f : VxFrame) (av bv : List Word32) (ma mb m : Option Bool)
    (ha : vxSource s b f.a av ma) (hb : u.readsB = true → vxSource s b f.b bv mb) (hm : if u.readsB then vxMarks ma mb m else m = ma) :
    ∃ s1, a.vxRead s u f = .ok ⟨s1, av, if u.readsB then bv else [], if u.readsD then vxAddend s b f.d else [], m, a.vxRnd s1 f.rnd.toNat⟩
      ∧ OpTouch s s1 b 3 n [] := by
  have ab : a.b = b := by rw [h]
  obtain ⟨s1, e1, t1⟩ := source_spec h f.a av ma ha
  have h1 := a.is_of h t1
  unfold At.vxRead
  rw [e1]
  simp only [bind, Except.bind]
  have fin : ∀ s2, OpTouch s s2 b 3 n [] → ∀ mk bw, ∃ s3,
      (Except.ok { s := a.warnIf (a.warnIf (if u.readsD = true then a.addend s2 f.d else (s2, [])).1 (f.pr && !u.pairs) 9) (f.rnd != 0 && !u.rounds) 10,
                   av := av, bv := bw, cv := (if u.readsD = true then a.addend s2 f.d else (s2, [])).2, mark := mk,
                   rnd := a.vxRnd (a.warnIf (a.warnIf (if u.readsD = true then a.addend s2 f.d else (s2, [])).1 (f.pr && !u.pairs) 9) (f.rnd != 0 && !u.rounds) 10) f.rnd.toNat } : Iss VxIn)
        = .ok ⟨s3, av, bw, if u.readsD then vxAddend s b f.d else [], mk, a.vxRnd s3 f.rnd.toNat⟩ ∧ OpTouch s s3 b 3 n [] := by
    intro s2 t2 mk bw
    obtain ⟨s3, e3, t3⟩ := addend_spec (a.is_of h t2) f.d
    rw [e3]
    have w (x : State) (c : Bool) (j : Nat) : OpTouch x (a.warnIf x c j) b 3 n [] := ab ▸ OpTouch.warnIf a x c j 3 n
    by_cases hd : u.readsD = true
    · simp only [hd, if_true]
      exact ⟨_, by rw [vxAddend_touch t2], ((t2.trans t3).trans (w ..)).trans (w ..)⟩
    · simp only [hd, if_false, Bool.false_eq_true]
      exact ⟨_, rfl, (t2.trans (w ..)).trans (w ..)⟩
  by_cases hu : u.readsB = true
  · rw [if_pos hu] at hm
    obtain ⟨s2, e2, t2⟩ := source_spec h1 f.b bv mb (by rw [vxSource_touch t1]; exact hb hu)
    simp only [hu, if_true, e2]
    have t := t1.trans t2
    rcases hm with ⟨rfl, rfl⟩ | ⟨rfl, rfl⟩ | ⟨rfl, rfl⟩
    · exact fin s2 t m bv
    · cases m with
      | none => exact fin s2 t _ bv
      | some x => exact fin s2 t _ bv
    · cases m with
      | none => exact fin s2 t _ bv
      | some x => simpa using fin s2 t (some x) bv
  · rw [if_neg hu] at hm
    subst hm
    simp only [hu, if_false, Bool.false_eq_true]
    cases m with
    | none => exact fin s1 t1 _ []
    | some x => exact fin s1 t1 _ []

theorem vxWrite_spec {s : State} {b n : Nat} {a : At} (h : a.is s b 3 n) (u : VxUse) (f : VxFrame) (m : Option Bool) (out : List (Word32 × FlagSet))
    (hf : vxFree s b f.d u.lat) :
    ∃ s1, a.vxWrite s u f m out = .ok (s1, true) ∧ OpTouch s s1 b 3 n [(s.cycle + u.lat, laneFlags (vxLanes s b f) 0 out,
      if f.d.toNat < 16 then .vreg f.d.toNat (out.map (·.1)) (vxLanes s b f) else .track (f.d.toNat - 16) (out.map (·.1)) (m.getD false) (vxLanes s b f))] := by
  have ab : a.b = b := by rw [h]
  have an : a.now = s.cycle := by rw [h]
  have em : a.vxMask s f = vxLanes s b f := by simp [At.vxMask, vxLanes, ab]
  have t0 : ∀ c : Bool, OpTouch s (if c = true then a.noteRegs s [regM f.m.toNat] else s) b 3 n [] := by
    intro c; split
    · exact ab ▸ OpTouch.noteRegs ..
    · exact .refl ..
  unfold At.vxWrite
  simp only [em, an]
  have tm := t0 f.me
  have hs := a.is_of h tm
  split
  · next hd =>
    refine ⟨_, rfl, ?_⟩
    have te := OpTouch.emit a _ b 3 n (s.cycle + u.lat) (laneFlags (vxLanes s b f) 0 out) (.vreg f.d.toNat (out.map (·.1)) (vxLanes s b f)) hs
    have tt := tm.trans te
    rcases Bool.eq_false_or_eq_true f.me with hme | hme
    · simp only [hme, if_true] at tt ⊢; exact tt
    · simp only [hme, if_false, Bool.false_eq_true] at tt ⊢
      have tn := OpTouch.noteSets a (a.emit s (s.cycle + u.lat) (laneFlags (vxLanes s b f) 0 out) (.vreg f.d.toNat (out.map (·.1)) (vxLanes s b f))) [regV f.d.toNat] 3 n
      rw [ab] at tn
      exact tt.trans tn
  · next hd =>
    rw [if_neg]
    · refine ⟨_, rfl, ?_⟩
      exact tm.trans (OpTouch.emit a _ b 3 n _ _ _ hs)
    · have hp := tm.emits
      simp only [opEmits, List.map_nil, List.append_nil] at hp
      rw [ab, hp]
      have hf := hf.resolve_left hd
      simp only [List.any_eq_true, not_exists, not_and]
      intro p hpm
      have := hf p hpm
      simp only [Bool.and_eq_true, beq_iff_eq, not_and]
      intro h1
      have h2 := fun q => this ⟨h1.1, h1.2, q⟩
      split
      · next t l k m e =>
        intro he
        exact h2 ⟨l, k, m, by rw [e, beq_iff_eq.mp he]⟩
      · simp

theorem vxRnd_eq {s t : State} {b n : Nat} {a : At} {l} (h : a.is s b 3 n) (ht : OpTouch s t b 3 n l) (f : VxFrame) (i : Nat) :
   { a.vxRnd t f.rnd.toNat with idx := i } = vxRounding s b n f i := by
  have ab : a.b = b := by rw [h]
  have aB : a.bank = (t.strand b 3).bank := by rw [h, (plain_fields ht.own).2.1]
  have aj : a.job = n := by rw [h]
  have e := openJob_touch ht n
  have e' : a.open_ t = openJob t b 3 n := by simp only [At.open_, openJob, ab, aB, aj]
  simp only [At.vxRnd, vxRounding, e']
  congr 1
  revert e
  cases openJob t b 3 n <;> cases openJob s b 3 n <;> simp +contextual [OpenJob.fixed]

theorem vxForm_done {s : State} {b n : Nat} {i : Instr} {u : VxUse} {f : VxFrame} {g : VxIn → List (Word32 × FlagSet)}
    {av bv : List Word32} {ma mb m : Option Bool} {val : Nat → Word32 × FlagSet}
    (hi : exec i s = vxForm u f g s) (h : opAt s b 3 n)
    (ha : vxSource s b f.a av ma) (hb : u.readsB = true → vxSource s b f.b bv mb) (hm : if u.readsB then vxMarks ma mb m else m = ma)
    (hf : vxFree s b f.d u.lat)
    (hg : ∀ x : VxIn, x.av = av → x.bv = (if u.readsB then bv else []) → x.cv = (if u.readsD then vxAddend s b f.d else []) →
      (∀ i, { x.rnd with idx := i } = vxRounding s b n f i) → (g x).length = 192 ∧ ∀ l < 192, (g x).getD l (0,0) = val l) :
    vxDone i u.lat f s b n m val := by
  have hs : (⟨b, 3, (s.strand b 3).bank, (s.strand b 3).q, s.cycle, n, (s.strand b 3).opPc⟩ : At).is s b 3 n := rfl
  generalize he : (⟨b, 3, (s.strand b 3).bank, (s.strand b 3).q, s.cycle, n, (s.strand b 3).opPc⟩ : At) = a at hs
  obtain ⟨s1, e1, t1⟩ := vxRead_spec hs u f av bv ma mb m ha hb hm
  have hf1 : vxFree s1 b f.d u.lat := by
    have hp := t1.emits
    simp only [opEmits, List.map_nil, List.append_nil] at hp
    rw [vxFree, hp, t1.cycle]; exact hf
  have hl : vxLanes s1 b f = vxLanes s b f := by rw [vxLanes, t1.regs]; rfl
  obtain ⟨h1, h2⟩ := hg ⟨s1, av, if u.readsB then bv else [], if u.readsD then vxAddend s b f.d else [], m, a.vxRnd s1 f.rnd.toNat⟩ rfl rfl rfl
    (vxRnd_eq hs t1 f)
  obtain ⟨s2, e2, t2⟩ := vxWrite_spec (a.is_of hs t1) u f m (g ⟨s1, av, if u.readsB then bv else [], if u.readsD then vxAddend s b f.d else [], m, a.vxRnd s1 f.rnd.toNat⟩) hf1
  rw [hl, t1.cycle] at t2
  obtain ⟨t, e, x1, x2⟩ := op_ends (len := 2) (hi.trans rfl) h (by rw [he, e1]; simp only [bind, Except.bind]; exact e2) (t1.trans t2)
  refine ⟨t, _, _, e, x1, ?_, ?_, x2⟩
  · intro l hl
    rw [← h2 l hl]
    simp only [wordAt, List.getD_eq_getElem?_getD, List.getElem?_map]
    cases (g _)[l]? <;> rfl
  · intro k
    rw [laneFlags_spec, h1]
    simp only [Nat.zero_add]
    constructor
    · rintro ⟨l, hl, hx⟩; exact ⟨l, hl, by rw [← h2 l hl]; exact hx⟩
    · rintro ⟨l, hl, hx⟩; exact ⟨l, hl, by rw [h2 l hl]; exact hx⟩

theorem lanewise_spec (g : Nat → Word32 → Word32 → Word32 → Word32 × FlagSet) (x : VxIn) :
    (lanewise g x).length = 192 ∧ ∀ l < 192, (lanewise g x).getD l (0,0) = g l (wordAt x.av l) (wordAt x.bv l) (wordAt x.cv l) :=
  ⟨lanesFrom_length .., fun l hl => by rw [lanewise, lanesFrom_getD _ _ _ _ _ _ _ hl, Nat.zero_add]⟩

end Sys2Proof.Machine
end

