-- ==== Sys2Proof/Tests/Slice0.lean ====
section
/-! SUPPORT. Tests: ill-formed terms, words written out from the encoding tables, results that the spec's examples state, and for every
statement with hypotheses a state that meets them. -/

open Sys2Proof Sys2Proof.Machine Sys2Proof.Claims

namespace Sys2Proof.Tests

/-! Ill-formed terms, one for each check of `Instr.wf`. -/

/-- A VX frame in which every field is legal for every VX op. -/
def okFrame : VxFrame := ⟨1, 2, 0, 0, false, false, 0, 0⟩

theorem test_wf_control :
    (Instr.fcvt 0 5 0 false 0 1 2).wf = false ∧ (Instr.fcvt 0 0 11 false 0 1 2).wf = false ∧ (Instr.waitx 0 7 1).wf = false
    ∧ (Instr.bar 0 0).wf = false ∧ (Instr.crr 0 1 24).wf = false ∧ (Instr.crw 0 24 1).wf = false := by decide
theorem test_wf_blocks :
    (Instr.blk 0 false 1 0).wf = false ∧ (Instr.blk 7 false 1 0).wf = false ∧ (Instr.blk 1 false 0 0).wf = false
    ∧ (Instr.blk 1 false 511 0).wf = false ∧ (Instr.blk 1 true 1 16).wf = false ∧ (Instr.blk 6 true 510 15).wf = true := by decide
theorem test_wf_tiles :
    (Instr.mmaBf16 0 1 1 0 false false).wf = false ∧ (Instr.mmaFp16 0 1 1 0 false false).wf = false
    ∧ (Instr.mmaFp8e4 0 2 2 0 false false).wf = false ∧ (Instr.mmaFp8e5 0 2 2 0 false false).wf = false
    ∧ (Instr.mmaCb4 0 3 3 0 false false).wf = false ∧ (Instr.cmmaCbf16 0 6 6 0 false false false false).wf = false
    ∧ (Instr.cmmaCfp16 0 7 7 0 false false false false).wf = false ∧ (Instr.mwl 0 4 0).wf = false ∧ (Instr.mwl 0 5 0).wf = false
    ∧ (Instr.mcb 0 4).wf = false ∧ (Instr.mcb 0 5).wf = false := by decide
theorem test_wf_frames :
    okFrame.common = true ∧ ({ okFrame with d := 20 } : VxFrame).common = false ∧ ({ okFrame with a := 20 } : VxFrame).common = false
    ∧ ({ okFrame with rnd := 5 } : VxFrame).common = false ∧ ({ okFrame with b := 20 } : VxFrame).srcB = false
    ∧ ({ okFrame with b := 1 } : VxFrame).noB = false := by decide
theorem test_wf_vector_two_sources :
    ∀ c ∈ [Instr.vadd, .vsub, .vmul, .vfma, .vmin, .vmax, .vsel, .vcmul, .viadd, .vimul],
      (c { okFrame with b := 20 }).wf = false ∧ (c { okFrame with fn := 1 }).wf = false ∧ (c { okFrame with a := 20 }).wf = false ∧ (c okFrame).wf = true := by
  decide
theorem test_wf_vector_one_source :
    ∀ c ∈ [Instr.vneg, .vabs, .vexp, .vlog, .vrcp, .vrsq, .vmov],
      (c { okFrame with b := 1 }).wf = false ∧ (c { okFrame with fn := 1 }).wf = false ∧ (c { okFrame with rnd := 5 }).wf = false ∧ (c okFrame).wf = true := by
  decide
theorem test_wf_vector_functions :
    (Instr.vcmp { okFrame with d := 4 }).wf = false ∧ (Instr.vcmp { okFrame with fn := 4 }).wf = false ∧ (Instr.vsel { okFrame with me := true }).wf = false
    ∧ (Instr.vcvt { okFrame with fn := 5 }).wf = false ∧ (Instr.vcvt { okFrame with b := 10 }).wf = false ∧ (Instr.vcvt { okFrame with b := 16 }).wf = false
    ∧ (Instr.vcvt { okFrame with b := 23 }).wf = true ∧ (Instr.vact { okFrame with fn := 4 }).wf = false ∧ (Instr.vact { okFrame with b := 1 }).wf = false
    ∧ (Instr.vredSum { okFrame with fn := 2 }).wf = false ∧ (Instr.vredMax { okFrame with b := 1 }).wf = false
    ∧ (Instr.vrot { okFrame with b := 12 }).wf = false ∧ (Instr.vrot { okFrame with b := 11, fn := 15 }).wf = true
    ∧ (Instr.vkey { okFrame with fn := 3 }).wf = false ∧ (Instr.vhist { okFrame with fn := 4 }).wf = false ∧ (Instr.vbit { okFrame with fn := 5 }).wf = false
    ∧ (Instr.vpack { okFrame with fn := 0 }).wf = false ∧ (Instr.vpack { okFrame with fn := 3, d := 16 }).wf = false
    ∧ (Instr.vunpk { okFrame with fn := 9 }).wf = false ∧ (Instr.vunpk { okFrame with fn := 1, b := 4 }).wf = false
    ∧ (Instr.vunpk { okFrame with fn := 1, b := 2 }).wf = false ∧ (Instr.vunpk { okFrame with fn := 1, b := 16 }).wf = false
    ∧ (Instr.vchk false 5 0).wf = false := by decide
theorem test_wf_streams :
    (Instr.ldm 0 8187).wf = false ∧ (Instr.ldc 0 0xBFFFFD).wf = false ∧ (Instr.stm 0 96 0).wf = false ∧ (Instr.stm 0 0 8187).wf = false := by decide
theorem test_wf_events :
    (Instr.opResult 96 false).wf = false ∧ (Instr.flit 96 false true).wf = false ∧ (Instr.returnWord 96 false true).wf = false
    ∧ (Instr.auditFlit 96 false true).wf = false ∧ (Instr.tokenRetry 64 0).wf = false ∧ (Instr.tokenRefuse 64 0).wf = false
    ∧ (Instr.rowRefresh 2 0 []).wf = false ∧ (Instr.l2Scrub 2 0 none).wf = false ∧ (Instr.l2Scrub 1 0 (some 4)).wf = false ∧ (Instr.inFieldTestEnd 96 true).wf = false
    ∧ (Instr.spliceFlit 2 false true).wf = false ∧ (Instr.retrainComplete 5 64 64).wf = false ∧ (Instr.cxlMemRead 64 0 64).wf = false
    ∧ (Instr.cxlMemWrite 64 0 []).wf = false ∧ (Instr.destroy 64).wf = false ∧ (Instr.assign 65 0 1).wf = false ∧ (Instr.migrate 64 0 0 64).wf = false
    ∧ (Instr.holdrel 96).wf = false ∧ (Instr.errbankClear 2 0).wf = false ∧ (Instr.errbankClear 0 32).wf = false ∧ (Instr.ptroot 64 0).wf = false
    ∧ (Instr.tlbsync 64).wf = false ∧ (Instr.registerWrite 65 0 0).wf = false ∧ (Instr.powerGateDecision 96 0).wf = false := by decide
theorem test_wf_events_with_records :
    (Instr.portFrame 2 ⟨0, none, true, true, [], false⟩).wf = false ∧ (Instr.create 64 ⟨0, 0, 1, 1, 0, false, 0⟩).wf = false := by decide

/-! Words written out from the encoding tables, family by family. -/

theorem test_decode_alu_1 :
    decodeCtl [0xF103#16, 0xC03D#16] = .ok (.add 12 2 31 30, 2)
    ∧ decodeCtl [0x5383#16, 0x9076#16] = .ok (.sub 9 7 5 27, 2)
    ∧ decodeCtl [0x2F83#16, 0xE0B8#16] = .ok (.mul 14 31 2 28, 2)
    ∧ decodeCtl [0x7A83#16, 0xB0D3#16] = .ok (.mulh 11 21 23 9, 2)
    ∧ decodeCtl [0x2F83#16, 0xE138#16] = .ok (.mulhz 14 31 2 28, 2)
    ∧ decodeCtl [0x5383#16, 0x9176#16] = .ok (.div 9 7 5 27, 2)
    ∧ decodeCtl [0xA403#16, 0x61A8#16] = .ok (.divz 6 8 10 20, 2)
    ∧ decodeCtl [0xD783#16, 0x11E6#16] = .ok (.rem 1 15 13 19, 2)
    ∧ decodeCtl [0xA403#16, 0x6228#16] = .ok (.remz 6 8 10 20, 2)
    ∧ decodeCtl [0x3083#16, 0xF27A#16] = .ok (.and 15 1 3 29, 2)
    ∧ decodeCtl [0x1983#16, 0xD29F#16] = .ok (.or 13 19 17 15, 2)
    ∧ decodeCtl [0x9583#16, 0x52EE#16] = .ok (.xor 5 11 9 23, 2)
    ∧ decodeCtl [0x2F83#16, 0xE338#16] = .ok (.andn 14 31 2 28, 2)
    ∧ decodeCtl [0x7A83#16, 0xB353#16] = .ok (.shl 11 21 23 9, 2)
    ∧ decodeCtl [0x4303#16, 0x83B4#16] = .ok (.shr 8 6 4 26, 2)
    ∧ decodeCtl [0x2803#16, 0xE3D9#16] = .ok (.sra 14 16 18 12, 2) :=
  ⟨rfl, rfl, rfl, rfl, rfl, rfl, rfl, rfl, rfl, rfl, rfl, rfl, rfl, rfl, rfl, rfl⟩
theorem test_decode_alu_2 :
    decodeCtl [0xF103#16, 0xC43D#16] = .ok (.min 12 2 31 30, 2)
    ∧ decodeCtl [0x9D83#16, 0x544F#16] = .ok (.max 5 27 25 7, 2)
    ∧ decodeCtl [0xFE83#16, 0x3483#16] = .ok (.minz 3 29 31 1, 2)
    ∧ decodeCtl [0x3083#16, 0xF4FA#16] = .ok (.maxz 15 1 3 29, 2)
    ∧ decodeCtl [0xF683#16, 0x3500#16] = .ok (.clz 3 13 15, 2)
    ∧ decodeCtl [0xAC03#16, 0x6541#16] = .ok (.popc 6 24 26, 2)
    ∧ decodeCtl [0x2F83#16, 0xE5B8#16] = .ok (.bfx 14 31 2 28, 2)
    ∧ decodeCtl [0x8503#16, 0x45EC#16] = .ok (.bfi 4 10 8 22, 2)
    ∧ decodeCtl [0x1983#16, 0xD61F#16] = .ok (.sel 13 19 17 15, 2) :=
  ⟨rfl, rfl, rfl, rfl, rfl, rfl, rfl, rfl, rfl⟩
theorem test_decode_immediates :
    decodeCtl [0x0887#16, 0xFDC6#16] = .ok (.addi 15 17 1763, 2)
    ∧ decodeCtl [0x1A07#16, 0xAC4C#16] = .ok (.andi 10 20 1574, 2)
    ∧ decodeCtl [0x2487#16, 0x76F6#16] = .ok (.ori 7 9 891, 2)
    ∧ decodeCtl [0x3087#16, 0xFB66#16] = .ok (.xori 15 1 1459, 2)
    ∧ decodeCtl [0x4107#16, 0xC020#16] = .ok (.shli 12 2 16, 2)
    ∧ decodeCtl [0x5387#16, 0x902A#16] = .ok (.shri 9 7 21, 2)
    ∧ decodeCtl [0x6E87#16, 0x305E#16] = .ok (.srai 3 29 47, 2)
    ∧ decodeCtl [0x010B#16, 0xCB20#16] = .ok (.movi 12 2 1424, 2)
    ∧ decodeCtl [0x1F8B#16, 0x195A#16] = .ok (.movhi 1 31 1197, 2) :=
  ⟨rfl, rfl, rfl, rfl, rfl, rfl, rfl, rfl, rfl⟩
theorem test_decode_compares_and_predicates_1 :
    decodeCtl [0xB18F#16, 0x702A#16] = .ok (.cmpEq 7 3 11 21, 2)
    ∧ decodeCtl [0xE30F#16, 0x2060#16] = .ok (.cmpNe 2 6 14 16, 2)
    ∧ decodeCtl [0xF40F#16, 0xC0BD#16] = .ok (.cmpLt 12 8 31 30, 2)
    ∧ decodeCtl [0xA10F#16, 0x60E8#16] = .ok (.cmpLe 6 2 10 20, 2)
    ∧ decodeCtl [0x460F#16, 0x8134#16] = .ok (.cmpLo 8 12 4 26, 2)
    ∧ decodeCtl [0x460F#16, 0x8155#16] = .ok (.cmpLs 8 12 20 10, 2)
    ∧ decodeCtl [0x1B13#16, 0x207C#16] = .ok (.cmpiEq 2 6 6 62, 2)
    ∧ decodeCtl [0x4D93#16, 0x78B6#16] = .ok (.cmpiNe 7 3 3 1115, 2)
    ∧ decodeCtl [0xB693#16, 0x98AA#16] = .ok (.cmpiLt 9 13 5 1109, 2)
    ∧ decodeCtl [0xDF93#16, 0x343E#16] = .ok (.cmpiLe 3 7 7 543, 2)
    ∧ decodeCtl [0x2493#16, 0xDC63#16] = .ok (.cmpiLo 13 9 1 1585, 2)
    ∧ decodeCtl [0x6493#16, 0xD9C3#16] = .ok (.cmpiLs 13 9 1 1249, 2)
    ∧ decodeCtl [0xF517#16, 0x4014#16] = .ok (.pand 4 10 15 10, 2)
    ∧ decodeCtl [0xF297#16, 0xB04A#16] = .ok (.por 11 5 15 5, 2)
    ∧ decodeCtl [0xA797#16, 0xE09E#16] = .ok (.pxor 14 15 10 15, 2)
    ∧ decodeCtl [0xE217#16, 0xA0C0#16] = .ok (.pnot 10 4 14, 2) :=
  ⟨rfl, rfl, rfl, rfl, rfl, rfl, rfl, rfl, rfl, rfl, rfl, rfl, rfl, rfl, rfl, rfl⟩
theorem test_decode_compares_and_predicates_2 :
    decodeCtl [0xB097#16, 0xF100#16] = .ok (.pmov 15 1 11, 2) :=
  rfl
theorem test_decode_float :
    decodeCtl [0x7A9B#16, 0xB013#16] = .ok (.fadd 11 21 23 9, 2)
    ∧ decodeCtl [0x281B#16, 0xE059#16] = .ok (.fsub 14 16 18 12, 2)
    ∧ decodeCtl [0x5B9B#16, 0x9097#16] = .ok (.fmul 9 23 21 11, 2)
    ∧ decodeCtl [0xCF1B#16, 0xF0C5#16] = .ok (.ffma 15 30 28 2, 2)
    ∧ decodeCtl [0x7A9B#16, 0xB113#16] = .ok (.fmin 11 21 23 9, 2)
    ∧ decodeCtl [0xE61B#16, 0x2160#16] = .ok (.fmax 2 12 14 16, 2)
    ∧ decodeCtl [0x621B#16, 0xA180#16] = .ok (.fabs 10 4 6, 2)
    ∧ decodeCtl [0xF11B#16, 0xC1C1#16] = .ok (.fneg 12 2 31, 2)
    ∧ decodeCtl [0x251B#16, 0xE238#16] = .ok (.fcmpEq 14 10 2 28, 2)
    ∧ decodeCtl [0x909B#16, 0x526E#16] = .ok (.fcmpLt 5 1 9 23, 2)
    ∧ decodeCtl [0x359B#16, 0xF2BA#16] = .ok (.fcmpLe 15 11 3 29, 2)
    ∧ decodeCtl [0xC21B#16, 0xF2C5#16] = .ok (.fcmpUn 15 4 28 2, 2)
    ∧ decodeCtl [0xF69F#16, 0x390E#16] = .ok (.fcvt 3 9 0 true 3 13 15, 2) :=
  ⟨rfl, rfl, rfl, rfl, rfl, rfl, rfl, rfl, rfl, rfl, rfl, rfl, rfl⟩
theorem test_decode_loads_and_stores :
    decodeCtl [0x7AA3#16, 0xB30F#16] = .ok (.ldB 11 true true 7 21 23, 2)
    ∧ decodeCtl [0x9DA3#16, 0x5353#16] = .ok (.ldH 5 true true 9 27 25, 2)
    ∧ decodeCtl [0xBCA3#16, 0x7397#16] = .ok (.ldW 7 true true 11 25 27, 2)
    ∧ decodeCtl [0x2823#16, 0xE3C5#16] = .ok (.ldD 14 true true 2 16 18, 2)
    ∧ decodeCtl [0x94A7#16, 0x522E#16] = .ok (.stB 5 true 9 9 23, 2)
    ∧ decodeCtl [0x73A7#16, 0xB272#16] = .ok (.stH 11 true 7 7 25, 2)
    ∧ decodeCtl [0x52A7#16, 0x92B6#16] = .ok (.stW 9 true 5 5 27, 2)
    ∧ decodeCtl [0xC627#16, 0xF2E4#16] = .ok (.stD 15 true 12 12 18, 2)
    ∧ decodeCtl [0x622B#16, 0xA000#16] = .ok (.ldf 10 4 6, 2)
    ∧ decodeCtl [0xA02B#16, 0x6068#16] = .ok (.ste 6 10 20, 2)
    ∧ decodeCtl [0xA02B#16, 0x6081#16] = .ok (.mbclr 6 26, 2)
    ∧ decodeCtl [0xF12B#16, 0xC0C1#16] = .ok (.mbstat 12 2 31, 2) :=
  ⟨rfl, rfl, rfl, rfl, rfl, rfl, rfl, rfl, rfl, rfl, rfl, rfl⟩
theorem test_decode_atomics :
    decodeCtl [0xFEAF#16, 0x3603#16] = .ok (.amoAdd 3 true true 29 31 1, 2)
    ∧ decodeCtl [0x622F#16, 0xA670#16] = .ok (.amoSwap 10 true true 4 6 24, 2)
    ∧ decodeCtl [0xA42F#16, 0x66A8#16] = .ok (.amoCas 6 true true 8 10 20, 2)
    ∧ decodeCtl [0xFEAF#16, 0x36C3#16] = .ok (.amoMin 3 true true 29 31 1, 2)
    ∧ decodeCtl [0x622F#16, 0xA730#16] = .ok (.amoMax 10 true true 4 6 24, 2)
    ∧ decodeCtl [0xCF2F#16, 0xF745#16] = .ok (.amoAnd 15 true true 30 28 2, 2)
    ∧ decodeCtl [0x19AF#16, 0xD79F#16] = .ok (.amoOr 13 true true 19 17 15, 2)
    ∧ decodeCtl [0xC033#16, 0xFE05#16] = .ok (.redAdd 15 true true true 28 2, 2)
    ∧ decodeCtl [0xC033#16, 0xFE45#16] = .ok (.redMin 15 true true true 28 2, 2)
    ∧ decodeCtl [0x5033#16, 0x9EB6#16] = .ok (.redMax 9 true true true 5 27, 2)
    ∧ decodeCtl [0xD033#16, 0x1EC7#16] = .ok (.redFadd 1 true true true 29 3, 2)
    ∧ decodeCtl [0xE033#16, 0x2F3F#16] = .ok (.redCfadd 2 true true true 30 31, 2)
    ∧ decodeCtl [0x04B7#16, 0x5000#16] = .ok (.fenceS 5 9, 2)
    ∧ decodeCtl [0xE037#16, 0x2041#16] = .ok (.fenceJ 2 30, 2) :=
  ⟨rfl, rfl, rfl, rfl, rfl, rfl, rfl, rfl, rfl, rfl, rfl, rfl, rfl, rfl⟩
theorem test_decode_branches_and_queues :
    decodeCtl [0x6DBB#16, 0xBE88#16] = .ok (.br 11 1904859, 2)
    ∧ decodeCtl [0xF43F#16, 0x8D2D#16] = .ok (.jal 8 1727464, 2)
    ∧ decodeCtl [0xD7C3#16, 0x1C7A#16] = .ok (.jalr 1 15 13 1597, 2)
    ∧ decodeCtl [0xB2C7#16, 0x7000#16] = .ok (.qput 7 5 11, 2)
    ∧ decodeCtl [0x34C7#16, 0x7040#16] = .ok (.qget 7 9 3, 2)
    ∧ decodeCtl [0xA447#16, 0x6080#16] = .ok (.lpw 6 8 10, 2)
    ∧ decodeCtl [0x7047#16, 0xB0C0#16] = .ok (.fmt 11 7, 2)
    ∧ decodeCtl [0x5BCB#16, 0x9001#16] = .ok (.job 9 23 21, 2)
    ∧ decodeCtl [0x804B#16, 0x4040#16] = .ok (.jwait 4 8, 2) :=
  ⟨rfl, rfl, rfl, rfl, rfl, rfl, rfl, rfl, rfl⟩
theorem test_decode_engines_and_domains_1 :
    decodeCtl [0x30CF#16, 0xF006#16] = .ok (.cpin 15 1 3 3, 2)
    ∧ decodeCtl [0x19CF#16, 0xD043#16] = .ok (.cpout 13 19 1 17, 2)
    ∧ decodeCtl [0x304F#16, 0xF084#16] = .ok (.waitx 15 2 3, 2)
    ∧ decodeCtl [0x72D3#16, 0xB000#16] = .ok (.rvin 11 5 7, 2)
    ∧ decodeCtl [0x2853#16, 0xE041#16] = .ok (.rvout 14 16 18, 2)
    ∧ decodeCtl [0x0053#16, 0x4080#16] = .ok (.commit 4, 2)
    ∧ decodeCtl [0x0053#16, 0xC0C0#16] = .ok (.commitSwap 12, 2)
    ∧ decodeCtl [0xC757#16, 0xF000#16] = .ok (.snap 15 14 12, 2)
    ∧ decodeCtl [0xFED7#16, 0x3041#16] = .ok (.fork 3 29 31, 2)
    ∧ decodeCtl [0xF057#16, 0xC0BD#16] = .ok (.rollb 12 31 30, 2)
    ∧ decodeCtl [0xD057#16, 0x10C0#16] = .ok (.freeh 1 13, 2)
    ∧ decodeCtl [0x005B#16, 0x5004#16] = .ok (.bar 5 2, 2)
    ∧ decodeCtl [0xB05B#16, 0x7040#16] = .ok (.task 7 11, 2)
    ∧ decodeCtl [0xA05B#16, 0x60A8#16] = .ok (.gadd 6 10 20, 2)
    ∧ decodeCtl [0xD05B#16, 0x10E6#16] = .ok (.gset 1 13 19, 2)
    ∧ decodeCtl [0x305B#16, 0xF11B#16] = .ok (.gmax 15 19 13, 2) :=
  ⟨rfl, rfl, rfl, rfl, rfl, rfl, rfl, rfl, rfl, rfl, rfl, rfl, rfl, rfl, rfl, rfl⟩
theorem test_decode_engines_and_domains_2 :
    decodeCtl [0x0FDB#16, 0x1140#16] = .ok (.resid 1 31, 2)
    ∧ decodeCtl [0x2FDF#16, 0xE038#16] = .ok (.hmix 14 31 2 28, 2) :=
  ⟨rfl, rfl⟩
theorem test_decode_system :
    decodeCtl [0x9063#16, 0x1016#16] = .ok (.trap 1 361, 2)
    ∧ decodeCtl [0x0063#16, 0xB040#16] = .ok (.rte 11, 2)
    ∧ decodeCtl [0x02E3#16, 0xB082#16] = .ok (.crr 11 5 1, 2)
    ∧ decodeCtl [0x0063#16, 0xC0ED#16] = .ok (.crw 12 22 16, 2)
    ∧ decodeCtl [0x0063#16, 0xC101#16] = .ok (.tsave 12 16, 2)
    ∧ decodeCtl [0x1063#16, 0xD140#16] = .ok (.trstr 13 1, 2)
    ∧ decodeCtl [0x0063#16, 0x5180#16] = .ok (.yield 5, 2)
    ∧ decodeCtl [0x0063#16, 0xC1C0#16] = .ok (.halt 12, 2) :=
  ⟨rfl, rfl, rfl, rfl, rfl, rfl, rfl, rfl⟩
theorem test_decode_short_forms :
    decodeCtl [0x2144#16] = .ok (.cMov 8 10, 1)
    ∧ decodeCtl [0x7C48#16] = .ok (.cAdd 31 2, 1)
    ∧ decodeCtl [0xF46C#16] = .ok (.cAddi 29 35, 1)
    ∧ decodeCtl [0x4A10#16] = .ok (.cLdD 18 16, 1)
    ∧ decodeCtl [0x41D4#16] = .ok (.cStD 14 16, 1)
    ∧ decodeCtl [0x50F8#16] = .ok (.cQput 5 7, 1)
    ∧ decodeCtl [0x147C#16] = .ok (.cQget 5 3, 1)
    ∧ decodeCtl [0x91C1#16] = .ok (.cBr 1166, 1)
    ∧ decodeCtl [0x2905#16] = .ok (.cLpw 10 8, 1)
    ∧ decodeCtl [0x0009#16] = .ok (.cNop, 1) :=
  ⟨rfl, rfl, rfl, rfl, rfl, rfl, rfl, rfl, rfl, rfl⟩
theorem test_decode_strand_control :
    decodeStrand .st [0x00CA#16] = .ok (.idle 202, 1)
    ∧ decodeStrand .st [0xFD55#16, 0xA00C#16] = .ok (.blk 2 true 346 12, 2)
    ∧ decodeStrand .st [0x0400#16] = .ok (.join, 1) :=
  ⟨rfl, rfl, rfl⟩
theorem test_decode_matrix :
    decodeStrand .mx [0x8A5C#16, 0x96EC#16] = .ok (.mmaBf16 2 2 7 2414 true true, 2)
    ∧ decodeStrand .mx [0x8F64#16, 0x06FC#16] = .ok (.mmaFp16 3 3 1 111 true true, 2)
    ∧ decodeStrand .mx [0x939A#16, 0x2B8C#16] = .ok (.mmaFp8e4 3 4 6 8888 true true, 2)
    ∧ decodeStrand .mx [0x95BF#16, 0x1E9C#16] = .ok (.mmaFp8e5 1 5 7 12777 true true, 2)
    ∧ decodeStrand .mx [0x9AD1#16, 0xA4AC#16] = .ok (.mmaCb4 2 6 4 6730 true true, 2)
    ∧ decodeStrand .mx [0x9D2C#16, 0xE7DF#16] = .ok (.cmmaCbf16 1 1 3 3709 true true true true, 2)
    ∧ decodeStrand .mx [0xA3E8#16, 0x77CF#16] = .ok (.cmmaCfp16 3 7 2 1916 true true true true, 2)
    ∧ decodeStrand .mx [0x2780#16] = .ok (.mzero 3 true, 1)
    ∧ decodeStrand .mx [0xA960#16, 0x0000#16] = .ok (.mdrainTrk 1 1 true, 2)
    ∧ decodeStrand .mx [0xAF50#16, 0x0000#16] = .ok (.mdrainSpd 3 2 true, 2)
    ∧ decodeStrand .mx [0xB2A0#16, 0x0000#16] = .ok (.mdrainCp 2 2 true, 2)
    ∧ decodeStrand .mx [0xB6AB#16, 0x6200#16] = .ok (.mwl 1 2 11106, 2)
    ∧ decodeStrand .mx [0xBAC0#16, 0x0000#16] = .ok (.mcb 2 6, 2)
    ∧ decodeStrand .mx [0xBECB#16, 0xD400#16] = .ok (.mstop 45813, 2) :=
  ⟨rfl, rfl, rfl, rfl, rfl, rfl, rfl, rfl, rfl, rfl, rfl, rfl, rfl, rfl⟩
theorem test_decode_scan :
    decodeStrand .sc [0x8B77#16, 0x9580#16] = .ok (.scanD 3 1 true true 3 811, 2)
    ∧ decodeStrand .sc [0x8F7F#16, 0xCF80#16] = .ok (.scanC 3 1 true true 7 927, 2)
    ∧ decodeStrand .sc [0x93B8#16, 0xBE00#16] = .ok (.schunk 3 2 true true 4 380, 2)
    ∧ decodeStrand .sc [0x959D#16, 0xFE00#16] = .ok (.scarry 3 1 true 767, 2)
    ∧ decodeStrand .sc [0x99FB#16, 0x1C00#16] = .ok (.sout 1 7 true 711, 2)
    ∧ decodeStrand .sc [0x9FEF#16, 0x6500#16] = .ok (.slin 3 3 5 true 869, 2) :=
  ⟨rfl, rfl, rfl, rfl, rfl, rfl⟩
theorem test_decode_vector_1 :
    decodeStrand .vx [0x8823#16, 0x4FA0#16] = .ok (.vadd ⟨1, 3, 9, 3, true, true, 2, 0⟩, 2)
    ∧ decodeStrand .vx [0x8C86#16, 0x25A0#16] = .ok (.vsub ⟨4, 6, 4, 2, true, true, 2, 0⟩, 2)
    ∧ decodeStrand .vx [0x9061#16, 0x5B80#16] = .ok (.vmul ⟨3, 1, 11, 1, true, true, 0, 0⟩, 2)
    ∧ decodeStrand .vx [0x9548#16, 0x17C0#16] = .ok (.vfma ⟨10, 8, 2, 3, true, true, 4, 0⟩, 2)
    ∧ decodeStrand .vx [0x9823#16, 0x4FA0#16] = .ok (.vmin ⟨1, 3, 9, 3, true, true, 2, 0⟩, 2)
    ∧ decodeStrand .vx [0x9C86#16, 0x2590#16] = .ok (.vmax ⟨4, 6, 4, 2, true, true, 1, 0⟩, 2)
    ∧ decodeStrand .vx [0xA040#16, 0x0720#16] = .ok (.vneg ⟨2, 0, 0, 3, true, false, 2, 0⟩, 2)
    ∧ decodeStrand .vx [0xA612#16, 0x0510#16] = .ok (.vabs ⟨16, 18, 0, 2, true, false, 1, 0⟩, 2)
    ∧ decodeStrand .vx [0xA865#16, 0x3B03#16] = .ok (.vcmp ⟨3, 5, 7, 1, true, false, 0, 3⟩, 2)
    ∧ decodeStrand .vx [0xAE12#16, 0x6410#16] = .ok (.vsel ⟨16, 18, 12, 2, false, false, 1, 0⟩, 2)
    ∧ decodeStrand .vx [0xB0B1#16, 0x9728#16] = .ok (.vcvt ⟨5, 17, 18, 3, true, false, 2, 8⟩, 2)
    ∧ decodeStrand .vx [0xB569#16, 0x0300#16] = .ok (.vexp ⟨11, 9, 0, 1, true, false, 0, 0⟩, 2)
    ∧ decodeStrand .vx [0xB9CC#16, 0x0720#16] = .ok (.vlog ⟨14, 12, 0, 3, true, false, 2, 0⟩, 2)
    ∧ decodeStrand .vx [0xBE71#16, 0x0300#16] = .ok (.vrcp ⟨19, 17, 0, 1, true, false, 0, 0⟩, 2)
    ∧ decodeStrand .vx [0xC148#16, 0x0720#16] = .ok (.vrsq ⟨10, 8, 0, 3, true, false, 2, 0⟩, 2)
    ∧ decodeStrand .vx [0xC569#16, 0x0313#16] = .ok (.vact ⟨11, 9, 0, 1, true, false, 1, 3⟩, 2) :=
  ⟨rfl, rfl, rfl, rfl, rfl, rfl, rfl, rfl, rfl, rfl, rfl, rfl, rfl, rfl, rfl, rfl⟩
theorem test_decode_vector_2 :
    decodeStrand .vx [0xC886#16, 0x2520#16] = .ok (.vcmul ⟨4, 6, 4, 2, true, false, 2, 0⟩, 2)
    ∧ decodeStrand .vx [0xCDCC#16, 0x0721#16] = .ok (.vredSum ⟨14, 12, 0, 3, true, false, 2, 1⟩, 2)
    ∧ decodeStrand .vx [0xD169#16, 0x0301#16] = .ok (.vredMax ⟨11, 9, 0, 1, true, false, 0, 1⟩, 2)
    ∧ decodeStrand .vx [0xD50A#16, 0x1513#16] = .ok (.vrot ⟨8, 10, 2, 2, true, false, 1, 3⟩, 2)
    ∧ decodeStrand .vx [0xD948#16, 0x0722#16] = .ok (.vkey ⟨10, 8, 0, 3, true, false, 2, 2⟩, 2)
    ∧ decodeStrand .vx [0xDD0A#16, 0x5D23#16] = .ok (.vhist ⟨8, 10, 11, 2, true, false, 2, 3⟩, 2)
    ∧ decodeStrand .vx [0xE52B#16, 0x0720#16] = .ok (.vmov ⟨9, 11, 0, 3, true, false, 2, 0⟩, 2)
    ∧ decodeStrand .vx [0xE948#16, 0x1742#16] = .ok (.vbit ⟨10, 8, 2, 3, true, false, 4, 2⟩, 2)
    ∧ decodeStrand .vx [0xED2B#16, 0x0F30#16] = .ok (.viadd ⟨9, 11, 1, 3, true, false, 3, 0⟩, 2)
    ∧ decodeStrand .vx [0xF169#16, 0x1B10#16] = .ok (.vimul ⟨11, 9, 3, 1, true, false, 1, 0⟩, 2)
    ∧ decodeStrand .vx [0xF4E5#16, 0x3B03#16] = .ok (.vpack ⟨7, 5, 7, 1, true, false, 0, 3⟩, 2)
    ∧ decodeStrand .vx [0xF972#16, 0x9B07#16] = .ok (.vunpk ⟨11, 18, 19, 1, true, false, 0, 7⟩, 2) :=
  ⟨rfl, rfl, rfl, rfl, rfl, rfl, rfl, rfl, rfl, rfl, rfl, rfl⟩
theorem test_decode_load_strand :
    decodeStrand .ld [0x8AE0#16, 0x0000#16] = .ok (.ldt 2 7, 2)
    ∧ decodeStrand .ld [0x8DAC#16, 0x0000#16] = .ok (.ldx 1 5 3, 2)
    ∧ decodeStrand .ld [0x9122#16, 0xB800#16] = .ok (.ldm 1 1111, 2)
    ∧ decodeStrand .ld [0x95AF#16, 0x512C#16] = .ok (.ldc 1 11489580, 2)
    ∧ decodeStrand .ld [0x9BC0#16, 0x0000#16] = .ok (.ldb 3 6, 2) :=
  ⟨rfl, rfl, rfl, rfl, rfl⟩
theorem test_decode_store_strand :
    decodeStrand .st [0x8BC0#16, 0x0000#16] = .ok (.stt 3 6, 2)
    ∧ decodeStrand .st [0x8FE8#16, 0x0000#16] = .ok (.stx 3 3 5, 2)
    ∧ decodeStrand .st [0x9382#16, 0xEE90#16] = .ok (.stm 3 65 3817, 2)
    ∧ decodeStrand .st [0x96E0#16, 0x0000#16] = .ok (.stb 2 7, 2) :=
  ⟨rfl, rfl, rfl, rfl⟩
theorem test_decode_vchk : decodeStrand .vx [0xE000#16, 0x0000#16, 0x2345#16, 0x0001#16] = .ok (.vchk false 0 0x00012345, 4) := rfl
/-- Words the spec prints beside its assembly text. -/
theorem test_decode_printed_words :
    decodeCtl [0x421B#16, 0x000A#16] = .ok (.fadd 0 4 4 5, 2) ∧ decodeCtl [0x21A7#16, 0x008A#16] = .ok (.stW 0 false 3 2 5, 2)
    ∧ decodeCtl [0x22AF#16, 0x0206#16] = .ok (.amoAdd 0 false true 5 2 3, 2) ∧ decodeCtl [0x22AF#16, 0x0046#16] = .ok (.amoSwap 0 false false 5 2 3, 2)
    ∧ decodeCtl [0x2033#16, 0x0206#16] = .ok (.redAdd 0 false false true 2 3, 2) ∧ decodeCtl [0x504F#16, 0x0082#16] = .ok (.waitx 0 1 5, 2)
    ∧ decodeCtl [0x5063#16, 0x0000#16] = .ok (.trap 0 5, 2) ∧ decodeCtl [0x42DF#16, 0x000C#16] = .ok (.hmix 0 5 4 6, 2)
    ∧ decodeCtl [0x8FEC#16] = .ok (.cAddi 3 0x3F, 1) ∧ decodeCtl [0xFEC1#16] = .ok (.cBr 0x7F6, 1) :=
  ⟨rfl, rfl, rfl, rfl, rfl, rfl, rfl, rfl, rfl, rfl⟩
/-- Words with no meaning. -/
theorem test_decode_unassigned :
    (decodeCtl [0x0000#16]).isOk = false ∧ (decodeCtl [0x0003#16, 0x0FC0#16]).isOk = false ∧ (decodeStrand .mx [0xFFFF#16, 0xFFFF#16]).isOk = false
    ∧ (decodeStrand .vx [0x8A80#16, 0x0000#16]).isOk = false := by decide

/-! Small states. -/

/-- A task. -/
def someTask : Task :=
  { tid := 0, vi := 0, launch := 0, entry := 0x600000, m1 := false, m2 := false, m3 := false, phase := 0, bars := [], rank := 0, spawned := false,
    round := none, gain := 0, tvec := 0, wmap := 0, copies := 0, groups := 0, place := 0, gops := 0, areaBase := 0, pins := [], started := 0, from_ := 0, sq := 1 }
/-- An interface on all bands. -/
def someIface : Iface := { mode := 0, first := 0, bands := 12, share := 1, chain := false, nsess := 4, slots := 4 }
/-- Bank 0 of braid 1 as given, its context `c` issuing. -/
def inBank (c : CtxId) (k : Bank) : State :=
  { State.reset with cur := .ctx 1 0 c, braids := [(1, { b0 := k })], ifaces := [(0, someIface)], boot := { step := 9, ready := true } }
/-- A running task's bank whose contexts hold these registers. -/
def taskBank (r : Tab Word64) : Bank := { task := some someTask, mode := .running, l := { s := r }, x := { s := r }, s := { s := r }, t := { s := r } }
/-- A task runs, and its context `c` issues with these registers. -/
def inCtx (c : CtxId) (r : Tab Word64) : State := inBank c (taskBank r)
/-- The state an instruction gives. -/
def after (i : Instr) (s : State) : State :=
  match exec i s with
  | .next t => t
  | _ => State.reset

/-! Results that the spec's text states. -/

/-- R89: DIV of −7 by 2 gives −3, REM −1; DIVZ of 0xFFFFFFFFFFFFFFF9 by 2. -/
theorem test_division_example :
    let s := inCtx .X [(2, -7), (3, 2)]
    (after (.div 0 4 2 3) s).rS 4 = -3 ∧ (after (.rem 0 4 2 3) s).rS 4 = -1 ∧ (after (.divz 0 4 2 3) s).rS 4 = 0x7FFFFFFFFFFFFFFC := by decide
/-- R91: BFX with rs2 = 0x8404 of 0x00F0 writes all ones. -/
theorem test_bfx_example : (after (.bfx 0 4 2 3) (inCtx .X [(2, 0xF0), (3, 0x8404)])).rS 4 = 0xFFFFFFFFFFFFFFFF := by decide
/-- R92: ADDI s3, −1. -/
theorem test_addi_wraps : (after (.addi 0 3 0x7FF) (inCtx .X [])).rS 3 = 0xFFFFFFFFFFFFFFFF := by decide
/-- R94: CMPI.lo p1, s2, −1 is false only for all ones. -/
theorem test_cmpi_lo_minus_one :
    (after (.cmpiLo 0 1 2 0x7FF) (inCtx .X [(2, 0xFFFFFFFFFFFFFFFE)])).myCtx.getP 1 = true
    ∧ (after (.cmpiLo 0 1 2 0x7FF) (inCtx .X [(2, 0xFFFFFFFFFFFFFFFF)])).myCtx.getP 1 = false := by decide
/-- R12: a write of s0 is discarded. -/
theorem test_s0_stays : (after (.movi 0 0 5) (inCtx .X [])).rS 0 = 0 := by decide
/-- R14, R102: a store above the 12 MiB that exist writes nothing. -/
theorem test_unbacked_store : ((after (.stB 0 false 0 2 3) (inCtx .X [(2, 0xC00000), (3, 7)])).braid 1).sram = [] := by decide
/-- R7, R101, R102: ST.w writes least significant byte first; LD.w.z and LD.w of such bytes. -/
theorem test_word_bytes :
    ((after (.stW 0 false 0 2 3) (inCtx .X [(2, 0x100), (3, 0x89ABCDEF)])).braid 1).sram = [(0x100, 0xEF), (0x101, 0xCD), (0x102, 0xAB), (0x103, 0x89)]
    ∧ (let s := (inCtx .X [(2, 0x100)]).modBraid 1 fun x => { x with sram := [(0x100, 0xEF), (0x101, 0xCD), (0x102, 0xAB), (0x103, 0x89)],
                                                                     sramStart := [(0x100, 0xEF), (0x101, 0xCD), (0x102, 0xAB), (0x103, 0x89)] }
       (after (.ldW 0 false true 0 4 2) s).rS 4 = 0x89ABCDEF ∧ (after (.ldW 0 false false 0 4 2) s).rS 4 = 0xFFFFFFFF89ABCDEF) := by decide
/-- R96: 1.5 + 0.25 = 1.75 without a flag; 1 / 3 of nothing else is asked. -/
theorem test_fadd_exact :
    (after (.fadd 0 4 2 3) (inCtx .X [(2, 0x3FC00000), (3, 0x3E800000)])).rS 4 = 0x3FE00000
    ∧ (after (.fadd 0 4 2 3) (inCtx .X [(2, 0x3FC00000), (3, 0x3E800000)])).myBank.flagSets = 0 := by decide
/-- R104: JAL writes the address behind itself. -/
theorem test_jal_links : (after (.jal 0 4) (inBank .X { taskBank [] with x := { pc := 0x600000 } })).rS 1 = 0x600004
    ∧ (after (.jal 0 4) (inBank .X { taskBank [] with x := { pc := 0x600000 } })).myCtx.pc = 0x600008 := by decide
/-- R309: TRAP without a handler is the unhandled-trap fault, code 24. -/
theorem test_trap_unhandled : (after (.trap 0 5) (inCtx .X [])).myBank.causeCode = 24 := by decide
/-- R362: a step from reset begins a cycle. -/
theorem test_reset_steps : (match step State.reset with | .next t => t.boot.step | _ => 0) = 1 := by decide
/-- The step runs the word placed for it: ADDI s3, −1; an op of VX. -/
theorem test_step_runs_placed_words :
    (match step (State.reset.withFetchWord 32 0x0FFE0187) with | .next t => t.rS 3 | _ => 0) = 0xFFFFFFFFFFFFFFFF
    ∧ (decodeTableWord 32 0x0FFE0187) = some (.addi 0 3 0x7FF) ∧ (decodeTableWord 16 0x0009) = some .cNop
    ∧ (decodeTableWord 32 0xD0000000).isSome = true := by decide

/-! States that meet the hypotheses of the statements: the control core. -/

theorem witness_DivisionOutcomes :
    let s := inCtx .X [(2, 7), (3, 2), (4, 0x8000000000000000), (5, 0xFFFFFFFFFFFFFFFF)]
    s.rS 6 = 0 ∧ s.rS 3 ≠ 0 ∧ (s.rS 4 = 0x8000000000000000 ∧ s.rS 5 = 0xFFFFFFFFFFFFFFFF)
    ∧ ¬(s.rS 2 = 0x8000000000000000 ∧ s.rS 3 = 0xFFFFFFFFFFFFFFFF) ∧ ¬(s.rS 4 = 0x8000000000000000 ∧ s.rS 3 = 0xFFFFFFFFFFFFFFFF) := by decide
theorem witness_ScalarFpResults :
    fp32Nan 0x7F800001 ∧ ¬ fp32Nan 0x7F800000 ∧ fp32Inf 0xFF800000 ∧ fp32Zero 0x80000000 ∧ ¬ fp32Inf 0x7F7FFFFF
    ∧ (0xFF800000 : Word32) = 0x7F800000 ^^^ 0x80000000 := by
  unfold fp32Nan fp32Inf fp32Zero; decide
theorem witness_FloatOrderIsSignAndMagnitude : fp32Nan 0xFF800001 ∧ ¬ fp32Nan 0x80000000 ∧ ¬ fp32Nan 0 := by unfold fp32Nan; decide
theorem witness_ConversionsWithAFloat :
    (∃ a b c, Format.ofCode (0#4).toNat = some a ∧ Format.ofCode (8#4).toNat = some b ∧ Rnd.ofCode (2#2).toNat = some c
      ∧ (a.binary.isSome ∨ a.intWidth.isSome) ∧ (b.binary.isSome ∨ b.intWidth.isSome) ∧ a.intWidth = none ∧ b.intWidth = some 16)
    ∧ (Format.ofCode 0).bind Format.binary = some fp32 ∧ (fp32.decode (0x7FC00000 % 2 ^ fp32.width)).isNaN
    ∧ fp32.decode (0x7F800000 % 2 ^ fp32.width) = .inf false ∧ fp32.decode (0xFF800000 % 2 ^ fp32.width) = .inf true :=
  ⟨⟨_, _, _, rfl, rfl, rfl, by decide, by decide, rfl, rfl⟩, by decide, by decide, by decide, by decide⟩
theorem witness_LocalLoadsReadTheirBytes :
    localFree (inCtx .X [(2, 0xFFFFF8)]) 0xFFFFF8 8 true ∧ (inCtx .X []).myCtx.getP 0 = true := by unfold localFree; decide
theorem witness_LocalStoresWriteTheirBytesOnly :
    localFree (inCtx .L [(2, 0xAFFFF8)]) 0xAFFFF8 8 false ∧ localFree (inCtx .L [(2, 0xC00000)]) 0xC00000 1 false := by unfold localFree; decide
theorem witness_MailboxAddressFaults :
    let s := inCtx .X [(2, 0xAFFFFC), (3, 0xBFFFFF), (4, 0xB00002), (5, 0xC00000)]
    (inMail (vaOf s 2 + 4) = true ∧ ∀ j < 4, inMail (vaOf s 2 + j) = false) ∧ (inMail (vaOf s 3 + 0) = true)
    ∧ ¬(0xB00000 ≤ vaOf s 4 ∧ vaOf s 4 < 0xC00000 ∧ vaOf s 4 % 4 = 0) ∧ ¬(0xB00000 ≤ vaOf s 5 ∧ vaOf s 5 < 0xC00000) := by decide
theorem witness_MailboxWordsFillAndEmpty :
    let s := (inCtx .X [(2, 0xBFFFFC), (3, 0xB00000)]).modBraid 1 fun x => { x with full := [(262143, true)], fullStart := [(262143, true)] }
    let w := (vaOf s 2 - 0xB00000) / 4
    let t := s.modBraid 1 fun x => { x with taken := [262143], stored := [0] }
    (0xB00000 ≤ vaOf s 2 ∧ vaOf s 2 < 0xC00000 ∧ vaOf s 2 % 4 = 0 ∧ tget false s.myBraid.fullStart w = true ∧ s.myBraid.taken.contains w = false)
    ∧ (0xB00000 ≤ vaOf s 3 ∧ vaOf s 3 < 0xC00000 ∧ vaOf s 3 % 4 = 0 ∧ tget false s.myBraid.fullStart 0 = false ∧ s.myBraid.stored.contains 0 = false)
    ∧ t.myBraid.taken.contains w = true ∧ t.myBraid.stored.contains 0 = true := by decide

/-- A page of kind `kind` at 0x2000000 of interface 0, known to braid 1's TLB: its leaf, and the state. -/
def farLeaf (kind : Nat) : Nat := 0x1F + 32 * kind + 0x30000 + 2 ^ 48
def farCtx (c : CtxId) (kind : Nat) (r : Tab Word64) : State :=
  { inCtx c r with braids := [(1, { b0 := taskBank r, tlb := [⟨0, 0x2000000, false, farLeaf kind, 0⟩] })], mem := { owner := [(0, 0)] } }
/-- The same with what the issuing context and the braid hold changed. -/
def farWith (s : State) (f : Ctx → Ctx) (g : Braid → Braid) : State := (s.modMyCtx f).modBraid 1 g
theorem witness_FarLoadsAskTheirHomeSlices :
    let s := farCtx .X 2 [(2, 0x2000041)]
    let t := farWith (farCtx .X 2 [(2, 0x200003F)]) (fun c => { c with fills := [(0x30000 / 64, ⟨[1], false⟩)] }) id
    (∃ s1 s2, reaches s .load (vaOf s 2) 1 [(0x30041, farLeaf 2)] s1 ∧ readsArea s s1 [(0x30041, farLeaf 2)] s2 ∧ lacks s (0x30041, farLeaf 2) ∧ s.myCtx.getP 0 = true)
    ∧ (∃ s1 s2, reaches t .load (vaOf t 2) 2 [(0x3003F, farLeaf 2), (0x30040, farLeaf 2)] s1
      ∧ readsArea t s1 [(0x3003F, farLeaf 2), (0x30040, farLeaf 2)] s2 ∧ lacks t (0x30040, farLeaf 2) ∧ supplied t 0 (0x3003F, farLeaf 2)) :=
  ⟨⟨_, _, rfl, rfl, ⟨rfl, rfl, .inr rfl⟩, rfl⟩, ⟨_, _, rfl, rfl, ⟨rfl, rfl, .inr rfl⟩, .inr ⟨0, rfl, rfl, rfl⟩, fun _ => rfl⟩⟩
theorem witness_FarLoadsReadWhatTheyMaySee :
    let s := farWith (farCtx .X 2 [(2, 0x2000041)]) (fun c => { c with fills := [(0x30041 / 64, ⟨[1, 2], false⟩)] }) id
    let t := farWith (farCtx .X 0 [(2, 0x2000041)]) id fun x => { x with merge := [⟨0x30040, [(1, ⟨7, 3, false, .X, false, none, [⟨5, 0, false, .X, false, none⟩]⟩)], 0, false, ⟨0, 0, 1⟩, none⟩] }
    (∃ s1 s2, reaches s .load (vaOf s 2) 1 [(0x30041, farLeaf 2)] s1 ∧ readsArea s s1 [(0x30041, farLeaf 2)] s2 ∧ supplied s 0 (0x30041, farLeaf 2)
      ∧ maySee s 0 (0x30041, farLeaf 2) 2)
    ∧ (∃ s1 s2, reaches t .load (vaOf t 2) 1 [(0x30041, farLeaf 0)] s1 ∧ readsArea t s1 [(0x30041, farLeaf 0)] s2 ∧ supplied t 0 (0x30041, farLeaf 0)
      ∧ maySee t 0 (0x30041, farLeaf 0) 7 ∧ maySee t 0 (0x30041, farLeaf 0) 5) :=
  ⟨⟨_, _, rfl, rfl, ⟨.inr ⟨2, rfl, rfl, rfl⟩, fun _ => rfl⟩, .inr ⟨fun _ h => (List.not_mem_nil h).elim, rfl, rfl, rfl⟩⟩,
    ⟨_, _, rfl, rfl, ⟨.inl ⟨⟨5, 0, false, .X, false, none⟩, .tail _ (.head _), .inr ⟨rfl, .inr (.inl rfl)⟩⟩, fun h => absurd h (by decide)⟩,
      .inl ⟨[], _, _, rfl, fun _ h => (List.not_mem_nil h).elim, rfl⟩,
      .inl ⟨[_], ⟨5, 0, false, .X, false, none⟩, [], rfl, (by unfold mustSee; decide), rfl⟩⟩⟩
theorem witness_FarStoresAreOwnWrites :
    let s := farCtx .X 0 [(2, 0x200003F), (3, 9)]
    ∃ s1, reaches s .store (vaOf s 2) 2 [(0x3003F, farLeaf 0), (0x30040, farLeaf 0)] s1 ∧ ([(0x3003F, farLeaf 0), (0x30040, farLeaf 0)].map Prod.fst).Nodup
      ∧ marksInOrder s ∧ s.myBraid.merge.length + 2 ≤ 2048 ∧ s.myBraid.merge = [] ∧ s.myBank.spilled = [] :=
  ⟨_, rfl, by decide, (by unfold marksInOrder; decide), by decide, rfl, rfl⟩
/-- An event's agent acts on braid 1, whose banks are as given. -/
def onBraid (x y z : Nat) (br : Braid) : State :=
  ({ State.reset with cycle := 20, cur := .agent x y z, ifaces := [(0, someIface)], boot := { step := 9, ready := true } }).setBraid 1 br
/-- Memory with one 2 MiB SYNC page at virtual address 0, physical 0x200000, of interface 0. -/
def mappedIface : Iface := { someIface with ptroot := 0x1000, ptv := true }
def mapped (s : State) (more : Memory) : State :=
  ({ s with ifaces := [(0, mappedIface)] }).setMem
    { mem := [(0x1000, 0x01), (0x1001, 0x20), (0x2000, 0x01), (0x2001, 0x30), (0x3000, 0x7F), (0x3002, 0x20)] ++ more, owner := [(0, 0), (1, 0)] }
/-- That page's kind, and the unit that owns it. -/
def paged (t : State) (leaf unit : Byte) : State := t.setMem { t.mem with mem := tset 0 (tset 0 t.mem.mem 0x3000 leaf) 0x3006 unit }
/-- A launch of braids 1 and 2 as a domain. -/
def someLaunch : Launch := { parseRecord [] 0 0 0 0 0 with phys := [1, 2], issued := true, m1 := true }
theorem witness_StoresSpillAndReadBack :
    let l : MLine := ⟨0x30040, [(1, ⟨7, 0, false, .X, false, none, []⟩)], 0, false, ⟨0, 0, 1⟩, none⟩
    let k : Bank := { taskBank [(2, 0x2000041), (3, 9)] with task := some { someTask with copies := 1 } }
    let at_ (o : Nat) (k : Bank) (merge : List MLine) : State :=
      paged { mapped (farCtx .X 0 []) [] with launches := [{ someLaunch with ovfs := o }], braids := [(1, { b0 := k, merge, tlb := [⟨0, 0x2000000, false, farLeaf 0, 0⟩] })] } 0x1F 1
    let s := at_ 1 k [l]
    let t := at_ 0 k [l]
    let m : MLine := { l with mark := 1, slot := some 0 }
    let u := at_ 1 { k with spilled := [m] } []
    (∃ s1 s2, reaches s .store (vaOf s 2) 1 [(0x30041, farLeaf 0)] s1 ∧ marksInOrder s ∧ (∀ n ∈ s.myBraid.merge ++ s.myBank.spilled, n.pa = 0x30041 / 64 * 64 → n = l)
      ∧ l ∈ s.myBraid.merge ∧ l ∉ s.myBank.spilled ∧ l.mark ≠ s.myBank.mark ∧ s1.areaPut s.me.1 s.me.2.1 s.myBank.freeEntry (lineImage l 0 l.mark) = (s2, none))
    ∧ (∃ s1, reaches t .store (vaOf t 2) 1 [(0x30041, farLeaf 0)] s1 ∧ marksInOrder t ∧ (t.areaOf t.myBank).2 ≤ t.myBank.freeEntry)
    ∧ (∃ s1 s2, reaches u .store (vaOf u 2) 1 [(0x30041, farLeaf 0)] s1 ∧ marksInOrder u ∧ m ∉ u.myBraid.merge ∧ m ∈ u.myBank.spilled ∧ m.mark = u.myBank.mark
      ∧ s1.areaRead u.me.1 u.me.2.1 m.slot.toList = (s2, none)) := by
  unfold marksInOrder
  exact ⟨⟨_, _, rfl, by decide, by decide, by decide, by decide, by decide, rfl⟩, ⟨_, rfl, by decide, by decide⟩, ⟨_, _, rfl, by decide, by decide, by decide, by decide, rfl⟩⟩

theorem witness_AmoRequestsAndRetires :
    let s := farCtx .X 3 [(2, 0x2000040)]
    (∃ s1, translates s .amo (vaOf s 2) 0x30040 (farLeaf 3) s1 ∧ s.myCtx.amoOld = none ∧ s.myCtx.amo = none ∧ leafOlev (farLeaf 3) = 0
      ∧ leafOunit (farLeaf 3) = s.arcNo s.myBank.vi s.me.1 ∧ vaOf s 2 % 8 = 0)
    ∧ (s.modMyCtx fun c => { c with amoOld := some 5 }).myCtx.amoOld = some 5 :=
  ⟨⟨_, ⟨rfl, _, true, rfl, rfl⟩, rfl, rfl, by decide, by decide, by decide⟩, rfl⟩
theorem witness_ReductionsQueueOneEntry :
    let s := farCtx .X 3 [(2, 0x2000040)]
    ∃ s1, translates s .red (vaOf s 2) 0x30040 (farLeaf 3) s1 ∧ vaOf s 2 % 8 = 0 ∧ (s.myBank.reds.filter fun r => !r.copied).length < 512 :=
  ⟨_, ⟨rfl, _, true, rfl, rfl⟩, by decide, by decide⟩
theorem filter_replicate_length {α : Type} (f : α → Bool) (n : Nat) (x : α) (h : f x = true) : ((List.replicate n x).filter f).length = n := by
  rw [List.filter_replicate, if_pos h, List.length_replicate]
theorem witness_AtomicChecksInOrder :
    let s := farCtx .X 3 [(2, 0xFFFFFF), (3, 0x2000044), (4, 0x2000042)]
    let t := s.modMyBank fun k => { k with reds := List.replicate 512 { place := 0, red := ⟨0, 0, false, false, false, 0, 0, 8, 0⟩ } }
    let v := { s with cur := .ctx 2 0 .X, braids := [(2, s.braid 1)] }
    (isLocal (vaOf s 2) = true ∧ s.myCtx.amoOld = none ∧ s.myCtx.amo = none)
    ∧ (∃ s1, translates s .amo (vaOf s 3) 0x30044 (farLeaf 3) s1 ∧ leafOlev (farLeaf 3) = 0 ∧ leafOunit (farLeaf 3) = s.arcNo s.myBank.vi s.me.1
      ∧ vaOf s 3 % 8 ≠ 0)
    ∧ (∃ s1, translates s .red (vaOf s 4) 0x30042 (farLeaf 3) s1 ∧ vaOf s 4 % 4 ≠ 0)
    ∧ (∃ s1, translates t .red (vaOf t 3) 0x30044 (farLeaf 3) s1 ∧ vaOf t 3 % 4 = 0 ∧ 512 ≤ (t.myBank.reds.filter fun r => !r.copied).length)
    ∧ (∃ s1, translates v .amo (vaOf v 3) 0x30044 (farLeaf 3) s1 ∧ ¬(leafOlev (farLeaf 3) = 0 ∧ leafOunit (farLeaf 3) = v.arcNo v.myBank.vi v.me.1)) :=
  ⟨by decide, ⟨_, ⟨rfl, _, true, rfl, rfl⟩, by decide, by decide, by decide⟩, ⟨_, ⟨rfl, _, true, rfl, rfl⟩, by decide⟩,
    ⟨_, ⟨rfl, _, true, rfl, rfl⟩, by decide, Nat.le_of_eq (filter_replicate_length _ _ _ rfl).symm⟩, ⟨_, ⟨rfl, _, true, rfl, rfl⟩, by decide⟩⟩

theorem witness_QueueInstructions :
    let s := inBank .L { taskBank [(2, 5)] with q := [(3, [1, 2])], qStart := [(3, [1, 2])] }
    ((asX s.me.2.2, 4) ∈ putters ∧ hasRoom s 4) ∧ (asX s.me.2.2, 1) ∉ putters
    ∧ ((asX s.me.2.2, 3) ∈ takers ∧ s.myBank.queueStart 3 ≠ [] ∧ s.myBank.queue 3 = 1 :: [2]) ∧ (asX s.me.2.2, 0) ∉ takers
    ∧ ((asX s.me.2.2, 3) ∈ takers ∧ (inCtx .L []).myBank.queueStart 3 = []) ∧ asX (inCtx .T []).me.2.2 = .X ∧ asX s.me.2.2 ≠ .X
    ∧ ¬ hasRoom (inBank .L { taskBank [] with qStart := [(0, List.replicate 16 0)] }) 0
    ∧ hasRoom (inBank .L { taskBank [] with q := [(4, List.replicate 31 0)], qStart := [(4, List.replicate 31 0)] }) 4 := by
  unfold hasRoom; decide
/-- The bytes of braid 1's SRAM, now and at the start of the cycle. -/
def withSram (s : State) (l : Tab Byte) : State := s.modBraid 1 fun x => { x with sram := l, sramStart := l }

theorem witness_JobsAreQueuedAndAwaited :
    let s := withSram (inCtx .X [(2, 0x100), (3, 1), (4, 0x200)]) [(0x100, 1)]
    let k := s.myBank
    let header (va : Nat) := parseJob (recordAt s va 64) s.cfg.chainN s.cfg.dev (s.ifaceD k.vi).chain 1 s.myCtx.pc s.me.2.2 s.cycle
    let early := (inBank .X { taskBank [(2, 0x8000005)] with jobNext := 5, jobDone := 5 }).myBank
    (s.me.2.2 = .X ∧ k.jobs.length + 0 < 8 ∧ localFree s (vaOf s 2) 64 true ∧ ∃ j, header (vaOf s 2) = some j)
    ∧ (localFree s (vaOf s 4) 64 true ∧ header (vaOf s 4) = none ∧ s.myCtx.getP 0 = true)
    ∧ (inCtx .L []).me.2.2 = .L ∧ (k.jobDone + 2 ^ 28 - 0) % 2 ^ 28 < 2 ^ 27
    ∧ ¬((k.jobDone + 2 ^ 28 - 1) % 2 ^ 28 < 2 ^ 27 ∨ 1 ∈ k.jobFin ∨ (k.jobNext + 2 ^ 28 - 1) % 2 ^ 28 = 2 ^ 27)
    ∧ ((early.jobNext + 2 ^ 28 - 0x8000005) % 2 ^ 28 = 2 ^ 27 ∧ ¬((early.jobDone + 2 ^ 28 - 0x8000005) % 2 ^ 28 < 2 ^ 27)) := by
  refine ⟨⟨rfl, by decide, ?_, _, rfl⟩, ⟨?_, rfl, rfl⟩, rfl, by decide, by decide, by decide⟩ <;> unfold localFree <;> decide
/-- Eight queued jobs. -/
def someJob : Job := ⟨1, 0, .X, 0, 1, 1, [0, 0, 0, 0, 0], [0, 0, 0, 0, 0], [], [], [], false, 0, []⟩
/-- Job 5 of bank 0 is open on braid 1. -/
def openOne : OpenJob := ⟨{ someJob with num := 5, smask := 31, maxc := 100 }, 0, 0, [], [], 0, [], [], 0⟩
theorem witness_JobQueueFull :
    let s := inBank .X { taskBank [] with jobs := List.replicate 8 someJob }
    8 ≤ s.myBank.jobs.length + (s.myBraid.jobsOpen.filter fun j => j.bank == s.me.2.1 && j.start == s.cycle).length := by decide
theorem witness_CopiesAreQueuedAndAwaited :
    let s := withSram (inCtx .L [(2, 0x100), (3, 1)]) [(0x109, 2), (0x206, 0x10)]
    let k := s.myBank
    let cmd := recordAt s (vaOf s 2) 64
    ((k.chan 1).queue.length < 16 ∧ localFree s (vaOf s 2) 64 true ∧ fieldLe cmd 8 6 = 0x200 ∧ localFree s (fieldLe cmd 8 6) 64 true
      ∧ ∃ x, parseCopy cmd (recordAt s (fieldLe cmd 8 6) 64) false 1 s.myCtx.pc s.me.2.2 k.vi (0 + 1) k.place ((k.task.map Task.sq).getD 0) = .ok x)
    ∧ (∃ x, parseCopy cmd (recordAt s (fieldLe cmd 8 6) 64) true 1 s.myCtx.pc s.me.2.2 k.vi (0 + 1) k.place ((k.task.map Task.sq).getD 0) = .ok x)
    ∧ s.refHolds s.me.1 s.me.2.1 7 1 = true ∧ s.refHolds s.me.1 s.me.2.1 0 1 = false ∧ s.refHolds s.me.1 s.me.2.1 0 (2 ^ 27) = true
    ∧ s.refHolds s.me.1 s.me.2.1 4 0 = true ∧ s.refHolds s.me.1 s.me.2.1 5 1 = false ∧ s.refHolds s.me.1 s.me.2.1 6 (2 ^ 27) = true := by
  refine ⟨⟨by decide, ?_, by decide, ?_, _, rfl⟩, ⟨_, rfl⟩, by decide, by decide, by decide, by decide, by decide, by decide⟩ <;> unfold localFree <;> decide
theorem witness_CopyQueueFull :
    let c : CopyCmd := ⟨1, false, 0, .L, 0, 0, 0, false, [], [], 0, 0, 0, false, [], [], [], 1, 0, 0⟩
    16 ≤ ((inBank .L { taskBank [] with chans := [(3, { queue := List.replicate 16 c })] }).myBank.chan 3).queue.length := by decide
/-- A Reeve command of session 0. -/
def someReeve (isOut : Bool) : ReeveCmd := ⟨1, isOut, 0, .X, 0, 0, 5, 0, 0, [], 0, 0, none, some 1⟩
theorem witness_ReeveCommandsAreQueued :
    let s := withSram (inCtx .X [(2, 0x100), (3, 0x180), (4, 0x200)]) [(0x182, 4), (0x200, 5)]
    let k := s.myBank
    let frame (va : Nat) (isOut : Bool) :=
      parseFrame (recordAt s va 64) isOut 1 s.myCtx.pc s.me.2.2 k.curBank (fun sid => ((s.ifaceD k.vi).session sid).epoch) k.vi
    (asX s.me.2.2 = .X ∧ k.rv.queue.length < 32 ∧ localFree s (vaOf s 2) 64 true ∧ (∃ x, frame (vaOf s 2) false = some x ∧ x.sid < (s.ifaceD k.vi).nsess)
      ∧ ∃ x, frame (vaOf s 2) true = some x ∧ x.sid < (s.ifaceD k.vi).nsess)
    ∧ (localFree s (vaOf s 3) 64 true ∧ frame (vaOf s 3) false = none) ∧ (localFree s (vaOf s 4) 64 true ∧ ∃ x, frame (vaOf s 4) true = some x ∧ (s.ifaceD k.vi).nsess ≤ x.sid)
    ∧ 32 ≤ (inBank .X { taskBank [] with rv := { queue := List.replicate 32 (someReeve false) } }).myBank.rv.queue.length ∧ asX (inCtx .S []).me.2.2 ≠ .X := by
  refine ⟨⟨rfl, by decide, ?_, ⟨_, rfl, by decide⟩, ⟨_, rfl, by decide⟩⟩, ⟨?_, rfl⟩, ⟨?_, _, rfl, by decide⟩, by decide, by decide⟩ <;> unfold localFree <;> decide
/-- Session 1 has an image, of which handle 0x10000 also holds a reference; session 2 has none. -/
def frameIface : Iface :=
  { someIface with sessions := [(1, { cur := some 1 })], images := [(1, ⟨[], 0, 2⟩)], imageNext := 2, handles := [(0x20000, 1)] }
theorem witness_StateInstructions :
    let s := { inCtx .X [(2, 1), (3, 2), (4, 0x200020000), (5, 0x2FFFFFFFF), (6, 0x20000), (7, 0xFFFFFFFF), (8, 9), (9, 0x100020000)] with ifaces := [(0, frameIface)] }
    let i := frameIface
    let sid (r : BitVec 5) := (s.rS r).toNat % 65536
    let h (r : BitVec 5) := (s.rS r).toNat % 2 ^ 32
    let fsid (r : BitVec 5) := (s.rS r).toNat / 2 ^ 32 % 65536
    (s.iface s.myBank.vi = some i ∧ asX s.me.2.2 = .X)
    ∧ (s.reeveBusy 0 (sid 2) false = false ∧ sid 2 < i.nsess ∧ (i.session (sid 2)).cur = some 1 ∧ thas i.handles (65536 * sid 2 + (i.session (sid 2)).snap) = false
      ∧ (i.image 1).refs < 2 ^ 32 - 1)
    ∧ (sid 3 < i.nsess ∧ (i.session (sid 3)).cur = none)
    ∧ (fsid 4 < i.nsess ∧ (i.session (fsid 4)).cur = none ∧ h 4 ≠ 0xFFFFFFFF ∧ thas i.handles (h 4) = true ∧ tget 0 i.handles (h 4) = 1)
    ∧ (fsid 5 < i.nsess ∧ (i.session (fsid 5)).cur = none ∧ h 5 = 0xFFFFFFFF)
    ∧ (s.reeveBusy 0 (sid 2) true = false ∧ h 6 ≠ 0xFFFFFFFF ∧ thas i.handles (h 6) = true) ∧ h 7 = 0xFFFFFFFF
    ∧ i.nsess ≤ sid 8 ∧ (i.session (fsid 9)).cur.isSome = true ∧ (h 8 ≠ 0xFFFFFFFF ∧ thas i.handles (h 8) = false) := by decide

theorem witness_CommitsAndBarriers :
    let s := inCtx .X []
    let r : Task := { someTask with m1 := true, bars := [(1, 2049)] }
    let m := { s with cur := .ctx 2 0 .X, braids := [(2, { b0 := { taskBank [] with task := some r } })], launches := [someLaunch] }
    let t := inBank .X { taskBank [] with arrive := some ⟨0, false, 0, none, true, true, []⟩, w := [(5, true)] }
    let u := inBank .X { taskBank [] with task := some { someTask with round := some (0, 0, 0) } }
    let busy := inBank .X { taskBank [] with jobs := [someJob] }
    (asX s.me.2.2 = .X ∧ s.myBank.task = some someTask ∧ someTask.round = none ∧ s.myBank.arrive = none ∧ s.quiet 1 0 = true
      ∧ s.reeveQuiet 1 0 true = true ∧ (s.members 1 0 0).headD 1 = 1 ∧ (s.members 1 0 3).headD 1 = 1 ∧ s.myCtx.getP 0 = true)
    ∧ (m.myBank.task = some r ∧ m.quiet 2 0 = true ∧ (m.members 2 0 1).headD 2 = 1 ∧ tget 0 r.bars 1 % 2 ^ 11 = 1) ∧ busy.quiet 1 0 = false
    ∧ (t.myBank.arrive = some ⟨0, false, 0, none, true, true, []⟩ ∧ t.me.2.1 < 2 ∧ twf false t.myBank.w = true)
    ∧ (u.myBank.task = some { someTask with round := some (0, 0, 0) } ∧ ({ someTask with round := some (0, 0, 0) } : Task).round.isSome = true) := by decide
/-- A heap of die 0 in its fill. -/
def someHeap : Heap :=
  { st := .fill, level := 1, unit := 0, k := 2, base := 0, cap := 8, tol := 0x3F800000, maxr := 10, doneAt := 0, vi := 0, launch := 0, entries := [],
    resid := ⟨0, 0⟩, round := 0, r := 0, heldOps := [], popped := [], started := [], ended := [], roundOpen := false, committing := false,
    updating := false, paused := false, members := [1], status := 0, parts := [], tries := 0, voided := [] }
theorem witness_HeapTasksAndHashing :
    let s := withSram (inCtx .X [(2, 0x100), (3, 0x200)]) [(0x10E, 0x10), (0x113, 0xE0), (0x117, 0xE0), (0x11B, 0xE0), (0x11F, 0xE0), (0x200, 1)]
    let own : State := { inCtx .X [] with cur := .ctx 48 0 .X, braids := [(48, { b0 := taskBank [] })] }
    (asX s.me.2.2 = .X ∧ s.myBraid.ctlQ.length < 32 ∧ s.myBank.task = some someTask ∧ s.me.2.1 < 2)
    ∧ (asX own.me.2.2 = .X ∧ own.myBraid.ctlQ.length < 32 ∧ own.myBank.task = some someTask ∧ own.me.1 = 48 * (if 48 ≤ own.me.1 then 1 else 0))
    ∧ (localFree s (vaOf s 2) 128 true ∧ ∃ r, parseTask (recordAt s (vaOf s 2) 128) = some r ∧ r.kind = 1)
    ∧ (localFree s (vaOf s 3) 128 true ∧ ∃ r, parseTask (recordAt s (vaOf s 3) 128) = some r ∧ r.kind = 0)
    ∧ (let u := { inBank .X { taskBank [] with task := some { someTask with round := some (0, 0, 0) } } with heaps := [(0, someHeap)] }
       (∃ y, u.myBank.task = some y ∧ y.round = some (0, 0, 0)) ∧ u.heap (16 * 0 + 0) = some someHeap)
    ∧ localFree s (vaOf s 2) 64 true ∧ 32 ≤ ({ s with braids := [(1, { b0 := taskBank [], ctlQ := List.replicate 32 ⟨0, 3, 1, 0, 8180, 1, 0, 0, .mail [] 0 0⟩ })] } : State).myBraid.ctlQ.length := by
  refine ⟨by decide, by decide, ⟨?_, _, rfl, by decide⟩, ⟨?_, _, rfl, by decide⟩, ⟨⟨_, rfl, rfl⟩, rfl⟩, ?_, by decide⟩ <;> unfold localFree <;> decide
theorem witness_TaskToAnotherMember :
    let s := { inBank .X { taskBank [] with task := some { someTask with m1 := true } } with launches := [someLaunch] }
    s.members 1 0 1 = [1, 2] ∧ (s.members 1 0 1).getD (1 % 2) 1 ≠ 1 := by decide
theorem witness_TrapAndReturn :
    let s := inBank .L { taskBank [] with task := some { someTask with tvec := 0x600100 } }
    let t := inBank .T { taskBank [] with tActive := true }
    let u := inBank .T { taskBank [] with tActive := true, tSaved := true }
    (s.myCtx.getP 0 = true ∧ s.me.2.2 ≠ .T ∧ s.myBank.tActive = false ∧ (∃ y, s.myBank.task = some y ∧ y.tvec ≠ 0))
    ∧ (t.me.2.2 = .T ∧ t.myBank.tSaved = false ∧ t.myBank.tActive = true ∧ t.myBank.task = some someTask) ∧ (u.me.2.2 = .T ∧ u.myBank.tSaved = true) :=
  ⟨⟨rfl, by decide, rfl, ⟨_, rfl, by decide⟩⟩, by decide, by decide⟩
theorem witness_ControlRegistersReadAndWrite :
    (inCtx .T []).me.2.2 = .T ∧ ¬(17 ≤ (16#5).toNat ∧ (16#5).toNat ≤ 20) ∧ ¬((inCtx .X []).me.2.2 = .T ∨ ¬(17 ≤ (20#5).toNat ∧ (20#5).toNat ≤ 20)) := by decide
theorem witness_SaveRestoreAndYield :
    let now (k : Bank) : Bank := { k with x := { k.x with holding := true }, t := { k.t with holding := true } }
    let s := inCtx .T [(2, 0x600000), (3, 0xAB4400), (4, 0x600020)]
    let t := inBank .T { taskBank [(2, 0x600000)] with tSaved := true }
    let r := inBank .T (now { taskBank [(2, 0x600000)] with tSaved := true })
    let open_ (s : State) : State := s.modBraid 1 fun x => { x with jobsOpen := [openOne] }
    let idle (s : State) : Prop := (s.myBraid.jobsOpen.filter fun j => j.bank == s.me.2.1) = []
    let fits (va : Nat) := va % 64 = 0 ∧ 0x600000 ≤ va ∧ va + 310272 ≤ 0xB00000
    (s.me.2.2 = .T ∧ fits (vaOf s 2) ∧ fits (vaOf s 3) ∧ ¬ fits (vaOf s 4) ∧ s.myBank.tSaved = false ∧ s.myCtx.holding = false ∧ idle s ∧ ¬ idle (open_ s))
    ∧ (inBank .T (now (taskBank []))).myCtx.holding = true
    ∧ (t.myBank.tSaved = true ∧ t.myCtx.holding = false ∧ t.myBank.jobs = [] ∧ idle t ∧ ¬ idle (open_ t))
    ∧ (r.myBank.tSaved = true ∧ r.myCtx.holding = true ∧ r.imageJobs (r.myBraid.sramRead 0x600000 310272) r.myBank 0 = some [])
    ∧ (let u := inCtx .X []
       asX u.me.2.2 = .X ∧ u.myBank.jobs = [] ∧ idle u ∧ ¬ idle (open_ u) ∧ u.myCtx.holding = false ∧ (inBank .X (now (taskBank []))).myCtx.holding = true
        ∧ (u.bank 1 1).task = none) := ⟨by decide, by decide, by decide, ⟨rfl, rfl, rfl⟩, by decide⟩
theorem witness_YieldGivesWay :
    let l : Launch := parseRecord [] 0 0 0 0 0
    let s := { inCtx .X [] with braids := [(1, { b0 := taskBank [], b1 := { taskBank [] with mode := .preempted } })], launches := [l] }
    let t := { inCtx .X [] with braids := [(1, { b0 := taskBank [], b1 := { taskBank [] with mode := .suspended, susp := some ⟨9, 0, .X, 0, false, 0, some 1, true, true, 0⟩ } })] }
    ((s.bank 1 1).task = some someTask ∧ (∀ m, s.launch someTask.launch = some m → m.preempted = false) ∧ (s.bank 1 1).mode = .preempted)
    ∧ (t.launch someTask.launch = none ∧ (t.bank 1 1).mode = .suspended ∧ ∃ u, (t.bank 1 1).susp = some u ∧ u.answered = true)
    ∧ (inBank .X { taskBank [] with jobs := [someJob] }).myBank.jobs ≠ []
    ∧ ∃ m, ({ s with launches := [{ l with preempted := true }] } : State).launch someTask.launch = some m ∧ m.preempted = true :=
  ⟨⟨rfl, fun m h => by cases h; rfl, rfl⟩, ⟨rfl, by decide, _, rfl, rfl⟩, by decide, _, rfl, rfl⟩
/-- A copy of one FP32 element between SRAM byte 0 and virtual address 0. -/
def someCopy (isOut : Bool) (op : Nat) : CopyCmd := ⟨1, isOut, 0, .L, 0, 0, 0, false, [], [0], 0, 0, op, false, [1], [0], [0], 1, 0, someTask.sq⟩
theorem witness_HaltAndNop :
    let s := inBank .X { taskBank [] with l := { began := true } }
    let t := inBank .X { taskBank [] with l := { began := true, halt := true } }
    let ended (k : Bank) (c : CtxId) : Prop := (k.ctx c).began = false ∨ (k.ctx c).halt = true
    let copied (s : State) : Prop := ∀ ch < 4, ∀ q ∈ (s.myBank.chan ch).queue, 2 ^ 27 ≤ ((s.myCtx.copies.getD s.myBank.newest).getD ch 0 + 2 ^ 28 - q.num) % 2 ^ 28
    let busy := inBank .L { taskBank [] with chans := [(2, { queue := [someCopy true 0], newest := 1 })] }
    let round : State := inBank .X { taskBank [] with task := some { someTask with round := some (0, 0, 0) } }
    let inRound := { round with heaps := [(0, { someHeap with st := .run })] }
    let gone := { round with launches := [parseRecord [] 0 0 0 0 0] }
    (s.quiet 1 0 = true ∧ copied s ∧ s.myBank.task = some someTask ∧ ¬ ended s.myBank .L) ∧ (t.quiet 1 0 = true ∧ copied t ∧ ended t.myBank .L ∧ ended t.myBank .S)
    ∧ someTask.round = none ∧ ¬ copied busy
    ∧ (inRound.quiet 1 0 = true ∧ copied inRound ∧ inRound.myBank.spilled = [] ∧ inRound.myBraid.merge = [] ∧ inRound.heap (16 * 0 + 0) = some { someHeap with st := .run }
      ∧ someHeap.launch = someTask.launch)
    ∧ (gone.quiet 1 0 = true ∧ copied gone ∧ gone.myBank.spilled = [] ∧ gone.myBraid.merge = [] ∧ gone.heaps = [] ∧ (gone.launch someTask.launch).isSome = true) := by decide
theorem witness_TakingAFault :
    let s := inCtx .L []
    (s.me.2.1 < 2 ∧ s.myBank.task = some someTask ∧ s.myBank.mode = .running) ∧ (26 < 256 ∧ 26 ≠ 9 ∧ 26 ≠ 10 ∧ 26 ≠ 19 ∧ 26 ≠ 20)
    ∧ ((inCtx .X []).me.2.2 = .X ∧ (inCtx .X []).jobIn 1 0 = false ∧ (inCtx .X []).myBank.late = []) ∧ (inCtx .S []).me.2.2 ≠ .L ∧ (inCtx .S []).me.2.2 ≠ .X
    ∧ (inCtx .T []).me.2.2 = .T ∧ s.me.2.2 ≠ .T := by decide
/-- A fault of this code and source, for context `c`. -/
def someFault (code src : Nat) (c : CtxId) : FaultInfo := { code, src, ctx := c, epc := 0 }
theorem witness_OneFaultOfACycleIsTaken :
    let at_ (l : List FaultInfo) : State := onBraid 1 0 lastFault { b0 := { taskBank [] with late := l } }
    let l := [someFault 2 6 .T, someFault 9 1 .X, someFault 3 4 .X]
    (at_ l).agent = (1, 0, lastFault) ∧ ((at_ l).bank 1 0).late = l ∧ ((at_ []).bank 1 0).late = [] ∧ (∀ g ∈ l, g.code < 256 ∧ g.src < 7)
    ∧ (firstFault l = some (someFault 3 4 .X) ∧ ((at_ l).bank 1 0).task.isSome = true ∧ (someFault 3 4 .X).resumes = false)
    ∧ ((someFault 9 1 .X).resumes = true ∧ firstFault [someFault 9 1 .X] = some (someFault 9 1 .X)) := by decide
theorem witness_UnassignedInstructions :
    (inCtx .S []).me.2.2 ≠ .T ∧ (inCtx .S []).me.2.2 = .S ∧ (17 ≤ (17#5).toNat ∧ (20#5).toNat ≤ 20) := by decide
/-! States that meet the hypotheses of the statements: the strands. -/

/-- Strand `k` of braid 1 is in job 5, with these beats arriving and these parameter blocks. -/
def onStrand (k : Nat) (beats : Tab Beat) (spb : Tab Nat) : State :=
  ({ State.reset with cycle := 20, cur := .strand 1 k, ifaces := [(0, someIface)] }).setBraid 1
    { b0 := taskBank [], jobsOpen := [openOne], strands := [(k, { job := some 5, spb })], arriving := beats }
/-- A parameter block of two levels: (`e1` + 1) · (`e2` + 1) elements of a format, all at byte 0 (STR 0). -/
def flat (fmt e1 : Nat) (e2 : Nat := 0) : Spb := ⟨0, fmt, [(e1, 0), (e2, 0)]⟩
def flatImage (fmt e1 : Nat) (e2 : Nat := 0) : Nat := fmt * 2 ^ 24 + 2 * 2 ^ 28 + e1 * 2 ^ 32 + e2 * 2 ^ 68
theorem flat_addr (fmt e1 e2 i : Nat) : (flat fmt e1 e2).addr i = 0 := by simp [flat, Spb.addr, Spb.byteOf, levelOff]
theorem flat_mayTouch (s : State) (b k n : Nat) (wr : Bool) (fmt e1 e2 first cnt : Nat) : mayTouch s b k n wr (flat fmt e1 e2) first cnt := by
  intro j _ i _ x hx hs
  have h : (flat fmt e1 e2).bytes ≤ 16 := by
    simp only [flat, Spb.bytes, Spb.width, fmtWidth, Format.ofCode]
    split <;> simp [Format.width] <;> (try split at *) <;> simp_all <;> rename_i h <;> subst h <;> decide
  simp only [flat_addr, List.mem_cons, List.not_mem_nil, or_false] at hx
  exfalso
  rcases hx with rfl | rfl
  · revert hs; decide
  · simp only [inScratch, decide_eq_true_eq] at hs
    have : Config.scratchBase = 0x600000 := rfl
    omega
theorem onStrand_opAt (k : Nat) (beats : Tab Beat) (spb : Tab Nat) : opAt (onStrand k beats spb) 1 k 5 :=
  ⟨rfl, by simp [onStrand, State.strand, State.braid, State.setBraid, tget, tput, State.reset]⟩
theorem flat_mayRead (s : State) (b k n : Nat) (x : Braid) (reach : Nat → Nat) (fmt e1 e2 first cnt : Nat) (h : x.bad = []) :
    mayRead s b k n x reach (flat fmt e1 e2) first cnt :=
  ⟨flat_mayTouch _ _ _ _ _ _ _ _ _ _, fun _ _ _ _ => by rw [h]; exact List.not_mem_nil⟩

theorem witness_StrandControl :
    let s := onStrand 3 [] []
    opAt s 1 3 5 ∧ (1#3).toNat = (s.strand 1 3).nest.length + 1 ∧ (∀ o r, (s.strand 1 3).nest = o :: r → 0 ≤ o.stop)
    ∧ ¬((2#3).toNat = (s.strand 1 3).nest.length + 1) ∧ (∃ j, openJob s 1 3 5 = some j) :=
  ⟨onStrand_opAt .., by decide, (by intro o r h; cases h), by decide, _, rfl⟩

/-- A beat of 192 ones on track 2 for VX. -/
def vxBeat (t : Nat) (m : Bool) : Nat × Beat := (5 * t + 3, ⟨List.replicate 192 1, m⟩)
theorem witness_VectorArithmetic :
    let s := onStrand 3 [vxBeat 0 true, vxBeat 1 false] []
    opAt s 1 3 5 ∧ vxSource s 1 16 (List.replicate 192 1) (some true) ∧ vxSource s 1 17 (List.replicate 192 1) (some false)
    ∧ vxSource s 1 3 [] none ∧ vxMarks (some true) none (some true) ∧ vxMarks none none none ∧ vxFree s 1 15 6 ∧ vxFree s 1 19 6 ∧ (true ≠ false) :=
  ⟨onStrand_opAt .., ⟨_, rfl, rfl, rfl, rfl⟩, ⟨_, rfl, rfl, rfl, rfl⟩, ⟨rfl, rfl⟩, .inr (.inl ⟨rfl, rfl⟩), .inl ⟨rfl, rfl⟩, .inl (by decide),
    .inr (by intro p hp; exact absurd hp (by simp [onStrand, State.braid, State.setBraid, tget, tput, State.reset])), by decide⟩
theorem witness_VectorOpsOfOneSource :
    let s := onStrand 3 [vxBeat 0 true] []
    opAt s 1 3 5 ∧ vxSource s 1 16 (List.replicate 192 1) (some true) ∧ vxFree s 1 15 12
    ∧ (16 ≤ (17#5).toNat ∧ thas (s.braid 1).arriving (5 * ((17#5).toNat - 16) + 3) = false)
    ∧ (∃ a b, Format.ofCode 8 = some a ∧ Format.ofCode (18 % 16) = some b) ∧ 16 * (11#5).toNat + (15#4).toNat < 192 :=
  ⟨onStrand_opAt .., ⟨_, rfl, rfl, rfl, rfl⟩, .inl (by decide), by decide, ⟨_, _, rfl, rfl⟩, by decide⟩
theorem witness_VectorOpsOfTwoSources :
    let s := onStrand 3 [vxBeat 3 false] []
    opAt s 1 3 5 ∧ vxSource s 1 19 (List.replicate 192 1) (some false) ∧ vxSource s 1 0 [] none ∧ vxMarks (some false) none (some false) ∧ vxFree s 1 18 8 :=
  ⟨onStrand_opAt .., ⟨_, rfl, rfl, rfl, rfl⟩, ⟨rfl, rfl⟩, .inr (.inl ⟨rfl, rfl⟩), .inr (by intro p hp; exact absurd hp (by simp [onStrand, State.braid, State.setBraid, tget, tput, State.reset]))⟩
theorem witness_VectorReductionsAndCheck :
    let s := onStrand 3 [vxBeat 0 true] []
    opAt s 1 3 5 ∧ vxSource s 1 16 (List.replicate 192 1) (some true) ∧ vxFree s 1 15 10 ∧ (1#4).getLsbD 0 = true ∧ (0#4).getLsbD 0 = false :=
  ⟨onStrand_opAt .., ⟨_, rfl, rfl, rfl, rfl⟩, .inl (by decide), by decide, by decide⟩
theorem witness_MatrixZeroStopperAndBuffers :
    let s := onStrand 1 [(5 * 2 + 1, ⟨List.replicate 192 1, true⟩), (5 * 3 + 1, ⟨List.replicate 192 1, false⟩)] [(0, flatImage 0 383), (2, flatImage 1 15)]
    opAt s 1 1 5 ∧ beatOn s 1 1 2 (List.replicate 192 1) true ∧ beatOn s 1 1 3 (List.replicate 192 1) false ∧ (s.strand 1 1).q = 0
    ∧ ((0#14).toNat + 2) / 2 ≤ 128 ∧ ((253#14).toNat + 2) / 2 ≤ 128 ∧ 128 < ((256#14).toNat + 2) / 2
    ∧ (opensStream s 1 1 5 0 0 (flat 0 383) ∧ (flat 0 383).fmt = 0 ∧ (flat 0 383).count = ((2#14).toNat + 2) / 2 * 192 ∧ mayRead s 1 1 5 (s.braid 1) id (flat 0 383) 0 192)
    ∧ (opensStream s 1 1 5 2 0 (flat 1 15) ∧ (flat 1 15).fmt = 1 ∧ (flat 1 15).count = 16 ∧ mayRead s 1 1 5 (s.braid 1) id (flat 1 15) 0 16) :=
  ⟨onStrand_opAt .., ⟨rfl, rfl⟩, ⟨rfl, rfl⟩, rfl, by decide, by decide, by decide,
    ⟨⟨⟨_, rfl, rfl⟩, by decide, by decide⟩, rfl, by decide, flat_mayRead _ _ _ _ _ _ _ _ _ _ _ rfl⟩,
    ⟨⟨⟨_, rfl, rfl⟩, by decide, by decide⟩, rfl, by decide, flat_mayRead _ _ _ _ _ _ _ _ _ _ _ rfl⟩⟩
theorem witness_MatrixDrains :
    let s := onStrand 1 [] [(3, flatImage 0 191 31)]
    let r := tget {} (s.braid 1).regs.drain 0
    let t := s.modBank 1 0 fun k => { k with chans := [(2, { tile := some ⟨[], 0, false⟩ })] }
    opAt s 1 1 5 ∧ streamNow s 1 1 5 3 0 0 (flat 0 191 31) ∧ (flat 0 191 31).fmt = r.eff ∧ (flat 0 191 31).count = r.count
    ∧ mayTouch s 1 1 5 true (flat 0 191 31) 0 192 ∧ ((s.bank 1 0).chan 1).tile = none ∧ ((t.bank 1 0).chan 2).tile.isSome = true :=
  ⟨onStrand_opAt .., ⟨rfl, ⟨_, rfl, rfl⟩, by decide, by decide⟩, by decide, by decide, flat_mayTouch _ _ _ _ _ _ _ _ _ _, rfl, rfl⟩
/-- The format word queued for job 5, tracks 1 and 2 standing before MX, and the scale streams of 32 and 192 lanes in blocks 4 and 5. -/
def withFormats (w : Word64) : State :=
  (onStrand 1 [] []).setBraid 1
    { b0 := { taskBank [] with q := [(8, [w])] }, jobsOpen := [{ openOne with resv := [(8, 1)] }],
      strands := [(1, { job := some 5, spb := [(4, flatImage 6 31), (5, flatImage 6 191)] })],
      arriving := [(5 * 0 + 1, ⟨List.replicate 192 1, true⟩), (5 * 1 + 1, ⟨List.replicate 192 1, true⟩)] }
/-- A tile command of one step on those tracks: its operands' bits. -/
theorem trackBits (s : State) (q code fmt lanes kpc np : Nat) (wbs : Tab WBuf) (hc : code < 4) (hl : lanes ≤ 192)
    (h : beatOn s 1 1 code (List.replicate 192 1) true) : ∃ v, tileBits s 1 5 q code fmt lanes kpc np true wbs v := by
  refine ⟨fun i j => (wordAt (List.replicate 192 1) i).toNat / 2 ^ (fmtWidth fmt * j) % 2 ^ fmtWidth fmt, ?_⟩
  simp only [tileBits, hc, if_true]
  exact ⟨_, h, by rw [List.length_replicate]; exact hl, fun _ _ _ _ => rfl⟩
theorem witness_TileCommandsBegin :
    let s := withFormats 0x111
    let f : FmtWord := ⟨1, 1, true, 0, 0, ⟨0, 0, false, 0, false⟩⟩
    opAt s 1 1 5 ∧ (s.strand 1 1).q = 0 ∧ (∃ e, reservedEntry s 1 1 5 8 0 = some e ∧ parseFmtWord e.toNat = some f)
    ∧ operandOpens s 1 5 0 1 32 1 1 true false ∧ operandOpens s 1 5 1 1 192 1 1 false false ∧ (List.replicate 6144 (0 : Word32)).length = 6144
    ∧ (∃ v, tileBits s 1 5 0 0 1 32 2 1 true (s.braid 1).regs.wb v) ∧ (∃ v, tileBits s 1 5 0 1 1 192 2 1 true (s.braid 1).regs.wb v)
    ∧ reservedEntry (onStrand 1 [] []) 1 1 5 8 0 = none ∧ (∃ e, reservedEntry (withFormats 0) 1 1 5 8 0 = some e ∧ parseFmtWord e.toNat = none) :=
  ⟨⟨rfl, rfl⟩, rfl, ⟨_, rfl, rfl⟩, ⟨fun h => absurd h (by decide), fun h => absurd h (by decide), fun h => absurd h (by decide)⟩,
    ⟨fun h => absurd h (by decide), fun h => absurd h (by decide), fun h => absurd h (by decide)⟩, List.length_replicate,
    trackBits _ 0 0 1 32 2 1 _ (by decide) (by decide) ⟨rfl, rfl⟩, trackBits _ 0 1 1 192 2 1 _ (by decide) (by decide) ⟨rfl, rfl⟩, rfl, ⟨_, rfl, rfl⟩⟩
theorem witness_TileCommandsWithScales :
    let s := withFormats 0x3133
    (∃ e w, reservedEntry s 1 1 5 8 0 = some e ∧ parseFmtWord e.toNat = some w ∧ w.scale = 3 ∧ w.afmt = 3 ∧ w.bfmt = 3)
    ∧ operandOpens s 1 5 0 3 32 1 1 true true ∧ operandOpens s 1 5 1 3 192 1 1 false true
    ∧ (∃ c, tileScales s 1 5 0 0 true 32 4 [] c) ∧ (∃ c, tileScales s 1 5 0 1 false 192 4 [] c) ∧ (∃ c, tileScales s 1 5 1 0 true 32 4 [] c) := by
  refine ⟨⟨_, _, rfl, rfl, rfl, rfl, rfl⟩, ⟨fun h => absurd h (by decide), fun h => absurd h (by decide), fun _ => ⟨flat 6 31, ⟨⟨_, rfl, rfl⟩, by decide, by decide⟩, rfl, by decide⟩⟩,
    ⟨fun h => absurd h (by decide), fun h => absurd h (by decide), fun _ => ⟨flat 6 191, ⟨⟨_, rfl, rfl⟩, by decide, by decide⟩, rfl, by decide⟩⟩,
    ⟨fun i => (flat 6 31).read ((withFormats 0x3133).braid 1).sramAt (0 * 4 / 8 * 32 + i), ?_⟩, ⟨fun i => (flat 6 191).read ((withFormats 0x3133).braid 1).sramAt (0 * 4 / 8 * 192 + i), ?_⟩, ⟨fun i => [].getD i 0, ?_⟩⟩
  · exact ⟨flat 6 31, rfl, flat_mayRead _ _ _ _ _ _ _ _ _ _ _ rfl, fun _ _ => rfl⟩
  · exact ⟨flat 6 191, rfl, flat_mayRead _ _ _ _ _ _ _ _ _ _ _ rfl, fun _ _ => rfl⟩
  · exact fun _ _ => rfl
theorem witness_TileCommandsAccumulate :
    let s := (withFormats 0).modStrand 1 1 fun t => { t with q := 1, fw := 0x111, held := List.replicate 6144 0 }
    opAt s 1 1 5 ∧ (s.strand 1 1).q ≠ 0 ∧ (∃ w, parseFmtWord (s.strand 1 1).fw = some w ∧ w.scale = 0) ∧ (s.strand 1 1).held.length = 6144
    ∧ (∃ v, tileBits s 1 5 1 0 1 32 2 2 true (s.strand 1 1).wbAt v) ∧ (∃ v, tileBits s 1 5 1 1 1 192 2 2 true (s.strand 1 1).wbAt v) :=
  ⟨⟨rfl, rfl⟩, by decide, ⟨_, rfl, rfl⟩, List.length_replicate, trackBits _ 1 0 1 32 2 2 _ (by decide) (by decide) ⟨rfl, rfl⟩,
    trackBits _ 1 1 1 192 2 2 _ (by decide) (by decide) ⟨rfl, rfl⟩⟩
theorem witness_LoadStrandReadsItsStreams :
    let s := onStrand 0 [] [(1, flatImage 0 191), (2, flatImage 9 191)]
    let f (x : Braid) (y : Nat) : Nat := x.awareAddr (s.strand 1 0).bank y
    let t := (onStrand 0 [] [(7, flatImage 9 191)]).modBraid 1 fun x => { x with b0 := { taskBank [] with q := [(4, [0, 64])] }, jobsOpen := [{ openOne with resv := [(4, 2)] }] }
    opAt s 1 0 5 ∧ streamNow s 1 0 5 1 0 0 (flat 0 191) ∧ (flat 0 191).run * (flat 0 191).width ≤ 6144 ∧ mayRead s 1 0 5 (s.braid 1) id (flat 0 191) 0 192
    ∧ mayRead s 1 0 5 (s.braid 1) (f (s.braid 1)) (flat 0 191) 0 192
    ∧ (streamNow s 1 0 5 2 0 0 (flat 9 191) ∧ streamNow s 1 0 5 1 1 0 (flat 0 191) ∧ (flat 9 191).fmt = 9 ∧ (flat 9 191).run ≤ 192 ∧ (flat 0 191).width ≤ 32)
    ∧ (opAt t 1 0 5 ∧ streamNow t 1 0 5 7 0 0 (flat 9 191) ∧ streamNow t 1 0 5 7 1 1 { flat 9 191 with base := 64 })
    ∧ inMail (0x100 + 3) = false ∧ inMail (0xAFFFFD + 3) = true ∧ (∀ i < 4, inScratch (0x100 + i) = false ∧ 0x100 + i ∉ (s.braid 1).bad) ∧ (∀ i < 4, inScratch (0xB00000 + i) = false)
    ∧ tget false (s.braid 1).fullStart 0 ≠ true :=
  ⟨onStrand_opAt .., ⟨rfl, ⟨_, rfl, rfl⟩, by decide, by decide⟩, by decide, flat_mayRead _ _ _ _ _ _ _ _ _ _ _ rfl, flat_mayRead _ _ _ _ _ _ _ _ _ _ _ rfl,
    ⟨⟨rfl, ⟨_, rfl, rfl⟩, by decide, by decide⟩, ⟨rfl, ⟨_, rfl, rfl⟩, by decide, by decide⟩, by decide, by decide, by decide⟩,
    ⟨⟨rfl, rfl⟩, ⟨rfl, ⟨_, rfl, _, rfl, rfl⟩, by decide, by decide⟩, ⟨rfl, ⟨_, rfl, _, rfl, rfl⟩, by decide, by decide⟩⟩,
    by decide, by decide, by decide, by decide, by decide⟩
theorem tget_upto : ∀ n a w : Nat, w ∈ upto a n → tget false ((upto a n).map fun i => (i, true)) w = true
  | 0, _, _, h => by simp [upto] at h
  | n + 1, a, w, h => by
    by_cases e : w = a
    · simp [upto, tget, e]
    · have : w ∈ upto (a + 1) n := by simpa [upto, e] using h
      simpa [upto, tget, e] using tget_upto n (a + 1) w this
theorem witness_LoadStrandMail :
    let s := (onStrand 0 [] []).modBraid 1 fun x => { x with fullStart := (upto 32 192).map fun i => (i, true) }
    ∀ w ∈ upto 32 192, tget false (s.braid 1).fullStart w = true ∧ (s.braid 1).taken.contains w = false := fun w h => ⟨tget_upto 192 32 w h, rfl⟩
theorem witness_StoreStrandWritesItsStreams :
    let s := onStrand 4 [(4, ⟨List.replicate 192 1, true⟩), (9, ⟨List.replicate 192 0, true⟩), (14, ⟨List.replicate 192 0, false⟩)] [(1, flatImage 0 191)]
    opAt s 1 4 5 ∧ streamNow s 1 4 5 1 0 0 (flat 0 191) ∧ beatOn s 1 4 0 (List.replicate 192 1) true ∧ beatOn s 1 4 1 (List.replicate 192 0) true
    ∧ beatOn s 1 4 2 (List.replicate 192 0) false ∧ (flat 0 191).run * (flat 0 191).width ≤ 6144 ∧ (flat 0 191).width ≤ 32
    ∧ (0 + 1 == (flat 0 191).runs) = true ∧ mayTouch s 1 4 5 true (flat 0 191) 0 192 :=
  ⟨onStrand_opAt .., ⟨rfl, ⟨_, rfl, rfl⟩, by decide, by decide⟩, ⟨rfl, rfl⟩, ⟨rfl, rfl⟩, ⟨rfl, rfl⟩, by decide, by decide, by decide, flat_mayTouch _ _ _ _ _ _ _ _ _ _⟩
theorem witness_StmSendsMail :
    let s := onStrand 4 [(4, ⟨List.replicate 192 1, true⟩)] []
    let x := s.braid 1
    let far := s.modBraid 1 fun x => { x with jobsOpen := [{ openOne with job := { openOne.job with xv := true, xdev := 1 } }] }
    opAt s 1 4 5 ∧ openJob s 1 4 5 = some openOne ∧ openOne.job.xv = false ∧ (95#7).toNat < 8 * (s.arc 0).2 ∧ s.divided = false
    ∧ x.sendQ.length + x.sendsDue < 16 ∧ beatOn s 1 4 0 (List.replicate 192 1) true ∧ thas x.arriving (5 * 3 + 4) = false
    ∧ ¬((96#7).toNat < 8 * (s.arc 0).2) ∧ (∃ j, openJob far 1 4 5 = some j ∧ j.job.xv = true ∧ beatOn far 1 4 0 (List.replicate 192 1) true) :=
  ⟨onStrand_opAt .., rfl, rfl, by decide, by decide, by decide, ⟨rfl, rfl⟩, by decide, by decide, ⟨_, rfl, rfl, ⟨rfl, rfl⟩⟩⟩
theorem witness_ScanOpsStep :
    let s := onStrand 2 [(2, ⟨List.replicate 192 1, true⟩), (7, ⟨List.replicate 192 1, true⟩)]
      [(0, flatImage 0 1535), (1, flatImage 0 7), (2, flatImage 13 767), (3, flatImage 13 7), (4, flatImage 0 1727), (5, flatImage 0 7), (6, flatImage 0 191)]
    let v := (s.braid 1).scanView (s.strand 1 2).bank 5
    let may (e1 first cnt : Nat) : Prop := mayRead s 1 2 5 v (v.awareAddr (s.strand 1 2).bank) (flat 0 e1) first cnt
    opAt s 1 2 5 ∧ (beatOn s 1 2 0 (List.replicate 192 1) ((s.strand 1 2).q == (0#10).toNat) ∧ beatOn s 1 2 1 (List.replicate 192 1) ((s.strand 1 2).q == (0#10).toNat))
    ∧ (streamNow s 1 2 5 0 0 0 (flat 0 1535) ∧ streamNow s 1 2 5 (0 ^^^ 1) 1 0 (flat 0 7) ∧ (flat 0 1535).count = 8 * 192 ∧ (flat 0 7).count = ((0#10).toNat + 1) * 8)
    ∧ (streamNow s 1 2 5 2 0 0 (flat 13 767) ∧ streamNow s 1 2 5 3 1 0 (flat 13 7) ∧ (flat 13 767).count = 8 * 96 ∧ (flat 13 7).count = ((0#10).toNat + 1) * 8)
    ∧ (streamNow s 1 2 5 5 0 0 (flat 0 7) ∧ streamNow s 1 2 5 4 1 0 (flat 0 1727) ∧ (flat 0 1727).count = ((0#10).toNat + 1) * (9 * 192))
    ∧ (streamNow s 1 2 5 4 1 0 (flat 0 1727) ∧ may 1727 0 1728) ∧ (streamNow s 1 2 5 6 0 0 (flat 0 191) ∧ (flat 0 191).count = 1 * ((0#10).toNat + 1) * 192)
    ∧ (flat 0 1535).count = ((0#10).toNat + 1) * 1536 ∧ may 1535 0 1536 ∧ may 7 0 8 ∧ mayTouch s 1 2 5 true (flat 0 1535) 0 1536 ∧ mayTouch s 1 2 5 true (flat 0 1727) 192 1536 := by
  have st (i x : Nat) (f e1 : Nat) (h : parseSpb (tget 0 ((onStrand 2 [(2, ⟨List.replicate 192 1, true⟩), (7, ⟨List.replicate 192 1, true⟩)]
      [(0, flatImage 0 1535), (1, flatImage 0 7), (2, flatImage 13 767), (3, flatImage 13 7), (4, flatImage 0 1727), (5, flatImage 0 7), (6, flatImage 0 191)]).strand 1 2).spb i)
        = some (flat f e1)) (h7 : i ≠ 7) (hr : (flat f e1).inRange = true) (hm : (flat f e1).mailByte = none) :
      streamNow (onStrand 2 [(2, ⟨List.replicate 192 1, true⟩), (7, ⟨List.replicate 192 1, true⟩)]
        [(0, flatImage 0 1535), (1, flatImage 0 7), (2, flatImage 13 767), (3, flatImage 13 7), (4, flatImage 0 1727), (5, flatImage 0 7), (6, flatImage 0 191)]) 1 2 5 i x 0 (flat f e1) :=
    ⟨rfl, ⟨_, h, by rw [if_neg h7]⟩, hr, hm⟩
  exact ⟨onStrand_opAt .., ⟨⟨rfl, rfl⟩, ⟨rfl, rfl⟩⟩,
    ⟨st 0 0 0 1535 rfl (by decide) (by decide) (by decide), st 1 1 0 7 rfl (by decide) (by decide) (by decide), by decide, by decide⟩,
    ⟨st 2 0 13 767 rfl (by decide) (by decide) (by decide), st 3 1 13 7 rfl (by decide) (by decide) (by decide), by decide, by decide⟩,
    ⟨st 5 0 0 7 rfl (by decide) (by decide) (by decide), st 4 1 0 1727 rfl (by decide) (by decide) (by decide), by decide⟩,
    ⟨st 4 1 0 1727 rfl (by decide) (by decide) (by decide), flat_mayRead _ _ _ _ _ _ _ _ _ _ _ rfl⟩, ⟨st 6 0 0 191 rfl (by decide) (by decide) (by decide), by decide⟩,
    by decide, flat_mayRead _ _ _ _ _ _ _ _ _ _ _ rfl, flat_mayRead _ _ _ _ _ _ _ _ _ _ _ rfl, flat_mayTouch _ _ _ _ _ _ _ _ _ _, flat_mayTouch _ _ _ _ _ _ _ _ _ _⟩
/-! States that meet the hypotheses of the statements: the device's events. -/
/-- Memory is in order where the L2s hold nothing. -/
theorem memOk_of (s : State) (h : Memory.wf s.mem.mem = true) (w : s.mem.l2w = []) (e : s.mem.l2e = []) (d : s.mem.l2Data = []) (k : s.mem.l2Key = []) :
    s.memOk :=
  ⟨h, by simp [w], by simp [e], by simp [w], by simp [e], fun ln => by simp [d, k, MemSide.l2State, w, e, thas]⟩

theorem witness_mapped_memory : (mapped State.reset [(0x208000, 1)]).memOk ∧ (mapped State.reset []).translate 0 0 .seqRead 0x8000 = .ok 0x208000 0x20007F :=
  ⟨memOk_of _ rfl rfl rfl rfl rfl, by decide⟩

theorem witness_MemoryReadsAfterAWrite :
    let s := mapped State.reset []
    s.memOk ∧ isLpddr 0x40 = true ∧ thas s.mem.l2Data (0x41 / 64) = thas s.mem.l2Key (0x41 / 64) ∧ 0x41 / 64 = 0x40 / 64 ∧ 0x80 / 64 ≠ 0x40 / 64 :=
  ⟨memOk_of _ rfl rfl rfl rfl rfl, by decide⟩
theorem witness_JobsStart :
    let j : Job := { someJob with smask := 9 }
    let s := onBraid 1 0 0 { b0 := { taskBank [] with jobs := [j] } }
    let clash : OpenJob := { openOne with job := { openOne.job with regions := [0x80000000], smask := 2 } }
    let t := onBraid 1 1 0 { b0 := { taskBank [] with jobs := [{ j with spbld := [1, 0, 0, 0, 0], entry := [0xB00100, 0, 0, 0, 0] }] } }
    let u := onBraid 1 0 0 { b0 := { taskBank [] with jobs := [j] }, strands := [(0, { job := some 5 })], jobsOpen := [openOne] }
    (s.cur = .agent 1 0 0 ∧ (s.bank 1 0).jobs = j :: [] ∧ s.jobReady 1 0 j = true ∧ s.jobErrs 1 0 j = [])
    ∧ (s.jobReady 1 0 { j with at_ := 17 } = false ∧ s.cycle < 17 + 4)
    ∧ (t.jobReady 1 0 ((t.bank 1 0).jobs.headD j) = true ∧ ((t.jobErrs 1 0 ((t.bank 1 0).jobs.headD j)).least).isSome = true)
    ∧ (bitAt j.smask 0 = true ∧ (u.strand 1 0).job.isSome = true) ∧ clash.bank = 0 := by decide
theorem witness_JobsEndAtTheirRendezvous :
    let done : OpenJob := { openOne with joined := [0, 1, 2, 3, 4] }
    let s := onBraid 1 0 5 { b0 := taskBank [], jobsOpen := [done] }
    let mine (o : OpenJob) : Prop := o.bank = 0 ∧ o.job.num = 5
    ((s.braid 1).jobsOpen = [] ++ done :: [] ∧ mine done ∧ (∀ p < 5, bitAt done.job.smask p = true → p ∈ done.joined) ∧ done.stm = 0
      ∧ (∀ p ∈ (s.braid 1).pend, ¬(p.bank = 0 ∧ p.job = 5)) ∧ ¬(∃ e ∈ done.resv, 0 < e.2))
    ∧ (∃ e ∈ ({ done with resv := [(4, 1)] } : OpenJob).resv, 0 < e.2)
    ∧ ¬(∀ p < 5, bitAt openOne.job.smask p = true → p ∈ openOne.joined) ∧ ({ done with job := { done.job with maxc := 21 } } : OpenJob).job.maxc ≤ s.cycle - done.start + 1
    ∧ s.cycle - done.start + 1 < openOne.job.maxc ∧ 5 < 2 ^ 28 := by decide
/-- A packet of braid 3 for braid 1. -/
def someMail : Packet := ⟨0, 3, 1, 0, 8180, 1, 0, 0, .mail [] 0 0⟩
/-- A result of job 5 due in the present cycle. -/
def dueNow (k : Nat) (e : Eff) : Pend := ⟨20, k, 0, 5, 0, 1, e⟩
theorem witness_ResultsLand :
    let s := onBraid 0 0 0 { b0 := taskBank [], jobsOpen := [openOne], strands := [(3, { job := some 5 })], pend := [dueNow 3 (.vreg 3 [] 1)] }
    let t := onBraid 0 0 0 { b0 := taskBank [], b1 := { w := [(0, true)] }, jobsOpen := [openOne], strands := [(3, { job := some 5 })], pend := [dueNow 3 (.sram [⟨63, 1, 0xFF⟩] true)] }
    (s.braid 1).pend = [] ++ dueNow 3 (.vreg 3 [] 1) :: [] ∧ (∀ q ∈ ([] : List Pend), s.cycle < q.due ∨ q.eff.late ≠ false) ∧ (dueNow 3 (.vreg 3 [] 1)).due ≤ s.cycle
    ∧ s.agent.2.2 ≠ 1 ∧ (∃ o ∈ (s.braid 1).jobsOpen, o.bank = 0 ∧ o.job.num = 5) ∧ (dueNow 3 .mismatch).bank < 2 ∧ (dueNow 3 .mismatch).pos < 5
    ∧ (granuleOf 63 = some 0 ∧ tget false ((t.braid 1).bank (1 - 0)).w (swapGranule ((t.braid 1).bank 0).curBank 0) = true)
    ∧ (({ someMail with dest := 7 } : Packet).dest ≠ 1 ∧ ∀ o ∈ (s.braid 1).jobsOpen, o.bank = 0 → o.job.num = 5 → o.start = 0)
    ∧ (parseSpb (flatImage 0 0) = some (flat 0 0) ∧ (∀ y ∈ upto ((flat 0 0).addr (0 : Word32).toInt.toNat) (flat 0 0).bytes, y ∉ (s.braid 1).bad)
      ∧ inScratch ((flat 0 0).addr 0) = false ∧ inScratch ((flat 0 0).addr 0 + (flat 0 0).bytes - 1) = false)
    ∧ ∀ e ∈ [Eff.vreg 3 [] 1, .vmask 0 1 1, .acc 0 [], .cbook 0 [], .wbuf 0 ⟨1, []⟩, .stopper 5, .track 0 [] true (BitVec.allOnes 192), .sram [⟨0xBFFFFF, 1, 0xFF⟩] false,
        .mismatch, .send someMail, .gather 0 0 [0] true], ∃ late, e.late = late :=
  ⟨rfl, by decide, by decide, by decide, by decide, by decide, by decide, by decide, by decide, by decide, fun _ _ => ⟨_, rfl⟩⟩
theorem witness_TasksStart :
    let l : Launch := { someLaunch with args := List.replicate 12 0, deliver := [(1, 20)] }
    let s := { onBraid 0 1 0 {} with launches := [l] }
    let r : Spawn := ⟨⟨1, 0, 0, 0, 0, [], List.replicate 12 0⟩, 1, 0, 2, 0, 1, none, 0⟩
    let t := { onBraid 1 0 1 { taskQ := [r] } with launches := [l], cycle := 679 }
    let u := onBraid 1 0 2 { b0 := { taskBank [] with mode := .starting, startAt := 20, x := { began := true } } }
    (s.launch 0 = some l ∧ (∃ e ∈ l.deliver, e.1 = 1 ∧ e.2 ≤ s.cycle) ∧ l.preempted = false ∧ (l.kind = 1 → l.resident = true) ∧ l.wmap = 0 ∧ l.args.length = 12
      ∧ s.stableBlocks l.vi = [])
    ∧ ((t.braid 1).taskQ = r :: [] ∧ t.launch r.launch = some l ∧ (t.braid 1).outOfService = false ∧ (t.braid 1).testEnd = none
      ∧ (t.braid 1).b0.mode.occupies = false ∧ (t.braid 1).b1.mode.occupies = false ∧ (t.braid 1).b0.task = none ∧ (t.braid 1).reserved = none
      ∧ t.refsHold 1 (t.braid 1).runBank r.record.preds = true ∧ r.record.args.length = 12 ∧ r.retired + 679 ≤ t.cycle ∧ ({ t with cycle := 678 } : State).cycle < r.retired + 679
      ∧ t.bankOf 1 l.uid = none ∧ ({ t with braids := [(1, { taskQ := [r], b1 := taskBank [] })] } : State).bankOf 1 l.uid ≠ none)
    ∧ ((u.braid 1).runBank = 0 ∧ (u.bank 1 0).mode = .starting ∧ (u.bank 1 0).x.began = true ∧ (u.bank 1 0).startAt ≤ u.cycle) := by decide
/-- An operation that answers `r` answers it with some state. -/
theorem answers {α : Type} (x : State × α) (r : α) (h : x.2 = r) : ∃ v, x = (v, r) := ⟨x.1, Prod.ext rfl h⟩
/-- Interface 0 with queue 0 of 16 records, its producer index at 0x8000 and its rings below. -/
def queueIface : Iface := mappedIface.setQueue 0 { ring := 0x4000, logn := 4, en := true, pia := 0x8000, cring := 0x5000 }
def withQueue (s : State) (more : Memory) : State := { mapped s more with ifaces := [(0, queueIface)] }
theorem witness_RecordsAreTaken :
    let s := withQueue (onBraid 0 0 0 {}) [(0x208000, 1)]
    let t := withQueue (onBraid 0 0 0 {}) [(0x208000, 17)]
    let u := withQueue (onBraid 0 0 0 {}) []
    let a : State := { u with ifaces := [(0, { queueIface with ptroot := Config.hostBase })] }
    let full : LQueue := { queueIface.queue 0 with ci := 16 }
    let r := withQueue (onBraid 0 0 0 {}) [(0x3008, 0x9F), (0x300D, 0x20), (0x208000, 1)]
    (s.iface 0 = some queueIface ∧ (queueIface.queue 0).en = true ∧ 4 ≤ (queueIface.queue 0).logn ∧ (queueIface.queue 1).en = false ∧ s.boot.ready = true
      ∧ s.admin.linkDown = false)
    ∧ (∃ s1, u.readPi 0 0x8000 = (s1, .got 0)) ∧ (∃ s1 ln, a.readPi 0 0x8000 = (s1, .away ln)) ∧ (∃ s1, t.readPi 0 0x8000 = (s1, .got 17))
    ∧ ((full.ci + 2 ^ 32 - full.cci) % 2 ^ 32 = 2 ^ full.logn ∧ 17 = (full.ci + 1) % 2 ^ 32)
    ∧ (∃ ln, (r.readPi 0 0x8000).2 = .got 1 ∧ ((r.readPi 0 0x8000).1.seqRead 0 0x200000 64).2 = .error (.away ln))
    ∧ (s.readPi 0 0x8000).2 = .got 1 ∧ ∃ b, ((s.readPi 0 0x8000).1.seqRead 0 0x4000 64).2 = .ok b
      ∧ (((s.readPi 0 0x8000).1.seqRead 0 0x4000 64).1.checked b (parseRecord b (s.readPi 0 0x8000).1.launchNext 0 0 0 (s.readPi 0 0x8000).1.cycle)).2.isSome = true
      ∧ ((((s.readPi 0 0x8000).1.seqRead 0 0x4000 64).1.checked b (parseRecord b (s.readPi 0 0x8000).1.launchNext 0 0 0 (s.readPi 0 0x8000).1.cycle)).1.iface 0).isSome = true :=
  ⟨⟨rfl, rfl, by decide, rfl, rfl, rfl⟩, answers _ _ rfl, ⟨_, _, Prod.ext rfl rfl⟩, answers _ _ rfl, by decide, ⟨_, rfl, rfl⟩, rfl, ⟨_, rfl, rfl, rfl⟩⟩
theorem witness_RecordRefused : recordOk [1] (parseRecord [1] 0 0 0 0 0) 96 = false ∧ (parseRecord [1] 0 0 0 0 0).kind ≠ 3 := by decide
theorem witness_LaunchesIssueAndComplete :
    let l : Launch := { someLaunch with issued := false }
    let s := { onBraid 0 0 0 {} with launches := [l] }
    let t := { mapped (onBraid 0 0 0 {}) [] with launches := [{ l with kind := 3 }] }
    let u := { onBraid 0 0 0 { fencedOff := true } with launches := [l] }
    let again : Launch := { l with issued := true, preempted := true }
    let v := { onBraid 0 0 0 { b0 := { taskBank [] with mode := .preempted } } with launches := [again] }
    let w := { withQueue (onBraid 0 0 0 {}) [] with launches := [{ someLaunch with finished := true }] }
    let fenced (s : State) (m : Launch) : Prop := m ∈ s.launches ∧ m.issued = false ∧ ∃ b ∈ m.phys, (s.braid b).fencedOff = true
    (s.chosen false = some l ∧ s.boot.gapTill false ≤ s.cycle ∧ l.issued = false ∧ l.kind = 0 ∧ (∀ m ∈ s.launches, ∀ b ∈ m.phys, (s.braid b).fencedOff = false) ∧ l.argp = 0)
    ∧ s.chosen true = none
    ∧ (∀ m ∈ s.launches, (s.ifaceD m.vi).mode ≠ 1) ∧ (t.chosen false = some { l with kind := 3 } ∧ ∃ ok, t.resOk 0 l.res = some ok)
    ∧ (fenced u l ∧ l.east = false ∧ l.finished = false ∧ (∀ a ∈ u.launches, ∀ b ∈ u.launches, a.uid = b.uid → a = b)) ∧ v.chosen false = some again
    ∧ ¬(({ s with boot := { s.boot with gapW := 21 } } : State).boot.gapTill false ≤ s.cycle)
    ∧ (s.launch 0 = some l ∧ s.launchOver l = false) ∧ (w.launchOver { someLaunch with finished := true } = true)
    ∧ ∃ s1, ({ w with launches := [] } : State).seqWrite 0 0x5000 (completion { someLaunch with finished := true }) = (s1, .ok ()) := by
  refine ⟨by decide, by decide, by decide, ⟨by decide, true, by decide⟩, ⟨by decide, rfl, rfl, ?_⟩, by decide, by decide, by decide, by decide, answers _ _ rfl⟩
  intro a ha b hb _
  rw [List.mem_singleton.mp ha, List.mem_singleton.mp hb]
/-- A prefix launch with its result line at 0x7000, and a state that holds it. -/
def prefixLaunch (op : Nat) : Launch :=
  { someLaunch with kind := 3, op, n := 1, hlist := 0x6000, res := 0x7000, hash := 7, handle := 9, hashes := [7, 0, 0, 0, 0, 0, 0, 0] }
def withPrefix (op : Nat) (handles : Tab Nat) (p : Tab PEntry) : State :=
  { mapped (onBraid 0 0 0 {}) [] with launches := [prefixLaunch op], ifaces := [(0, { mappedIface with handles })], prefix_ := p }
theorem witness_TaskSpillReturns :
    let r : Spawn := ⟨⟨1, 0, 0, 0, 0, [], []⟩, 1, 0, 2, 0, 1, none, 0⟩
    let full : Braid := { taskQ := List.replicate 64 r }
    let s := { onBraid 0 0 0 {} with launches := [{ someLaunch with spill := [r] }] }
    let t := { onBraid 0 0 0 full with launches := [{ someLaunch with spill := [r] }] }
    (s.launch 0 = some { someLaunch with spill := [r] } ∧ (s.braid r.target).taskQ.length < 64) ∧ (∀ o ∈ [r], 64 ≤ (t.braid o.target).taskQ.length) := by decide
theorem witness_PrefixLookups :
    let e : PEntry := ⟨7, 1, 9, 0, 2 ^ 32 - 1⟩
    let s := withPrefix 0 [] [(3, e)]
    let t := withPrefix 0 [] [(3, { e with pin := 65535 })]
    (s.launch 0 = some (prefixLaunch 0) ∧ (prefixLaunch 0).issued = true ∧ (prefixLaunch 0).finished = false ∧ s.resOk 0 0x7000 = some true)
    ∧ (s.longest 0 (prefixLaunch 0).hashes 1 = some (3, e) ∧ ∃ v, (s.prefixPut 3 { e with pin := 1, hits := 0 }).seqWrite 0 0x7000 (resultLine 0 (some { e with pin := 1, hits := 0 })) = (v, .ok ()))
    ∧ (t.longest 0 (prefixLaunch 0).hashes 1 = some (3, { e with pin := 65535 }) ∧ ∃ v, t.seqWrite 0 0x7000 (resultLine 3 none) = (v, .ok ()))
    ∧ ((withPrefix 0 [] []).longest 0 (prefixLaunch 0).hashes 1 = none ∧ ∃ v, (withPrefix 0 [] []).seqWrite 0 0x7000 (resultLine 1 none) = (v, .ok ()))
    ∧ ({ s with ifaces := [(0, someIface)] } : State).resOk 0 0x7000 ≠ some true :=
  ⟨by decide, ⟨by decide, answers _ _ rfl⟩, ⟨by decide, answers _ _ rfl⟩, ⟨by decide, answers _ _ rfl⟩, by decide⟩
theorem witness_PrefixInsertsAndUnpins :
    let e : PEntry := ⟨7, 1, 9, 0, 0⟩
    let other (n : Nat) : PEntry := ⟨8, 1, 9, if n = 0 then 1 else 0, if n = 5 then 2 else 3⟩
    let full (f : Nat → PEntry) : Tab PEntry := (upto 0 64).map fun n => (n, f n)
    let s := withPrefix 1 [(9, 1)] (full other)
    let pinned := withPrefix 1 [(9, 1)] (full fun n => { other n with pin := 1 })
    let found := withPrefix 1 [(9, 1)] [(3, e)]
    let room := withPrefix 1 [(9, 1)] [(0, other 0)]
    let un := withPrefix 2 [] [(3, { e with pin := 2 })]
    ((withPrefix 1 [] []).ifaceD 0).holdsHandle 9 = false ∧ (s.ifaceD 0).holdsHandle 9 = true
    ∧ (found.prefixFind 0 7 1 = some (3, e)) ∧ (room.prefixFind 0 7 1 = none ∧ thas room.prefix_ 1 = false ∧ thas room.prefix_ 0 = true)
    ∧ (s.prefixFind 0 7 1 = none ∧ (∀ m < 64, thas s.prefix_ m = true) ∧ (s.prefix_.map Prod.fst).Pairwise (· < ·)
      ∧ (∀ m < 64, (other m).pin = 0 → (other 5).hits < (other m).hits ∨ ((other 5).hits = (other m).hits ∧ 5 ≤ m)) ∧ (other 5).pin = 0)
    ∧ (∀ m < 64, (tget e pinned.prefix_ m).pin ≠ 0) ∧ (un.prefixFind 0 7 1 = some (3, { e with pin := 2 })) ∧ found.prefixFind 0 7 1 = some (3, e) ∧ e.pin = 0
    ∧ (withPrefix 2 [] []).prefixFind 0 7 1 = none := by decide
theorem witness_PrefixResultsAreWritten :
    let taken : PEntry := ⟨7, 1, 9, 0, 0⟩
    let s := withPrefix 1 [(9, 1)] []
    let w := s.modIface 0 fun i => i.freeQuiet 9
    (∃ v, (s.prefixPut 0 taken).seqWrite 0 0x7000 (resultLine 0 (some taken)) = (v, .ok ())) ∧ (∃ v, w.seqWrite 0 0x7000 (resultLine 0 (some taken)) = (v, .ok ()))
    ∧ (∃ v, (w.prefixPut 5 taken).seqWrite 0 0x7000 (resultLine 0 (some taken)) = (v, .ok ())) ∧ (∃ v, s.seqWrite 0 0x7000 (resultLine 2 none) = (v, .ok ()))
    ∧ (∃ v, s.seqWrite 0 0x7000 (resultLine 4 none) = (v, .ok ())) := ⟨answers _ _ rfl, answers _ _ rfl, answers _ _ rfl, answers _ _ rfl, answers _ _ rfl⟩
theorem witness_RingMovesPackets :
    let p : Packet := ⟨1, 1, 5, 0, 0, 1, 0, 0, .empty⟩
    let s := onBraid 1 0 0 { ctlQ := [p] }
    let own : Packet := { p with dest := 1 }
    let o := onBraid 1 0 0 { ctlQ := [own] }
    let c : Cand := (oldest (s.cands 1 0)).getD ⟨0, ⟨p, 0, false, 0, 0, 0⟩, false⟩
    (s.cur = .agent 1 0 0 ∧ (s.braid 1).ctlQ = p :: [] ∧ p.dest ≠ 1 ∧ oldest (s.cands 1 1) = none)
    ∧ (oldest (s.cands 1 0) = some c ∧ s.crossOf c.key = none ∧ c.x.rank ≠ 0 ∧ c.x.next = 0 ∧ c.x.pkt.flits = 1 ∧ c.x.pkt.ddev = s.cfg.dev)
    ∧ ((o.braid 1).ctlQ = own :: [] ∧ own.dest = 1 ∧ own.ddev = o.cfg.dev ∧ tget 0 (o.braid 1).headAt 1 ≤ o.cycle
      ∧ oldest (((o.modBraid 1 fun x => { x with ctlQ := x.ctlQ.drop 1, headAt := tput x.headAt 1 (o.cycle + 1) }).later (o.cycle + 1) (packetEvent own)).cands 1 0) = none) := by decide
theorem witness_RingMovesFlitsOn :
    let p : Packet := { someMail with dest := 7, flits := 7 }
    let s := { onBraid 1 0 0 {} with links := [(0, { port := [⟨p, 0, false, 0, true, 0⟩] })] }
    ∃ c, oldest (s.cands 1 0) = some c ∧ s.crossOf c.key = none ∧ c.x.rank = 0 ∧ c.key ∉ s.feeders 1 0 := ⟨_, rfl, by decide, by decide, by decide⟩
theorem witness_FlitsArrive :
    let f : Flit := ⟨someMail, 0, false, 0, true, 0⟩
    let on : Flit := { f with pkt := { someMail with dest := 7 } }
    let long : Packet := { someMail with flits := 2 }
    let first : Flit := { f with pkt := long, esc := true }
    let other : Flit := { f with pkt := { long with src := 4 }, esc := true }
    let s (l : Link) := { onBraid 1 0 0 {} with links := [(0, { l with fly := (21, on) :: (20, f) :: [(30, f)] })] }
    let here (f : Flit) : Prop := (s {}).ringDest f.pkt = (s {}).linkTo 0
    ((s {}).feeders 1 0 = [0] ∧ (∀ e ∈ [(21, on)], (s {}).cycle < e.1) ∧ 20 ≤ (s {}).cycle ∧ f.hpOk = true ∧ f.pkt ∉ ((s {}).link 0).dropping)
    ∧ (here f ∧ f.esc = false ∧ f.idx + 1 = f.pkt.flits) ∧ ¬ here on ∧ (here first ∧ first.esc = true ∧ first.idx + 1 ≠ first.pkt.flits)
    ∧ (∃ g ∈ ((s { reasm0 := [other] }).link 0).reasm first.vc, g.pkt ≠ first.pkt) ∧ (∀ g ∈ ((s { reasm0 := [first] }).link 0).reasm first.vc, g.pkt = first.pkt)
    ∧ f.pkt ∈ ((s { dropping := [someMail] }).link 0).dropping ∧ (∀ j ∈ (onBraid 1 0 0 {}).feeders 1 0, ∀ e ∈ ((onBraid 1 0 0 {}).link j).fly, 20 < e.1) := by decide
theorem witness_PacketsAreDelivered :
    let at_ (c : Complete) := { onBraid 1 0 0 {} with links := [(0, { complete := [c] })] }
    let u := at_ ⟨someMail, 19, none⟩
    let v := at_ ⟨someMail, 19, some 0⟩
    (onBraid 1 0 0 {}).deliverable 1 0 = none
    ∧ (u.deliverable 1 0 = some (0, ⟨someMail, 19, none⟩) ∧ tget 0 u.seen (flowOf someMail) = someMail.seq ∧ someMail.ddev = u.cfg.dev)
    ∧ (v.deliverable 1 0 = some (0, ⟨someMail, 19, some 0⟩) ∧ (v.link 0).port = []) := by decide
theorem witness_ReturnWordsAndAudits :
    let w : RetWord := ⟨false, 2, 1, 0⟩
    let v : RetWord := ⟨true, 24, 4, 4⟩
    let l : Link := { words := [(20, w), (20, v)], audits := [(24, 4, 4, false), (24, 3, 4, true)] }
    let s := { onBraid 1 0 0 {} with links := [(0, l)] }
    let x (d : List Nat) := { onBraid 48 0 0 {} with links := [(94, { l with audits := [(24, 4, 4, true)] })], crossings := [(0, { auditsDue := d })] }
    (s.wordLink 1 false false = some (0, 20, w) ∧ s.wordLink 1 false true = some (0, 20, v) ∧ (s.link 0).audits = (24, 4, 4, false) :: [(24, 3, 4, true)]
      ∧ s.crossOf 0 = none) ∧ (s.wordLink 5 false false = none ∧ s.wordLink 5 false true = none)
    ∧ ((x [94]).wordLink 48 false true = some (94, 20, v) ∧ (x [94]).crossOf 94 = some 0 ∧ ((x [94]).link 94).audits = (24, 4, 4, true) :: []
      ∧ 94 ∈ ((x [94]).crossing 0).auditsDue ∧ (∀ j ∈ ((x [94]).crossing 0).auditsDue, j = 94)) ∧ (∃ j ∈ ((x [94, 97]).crossing 0).auditsDue, j ≠ 94)
    ∧ ((x []).crossOf 94 = some 0 ∧ 94 ∉ ((x []).crossing 0).auditsDue) := by decide
theorem witness_AuditsAreSent :
    let s := { onBraid 1 0 0 {} with cycle := 8192, links := [(0, {}), (94, {})], crossings := [(0, { training := true })] }
    let p : Packet := { someMail with dest := 50 }
    (onBraid 1 0 0 {}).cycle % 4096 ≠ 0 ∧ s.cycle % 4096 = 0 ∧ s.hopOpen = false ∧ (s.links.map Prod.fst).count 0 = 1 ∧ s.crossOf 0 = none
    ∧ thas s.links 1 = false ∧ (thas s.links 94 = true ∧ s.auditsNow 94 = false) ∧ someMail.dest < 48 ∧ 48 ≤ p.dest := by decide
theorem witness_MailDoneAndBarriers :
    let s := onBraid 0 0 0 { b0 := { taskBank [] with writerMap := [(8180, 0x83)] } }
    let t := onBraid 0 0 0 { b0 := { taskBank [] with writerMap := [(8185, 0x84)] } }
    let out := onBraid 0 0 0 { held := true }
    let done (arg sq : Nat) : Packet := ⟨1, 3, 1, 0, arg, 1, s.cfg.dev, s.cfg.dev, .ack 0 sq⟩
    let sent (sq : Nat) : Prop := ∃ y, (s.bank 1 0).task = some y ∧ y.sq = sq
    (someMail.arg + 6 ≤ 8192 ∧ (s.braid 1).runBank < 2 ∧ (s.braid 3).runBank < 2 ∧ (s.braid 1).outOfService = false ∧ someMail.src ≠ 1 ∧ someMail.sdev = s.cfg.dev
      ∧ s.mailRefused someMail = false ∧ someMail.body = .mail [] 0 0)
    ∧ t.mailRefused someMail = true ∧ (out.braid 1).outOfService = true ∧ bitAt 0 0 = false ∧ bitAt 3 0 = true
    ∧ ((done 3 1).body = .ack 0 1 ∧ (done 3 1).dest = 1 ∧ (done 3 1).sdev = s.cfg.dev) ∧ sent 1 ∧ ¬ sent 2 := by
  refine ⟨by decide, by decide, by decide, by decide, by decide, by decide, ⟨_, rfl, rfl⟩, ?_⟩
  rintro ⟨y, h, e⟩
  cases h
  exact absurd e (by decide)
theorem witness_BarrierPackets :
    let y : Task := { someTask with m1 := true }
    let a : Arrive := ⟨1, false, 7, none, false, false, []⟩
    let k : Bank := { taskBank [] with task := some y, arrive := some a }
    let s := { (onBraid 0 0 0 { b0 := k }).setBraid 2 { b0 := k } with launches := [someLaunch] }
    let bara : Packet := ⟨2, 2, 1, 0, 2048 + 7, 1, 0, 0, .empty⟩
    let barr : Packet := ⟨3, 1, 2, 0, 2048 + 7, 1, 0, 0, .empty⟩
    let early : Packet := { bara with arg := 2048 + 8 }
    ((s.bank 2 0).task = some y ∧ (s.bank 2 0).arrive = some a ∧ a.level = bara.arg / 2048 % 4 ∧ a.gen = bara.arg % 2048 ∧ a.released = false
      ∧ (s.members 2 0 (bara.arg / 2048 % 4)).headD 2 = bara.dest ∧ 0 = (s.braid 2).runBank)
    ∧ ((s.bank 2 0).arrive = some a ∧ a.level = barr.arg / 2048 % 4 ∧ a.gen = barr.arg % 2048 ∧ (s.members 2 0 (barr.arg / 2048 % 4)).headD 2 = barr.src)
    ∧ a.gen ≠ early.arg % 2048 ∧ (s.bank 2 1).arrive = none := by decide
theorem witness_LinesAndAmosAtTheirHome :
    let s := onBraid 0 0 0 { b0 := taskBank [] }
    let h := Config.hostBase
    let k (c : Ctx) := onBraid 0 0 0 { b0 := { taskBank [] with x := c } }
    let p : Packet := ⟨11, 2, 9, 0, 3, 1, 0, 0, .amo 0x40 0 true false 1 0 0 0 .X⟩
    let asked := s.setMem { s.mem with hostAsked := [h / 64] }
    let busy : State := { s with boot := { s.boot with gapW := 21, gapE := 21 } }
    s.memOk ∧ (busy.cycle < busy.boot.gapTill (Braid.isEast 9) ∧ s.boot.gapTill (Braid.isEast 9) ≤ s.cycle)
    ∧ ((isHost 0x40 = true → s.mem.holds 1 = true) ∧ isLpddr 0x40 = true ∧ s.linePoison 1 = false)
    ∧ (isHost h = true ∧ s.mem.holds (h / 64) = false ∧ s.mem.hostAsked.contains (h / 64) = false ∧ asked.mem.hostAsked.contains (h / 64) = true)
    ∧ ((((k { stale := [1] }).bank 1 0).ctx .X).stale.contains (0x40 / 64) = true)
    ∧ ((((k { missing := [1] }).bank 1 0).ctx .X).missing.contains (0x40 / 64) = true ∧ (((k { missing := [1] }).bank 1 0).ctx .X).stale.contains 1 = false)
    ∧ ((((k {}).bank 1 0).ctx .X).missing.contains 1 = false ∧ (((k {}).bank 1 0).ctx .X).stale.contains 1 = false)
    ∧ (p.dest ≠ p.src ∧ 0x40 % 8 = 0 ∧ homeEast 0x40 = Braid.isEast p.src)
    ∧ (homeEast 0x1000 ≠ Braid.isEast 2 ∧ (∀ q ∈ tget [] s.mem.amoPairs (pairKey 57 2), q.1 ≠ 3)
      ∧ (tget [] ({ s.mem with amoPairs := [(pairKey 57 2, [(3, 9)])] } : MemSide).amoPairs (pairKey 57 2)).find? (fun q : Nat × Word64 => q.1 == 3) = some (3, 9))
    ∧ ((((k { amo := some p }).bank 1 0).ctx .X).amoOld = none ∧ (((k { amo := some p }).bank 1 0).ctx .X).amo = some p)
    ∧ (p.arg = 3 ∧ p.dest = 9 ∧ ({ p with dest := 1, src := 9 } : Packet).arg = p.arg ∧ ({ p with dest := 1, src := 9 } : Packet).src = p.dest
      ∧ ({ p with src := 8 } : Packet).src ≠ p.dest) :=
  ⟨memOk_of _ rfl rfl rfl rfl rfl, by decide⟩
theorem witness_PreparationsRecordsAndGains :
    let r : Spawn := ⟨⟨1, 0, 0, 0, 0, [], []⟩, 1, 0, 2, 0, 1, none, 0⟩
    let full : Braid := { taskQ := List.replicate 64 r }
    let l : Launch := { someLaunch with tspb := 0x4000, tsps := 1 }
    let s := { mapped (onBraid 0 0 0 { b0 := taskBank [] }) [] with launches := [l] }
    let l1 : Launch := { l with spill := [r] }
    let none_ := { (onBraid 0 0 0 full).setBraid 2 { b0 := taskBank [] } with launches := [someLaunch] }
    let chan (c : Chan) := onBraid 0 0 0 { b0 := { taskBank [] with chans := [(2, c)] } }
    let busy : State := { s with boot := { s.boot with gapW := 21, gapE := 21 } }
    let live (s : State) (r : Spawn) (l : Launch) : Prop :=
      l.status = 0 ∧ l.doomed = false ∧ ∀ e ∈ s.heaps, ∀ n, r.round = some (e.1, n) → e.2.launch = l.uid → n ∉ e.2.voided
    (someMail.dest ≠ someMail.src) ∧ (isHost (64 * 1) = false ∧ isLpddr (64 * 1) = true ∧ s.linePoison 1 = false)
    ∧ (busy.cycle < busy.boot.gapTill (Braid.isEast 8) ∧ s.boot.gapTill (Braid.isEast 8) ≤ s.cycle)
    ∧ (isHost (64 * (Config.hostBase / 64)) = true ∧ s.mem.holds (Config.hostBase / 64) = false)
    ∧ (((chan { ask := 3 }).bank 1 0).chan 2).asked = false
    ∧ ((((chan { asked := true, ask := 3 }).bank 1 0).chan 2).asked = true ∧ (((chan { asked := true, ask := 3 }).bank 1 0).chan 2).ask = 3) ∧ ([1, 2] : List Nat).Nodup
    ∧ ((((chan { lasts := [⟨someCopy false 0, 0, 2, 1, [], []⟩] }).bank 1 0).chan 2).lasts[0]?.map LastPiece.ask = some 2)
    ∧ (∃ k : LineLock, k.line = 1 ∧ k.braid = 1 ∧ sliceStop (64 * k.line) = sliceStop 64)
    ∧ (s.launch r.launch = some l ∧ l.spill = [] ∧ (s.braid r.target).taskQ.length < 64)
    ∧ ((∃ q ∈ l1.spill, q.target = r.target) ∧ 128 * (l1.spill.length + 1) ≤ l1.tsps * 1024
      ∧ (s.seqTouch l1.vi .seqWrite (l1.tspb + 128 * l1.spill.length) 128).2.isOk = true)
    ∧ (64 ≤ (none_.braid r.target).taskQ.length ∧ someLaunch.tsps * 1024 < 128 * (someLaunch.spill.length + 1) ∧ (none_.bank r.spawner r.spawnerBank).task = some someTask ∧ someTask.launch = r.launch ∧ someTask.sq = r.sq)
    ∧ live s r l ∧ ¬ live s r { l with doomed := true } := by
  refine ⟨by decide, by decide, by decide, by decide, by decide, by decide, by decide, rfl, ⟨⟨1, 1, 0, 2, 0⟩, rfl, rfl, rfl⟩, by decide, ⟨by decide, by decide, by decide +kernel⟩, by decide,
    ⟨rfl, rfl, ?_⟩, fun h => by cases h.2.1⟩
  intro e he; cases he
theorem witness_GainsReachTheirHeap :
    let o : HeapOp := ⟨.add, 0, 0, 5, 1, 0, 0, 1, 0, 0, none, 0, none⟩
    let s (h : Heap) := { onBraid 0 0 0 { b0 := taskBank [] } with heaps := [(0, h)] }
    let run : Heap := { someHeap with st := .run, roundOpen := true, tries := 2, round := 1 }
    ((s someHeap).heap (16 * o.die + o.heap) = some someHeap ∧ someHeap.st ≠ .run ∧ someHeap.st = .fill)
    ∧ ((s run).heap 0 = some run ∧ run.paused = false ∧ run.tries = 2 ∧ o.launch = run.launch ∧ (1 : Nat) ≠ run.tries) ∧ ({ run with roundOpen := false } : Heap).roundOpen = false
    ∧ (((s run).bank o.braid o.bank).task = some someTask ∧ someTask.launch = o.launch ∧ someTask.tid = o.issuer ∧ someTask.tid ≠ 1) := by decide
/-- A line of DOMAIN page data, and a task's part of an event. -/
def somePart : Part := ⟨1, 0, 0, 0, [⟨0x1000, [(0, ⟨7, 0, false, .X, false, none, []⟩)], 0, false, ⟨1, 2, 0⟩, none⟩], [], [], []⟩
theorem witness_CommitEventsRun :
    let a : Arrive := ⟨0, false, 0, none, false, false, []⟩
    let s := onBraid 1 0 0 { b0 := { taskBank [] with arrive := some a } }
    let b : Arrive := ⟨1, false, 7, none, false, false, []⟩
    let two := { onBraid 1 0 0 { b0 := { taskBank [] with task := some { someTask with m1 := true }, arrive := some b }, baras := [(0, 1, 7, 2)] } with launches := [someLaunch] }
    let q : Part := { somePart with braid := 2, tid := 1 }
    let ps := sortBy Part.before ((s.partBanks 1 0 0).map fun e => s.partOf e.1 e.2)
    (s.cur = .agent 1 0 0 ∧ (s.bank 1 0).arrive = some a ∧ (s.bank 1 0).task = some someTask ∧ (s.bank 1 0).mode = .running ∧ (s.members 1 0 0).headD 1 = 1 ∧ (∀ m ∈ s.members 1 0 0, m ≠ 1 → (0, 0, 0, m) ∈ (s.braid 1).baras) ∧ eventCheck 0 ps = none)
    ∧ ((two.members 1 0 1).headD 1 = 1 ∧ (∀ m ∈ two.members 1 0 1, m ≠ 1 → (0, 1, 7, m) ∈ (two.braid 1).baras) ∧ ¬(∀ m ∈ two.members 1 0 1, m ≠ 1 → (0, 1, 8, m) ∈ (two.braid 1).baras) ∧ (two.members 1 0 1).length = 2)
    ∧ ((eventCheck 1 [somePart]).isSome = true ∧ (∃ l ∈ somePart.allLines, l.page.kind = 1 ∧ 1 < l.page.olev ∧ ∃ e ∈ l.bytes, 0x1000 = l.pa + e.1))
    ∧ (∃ l ∈ somePart.allLines, ∃ m ∈ q.allLines, l.pa = m.pa ∧ ∃ e ∈ l.bytes, thas m.bytes e.1 = true) ∧ (eventCheck 2 [somePart, q]).isSome = true := by
  refine ⟨?_, ?_, ?_, ?_, ?_⟩ <;> decide
theorem witness_CommitEventsApply :
    let a : Arrive := ⟨0, false, 0, some 4, false, false, []⟩
    let red : Part := { somePart with lines := [], reds := [⟨0, ⟨0x40, 1, false, true, false, 3, 0, 8, 0⟩, false⟩] }
    let at_ (z : Nat) (e : Event) := { onBraid 4 0 z { b0 := { taskBank [] with arrive := some a } } with events := [(4, e)], eventNext := 5 }
    let e : Event := ⟨0, 0, none, [somePart], false, 0⟩
    let t := at_ 0 e
    let r : Event := { e with parts := [red] }
    let u := at_ 0 { e with begun := true }
    let h : Heap := { someHeap with committing := true }
    let v := { at_ 0 { e with begun := true, round := some (0, 3) } with heaps := [(3, h)] }
    let b : Arrive := ⟨1, false, 7, none, true, false, [2]⟩
    let w := { onBraid 1 0 1 { b0 := { taskBank [] with task := some { someTask with m1 := true }, arrive := some b } } with launches := [someLaunch] }
    let full : State := w.modBraid 1 fun x => { x with ctlQ := List.replicate 32 someMail }
    let cells := (e.parts.map fun p => (p.groups.map fun g => (g.2.2.map MLine.cells).flatten).flatten).flatten
    t.memOk ∧ (t.cur = .agent 4 0 0 ∧ t.events.find? (fun e => e.1 == 4) = some (4, e) ∧ t.iface e.vi = some someIface ∧ e.left = 0 ∧ (∀ p ∈ e.parts, p.bank < 2 ∧ p.reds = [])
      ∧ isLpddr 0x1000 = true ∧ cells.reverse.find? (fun x => x.1 == 0x1000) = some (0x1000, 7) ∧ t.mem.locks = []
      ∧ (∀ x ∈ cells, x.1 / 64 ≠ 0x2000 / 64) ∧ (∀ x ∈ cells, x.1 ≠ 0x1001) ∧ t.mem.storedKey (0x1001 / 64) = 0
      ∧ thas t.mem.l2Data (0x1001 / 64) = thas t.mem.l2Key (0x1001 / 64))
    ∧ (∃ k : LineLock, ∃ p ∈ e.parts, ∃ l ∈ p.allLines, l.pa / 64 = k.line)
    ∧ (r.parts = [red] ∧ red.allLines = [] ∧ isLpddr 0x40 = true ∧ (4 : Nat) ≤ 8 ∧ 0x40 % 4 = 0)
    ∧ (({ e with begun := true } : Event).begun = true ∧ u.events.find? (fun e => e.1 == 4) = some (4, { e with begun := true }) ∧ (u.bank 1 0).arrive = some a)
    ∧ (v.heap (16 * 0 + 3) = some h ∧ h.members.Nodup)
    ∧ (w.cur = .agent 1 0 1 ∧ (w.bank 1 0).arrive = some b ∧ (w.members 1 0 b.level).headD 1 = 1 ∧ (w.braid 1).ctlQ.length + b.barr.length ≤ 32)
    ∧ (b.barr = [] ++ [2] ∧ (full.braid 1).ctlQ.length + 0 = 32) := by
  refine ⟨memOk_of _ rfl rfl rfl rfl rfl, by decide, ⟨⟨64, 1, 0, 2, 0⟩, _, .head _, _, .head _, rfl⟩, ?_⟩
  decide
theorem witness_HeapRoundsRun :
    let e : HEntry := ⟨5, 0x3F800000, 0x600000, List.replicate 12 0, false⟩
    let ins : HeapOp := ⟨.insert, 0, 0, 5, 0x3F800000, 0, 0, 1, 0, 0, none, 0, some ⟨5, 0x3F800000, 0x600000, 0, 1, [], List.replicate 12 0⟩⟩
    let bad : HeapOp := { ins with x := 0xFF800000 }
    let h : Heap := { someHeap with heldOps := [ins] }
    let s := { onBraid 0 0 0 {} with heaps := [(0, h)], launches := [someLaunch] }
    let run : Heap := { someHeap with st := .run, entries := [e] }
    let tight : Heap := { someHeap with cap := 0 }
    let ended : Heap := { run with roundOpen := true, popped := [(5, 0x3F800000, 0x600000, [])], started := [0], ended := [0] }
    (s.cur = .agent 0 0 0 ∧ s.heap 0 = some h ∧ h.st = .fill ∧ s.fillOver h = true ∧ (h.applyAll (batchOrder h.heldOps)).isOk = true)
    ∧ (({ h with heldOps := [bad] } : Heap).applyAll (batchOrder [bad])).isOk = false ∧ ({ s with launches := [{ someLaunch with issued := false }] } : State).fillOver h = false
    ∧ (run.pop ≠ [] ∧ ({ run with entries := [] } : Heap).pop = [] ∧ ({ run with updating := true } : Heap).updating = true ∧ (run.applyAll (batchOrder run.heldOps)).isOk = true)
    ∧ (ended.ended.length = ended.popped.length ∧ eventCheck ended.level (sortBy Part.before ended.parts) = none ∧ ({ ended with ended := [] } : Heap).ended.length ≠ 1)
    ∧ ((∃ e ∈ run.entries, 0 < e.gain.toNat) ∧ 0 < run.k ∧ gainOk bad.x = false ∧ gainOk ins.x = true ∧ (∀ e ∈ someHeap.entries, e.tid ≠ ins.target)
        ∧ tight.cap ≤ tight.entries.length ∧ someHeap.entries.length < someHeap.cap ∧ tight.applyOp ins = none)
    ∧ (run.entries = [] ++ e :: [] ∧ ins.target = e.tid ∧ ({ ins with kind := .add } : HeapOp).kind ≠ .insert) := by decide
theorem witness_RoundTasksStart :
    let popped : List (Nat × Word32 × Nat × List Word64) := [(5, 0x3F800000, 0x600000, List.replicate 12 0), (6, 0x3F800000, 0x600000, List.replicate 12 0)]
    let h : Heap := { someHeap with st := .run, roundOpen := true, popped, started := [0], ended := [0] }
    let at_ (i : Nat) (h : Heap) := { onBraid 0 0 i {} with heaps := [(0, h)], launches := [someLaunch] }
    let t := at_ 0 { h with started := [], ended := [] }
    ((at_ 1 h).cur = .agent 0 0 1 ∧ (at_ 1 h).heap 0 = some h ∧ h.popped[1]? = some (6, 0x3F800000, 0x600000, List.replicate 12 0) ∧ h.started.contains 1 = false
      ∧ ¬ 1 < h.members.length ∧ h.ended.contains (1 - h.members.length) = true)
    ∧ (t.launch 0 = some someLaunch ∧ (List.replicate 12 (0 : Word64)).length = 12 ∧ someLaunch.wmap = 0 ∧ 0 < h.members.length ∧ someLaunch.doomed = false ∧ someLaunch.preempted = false
        ∧ (t.braid 1).outOfService = false ∧ (t.braid 1).b0.mode.occupies = false ∧ (t.braid 1).b1.mode.occupies = false ∧ (t.braid 1).b0.task = none
        ∧ t.bankOf 1 someLaunch.uid = none) := by decide
/-- Channel 2 of braid 1 stands as `h` says with command `c` first; the page at 0x2000000 is translated. -/
def onChannel (c : CopyCmd) (h : Chan) (k : Bank := taskBank []) : State :=
  let l : Launch := { someLaunch with ovfs := 1 }
  paged { mapped (onBraid 1 0 2 { b0 := { k with chans := [(2, { h with queue := [c], tlb := [⟨0, 0x2000000, false, farLeaf 0, 0⟩], pages := [(512, 0x30000, farLeaf 0)] })] } }) [] with launches := [l] } 0x1F 1
/-- A copy of one element at 0x2000000. -/
def farCopy (isOut : Bool) (op : Nat) : CopyCmd := { someCopy isOut op with base := 0x2000000 }
theorem witness_CopiesStart :
    let c := farCopy false 0
    let s := onChannel c {}
    let h := (s.bank 1 0).chan 2
    let out : CopyCmd := { farCopy true 0 with src := true }
    let tile : DrainTile := ⟨[1], 9, true⟩
    let bad := onChannel out { tile := some tile }
    let lost := onChannel { c with base := 0x4000000 } {}
    let f : FaultInfo := { code := 9, src := 0, ctx := c.ctx, epc := c.pc, va := 0x4000000, engine := true }
    let failed (k : Bank) := onChannel c { failing := some f } k
    let walk (s : State) (c : CopyCmd) := s.walkPages c.vi 1 c.access (firstPages [] (((upto 0 c.count).filter c.inside).map c.elemBytes).flatten) ((s.bank 1 0).chan 2).tlb
    (s.cur = .agent 1 0 2 ∧ h.queue = c :: [] ∧ h.lasts = [] ∧ h.running = false ∧ h.stalled = false ∧ h.failing = none ∧ s.chansRun 1 0 = true
      ∧ s.refsHold 1 0 c.preds = true ∧ c.src = false)
    ∧ (bad.chansRun 1 0 = true ∧ bad.refsHold 1 0 out.preds = true ∧ ((bad.bank 1 0).chan 2).tile = some tile ∧ tile.full = true ∧ tile.fmt ≠ out.fmt)
    ∧ (((failed (taskBank [])).bank 1 0).task.map Task.sq = some c.owner ∧ ((failed {}).bank 1 0).task.map Task.sq ≠ some c.owner
      ∧ (((failed {}).bank 1 0).chan 2).failing = some f)
    ∧ (∃ w tlb pages, walk s c = (w, tlb, .ok pages)) ∧ (∃ w tlb, walk lost { c with base := 0x4000000 } = (w, tlb, .error (.fault 0x4000000 9))) :=
  ⟨by decide, by decide, by decide, ⟨_, _, _, rfl⟩, ⟨_, _, rfl⟩⟩
theorem witness_CopiesRunPieceByPiece :
    let c := farCopy false 0
    let wait := onChannel c { running := true }
    let ready : Chan := { running := true, asked := true }
    let s := onChannel c ready
    let h := (s.bank 1 0).chan 2
    let o := onChannel (farCopy true 0) ready
    let r := onChannel (farCopy true 1) ready
    let made := o.pieceLines 1 0 (farCopy true 0) 0
    let last : LastPiece := ⟨c, 0, 0, 0, [], h.pages⟩
    let left := s.modBank 1 0 fun k => k.setChan 2 { h with queue := [], running := false, asked := false, lasts := [last] }
    (((wait.bank 1 0).chan 2).asked = false ∧ wait.chansRun 1 0 = true ∧ wait.boot.gapTill (Braid.isEast 1) ≤ wait.cycle
      ∧ wait.cycle < ({ wait with boot := { wait.boot with gapW := 21, gapE := 21 } } : State).boot.gapTill (Braid.isEast 1) ∧ ((wait.bank 1 0).chan 2).stalled = false)
    ∧ (h.running = true ∧ h.asked = true ∧ h.awaits = 0 ∧ c.local_ + c.size ≤ 0xC00000 ∧ c.bits_ ≠ 4 ∧ c.pieceElems 0 ≠ []
      ∧ ∀ e ∈ c.pieceBytes h 0, (tget ⟨[], false⟩ h.lines (e.2.1 / 64)).poison = false ∧ leafKind e.2.2 ≠ 2)
    ∧ (made.1.length = 1 ∧ (o.areaPuts 1 0 1 (farCopy true 0).k (farCopy true 0).sid (made.1.zip ((o.bank 1 0).freeEntries made.1.length))).2 = none
      ∧ (farCopy true 0).pieceInside 0 ≠ [])
    ∧ (((left.bank 1 0).chan 2).queue = [] ∧ ((left.bank 1 0).chan 2).lasts = [last] ∧ last.awaits = 0
      ∧ ∀ e ∈ c.pieceBytes { h with lines := last.lines, pages := last.pages } 0, (tget ⟨[], false⟩ last.lines (e.2.1 / 64)).poison = false ∧ leafKind e.2.2 ≠ 2)
    ∧ ((farCopy true 1).fmt = 0 ∧ (farCopy true 1).pieceInside 0 ≠ []
      ∧ ∀ f ∈ (farCopy true 1).pieceInside 0, ∀ i < (farCopy true 1).bytes_, (((r.bank 1 0).chan 2).copyPa ((((farCopy true 1).elemAt f).1 + i) % 2 ^ 48)).isSome = true) := by
  refine ⟨by decide, by decide, ?_, by decide, by decide⟩
  exact ⟨rfl, rfl, by decide⟩
theorem witness_ReeveMovesFrames :
    let c := someReeve false
    let o := someReeve true
    let at_ (c : ReeveCmd) (r : Rv) := { onBraid 1 0 0 { b0 := { taskBank [] with rv := { r with queue := [c] } } } with ifaces := [(0, frameIface)] }
    let s := at_ c {}
    let one := { c with sid := 1 }
    let ready : Rv := { running := true, img := some 1 }
    let full : Iface := { frameIface with images := [(1, ⟨[], 0, 2 ^ 32 - 1⟩)] }
    let begun : Image := frameIface.image 1
    (s.cur = .agent 1 0 0 ∧ (s.bank 1 0).rv.queue = c :: [] ∧ s.iface 0 = some frameIface ∧ s.reeveRuns 1 0 = true ∧ s.refsHold 1 0 c.preds = true
      ∧ s.boot.gapTill (Braid.isEast 1) ≤ s.cycle ∧ (frameIface.session c.sid).cur = none)
    ∧ ((frameIface.session one.sid).cur = some 1 ∧ (frameIface.takeImage 1).isSome = true ∧ (full.session one.sid).cur = some 1 ∧ full.takeImage 1 = none)
    ∧ (((at_ c ready).bank 1 0).rv.img = some 1 ∧ ((at_ c ready).bank 1 0).rv.awaits = 0 ∧ (at_ c ready).rvinPoison c (frameIface.image 1) = none ∧ c.launch = none ∧ c.bank < 2
      ∧ c.first + c.cnt < 24576 ∧ ((at_ c ready).bank 1 0).rv.failing = none)
    ∧ (((at_ c { failing := some 17 }).bank 1 0).rv.failing = some 17 ∧ c.isOut = false ∧ o.isOut = true)
    ∧ (((at_ o { ready with img := none }).bank 1 0).rv.img = none ∧ (frameIface.writeOut ⟨[], 0, 0⟩ o fun _ => List.replicate 64 0).isSome = true)
    ∧ (((at_ o ready).bank 1 0).rv.made = none ∧ ((at_ o { ready with made := some 2 }).bank 1 0).rv.made = some 2 ∧ (frameIface.session o.sid).epoch = o.epoch)
    ∧ (((at_ o ready).bank 1 0).rv.img = some 1 ∧ (frameIface.writeOut begun o fun _ => List.replicate 64 0).isSome = true ∧ (∀ y, some y ∉ begun.slots)) := by
  refine ⟨by decide, by decide, by decide, by decide, ⟨rfl, rfl⟩, by decide, rfl, rfl, fun y h => (List.not_mem_nil h).elim⟩
theorem witness_RvinMeetsPoison :
    let m : Image := ⟨[some 0], 1, 1⟩
    let s : State := (onBraid 1 0 0 {}).setMem { poison := [(({ } : MemSide).slotPa 0 0) / 64] }
    s.rvinPoison (someReeve false) m = some ((({ } : MemSide).slotPa 0 0) / 64) := by decide
/-- A bank suspended by a page that is not present. -/
def someSusp : Susp := ⟨9, 0, .X, 0x600000, false, 0x2000000, none, false, false, 0⟩
/-- No line of host memory stands in West's L2; what the device writes brings none in. -/
def NoHost (s : State) : Prop := s.mem.hostLines = []
theorem noHost_toHost (s : State) (l : List HostOut) (h : NoHost s) : NoHost (s.toHost l) := by
  unfold State.toHost; dsimp only; split <;> exact h
theorem noHost_askLineOf (s : State) (line : Nat) (own na : Bool) (h : NoHost s) : NoHost (s.askLineOf line own na) := noHost_toHost _ _ h
theorem noHost_foldl {α : Type} (f : State → α → State) (hf : ∀ s a, NoHost s → NoHost (f s a)) : ∀ (l : List α) (s : State), NoHost s → NoHost (l.foldl f s)
  | [], _, h => h
  | _ :: r, s, h => noHost_foldl f hf r _ (hf s _ h)
theorem noHost_setL2 (s : State) (east : Bool) (l : List L2Sb) (h : NoHost s) : NoHost (s.setL2 east l) := by cases east <;> exact h
theorem noHost_countHint (s : State) (east : Bool) (h : NoHost s) : NoHost (s.countHint east) := by cases east <;> exact h
theorem noHost_holds (s : State) (line : Nat) (h : NoHost s) : s.mem.holds line = false := by
  unfold MemSide.holds; rw [show s.mem.hostLines = [] from h]; rfl
theorem noHost_l2Drop (s : State) (line : Nat) (d : Bool) (h : NoHost s) : NoHost (s.l2Drop line d) := by
  have e : s.dropHost line = s := by unfold State.dropHost; rw [noHost_holds s line h]; rfl
  unfold State.l2Drop MemSide.wroteBack
  rw [e]
  dsimp only
  split
  · split <;> exact h
  · exact h
theorem noHost_l2Take (s : State) (v line : Nat) (d : Bool) (h : NoHost s) : NoHost (s.l2Take v line d) := by
  have f : NoHost (s.l2Fill v line) := by
    unfold State.l2Fill
    dsimp only
    split
    · exact h
    · unfold NoHost; dsimp only; split <;> exact h
  unfold State.l2Take State.l2Bring
  dsimp only
  split
  · exact noHost_setL2 _ _ _ f
  · split
    · exact noHost_setL2 _ _ _ f
    · exact noHost_foldl _ (fun s _ => noHost_l2Drop s _ _) _ _ (noHost_setL2 _ _ _ f)
theorem noHost_lpWrite (s : State) (v line : Nat) (na : Bool) (l : List (Nat × Byte)) (h : NoHost s) : NoHost (s.lpWrite v line na l) := by
  unfold State.lpWrite
  dsimp only
  split
  · exact noHost_l2Take s v line true h
  · split
    · exact h
    · exact h
    · exact noHost_countHint _ _ h
theorem noHost_hostWrite (s : State) (line : Nat) (na : Bool) (l : List (Nat × Byte)) (h : NoHost s) : NoHost (s.hostWrite line na l) := by
  unfold State.hostWrite
  dsimp only
  rw [noHost_holds s line h]
  exact noHost_askLineOf s line true na h
theorem noHost_homePuts (s : State) (v : Nat) (l : List (Nat × Byte)) (h : NoHost s) : NoHost (s.homePuts v l) := by
  refine noHost_foldl _ (fun s ln h => ?_) _ s h
  split
  · exact noHost_lpWrite s v ln _ l h
  · split
    · exact noHost_hostWrite s ln _ l h
    · exact h
theorem saveRegs_rest (s : State) (b bank : Nat) : ∃ m o, s.saveRegs b bank = { s with mem := m, hostOut := o } := by
  unfold State.saveRegs
  exact ⟨_, _, (State.homePuts_rest _ _ _).trans (by rw [State.homePuts_rest s])⟩
/-- A line whose entry of the area lies behind a table that is away is not spilled. -/
theorem andThen_stops (x : State × Option Stop) (f : State → State × Option Stop) (e : Stop) (h : x.2 = some e) : (andThen x f).2 = some e := by
  obtain ⟨s, r⟩ := x; cases h; rfl
theorem spill_away (u : State) (b bank base n v e ln : Nat) (l : MLine) (hA : u.areaOf (u.bank b bank) = (base, n)) (hv : (u.bank b bank).vi = v)
    (hf : (u.bank b bank).freeEntry = e) (he : ¬ n ≤ e) (ht : u.translate v b .area (base + 128 * e) = .away ln) : (u.spill b bank l).2 = some (.away ln) := by
  unfold State.spill State.areaPut
  dsimp only
  rw [hA, hf, hv]
  dsimp only
  rw [if_neg he, ht]
/-- A bank being suspended whose one written line has its overflow area behind a table in host memory, or behind none. -/
def someLine : MLine := ⟨0x30040, [], 0, false, ⟨0, 0, 1⟩, none⟩
def spilling (i : Iface) : State :=
  { onBraid 1 0 0 { b0 := { taskBank [] with mode := .suspending, susp := some someSusp }, merge := [someLine] } with
    ifaces := [(0, i)], launches := [{ someLaunch with ovfs := 1 }] }
theorem witness_SuspensionOfWrittenLines :
    let s := spilling { someIface with ptv := true, ptroot := Config.hostBase }
    let t := spilling someIface
    ((s.braid 1).merge.reverse = [someLine] ∧ (s.bank 1 0).mode = .suspending ∧ someSusp.cycle ≠ s.cycle)
    ∧ (∃ w ln, (s.saveRegs 1 0).spillAll 1 0 [someLine] = (w, some (.away ln))) ∧ (∃ w va, (t.saveRegs 1 0).spillAll 1 0 [someLine] = (w, some (.fault va 9))) := by
  intro s t
  refine ⟨by decide, ?_, ?_⟩
  · have h : NoHost (s.saveRegs 1 0) := noHost_homePuts _ _ _ (noHost_homePuts _ _ _ rfl)
    obtain ⟨m, o, e⟩ := saveRegs_rest s 1 0
    rw [e] at h ⊢
    refine ⟨_, Config.hostBase / 64, Prod.ext rfl ?_⟩
    cases m
    cases h
    have hv : ∀ u : State, u.translate 0 1 .area 0 = .away (Config.hostBase / 64) → u.serveAt 0 1 .area 0 = (u.askHost (Config.hostBase / 64) false, false) :=
      fun u hu => by unfold State.serveAt; rw [hu]
    show (andThen ((State.serveAt _ 0 1 .area 0).1.spill 1 0 someLine) _).2 = _
    rw [hv _ rfl]
    unfold State.askHost State.askLineOf State.toHost
    dsimp only
    split <;> exact andThen_stops _ _ _ (spill_away _ 1 0 0 8 0 0 _ _ rfl rfl rfl (by decide) rfl)
  · obtain ⟨m, o, e⟩ := saveRegs_rest t 1 0
    rw [e]
    exact ⟨_, 0, Prod.ext rfl rfl⟩
theorem witness_SuspensionAndResumption :
    let at_ (k : Bank) := onBraid 1 0 0 { b0 := k }
    let s := at_ { taskBank [] with mode := .suspending }
    let base : State := { State.reset with ifaces := [(0, { mappedIface with fring := 0x4000, flog := 4, fset := true })] }
    let t := (mapped (at_ { taskBank [] with mode := .suspended, susp := some { someSusp with token := some 6 } }) [])
    let r : State := { t with ifaces := base.ifaces }
    let full : State := { t with ifaces := [(0, { mappedIface with fring := 0x4000, flog := 4, fset := true, fpi := 16 })] }
    let away : State := { t with ifaces := [(0, { mappedIface with fring := 0x4000, flog := 4, fset := true, ptroot := Config.hostBase })] }
    let u := at_ { taskBank [] with mode := .suspended, susp := some { someSusp with token := some 6, posted := true } }
    let light := (mapped (at_ { taskBank [] with mode := .suspended, susp := some { someSusp with code := 10, va := 0 } }) [])
    let dim := light.setMem { light.mem with mem := tset 0 light.mem.mem 0x3000 0x7B }
    let tried (s : State) := (s.postTry 0 (s.recordFault 1 0 someSusp.info 6)).2
    (s.cur = .agent 1 0 0 ∧ (∀ j ∈ (s.braid 1).jobsOpen, j.bank ≠ 0) ∧ (∀ c, ((s.bank 1 0).ctx c).midway = false) ∧ (∀ e ∈ (s.bank 1 0).chans, e.2.asked = false)
      ∧ (s.bank 1 0).rv.running = false ∧ (s.braid 1).runBank = 0 ∧ (s.bank 1 0).mode = .suspending ∧ (s.bank 1 0).susp = none ∧ (s.braid 1).merge = []
      ∧ isLpddr (s.cfg.saveBase + 310272 * 2 + 310271) = true) ∧ (∃ w, (s.saveRegs 1 0).spillAll 1 0 (s.braid 1).merge.reverse = (w, none))
    ∧ ((t.bank 1 0).susp = some { someSusp with token := some 6 } ∧ tried r = .done ∧ tried full = .full ∧ tried away = .away ∧ tried (at_ (taskBank [])) = .dropped)
    ∧ (u.tokenBank 0 6 = some (1, 0, { someSusp with token := some 6, posted := true }) ∧ u.tokenBank 0 7 = none)
    ∧ (dim.translate 0 1 .seqRead 0 = .light 0x3000 false ∧ isLpddr 0x3000 = true) ∧ s.memOk ∧ dim.memOk := by
  refine ⟨⟨rfl, by decide, fun c => by cases c <;> rfl, by decide, rfl, rfl, rfl, rfl, rfl, by decide⟩, ⟨_, rfl⟩, ⟨rfl, rfl, rfl, rfl, rfl⟩, ⟨rfl, rfl⟩, ⟨by decide, by decide⟩,
    memOk_of _ rfl rfl rfl rfl rfl, memOk_of _ rfl rfl rfl rfl rfl⟩
theorem witness_FirstToken :
    let t := (mapped (onBraid 1 0 0 { b0 := { taskBank [] with mode := .suspended, susp := some someSusp } }) [])
    let r : State := { t with ifaces := [(0, { mappedIface with fring := 0x4000, flog := 4, fset := true })] }
    let s1 := (r.modIface 0 fun i => { i with token := 1 }).modSusp 1 0 fun u => { u with token := some 0 }
    (r.ifaceD (r.bank 1 0).vi).token = 0 ∧ ∃ s2, s1.postTry 0 (s1.recordFault 1 0 someSusp.info 0) = (s2, .done) := ⟨rfl, answers _ _ rfl⟩
theorem witness_LightFaultOfASuspendedLoad :
    let s := (mapped (onBraid 1 0 0 { b0 := { taskBank [] with mode := .suspended, susp := some { someSusp with code := 10, va := 0 } } }) [])
    let d := s.setMem { s.mem with mem := tset 0 (tset 0 s.mem.mem 0x3000 0x5B) 0x3006 0 }
    ∃ u, (d.bank 1 0).susp = some u ∧ u.code = 10 ∧ u.answered = false ∧ d.translate 0 1 u.access u.va = .light 0x3000 false := ⟨_, rfl, rfl, rfl, by decide⟩
theorem witness_BanksSwitch :
    let stopped : Bank := { taskBank [] with mode := .preempted }
    let yielded : Bank := { stopped with yielded := true }
    let at_ (b0 b1 : Bank) := onBraid 1 0 0 { b0, b1 }
    let s := at_ stopped {}
    let later : Bank := { stopped with task := some { someTask with started := 9 } }
    let both := at_ stopped later
    let turn := at_ yielded later
    let two := at_ stopped (taskBank [])
    ((s.braid 1).outOfService = false ∧ (s.braid 1).reserved = none ∧ (s.braid 1).testAsked = false ∧ (s.braid 1).testEnd = none
      ∧ (s.braid 1).b0.mode.occupies = false ∧ (s.braid 1).b1.mode.occupies = false)
    ∧ (s.runnable 1 0 = true ∧ s.runnable 1 1 = false) ∧ (both.runnable 1 0 = true ∧ both.runnable 1 1 = true ∧ (both.braid 1).firstBank = 0)
    ∧ (turn.runnable 1 1 = true ∧ (turn.bank 1 (turn.braid 1).runBank).yielded = true ∧ (turn.braid 1).runBank = 1 - 1)
    ∧ ((at_ {} {}).runnable 1 0 = false ∧ (at_ {} {}).runnable 1 1 = false)
    ∧ ((two.braid 1).firstBank = 0 ∧ two.runnable 1 0 = true ∧ (two.bank 1 1).mode = .running ∧ (two.bank 1 1).task.isSome = true) := by decide
theorem witness_StopsAndStalls :
    let s := { onBraid 0 1 0 { b0 := taskBank [] } with launches := [someLaunch] }
    let open_ := onBraid 0 1 0 { b0 := taskBank [], jobsOpen := [openOne] }
    let trapped := { onBraid 0 1 0 { b0 := { taskBank [] with tActive := true }, jobsOpen := [openOne] } with launches := [someLaunch] }
    let l : Launch := { someLaunch with preempted := true }
    let t := { onBraid 0 1 0 { b0 := { taskBank [] with mode := .preempted } } with launches := [l] }
    let stuck : Ctx := { run := true, wait := .queue }
    let u := onBraid 1 0 0 { b0 := { taskBank [] with l := stuck, x := stuck, s := stuck } }
    let ends := onBraid 1 0 1 { b0 := { taskBank [] with mode := .cancelling } }
    let saved := { onBraid 0 1 0 { b0 := { taskBank [] with mode := .suspended } } with launches := [someLaunch] }
    (s.cur = .agent 0 1 0 ∧ s.heapOf 0 = none ∧ s.bankOf 1 0 = some 0 ∧ (s.bank 1 0).mode = .running ∧ s.jobIn 1 0 = false ∧ (s.bank 1 0).arrive = none
      ∧ (s.bank 1 0).task = some someTask ∧ someTask.round = none)
    ∧ (open_.jobIn 1 0 = true ∧ (open_.bank 1 0).tActive = false) ∧ (trapped.jobIn 1 0 = true ∧ (trapped.bank 1 0).tActive = true) ∧ s.bankOf 1 5 = none
    ∧ (ends.cur = .agent 1 0 1 ∧ (ends.bank 1 0).mode = .cancelling ∧ ends.jobIn 1 0 = false)
    ∧ (t.chosen false = some l ∧ l.issued = true ∧ t.heapOf l.uid = none ∧ t.banksOf l = [(1, 0)] ∧ l.deliver = [] ∧ (t.bank 1 0).mode = .preempted)
    ∧ s.chosen false = none ∧ u.stalled 1 = true ∧ s.stalled 1 = false ∧ (u.bank 1 0).stall + 1 < 4096
    ∧ (saved.bankOf 1 0 = some 0 ∧ saved.heapOf 0 = none ∧ (saved.bank 1 0).mode ≠ .running ∧ (saved.bank 1 0).mode ≠ .starting ∧ (saved.bank 1 0).mode ≠ .switching)
    ∧ (1 ∈ ({ someLaunch with discards := [1] } : Launch).discards ∧ 1 ∉ someLaunch.discards)
    ∧ (4096 ≤ 4095 + 1 ∧ (onBraid 1 0 0 { b0 := { taskBank [] with l := stuck, x := stuck, s := stuck, stall := 4095 } }).stalled 1 = true) := by decide
theorem witness_SlotBoundaries :
    let s := { onBraid 0 0 0 {} with cycle := 5 }
    let t := { s with cycle := Config.nsCycles s.dueW }
    let e := { onBraid 1 0 0 {} with cycle := 5 }
    let u := { e with cycle := Config.nsCycles e.dueE.1 }
    let l : Launch := { someLaunch with deadline := 5 }
    let d1 : State := { s with cfg := { s.cfg with dmode := 1 } }
    let late : State := { d1 with cycle := 10 ^ 9 }
    (s.boot.ready = true ∧ s.cur = .agent 0 0 0 ∧ s.cycle < Config.nsCycles s.dueW ∧ Config.nsCycles t.dueW ≤ t.cycle)
    ∧ (e.cur = .agent 1 0 0 ∧ e.cycle < Config.nsCycles e.dueE.1 ∧ Config.nsCycles u.dueE.1 ≤ u.cycle) ∧ State.reset.boot.ready = false
    ∧ (s.clock.announced = none ∧ s.clock.heard = none ∧ s.cfg.dmode = 0 ∧ d1.cfg.dmode ≠ 0)
    ∧ (late.clock.errW = false ∧ late.clock.lastEdge + Config.nsCycles (2 * late.cfg.period) < late.cycle) ∧ s.cycle ≤ s.clock.lastEdge + Config.nsCycles (2 * s.cfg.period)
    ∧ (l.finished = false ∧ l.deadline ≠ 0 ∧ l.deadline ≤ 5 ∧ 4 < l.deadline ∧ l.issued = true ∧ ({ l with issued := false } : Launch).issued = false ∧ l.kind ≠ 3 ∧ l.status = 0)
    ∧ (let v := { onBraid 0 0 0 { b0 := taskBank [] } with launches := [{ l with phys := [1] }] }
       v.launchOver { l with phys := [1] } = false) := by decide
theorem witness_ScrubsAndTests :
    let s := { onBraid 1 0 0 {} with cycle := 2300000000 }
    let busy := { onBraid 1 0 0 { b0 := taskBank [] } with cycle := 2300000000 }
    let t := onBraid 1 0 0 { testEnd := some 20 }
    let host : State := s.setMem { s.mem with l2w := [⟨5, 15, 4, 0⟩], hostDirty := [22] }
    (isLpddr (64 * 5) = true ∧ homeEast (64 * 5) = false) ∧ (∀ die row e line, Config.rowEighth die row e line = true ∨ Config.rowEighth die row e line = false)
    ∧ ((∃ e ∈ host.mem.l2w, e.tag = 5 ∧ bitAt e.dirty 2 = true) ∧ 4 * 5 + 2 ∈ host.mem.hostDirty ∧ 4 * 5 + 1 ∉ host.mem.hostDirty)
    ∧ (s.cur = .agent 1 0 0 ∧ s.testDue 1 = true ∧ (onBraid 1 0 0 {}).testDue 1 = false)
    ∧ ((s.braid 1).held = false ∧ (s.braid 1).reserved = none ∧ (s.braid 1).taskQ = [] ∧ (s.braid 1).b0.mode.occupies = false ∧ (s.braid 1).b1.mode.occupies = false
      ∧ s.keptByHeap 1 s.launchNext = false)
    ∧ (busy.testDue 1 = true ∧ (busy.braid 1).b0.mode.occupies = true)
    ∧ ((t.braid 1).testEnd = some 20 ∧ 20 ≤ t.cycle ∧ ({ t with cycle := 19 } : State).cycle < 20 ∧ (∀ v ∈ t.ifaces, thas v.2.parts 1 = false))
    ∧ ((t.braid 1).b0.task = none ∧ (t.braid 1).b1.task = none ∧ t.launches = []) := by
  refine ⟨by decide, fun _ _ _ _ => by cases Config.rowEighth _ _ _ _ <;> simp, ?_⟩
  decide
theorem witness_SpliceFlits :
    let f : Flit := ⟨someMail, 0, false, 0, true, 0⟩
    let w : RetWord := ⟨false, 2, 1, 0⟩
    let g : Carried := ⟨[(94, f)], [(97, w)], 0⟩
    let at_ (g : Carried) := { onBraid 0 1 0 {} with crossings := [(0, { east := { fly := [(18, 0, g)], sent := 1 } })] }
    let s := at_ g
    let one : Lane := { fly := [] ++ [(34, 0, ⟨[(94, f)], [], 0⟩)], sent := 1, newAt := some 34 }
    let nak := { onBraid 0 1 0 {} with crossings := [(0, { east := { nak := some 4 } })] }
    (((s.crossing 0).lane true).fly.find? (fun e => decide (e.1 ≤ s.cycle) && e.2.1 == ((s.crossing 0).lane true).taken) = some (18, 0, g)
      ∧ g.slots.length ≤ 2 ∧ g.words.length ≤ 2 ∧ g.mask = 0 ∧ (g.slots.map Prod.fst).Nodup ∧ (∀ e ∈ g.slots, e.1 < 192) ∧ (∀ e ∈ g.words, e.1 < 192))
    ∧ ({ g with mask := 1 } : Carried).mask ≠ 0 ∧ (nak.crossing 0).east.fly = []
    ∧ (one.newAt = some 34 ∧ ({ one with newAt := none } : Lane).newAt ≠ some 34 ∧ one.fly = [] ++ [(34, one.sent - 1, ⟨[(94, f)], [], 0⟩)] ∧ 0 < one.sent ∧ 1 + g.slots.length ≤ 2 ∧ 0 + g.words.length ≤ 2)
    ∧ (s.cur = .agent 0 1 0 ∧ ((s.crossing 0).lane true).nak = none) ∧ (((nak.crossing 0).lane true).nak = some 4 ∧ (nak.crossing 0).training = false ∧ (nak.crossing 0).width ≠ 0) := by decide
theorem witness_SpliceAndPorts :
    let s := onBraid 4 1 0 {}
    let tr := { onBraid 0 0 0 {} with crossings := [(0, { training := true }), (2, { training := true }), (3, { training := true }), (4, { training := true })] }
    let late := { tr with cycle := 230000 }
    let f (p : Packet) : PortFrame := ⟨0, some (p, 0, 0), true, true, [], false⟩
    let w : RetWord := ⟨false, 2, 1, 0⟩
    let fw : PortFrame := ⟨0, none, true, true, [w], false⟩
    (s.admin.linkDown = false ∧ (s.crossing 4).training = false ∧ (s.crossing 4).width ≠ 0)
    ∧ ((tr.crossing 0).training = true ∧ (tr.crossing 2).training = true ∧ (tr.crossing 3).training = true ∧ (tr.crossing 4).training = true
      ∧ tr.cur = .agent 0 0 0 ∧ tr.cycle < (tr.crossing 0).since + 230000)
    ∧ ((late.crossing 0).since + 230000 ≤ late.cycle ∧ s.launches = [] ∧ (s.bank 1 0).task = none)
    ∧ ((s.crossing 3).training = false ∧ (tget ({} : Port) s.ports 0).broken = false ∧ (f someMail).seq = (s.crossing 3).west.taken % 65536 ∧ (f someMail).flit = some (someMail, 0, 0)
        ∧ 0 + 1 = someMail.flits ∧ someMail.typ = 0 ∧ someMail.ddev = s.cfg.dev ∧ someMail.dest ≠ 72 ∧ ({ someMail with ddev := 3 } : Packet).ddev ≠ s.cfg.dev
        ∧ ({ someMail with dest := 72 } : Packet).dest = 72 ∧ ({ f someMail with seq := 1 } : PortFrame).seq ≠ (s.crossing 3).west.taken % 65536
        ∧ ({ f someMail with crcOk := false } : PortFrame).crcOk = false)
    ∧ ((tget ({} : Port) s.ports 1).broken = false ∧ fw.seq = (s.crossing 4).west.taken % 65536 ∧ fw.words = [w] ∧ w.aud = false) := by decide
theorem witness_HostAccesses :
    let s := mapped (onBraid 0 0 0 {}) []
    let h := Config.hostBase
    let p : Packet := ⟨8, 2, 9, 0, 3, 1, 0, 0, .lineReq (h + 64) 0 0 .X true⟩
    let t := s.setMem { s.mem with hostLines := [(h / 64, List.replicate 64 1)], hostDirty := [h / 64], hostAsked := [h / 64 + 1] }
    let na := t.setMem { t.mem with hostNa := [h / 64 + 1], hostWait := [⟨h + 64, p⟩] }
    let down : State := { s with crossings := [(2, { width := 0 })] }
    s.memOk ∧ (s.ownsAll 0 0x1000 64 = true ∧ s.ownsAll 1 0x1000 64 = false ∧ ∀ pa ∈ upto 0x1000 64, s.linePoison (pa / 64) = false)
    ∧ (s.mem.storedKey (0x1040 / 64) = 0 ∧ thas s.mem.l2Data (0x1040 / 64) = thas s.mem.l2Key (0x1040 / 64))
    ∧ ((down.crossing 2).width = 0 ∧ (s.crossing 2).width ≠ 0 ∧ (s.crossing 2).training = false)
    ∧ (t.mem.holds (h / 64) = true ∧ t.mem.hostDirty.contains (h / 64) = true ∧ t.mem.holds (h / 64 + 1) = false)
    ∧ (t.mem.hostAsked.contains ((h + 64) / 64) = true ∧ isHost (64 * ((h + 64) / 64)) = true ∧ (h + 64) / 64 ∉ t.mem.hostNa
      ∧ (t.mem.l2w.filter fun e => l2Set e.tag == l2Set ((h + 64) / 64 / 4)).length < 16)
    ∧ (s.mem.hostAsked.contains (h / 64) = false ∧ isHost (64 * (0x1000 / 64)) = false)
    ∧ (na.mem.hostAsked.contains ((h + 64) / 64) = true ∧ na.mem.hostOver = [] ∧ (h + 64) / 64 ∈ na.mem.hostNa
      ∧ na.mem.hostWait.filter (fun w => w.pa / 64 == (h + 64) / 64) = [⟨h + 64, p⟩] ∧ p.dest ≠ p.src
      ∧ ∃ e ∈ ({ na.mem with hostOver := [(h + 65, 7)] } : MemSide).hostOver, e.1 / 64 = (h + 64) / 64) :=
  ⟨memOk_of _ rfl rfl rfl rfl rfl, by decide, by decide, by decide, by decide, by decide, by decide, by decide⟩
theorem witness_AdminCommands :
    let s := mapped (onBraid 0 0 0 {}) []
    let h := Config.hostBase
    let asleep := mapped (onBraid 0 0 0 { b0 := { taskBank [] with mode := .suspended, susp := some { someSusp with va := 0, token := some 6 } } }) []
    let t := { onBraid 0 0 0 { b0 := taskBank [] } with admin := { due := some (20, 0), migrate := some (0, 0, h, 64), contended := [(0x200000, 5)] } }
    let c : CreateArgs := ⟨1, 0, 0, 1, 0, false, 1⟩
    let free : State := { s with ifaces := [] }
    (s.takes = true ∧ ({ s with boot := {} } : State).takes = false ∧ s.boot.ready = true ∧ s.admin.busy = false)
    ∧ (free.createOk 1 c = true ∧ free.carve granules 0 = some [] ∧ s.createOk 0 c = false ∧ free.carve 5000 1 = some [4999])
    ∧ (thas s.ifaces 0 = true ∧ t.taskOf 0 = true ∧ s.taskOf 0 = false)
    ∧ (5000 + 2 ≤ granules ∧ granules < granules + 1 ∧ thas s.mem.frameGranules 5000 = false ∧ s.saveGranule 5000 = false ∧ thas s.mem.frameGranules 5001 = false ∧ s.saveGranule 5001 = false)
    ∧ (thas s.ifaces 9 = false ∧ s.admin.contended = [] ∧ s.migrateOk 0 0x200000 h 65536 = true ∧ s.awaited 0 0x200000 65536 = false ∧ isHost h = true)
    ∧ (asleep.takes = true ∧ asleep.migrateOk 0 0x200000 h 65536 = true ∧ asleep.awaited 0 0x200000 65536 = true)
    ∧ ((0x200000, 5) ∈ t.admin.contended ∧ (0x200000 : Nat) < 0x200000 + 65536 ∧ t.cycle < 5 + 2300000)
    ∧ (h % 64 = 0 ∧ isHost (h + 575) = true ∧ (∀ i < 576, s.mem.holds ((h + i) / 64) = false) ∧ 4 % 64 ≠ 0 ∧ ([] : List Byte).length ≤ 32)
    ∧ s.memOk ∧ t.memOk ∧ (t.admin.due = some (20, 0) ∧ 20 ≤ t.cycle ∧ ({ t with cycle := 19 } : State).cycle < 20 ∧ t.admin.migrate = some (0, 0, h, 64) ∧ s.admin.due = none)
    ∧ (∀ i < 64, isLpddr (0 + i) = true ∧ isHost (h + i) = true ∧ t.mem.holds ((h + i) / 64) = false) := by
  refine ⟨by decide, by decide, by decide, by decide, by decide, by decide, by decide, ⟨by decide, by decide, fun i _ => rfl, by decide, by decide⟩,
    memOk_of _ rfl rfl rfl rfl rfl, memOk_of _ rfl rfl rfl rfl rfl, by decide, by decide⟩
theorem witness_RegisterWrites :
    let s := onBraid 0 0 1 { b0 := taskBank [] }
    let a : Admin := { cmd := [(0, 6)] }
    let full : Admin := { s.admin with cmd := [(0, 9)] }
    (s.boot.ready = true ∧ s.iface 0 = some someIface ∧ bitAt (2 ^ 32) 32 = true ∧ bitAt 5 32 = false ∧ 4 ≤ s.boot.step ∧ bits (2 ^ 32) 0 32 = 0 ∧ bitAt 1 0 = true)
    ∧ (s.taskOf 0 = true ∧ s.taskOf 1 = false ∧ ({ s with cur := .nobody } : State).cur = .nobody ∧ s.cur = .agent 0 0 1)
    ∧ (a.cmdNat 0 1 = 6 ∧ a.command.isSome = true ∧ full.command = none ∧ s.admin.busy = false ∧ ({ full with busy := true } : Admin).busy = true)
    ∧ (s.physOf 0 0 ≤ 1 ∧ 1 < s.physOf 0 0 + 8 * (s.arc 0).2 ∧ thas s.braids 1 = true) := by decide
theorem witness_ResetBootAndPower :
    let s := { onBraid 0 0 1 {} with boot := { step := 7, resetLow := some 0 } }
    let c : ConfigImage := ⟨0, 10000, 0, 1, 1, 0, 0, 450, 85⟩
    let up (n : Nat) : Boot := { step := n }
    (bitAt 1 0 = true ∧ 4 ≤ s.boot.step ∧ s.cur = .agent 0 0 1 ∧ s.boot.resetLow = some 0 ∧ 0 + 2300 ≤ ({ s with cycle := 2300 } : State).cycle ∧ s.cycle < 0 + 2300)
    ∧ (configOk c = true ∧ configOk { c with period := 999 } = false ∧ configOk (configOf []) = false)
    ∧ (State.reset.boot.resetLow = none ∧ State.reset.boot.step = 1 ∧ State.reset.cur = .nobody ∧ State.reset.boot.code = 0)
    ∧ ((up 7).step = 7 ∧ (up 7).resetLow = none ∧ (up 7).code = 0 ∧ ({ up 4 with code := 2 } : Boot).code ≠ 0)
    ∧ (s.cfg.talarm < 200 ∧ 200 < 256 ∧ 0 ≤ s.cfg.talarm)
    ∧ configOk (configOf ((List.replicate 3 0 ++ [1, 0, 85] ++ natLe 2 450 ++ natLe 4 10000 ++ natLe 4 1 ++ List.replicate 8 0))) = true := by decide
theorem witness_DecodingInvertsEncoding :
    (Instr.add 15 31 0 31).wf = true ∧ (Instr.add 15 31 0 31).shape = .word ∧ StrandId.vx ∈ strandsOf (.vchk true 4 0xFFFFFFFF)
    ∧ (Instr.vchk true 4 0xFFFFFFFF).wf = true ∧ (Instr.cNop).shape = .half ∧ Instr.join.shape = .short := by decide
theorem witness_EveryStepKeepsMemoryCanonical : ∃ t, (mapped State.reset [(0x208000, 1)]).memOk ∧ step (mapped State.reset [(0x208000, 1)]) = .next t :=
  ⟨_, memOk_of _ rfl rfl rfl rfl rfl, rfl⟩
theorem witness_CanonicalMemories : Memory.wf [(0, 1), (5, 2)] = true ∧ Memory.wf [(5, 2), (0, 1)] = false ∧ Memory.wf [(5, 0)] = false := by decide
theorem tidy_empty : ({} : Bank).tidy :=
  have q : queuesTidy [] [] [] := ⟨fun _ _ => Nat.zero_le _, Nat.zero_le _, rfl⟩
  ⟨⟨rfl, rfl, rfl⟩, ⟨rfl, rfl, rfl⟩, ⟨rfl, rfl, rfl⟩, ⟨rfl, rfl, rfl⟩, q, fun _ h => (List.not_mem_nil h).elim, fun _ h => nomatch h⟩
theorem witness_EveryStepKeepsRegistersAndQueues :
    let s : State := { State.reset with braids := [(1, { sram := [(0, 1)] })] }
    s.tidy ∧ ∃ t, step s = .next t := by
  refine ⟨fun e he => ?_, _, rfl⟩
  cases List.mem_singleton.mp he
  exact ⟨tidy_empty, tidy_empty, rfl, by decide, rfl, Nat.zero_le _⟩
theorem witness_StepRunsTheDecodedInstruction :
    let s := State.reset.withFetchWord 32 0x0FFE0187
    let u := (s.setTodo []).setCur (.ctx 0 0 .X)
    (∃ b k c, s.todo = .ctx b k c :: [] ∧ ((s.setTodo []).setCur (.ctx b k c)).ctxIssues = true ∧ ((s.setTodo []).setCur (.ctx b k c)).myCtx.ins = none
      ∧ ∃ u1 u2 ps n, ((s.setTodo []).setCur (.ctx b k c)).fetchParcels = (u1, some ps) ∧ decodeCtl ps = .ok (.addi 0 3 0x7FF, 2) ∧ u1.occupancy ps (.addi 0 3 0x7FF) = (u2, n)
        ∧ ((s.setTodo []).setCur (.ctx b k c)).myCtx.pc.toNat + 4 ≤ 0xB00000
        ∧ ((u2.modMyCtx fun c => { c with ins := some (.addi 0 3 0x7FF), retireAt := some s.cycle, wait := .none, store := none }).barred (.addi 0 3 0x7FF)) = false)
    ∧ u.cycle = s.cycle ∧ State.reset.todo = [] :=
  ⟨⟨_, _, _, rfl, rfl, rfl, _, _, _, _, rfl, rfl, rfl, by decide, rfl⟩, rfl, rfl⟩
theorem witness_StepMeetsABadWord :
    let s := (State.reset.withFetchWord 32 0x0FFE0187).modBraid 0 fun x => { x with sram := [], sramStart := [] }
    ∃ b k c, s.todo = .ctx b k c :: [] ∧ ∃ u1 ps e, ((s.setTodo []).setCur (.ctx b k c)).fetchParcels = (u1, some ps) ∧ decodeCtl ps = .error e :=
  ⟨_, _, _, rfl, _, _, .zeroParcel, rfl, rfl⟩
theorem witness_StrandStepRunsTheOp :
    let s := State.reset.withFetchWord 32 0x88000000
    ∃ b k, s.todo = .strand b k :: [] ∧ (s.strand b k).job.isSome = true ∧ (s.strand b k).op = none ∧ (s.strand b k).nest = []
      ∧ (∀ j ∈ (s.braid b).jobsOpen, k ∉ j.joined)
      ∧ ∃ v1 i, ((s.setTodo []).setCur (.strand b k)).strandOp b k (s.strand b k).pc = (v1, .ok i) := ⟨_, _, rfl, rfl, rfl, rfl, by decide, _, _, rfl⟩

end Sys2Proof.Tests
end

section
/-! The slot clock: what a boundary, an edge of SLOTREF, an announcement and a deadline do (13: R287, R288; 17: R341). -/

namespace Sys2Proof.Machine

/-- What a boundary may do beyond the clock: launches and the actions to come differ, and no launch comes into being. -/
structure State.OnlyLaunches (s t : State) : Prop where
  frame : t = { s with launches := t.launches, pending := t.pending }
  none_begun : s.launches = [] → t.launches = []

namespace State.OnlyLaunches

theorem refl (s : State) : s.OnlyLaunches s := ⟨rfl, id⟩

theorem trans {s t u : State} (h : s.OnlyLaunches t) (g : t.OnlyLaunches u) : s.OnlyLaunches u :=
  ⟨by rw [g.frame, h.frame], g.none_begun ∘ h.none_begun⟩

theorem foldl {α : Type} {f : State → α → State} (hf : ∀ (s : State) (a : α), s.OnlyLaunches (f s a)) (l : List α) (s : State) :
    s.OnlyLaunches (l.foldl f s) :=
  List.foldlRecOn (motive := s.OnlyLaunches) l f (.refl s) fun t h a _ => h.trans (hf t a)

theorem clock_eq {s t : State} (h : s.OnlyLaunches t) : t.clock = s.clock := by rw [h.frame]
theorem braids_eq {s t : State} (h : s.OnlyLaunches t) : t.braids = s.braids := by rw [h.frame]
theorem mem_eq {s t : State} (h : s.OnlyLaunches t) : t.mem = s.mem := by rw [h.frame]

end State.OnlyLaunches

theorem State.later_onlyLaunches (s : State) (n : Nat) (a : Act) : s.OnlyLaunches (s.later n a) := ⟨rfl, id⟩

theorem State.modLaunch_onlyLaunches (s : State) (uid : Nat) (f : Launch → Launch) : s.OnlyLaunches (s.modLaunch uid f) :=
  ⟨rfl, fun h => by rw [State.modLaunch, h]; rfl⟩

@[simp] theorem State.modLaunch_cycle (s : State) (uid : Nat) (f : Launch → Launch) : (s.modLaunch uid f).cycle = s.cycle := rfl

theorem State.deadline_onlyLaunches (s : State) (slot : Nat) (l : Launch) : s.OnlyLaunches (s.deadline slot l) := by
  unfold State.deadline
  split
  · exact .refl s
  split
  · exact s.modLaunch_onlyLaunches _ _
  split
  · exact .refl s
  · exact (s.modLaunch_onlyLaunches _ _).trans (.foldl (fun t _ => t.later_onlyLaunches _ _) _ _)

theorem State.preemptAt_onlyLaunches (s : State) (east : Bool) (slot : Nat) : s.OnlyLaunches (s.preemptAt east slot) := by
  unfold State.preemptAt
  split
  · exact .refl s
  split
  · exact .refl s
  · exact .foldl (fun t _ => (t.modLaunch_onlyLaunches _ _).trans (.foldl (fun u _ => u.later_onlyLaunches _ _) _ _)) _ _

theorem State.atBoundary_onlyLaunches (s : State) (east : Bool) : s.OnlyLaunches (s.atBoundary east) :=
  (State.OnlyLaunches.foldl (fun t l => t.deadline_onlyLaunches _ l) _ s).trans (State.preemptAt_onlyLaunches _ _ _)

/-- The next boundary's number and instant, as West announces them. -/
theorem State.announce_clock (s : State) : s.announce.clock =
    { s.clock with announced := some (s.clock.slot.toNat + 1, (((s.clock.lastW + s.cfg.period : Nat) : Int) + s.clock.slew).toNat), slew := 0 } := by
  unfold State.announce
  split <;> rfl

theorem State.announce_frame (s : State) : s.announce = { s with clock := s.announce.clock, pending := s.announce.pending } := by
  unfold State.announce
  split <;> rfl

theorem State.announce_braids (s : State) : s.announce.braids = s.braids := by rw [State.announce_frame]
theorem State.announce_mem (s : State) : s.announce.mem = s.mem := by rw [State.announce_frame]
theorem State.announce_launches (s : State) : s.announce.launches = s.launches := by rw [State.announce_frame]

theorem execSlotBoundary_notReady {s : State} (h : s.boot.ready = false) : execSlotBoundary s = .next s := by
  simp [execSlotBoundary, h]

section Boundary
variable {s : State} {d y z : Nat}

theorem execSlotBoundary_early_west (hr : s.boot.ready = true) (hc : s.cur = .agent 0 y z) (h : s.cycle < Config.nsCycles s.dueW) :
    execSlotBoundary s = .next s := by
  simp [execSlotBoundary, hr, State.agent, hc, h]

theorem execSlotBoundary_due_west (hr : s.boot.ready = true) (hc : s.cur = .agent 0 y z) (h : Config.nsCycles s.dueW ≤ s.cycle) :
    execSlotBoundary s = .next (({ s with clock :=
      { s.clock with slot := s.clock.slot + 1, lastW := s.dueW, cycleW := s.cycle } } : State).announce.atBoundary false) := by
  simp [execSlotBoundary, hr, State.agent, hc, Nat.not_lt.mpr h]

theorem execSlotBoundary_early_east (hr : s.boot.ready = true) (hc : s.cur = .agent 1 y z) (h : s.cycle < Config.nsCycles s.dueE.1) :
    execSlotBoundary s = .next s := by
  simp [execSlotBoundary, hr, State.agent, hc, h]

theorem execSlotBoundary_due_east (hr : s.boot.ready = true) (hc : s.cur = .agent 1 y z) (h : Config.nsCycles s.dueE.1 ≤ s.cycle) :
    execSlotBoundary s = .next (({ s with clock :=
      { s.clock with slotE := s.clock.slotE + 1, lastE := s.dueE.1, cycleE := s.cycle, errE := s.clock.errE || !s.dueE.2 } } : State).atBoundary true) := by
  simp [execSlotBoundary, hr, State.agent, hc, Nat.not_lt.mpr h]

end Boundary

theorem State.dueW_unannounced {s : State} (h : s.clock.announced = none) : s.dueW = s.clock.lastW + s.cfg.period := by
  simp [State.dueW, h]

theorem State.dueE_heard {s : State} {t : Nat} (h : s.clock.heard = some (s.clock.slotE.toNat + 1, t)) : s.dueE = (t, true) := by
  simp [State.dueE, h]

theorem State.dueE_unheard {s : State} (h : s.clock.heard = none) : s.dueE = (s.clock.lastE + s.cfg.period, false) := by
  simp [State.dueE, h]

theorem execSlotref_unused {s : State} (off : Int) (h : s.cfg.dmode = 0) : execSlotref off s = .next s := by
  simp [execSlotref, h]

theorem execSlotref_near {s : State} {off : Int} (h : s.cfg.dmode ≠ 0) (lo : -1000 ≤ off) (hi : off ≤ 1000) :
    execSlotref off s = .next { s with clock := { s.clock with errW := false, slew := max (-10) (min 10 off), lastEdge := s.cycle } } := by
  have hb : ¬ 1000 < off.natAbs := by omega
  simp [execSlotref, h, hb]

theorem execSlotref_far {s : State} {off : Int} (h : s.cfg.dmode ≠ 0) (far : off < -1000 ∨ 1000 < off) :
    execSlotref off s = .next { s with clock := { s.clock with errW := true, slew := 0, lastEdge := s.cycle } } := by
  have hb : 1000 < off.natAbs := by omega
  simp [execSlotref, h, hb]

theorem execSlotrefTimeout_late {s : State} (hd : s.cfg.dmode = 1) (hr : s.boot.ready = true) (he : s.clock.errW = false)
    (h : s.clock.lastEdge + Config.nsCycles (2 * s.cfg.period) < s.cycle) :
    execSlotrefTimeout s = .next { s with clock := { s.clock with errW := true, slew := 0 } } := by
  simp [execSlotrefTimeout, hd, hr, he, h]

theorem execSlotrefTimeout_early {s : State} (h : s.cycle ≤ s.clock.lastEdge + Config.nsCycles (2 * s.cfg.period)) :
    execSlotrefTimeout s = .next s := by
  simp [execSlotrefTimeout, Nat.not_lt.mpr h]

theorem execSlotAnnouncement_eq (num tick : Nat) (s : State) : execSlotAnnouncement num tick s = .next { s with
    clock := { s.clock with heard := some (num, tick), errE := s.clock.errE && num != s.clock.slotE.toNat + 1 },
    pending := if s.crossingUp then s.pending ++ [(s.cycle + s.crossLat 0, ev (.slotAck num))] else s.pending } := by
  unfold execSlotAnnouncement
  cases s.crossingUp <;> rfl

section Deadline
variable {s : State} {slot : Nat} {l : Launch}

theorem State.deadline_notPassed (h : l.finished = true ∨ l.deadline = 0 ∨ slot < l.deadline) : s.deadline slot l = s := by
  rcases h with h | h | h <;> simp [State.deadline, h]

theorem State.deadline_unissued (hf : l.finished = false) (h0 : l.deadline ≠ 0) (hp : l.deadline ≤ slot) (hi : l.issued = false) :
    s.deadline slot l = s.endLaunch l.uid 2 := by
  simp [State.deadline, hf, h0, Nat.not_lt.mpr hp, hi]

theorem State.deadline_running {b : Nat} (hf : l.finished = false) (h0 : l.deadline ≠ 0) (hp : l.deadline ≤ slot) (hi : l.issued = true)
    (hk : l.kind ≠ 3) (hs : l.status = 0) (ho : s.launchOver l = false) (hb : l.phys = [b]) :
    s.deadline slot l =
      (s.modLaunch l.uid fun m => { m with status := 1 }).later (s.cycle + 9) (.event .cancellation l.uid b 0) := by
  simp [State.deadline, hf, h0, Nat.not_lt.mpr hp, hi, hk, hs, ho, hb]

end Deadline

/-- Settles O47: the counters move only in `execSlotBoundary`, past which the launches' part of a boundary leaves the clock alone. -/
theorem slotBoundaries : Obligations.SlotBoundaries := by
  unfold Obligations.SlotBoundaries
  intro s d y z
  refine ⟨fun hr hc => ⟨?_, ?_, ?_, ?_⟩, execSlotBoundary_notReady,
    fun t0 ha => ⟨State.dueW_unannounced ha, State.dueE_heard, State.dueE_unheard⟩,
    fun off => ⟨execSlotref_unused off, fun hd lo hi => ⟨_, execSlotref_near hd lo hi, rfl, rfl, ?_, ?_, ?_⟩, execSlotref_far⟩,
    execSlotrefTimeout_late, execSlotrefTimeout_early,
    fun num tick => ⟨_, execSlotAnnouncement_eq num tick s, rfl, rfl, rfl⟩, fun _ => rfl,
    fun slot l => ⟨State.deadline_notPassed, State.deadline_unissued, fun b hf h0 hp hi hk hs ho hb => ?_⟩⟩
  · rintro rfl h
    exact execSlotBoundary_early_west hr hc h
  · rintro rfl h
    have ho := State.atBoundary_onlyLaunches ({ s with clock :=
      { s.clock with slot := s.clock.slot + 1, lastW := s.dueW, cycleW := s.cycle } } : State).announce false
    refine ⟨_, execSlotBoundary_due_west hr hc h, ?_⟩
    rw [ho.clock_eq, ho.braids_eq, ho.mem_eq, State.announce_clock]
    exact ⟨rfl, rfl, rfl, rfl, rfl, rfl, rfl, rfl, State.announce_braids _, State.announce_mem _,
      fun hn => ho.none_begun ((State.announce_launches _).trans hn)⟩
  · rintro rfl h
    exact execSlotBoundary_early_east hr hc h
  · rintro rfl h
    have ho := State.atBoundary_onlyLaunches ({ s with clock := { s.clock with
      slotE := s.clock.slotE + 1, lastE := s.dueE.1, cycleE := s.cycle, errE := s.clock.errE || !s.dueE.2 } } : State) true
    refine ⟨_, execSlotBoundary_due_east hr hc h, ?_⟩
    rw [ho.clock_eq, ho.braids_eq, ho.mem_eq]
    exact ⟨rfl, rfl, rfl, rfl, rfl, rfl, rfl⟩
  · exact le_max_left _ _
  · exact max_le (by decide) (min_le_left _ _)
  · intro lo' hi'
    exact (congrArg _ (min_eq_right hi')).trans (max_eq_right lo')
  · rw [State.deadline_running hf h0 hp hi hk hs ho hb]
    rfl

end Sys2Proof.Machine
end

section
/-! What a step does with a control instruction that is fetched before its task's first instructions may issue (05: R135). -/

namespace Sys2Proof.Machine

/-- An instruction fetched before its context may issue counts its cycles from the issue, not from the fetch (R135). -/
theorem step_fetched_before_issueAt {s u u1 u2 : State} {rest : List Act} {b bank : Nat} {c : CtxId} {i : Instr} {ps : List Parcel} {len n : Nat}
    (ht : s.todo = .ctx b bank c :: rest) (hu : u = (s.setTodo rest).setCur (.ctx b bank c)) (hx : u.ctxIssues = true)
    (hi : u.myCtx.ins = none) (hr : u.myCtx.retireAt = none) (hf : u.fetchParcels = (u1, some ps)) (hd : decodeCtl ps = .ok (i, len))
    (ho : u1.occupancy ps i = (u2, n)) (hn : 1 ≤ n) (hc : u2.cycle = u.cycle) (hl : u.cycle < u.myCtx.issueAt) :
    step s = .next (u2.modMyCtx fun c =>
      { c with ins := some i, retireAt := some (u.myCtx.issueAt + n - 1), wait := .none, store := u1.storeOf i }) := by
  have hs : step s = run u.ctxNext := by rw [step, ht, hu]; rfl
  have hm : max u.cycle u.myCtx.issueAt = u.myCtx.issueAt := max_eq_right hl.le
  have hlt : u.cycle < u.myCtx.issueAt + n - 1 := by omega
  have hle : ¬ u.myCtx.issueAt + n ≤ u2.cycle + 1 := by omega
  have hnx : u.ctxNext = (u2.modMyCtx fun c =>
      { c with ins := some i, retireAt := some (u.myCtx.issueAt + n - 1), wait := .none, store := u1.storeOf i }, none) := by
    simp [State.ctxNext, hx, hi, hr, hf, hd, ho, hm, hlt, hle]
  rw [hs, hnx]
  rfl

/-- Braid 0 as it goes on with a task's start in cycle 0: X has its issue slots, is about to fetch ADDI, and may issue from cycle 6 on (R135). -/
def taskGoesOn : State :=
  ((State.reset.withFetchWord 32 0x0FFE0187).modBank 0 0 fun k =>
    { k with mode := .starting, x := { k.x with run := false, began := true, retireAt := none } }).goOn 0 0

/-- Refutes O57: it has a fetched instruction of one cycle run in the cycle of its fetch, but the first instruction of a task, fetched before
its context's `issueAt`, stays in progress (R135; log entry 115). -/
theorem not_stepRunsTheDecodedInstruction : ¬ Obligations.StepRunsTheDecodedInstruction := by
  unfold Obligations.StepRunsTheDecodedInstruction
  intro h
  have ht : taskGoesOn.todo = [.ctx 0 0 .X] := rfl
  obtain ⟨-, hctx, -⟩ := h taskGoesOn [] 0 0 0 .X (.addi 0 3 0x7FF)
  obtain ⟨-, -, -, hfetch, -⟩ := hctx ht
  have claimed := (hfetch _ _ _ 2 1 rfl rfl rfl rfl rfl).1 (by decide) rfl
  have held := step_fetched_before_issueAt (n := 1) ht rfl rfl rfl rfl rfl rfl rfl le_rfl rfl (by decide)
  rw [held] at claimed
  have hins := congrArg (fun t : State => t.myCtx.ins) (Host.Outcome.next.inj claimed)
  exact absurd hins (by decide)

end Sys2Proof.Machine
end

section
/-! Decoding inverts encoding (01: R17 to R19; 03: R61 to R74). -/

open Sys2Proof.Claims

namespace Sys2Proof

/-! Reading a field of a word that is a sum of fields. -/

/-- What stands above a field does not reach it. -/
theorem bits_add_two_pow_mul_above {lo n k : Nat} (x y : Nat) (h : lo + n ≤ k) : bits (x + 2 ^ k * y) lo n = bits x lo n := by
  obtain ⟨e, rfl⟩ := Nat.exists_eq_add_of_le h
  unfold bits
  rw [Nat.pow_add, Nat.pow_add, Nat.mul_assoc, Nat.mul_assoc, Nat.add_mul_div_left _ _ (by positivity), Nat.add_mul_mod_self_left]

/-- What stands below a field does not reach it. -/
theorem bits_add_two_pow_mul_below {j n k x : Nat} (y : Nat) (h : x < 2 ^ k) : bits (x + 2 ^ k * y) (j + k) n = bits y j n := by
  unfold bits
  rw [Nat.add_comm j k, Nat.pow_add, ← Nat.div_div_eq_div_mul, Nat.add_mul_div_left _ _ (by positivity), Nat.div_eq_of_lt h, Nat.zero_add]

/-- A summand whose factor is a multiple of the place above a field does not reach it. -/
theorem bits_add_mul_above {c lo n : Nat} (x y : Nat) (h : c % 2 ^ (lo + n) = 0) : bits (x + c * y) lo n = bits x lo n := by
  obtain ⟨k, rfl⟩ := Nat.dvd_of_mod_eq_zero h
  rw [Nat.mul_assoc, bits_add_two_pow_mul_above _ _ le_rfl]

/-- A field at or above the place of a word's last summand lies in that summand. -/
theorem bits_add_mul_below {c lo n x : Nat} (y : Nat) (hx : x < c) (h : 2 ^ lo % c = 0) :
    bits (x + c * y) lo n = bits (y / (2 ^ lo / c)) 0 n := by
  obtain ⟨k, hk⟩ := Nat.dvd_of_mod_eq_zero h
  have hc : 0 < c := by omega
  unfold bits
  rw [hk, ← Nat.div_div_eq_div_mul, Nat.add_mul_div_left _ _ hc, Nat.div_eq_of_lt hx, Nat.zero_add, Nat.mul_div_cancel_left _ hc]
  simp

theorem bits_mul_above {c lo n : Nat} (y : Nat) (h : c % 2 ^ (lo + n) = 0) : bits (c * y) lo n = 0 := by
  simpa [bits] using bits_add_mul_above 0 y h

theorem bits_mul_below {c lo n : Nat} (y : Nat) (hc : 0 < c) (h : 2 ^ lo % c = 0) : bits (c * y) lo n = bits (y / (2 ^ lo / c)) 0 n := by
  simpa using bits_add_mul_below (x := 0) y hc h

@[simp] theorem bits_zero (lo n : Nat) : bits 0 lo n = 0 := by simp [bits]

theorem bvAt_eq_bits (w lo n : Nat) : bvAt w lo n = BitVec.ofNat n (bits w lo n) := by
  apply BitVec.eq_of_toNat_eq
  simp [bvAt, bits]

theorem bitAt_eq_bits (w lo : Nat) : bitAt w lo = (bits w lo 1 == 1) := by simp [bitAt, bits]

@[simp] theorem ofNat_bits_zero (w n : Nat) : BitVec.ofNat n (bits w 0 n) = BitVec.ofNat n w := by
  apply BitVec.eq_of_toNat_eq
  simp [bits]

theorem b2n_lt (z : Bool) : b2n z < 2 := by cases z <;> decide

@[simp] theorem b2n_beq_one (z : Bool) : (b2n z == 1) = z := by cases z <;> rfl

theorem bits_of_lt {w n : Nat} (h : w < 2 ^ n) : bits w 0 n = w := by simpa [bits] using Nat.mod_eq_of_lt h

theorem bits_eq_zero {w lo n : Nat} (h : w < 2 ^ lo) : bits w lo n = 0 := by simp [bits, Nat.div_eq_of_lt h]

theorem accept_ok {i : Instr} (h : i.wf = true) : accept true i = .ok i := by simp [accept, h]

/-! The layouts of R62 to R74: each field, and each part of it, reads back. -/

section
variable {M m b a d : Nat} {g : BitVec 4} (j n : Nat)

theorem encReg_eq : encReg M m g b a d = (3 + 4 * M) + 2 ^ 7 * (d + 2 ^ 5 * (a + 2 ^ 5 * (b + 2 ^ 5 * (m + 2 ^ 6 * g.toNat)))) := by
  unfold encReg; ring

@[simp] theorem bits_encReg_major (hM : M < 32) : bits (encReg M m g b a d) 2 5 = M := by
  unfold encReg bits; omega

@[simp] theorem bits_encReg_d (hM : M < 32) (h : j + n ≤ 5) : bits (encReg M m g b a d) (j + 7) n = bits d j n := by
  rw [encReg_eq, bits_add_two_pow_mul_below _ (by omega), bits_add_two_pow_mul_above _ _ h]

@[simp] theorem bits_encReg_a (hM : M < 32) (hd : d < 32) (h : j + n ≤ 5) : bits (encReg M m g b a d) (j + 12) n = bits a j n := by
  rw [encReg_eq, bits_add_two_pow_mul_below (j := j + 5) _ (by omega), bits_add_two_pow_mul_below _ hd, bits_add_two_pow_mul_above _ _ h]

@[simp] theorem bits_encReg_b (hM : M < 32) (hd : d < 32) (ha : a < 32) (h : j + n ≤ 5) :
    bits (encReg M m g b a d) (j + 17) n = bits b j n := by
  rw [encReg_eq, bits_add_two_pow_mul_below (j := j + 10) _ (by omega), bits_add_two_pow_mul_below (j := j + 5) _ hd,
    bits_add_two_pow_mul_below _ ha, bits_add_two_pow_mul_above _ _ h]

@[simp] theorem bits_encReg_minor (hM : M < 32) (hd : d < 32) (ha : a < 32) (hb : b < 32) (h : j + n ≤ 6) :
    bits (encReg M m g b a d) (j + 22) n = bits m j n := by
  rw [encReg_eq, bits_add_two_pow_mul_below (j := j + 15) _ (by omega), bits_add_two_pow_mul_below (j := j + 10) _ hd,
    bits_add_two_pow_mul_below (j := j + 5) _ ha, bits_add_two_pow_mul_below _ hb, bits_add_two_pow_mul_above _ _ h]

@[simp] theorem bits_encReg_g (hM : M < 32) (hd : d < 32) (ha : a < 32) (hb : b < 32) (hm : m < 64) :
    bits (encReg M m g b a d) 28 4 = g.toNat := by
  unfold encReg bits; omega

/-- Operand fields that are all 0 read 0 together. -/
@[simp] theorem bits_encReg_zeros (hM : M < 32) (h7 : j + n ≤ 15) (h : (d + 2 ^ 5 * a + 2 ^ 10 * b) / 2 ^ j % 2 ^ n = 0) :
    bits (encReg M m g b a d) (j + 7) n = 0 := by
  rw [encReg_eq, bits_add_two_pow_mul_below _ (by omega),
    show d + 2 ^ 5 * (a + 2 ^ 5 * (b + 2 ^ 5 * (m + 2 ^ 6 * g.toNat)))
      = (d + 2 ^ 5 * a + 2 ^ 10 * b) + 2 ^ 15 * (m + 2 ^ 6 * g.toNat) by ring, bits_add_two_pow_mul_above _ _ h7, bits, h]

end

section
variable {op F : Nat}
@[simp] theorem bits_encLong_F {lo n : Nat} (h : lo + n ≤ 26) : bits (encLong op F) lo n = bits F lo n := by
  rw [encLong, show 2147483648 + 67108864 * op + F = F + 2 ^ 26 * (32 + op) by ring, bits_add_two_pow_mul_above _ _ h]
@[simp] theorem bits_encLong_op (h : op < 32) (hF : F < 2 ^ 26) : bits (encLong op F) 26 5 = op := by
  unfold encLong bits; omega
end


section
variable {M m imm d a off : Nat} {g : BitVec 4} (j n : Nat)

@[simp] theorem bits_encImm_major (hM : M < 32) : bits (encImm M m g imm d) 2 5 = M := by
  unfold encImm bits; omega

theorem encImm_eq : encImm M m g imm d = (3 + 4 * M) + 2 ^ 7 * (d + 2 ^ 5 * (m + 2 ^ 5 * (imm + 2 ^ 11 * g.toNat))) := by
  unfold encImm; ring

@[simp] theorem bits_encImm_d (hM : M < 32) (h : j + n ≤ 5) : bits (encImm M m g imm d) (j + 7) n = bits d j n := by
  rw [encImm_eq, bits_add_two_pow_mul_below _ (by omega), bits_add_two_pow_mul_above _ _ h]

@[simp] theorem bits_encImm_minor (hM : M < 32) (hd : d < 32) (h : j + n ≤ 5) : bits (encImm M m g imm d) (j + 12) n = bits m j n := by
  rw [encImm_eq, bits_add_two_pow_mul_below (j := j + 5) _ (by omega), bits_add_two_pow_mul_below _ hd, bits_add_two_pow_mul_above _ _ h]

@[simp] theorem bits_encImm_imm (hM : M < 32) (hd : d < 32) (hm : m < 32) (h : j + n ≤ 11) :
    bits (encImm M m g imm d) (j + 17) n = bits imm j n := by
  rw [encImm_eq, bits_add_two_pow_mul_below (j := j + 10) _ (by omega), bits_add_two_pow_mul_below (j := j + 5) _ hd,
    bits_add_two_pow_mul_below _ hm, bits_add_two_pow_mul_above _ _ h]

@[simp] theorem bits_encImm_g (hM : M < 32) (hd : d < 32) (hm : m < 32) (hi : imm < 2048) : bits (encImm M m g imm d) 28 4 = g.toNat := by
  unfold encImm bits; omega

@[simp] theorem bits_encCmpi_major : bits (encCmpi m g imm d a) 2 5 = 4 := by
  unfold encCmpi bits; omega
@[simp] theorem bits_encCmpi_a (ha : a < 8) : bits (encCmpi m g imm d a) 7 3 = a := by
  unfold encCmpi bits; omega
@[simp] theorem bits_encCmpi_pd (ha : a < 8) (hd : d < 16) : bits (encCmpi m g imm d a) 10 4 = d := by
  unfold encCmpi bits; omega
@[simp] theorem bits_encCmpi_minor (ha : a < 8) (hd : d < 16) (hm : m < 8) : bits (encCmpi m g imm d a) 14 3 = m := by
  unfold encCmpi bits; omega
@[simp] theorem bits_encCmpi_imm (ha : a < 8) (hd : d < 16) (hm : m < 8) (hi : imm < 2048) : bits (encCmpi m g imm d a) 17 11 = imm := by
  unfold encCmpi bits; omega
@[simp] theorem bits_encCmpi_g (ha : a < 8) (hd : d < 16) (hm : m < 8) (hi : imm < 2048) : bits (encCmpi m g imm d a) 28 4 = g.toNat := by
  unfold encCmpi bits; omega

@[simp] theorem bits_encBr_major (hM : M < 32) : bits (encBr M g off) 2 5 = M := by
  unfold encBr bits; omega
@[simp] theorem bits_encBr_off (hM : M < 32) (h : off < 2 ^ 21) : bits (encBr M g off) 7 21 = off := by
  unfold encBr bits; omega
@[simp] theorem bits_encBr_g (hM : M < 32) (h : off < 2 ^ 21) : bits (encBr M g off) 28 4 = g.toNat := by
  unfold encBr bits; omega
end

section
variable {sel rest : Nat}
@[simp] theorem bits_encHalf_sel (h : sel < 32) : bits (encHalf sel rest) 0 5 = sel := by
  unfold encHalf bits; omega
@[simp] theorem bits_encHalf_rest (h : sel < 32) (j n : Nat) : bits (encHalf sel rest) (j + 5) n = bits rest j n := by
  rw [encHalf, show 32 = 2 ^ 5 by norm_num, bits_add_two_pow_mul_below _ (by omega)]
@[simp] theorem encHalf_ne_zero (h : 0 < sel) : encHalf sel rest ≠ 0 := by
  unfold encHalf; omega
end

section
variable (f : VxFrame)
theorem encVx_lt : encVx f < 2 ^ 26 := by
  have := b2n_lt f.pr; have := b2n_lt f.me
  unfold encVx; omega
@[simp] theorem bits_encVx_fn : bits (encVx f) 0 4 = f.fn.toNat := by
  unfold encVx bits; omega
@[simp] theorem bits_encVx_rnd : bits (encVx f) 4 3 = f.rnd.toNat := by
  unfold encVx bits; omega
@[simp] theorem bits_encVx_pr : bits (encVx f) 7 1 = b2n f.pr := by
  have := b2n_lt f.pr
  unfold encVx bits; omega
@[simp] theorem bits_encVx_me : bits (encVx f) 8 1 = b2n f.me := by
  have := b2n_lt f.pr; have := b2n_lt f.me
  unfold encVx bits; omega
@[simp] theorem bits_encVx_m : bits (encVx f) 9 2 = f.m.toNat := by
  have := b2n_lt f.pr; have := b2n_lt f.me
  unfold encVx bits; omega
@[simp] theorem bits_encVx_b : bits (encVx f) 11 5 = f.b.toNat := by
  have := b2n_lt f.pr; have := b2n_lt f.me
  unfold encVx bits; omega
@[simp] theorem bits_encVx_a : bits (encVx f) 16 5 = f.a.toNat := by
  have := b2n_lt f.pr; have := b2n_lt f.me
  unfold encVx bits; omega
@[simp] theorem bits_encVx_d : bits (encVx f) 21 5 = f.d.toNat := by
  have := b2n_lt f.pr; have := b2n_lt f.me
  unfold encVx bits; omega

/-- The frame of a VX op reads back (R74). -/
theorem vxFrame_encLong (op : Nat) : vxFrame (encLong op (encVx f)) = f := by
  simp [vxFrame, bvAt_eq_bits, bitAt_eq_bits]
end

section
variable (acc : BitVec 2) (aop bop : BitVec 3) (k : BitVec 14) (comp fz : Bool) {low : Nat}
theorem encMma_lt (h : low < 4) : encMma acc aop bop k comp fz low < 2 ^ 26 := by
  have := b2n_lt comp; have := b2n_lt fz
  unfold encMma; omega
/-- The fields of a tile command read back (R140). -/
theorem bits_encMma (h : low < 4) :
    let F := encMma acc aop bop k comp fz low
    bits F 0 2 = low ∧ bits F 2 1 = b2n fz ∧ bits F 3 1 = b2n comp ∧ bits F 4 14 = k.toNat ∧ bits F 18 3 = bop.toNat
      ∧ bits F 21 3 = aop.toNat ∧ bits F 24 2 = acc.toNat := by
  have := b2n_lt comp; have := b2n_lt fz
  unfold encMma bits; omega
end

section
variable (d x : BitVec 2) (comp fz : Bool) (s : BitVec 3) (n : BitVec 10)
theorem encScan_lt : encScan d x comp fz s n < 2 ^ 26 := by
  have := b2n_lt comp; have := b2n_lt fz
  unfold encScan; omega
/-- The fields of SCAN and SCHUNK read back (R150). -/
theorem bits_encScan :
    let F := encScan d x comp fz s n
    bits F 0 7 = 0 ∧ bits F 7 10 = n.toNat ∧ bits F 17 3 = s.toNat ∧ bits F 20 1 = b2n fz ∧ bits F 21 1 = b2n comp
      ∧ bits F 22 2 = x.toNat ∧ bits F 24 2 = d.toNat := by
  have := b2n_lt comp; have := b2n_lt fz
  unfold encScan bits; omega
end

/-! Words and 16-bit forms of the control core. -/

theorem encReg_bounds {M m b a d : Nat} {g : BitVec 4} (hM : M < 32) (hm : m < 64) (hb : b < 32) (ha : a < 32) (hd : d < 32) :
    encReg M m g b a d < 2 ^ 32 ∧ encReg M m g b a d % 4 = 3 := by
  unfold encReg; omega

/-- The words whose operation field also holds flags (R101, R102, R243, R245). -/
def Instr.flagged : Instr → Bool
  | .ldB .. | .ldH .. | .ldW .. | .ldD .. | .stB .. | .stH .. | .stW .. | .stD .. | .amoAdd .. | .amoSwap .. | .amoCas .. | .amoMin ..
  | .amoMax .. | .amoAnd .. | .amoOr .. | .redAdd .. | .redMin .. | .redMax .. | .redFadd .. | .redCfadd .. => true
  | _ => false

theorem decodeWord_number_of_flagged {i : Instr} (hf : i.flagged = true) (hw : i.wf = true) : decodeWord i.number = .ok i := by
  cases i
  case ldB g na z sid d a | ldH g na z sid d a | ldW g na z sid d a | ldD g na z sid d a =>
    have := b2n_lt na; have := b2n_lt z
    dsimp only [Instr.number]
    simp (disch := omega) only [decodeWord, decodeLd, bits_encReg_major, bits_encReg_minor, bits_of_lt, bits_add_mul_above]
    simp (disch := omega) [bits_add_mul_above, bits_add_mul_below, bits_mul_below, zf, bvAt_eq_bits, bitAt_eq_bits, bits_of_lt,
      bits_eq_zero, accept_ok hw]
  case stB g na sid a b | stH g na sid a b | stW g na sid a b | stD g na sid a b =>
    have := b2n_lt na
    dsimp only [Instr.number]
    simp (disch := omega) only [decodeWord, decodeSt, bits_encReg_major, bits_encReg_minor, bits_of_lt, bits_add_mul_above]
    simp (disch := omega) [bits_add_mul_above, bits_add_mul_below, bits_mul_above, bits_mul_below, zf, bvAt_eq_bits, bitAt_eq_bits,
      bits_of_lt, bits_eq_zero, accept_ok hw]
  case amoAdd g z wide d a b | amoSwap g z wide d a b | amoCas g z wide d a b | amoMin g z wide d a b | amoMax g z wide d a b | amoAnd g z
    wide d a b | amoOr g z wide d a b =>
    have := b2n_lt z; have := b2n_lt wide
    dsimp only [Instr.number]
    simp (disch := omega) only [decodeWord, decodeAmo, bits_encReg_major, bits_encReg_minor, bits_of_lt, bits_add_mul_above]
    simp (disch := omega) [bits_add_mul_above, bits_add_mul_below, bits_mul_below, zf, bvAt_eq_bits, bitAt_eq_bits, bits_of_lt,
      bits_eq_zero, accept_ok hw]
  case redAdd g z comp wide a b | redMin g z comp wide a b | redMax g z comp wide a b | redFadd g z comp wide a b | redCfadd g z comp wide a
    b =>
    have := b2n_lt z; have := b2n_lt comp; have := b2n_lt wide
    dsimp only [Instr.number]
    simp (disch := omega) only [decodeWord, decodeRed, bits_encReg_major, bits_encReg_minor, bits_of_lt, bits_add_mul_above]
    simp (disch := omega) [bits_add_mul_above, bits_add_mul_below, bits_mul_below, zf, bvAt_eq_bits, bitAt_eq_bits, bits_of_lt,
      bits_eq_zero, accept_ok hw]
  all_goals cases hf

/-- A control word decodes to its instruction (R62 to R65): major and minor find its row, whose fields then read back. -/
theorem decodeWord_number {i : Instr} (hs : i.shape = .word) (hw : i.wf = true) : decodeWord i.number = .ok i := by
  cases i
  case ldB | ldH | ldW | ldD | stB | stH | stW | stD | amoAdd | amoSwap | amoCas | amoMin | amoMax | amoAnd | amoOr | redAdd | redMin |
    redMax | redFadd | redCfadd =>
    exact decodeWord_number_of_flagged rfl hw
  case add | sub | mul | mulh | mulhz | div | divz | rem | remz | and | or | xor | andn | shl | shr | sra | min | max | minz | maxz | clz |
    popc | bfx | bfi | sel | cmpEq | cmpNe | cmpLt | cmpLe | cmpLo | cmpLs | pand | por | pxor | pnot | pmov | fadd | fsub | fmul | ffma |
    fmin | fmax | fabs | fneg | fcmpEq | fcmpLt | fcmpLe | fcmpUn | ldf | ste | mbclr | mbstat | fenceS | fenceJ | qput | qget | lpw | fmt |
    job | jwait | cpin | cpout | waitx | rvin | rvout | commit | commitSwap | snap | fork | rollb | freeh | bar | task | gadd | gset | gmax
    | resid | hmix | rte | crr | crw | tsave | trstr | yield | halt =>
    dsimp only [Instr.number]
    simp (disch := omega) only [decodeWord, decodeAluR, decodeCmp, decodePred, decodeFpu, decodeMbox, decodeFence, decodeQueue, decodeJob,
      decodeCopy, decodeFrame,
      decodeState, decodeDomain, decodeHash, decodeSys,
      bits_encReg_major, bits_encReg_minor, bits_of_lt]
    simp (disch := omega) [zf, bvAt_eq_bits, bits_of_lt, bits_eq_zero, accept_ok hw]
  case addi | andi | ori | xori | shli | shri | srai =>
    dsimp only [Instr.number]
    simp (disch := omega) only [decodeWord, decodeAluI, bits_encImm_major, bits_encImm_minor, bits_of_lt]
    simp (disch := omega) [zf, bvAt_eq_bits, bits_of_lt, bits_eq_zero, accept_ok hw]
  case movi | movhi =>
    dsimp only [Instr.number]
    simp (disch := omega) only [decodeWord, decodeMoveImm, bits_encImm_major, bits_encImm_minor, bits_of_lt]
    simp (disch := omega) [bvAt_eq_bits, bits_of_lt, accept_ok hw]
  case cmpiEq | cmpiNe | cmpiLt | cmpiLe | cmpiLo | cmpiLs =>
    dsimp only [Instr.number]
    simp (disch := omega) only [decodeWord, decodeCmpi, bits_encCmpi_major, bits_encCmpi_minor]
    simp (disch := omega) [bvAt_eq_bits, accept_ok hw]
  case br | jal | jalr =>
    dsimp only [Instr.number]
    simp (disch := omega) only [decodeWord, bits_encBr_major, bits_encImm_major]
    simp (disch := omega) [bvAt_eq_bits, bits_of_lt, accept_ok hw]
  case trap =>
    dsimp only [Instr.number]
    simp (disch := omega) only [decodeWord, decodeSys, bits_add_mul_above, show bits 99 2 5 = 24 from rfl, bits_add_mul_below,
      Nat.div_eq_of_lt, bits_zero]
    simp (disch := omega) [bits_add_mul_above, bits_add_mul_below, zf, bvAt_eq_bits, bits_of_lt, bits_eq_zero, accept_ok hw]
  case fcvt g df sf z rnd d a =>
    have := b2n_lt z
    dsimp only [Instr.number]
    simp (disch := omega) only [decodeWord, bits_add_mul_above, show bits 31 2 5 = 7 from rfl]
    simp (disch := omega) [bits_add_mul_above, bits_add_mul_below, bvAt_eq_bits, bitAt_eq_bits, bits_of_lt, accept_ok hw]
  all_goals cases hs

theorem number_of_word {i : Instr} (hs : i.shape = .word) : i.number < 2 ^ 32 ∧ i.number % 4 = 3 := by
  cases i
  case ldB g na z sid d a | ldH g na z sid d a | ldW g na z sid d a | ldD g na z sid d a =>
    have := b2n_lt na; have := b2n_lt z
    exact encReg_bounds (by omega) (by omega) (by omega) (by omega) (by omega)
  case stB g na sid a b | stH g na sid a b | stW g na sid a b | stD g na sid a b =>
    have := b2n_lt na
    exact encReg_bounds (by omega) (by omega) (by omega) (by omega) (by omega)
  case amoAdd g z wide d a b | amoSwap g z wide d a b | amoCas g z wide d a b | amoMin g z wide d a b | amoMax g z wide d a b | amoAnd g z
    wide d a b | amoOr g z wide d a b =>
    have := b2n_lt z; have := b2n_lt wide
    exact encReg_bounds (by omega) (by omega) (by omega) (by omega) (by omega)
  case redAdd g z comp wide a b | redMin g z comp wide a b | redMax g z comp wide a b | redFadd g z comp wide a b | redCfadd g z comp wide a
    b =>
    have := b2n_lt z; have := b2n_lt comp; have := b2n_lt wide
    exact encReg_bounds (by omega) (by omega) (by omega) (by omega) (by omega)
  case add | sub | mul | mulh | mulhz | div | divz | rem | remz | and | or | xor | andn | shl | shr | sra | min | max | minz | maxz | clz |
    popc | bfx | bfi | sel | cmpEq | cmpNe | cmpLt | cmpLe | cmpLo | cmpLs | pand | por | pxor | pnot | pmov | fadd | fsub | fmul | ffma |
    fmin | fmax | fabs | fneg | fcmpEq | fcmpLt | fcmpLe | fcmpUn | ldf | ste | mbclr | mbstat | fenceS | fenceJ | qput | qget | lpw | fmt |
    job | jwait | cpin | cpout | waitx | rvin | rvout | commit | commitSwap | snap | fork | rollb | freeh | bar | task | gadd | gset | gmax
    | resid | hmix | rte | crr | crw | tsave | trstr | yield | halt =>
    exact encReg_bounds (by omega) (by omega) (by omega) (by omega) (by omega)
  case addi | andi | ori | xori | shli | shri | srai | movi | movhi | jalr =>
    dsimp only [Instr.number, encImm]
    omega
  case cmpiEq | cmpiNe | cmpiLt | cmpiLe | cmpiLo | cmpiLs =>
    dsimp only [Instr.number, encCmpi]
    omega
  case br | jal | trap =>
    dsimp only [Instr.number, encBr]
    omega
  case fcvt g df sf z rnd d a =>
    have := b2n_lt z
    dsimp only [Instr.number]
    omega
  all_goals cases hs

/-- A 16-bit form decodes to its instruction (R67). -/
theorem decodeHalf_number {i : Instr} (hs : i.shape = .half) (hw : i.wf = true) : decodeHalf i.number = .ok i := by
  cases i
  case cMov | cAdd | cLdD | cStD | cQput | cQget | cBr | cLpw | cNop =>
    dsimp only [Instr.number]
    simp (disch := omega) [decodeHalf, bits_add_mul_above, bits_add_mul_below, zf, bvAt_eq_bits, bits_of_lt, bits_eq_zero, accept_ok hw]
  case cAddi d imm =>
    dsimp only [Instr.number]
    simp (disch := omega) [decodeHalf, bits_add_mul_above, bits_add_mul_below, bvAt_eq_bits, bits_of_lt, accept_ok hw, Nat.div_add_mod]
  all_goals cases hs

theorem number_of_half {i : Instr} (hs : i.shape = .half) : i.number < 2 ^ 16 ∧ i.number % 4 ≠ 3 := by
  cases i
  case cMov | cAdd | cAddi | cLdD | cStD | cQput | cQget | cBr | cLpw | cNop =>
    dsimp only [Instr.number, encHalf]
    omega
  all_goals cases hs

/-! Strand ops. -/

/-- The op number of a long op reads back. -/
theorem number_of_long {i : Instr} (hs : i.shape = .long) : ∃ op F, op < 32 ∧ op ≠ 24 ∧ F < 2 ^ 26 ∧ i.number = encLong op F := by
  cases i
  case vadd | vsub | vmul | vfma | vmin | vmax | vneg | vabs | vcmp | vsel | vcvt | vexp | vlog | vrcp | vrsq | vact | vcmul | vredSum |
    vredMax | vrot | vkey | vhist | vmov | vbit | viadd | vimul | vpack | vunpk =>
    exact ⟨_, _, by decide, by decide, encVx_lt _, rfl⟩
  case mmaBf16 | mmaFp16 | mmaFp8e4 | mmaFp8e5 | mmaCb4 =>
    exact ⟨_, _, by decide, by decide, encMma_lt _ _ _ _ _ _ (by decide), rfl⟩
  case cmmaCbf16 acc aop bop k comp fz ca cb | cmmaCfp16 acc aop bop k comp fz ca cb =>
    have := b2n_lt ca; have := b2n_lt cb
    exact ⟨_, _, by decide, by decide, encMma_lt _ _ _ _ _ _ (by omega), rfl⟩
  case scanD | scanC | schunk =>
    exact ⟨_, _, by decide, by decide, encScan_lt _ _ _ _ _ _, rfl⟩
  case mwl | mcb | mstop | ldt | ldx | ldm | ldc | ldb | stt | stx | stm | stb =>
    exact ⟨_, _, by decide, by decide, by omega, rfl⟩
  case mdrainTrk z | mdrainSpd z | mdrainCp z | scarry z _ | sout z _ | slin z _ | blk z _ _ =>
    have := b2n_lt z
    exact ⟨_, _, by decide, by decide, by omega, rfl⟩
  all_goals cases hs

theorem bits_encMma_low (acc : BitVec 2) (aop bop : BitVec 3) (k : BitVec 14) (comp fz : Bool) {low j n : Nat} (h : j + n ≤ 2) :
    bits (encMma acc aop bop k comp fz low) j n = bits low j n := by
  have e : encMma acc aop bop k comp fz low = low + 2 ^ 2 * (b2n fz + 2 * b2n comp + 4 * k.toNat + 65536 * bop.toNat + 524288 * aop.toNat
      + 4194304 * acc.toNat) := by unfold encMma; ring
  rw [e, bits_add_two_pow_mul_above _ _ h]

/-- The conjugation bits of a complex tile command read back (R140). -/
theorem bits_conjugates (a b : Bool) : bits (2 * b2n a + b2n b) 1 1 = b2n a ∧ bits (2 * b2n a + b2n b) 0 1 = b2n b := by
  cases a <;> cases b <;> decide

theorem bits_encLong_encVx (f : VxFrame) {op : Nat} (h : op < 32) : bits (encLong op (encVx f)) 26 5 = op := bits_encLong_op h (encVx_lt f)

theorem bits_encLong_encMma (acc : BitVec 2) (aop bop : BitVec 3) (k : BitVec 14) (comp fz : Bool) {op low : Nat} (h : op < 32) (hl : low < 4) :
    bits (encLong op (encMma acc aop bop k comp fz low)) 26 5 = op := bits_encLong_op h (encMma_lt _ _ _ _ _ _ hl)

theorem bits_encLong_encScan (d x : BitVec 2) (comp fz : Bool) (s : BitVec 3) (n : BitVec 10) {op : Nat} (h : op < 32) :
    bits (encLong op (encScan d x comp fz s n)) 26 5 = op := bits_encLong_op h (encScan_lt _ _ _ _ _ _)

/-- A long op decodes on its strand (R70 to R74): the op number finds its row, whose fields then read back. -/
theorem decodeLong_number {i : Instr} {k : StrandId} (hs : i.shape = .long) (hk : k ∈ strandsOf i) (hw : i.wf = true) :
    decodeLong k i.number = .ok i := by
  cases i
  case vadd | vsub | vmul | vfma | vmin | vmax | vneg | vabs | vcmp | vsel | vcvt | vexp | vlog | vrcp | vrsq | vact | vcmul | vredSum |
    vredMax | vrot | vkey | vhist | vmov | vbit | viadd | vimul | vpack | vunpk =>
    cases List.mem_singleton.1 hk
    dsimp only [Instr.number]
    simp only [decodeLong, decodeVx, bits_encLong_encVx, Nat.reduceLT, vxFrame_encLong, accept_ok hw]
  case mmaBf16 | mmaFp16 | mmaFp8e4 | mmaFp8e5 | mmaCb4 =>
    cases List.mem_singleton.1 hk
    dsimp only [Instr.number]
    simp (disch := omega) only [decodeLong, decodeMx, bits_encLong_encMma]
    simp (disch := omega) [bits_encMma, zf, bvAt_eq_bits, bitAt_eq_bits, accept_ok hw]
  case scanD | scanC | schunk =>
    cases List.mem_singleton.1 hk
    dsimp only [Instr.number]
    simp (disch := omega) only [decodeLong, decodeSc, bits_encLong_encScan]
    simp (disch := omega) [bits_encScan, zf, bvAt_eq_bits, bitAt_eq_bits, accept_ok hw]
  case cmmaCbf16 acc aop bop k comp fz ca cb | cmmaCfp16 acc aop bop k comp fz ca cb =>
    have := b2n_lt ca; have := b2n_lt cb
    cases List.mem_singleton.1 hk
    dsimp only [Instr.number]
    simp (disch := omega) only [decodeLong, decodeMx, bits_encLong_encMma]
    simp (disch := omega) [bits_encMma, bits_encMma_low, bits_conjugates, bvAt_eq_bits, bitAt_eq_bits, accept_ok hw]
  case mwl | mcb | mstop =>
    cases List.mem_singleton.1 hk
    dsimp only [Instr.number]
    simp (disch := omega) only [decodeLong, bits_encLong_op, decodeMx]
    simp (disch := omega) [bits_add_mul_above, bits_add_mul_below, bits_mul_above, bits_mul_below, zf, bvAt_eq_bits, bits_of_lt, accept_ok hw]
  case ldt | ldx | ldm | ldc | ldb =>
    cases List.mem_singleton.1 hk
    dsimp only [Instr.number]
    simp (disch := omega) only [decodeLong, bits_encLong_op, decodeLdOp]
    simp (disch := omega) [bits_add_mul_above, bits_add_mul_below, bits_mul_above, bits_mul_below, zf, bvAt_eq_bits, bits_of_lt, accept_ok hw]
  case stt | stx | stm | stb =>
    cases List.mem_singleton.1 hk
    dsimp only [Instr.number]
    simp (disch := omega) only [decodeLong, bits_encLong_op, decodeStOp]
    simp (disch := omega) [bits_add_mul_above, bits_add_mul_below, bits_mul_above, bits_mul_below, zf, bvAt_eq_bits, bits_of_lt, accept_ok hw]
  case mdrainTrk z | mdrainSpd z | mdrainCp z =>
    have := b2n_lt z
    cases List.mem_singleton.1 hk
    dsimp only [Instr.number]
    simp (disch := omega) only [decodeLong, bits_encLong_op, decodeMx]
    simp (disch := omega) [bits_add_mul_above, bits_add_mul_below, bits_mul_above, bits_mul_below, zf, bvAt_eq_bits, bitAt_eq_bits,
      bits_of_lt, accept_ok hw]
  case scarry z _ | sout z _ | slin z _ =>
    have := b2n_lt z
    cases List.mem_singleton.1 hk
    dsimp only [Instr.number]
    simp (disch := omega) only [decodeLong, bits_encLong_op, decodeSc]
    simp (disch := omega) [bits_add_mul_above, bits_add_mul_below, bits_mul_above, bits_mul_below, zf, bvAt_eq_bits, bitAt_eq_bits,
      bits_of_lt, accept_ok hw]
  case blk z _ _ =>
    have := b2n_lt z
    dsimp only [Instr.number]
    simp (disch := omega) only [decodeLong, bits_encLong_op, decodeBlk]
    simp (disch := omega) [bits_add_mul_above, bits_add_mul_below, bvAt_eq_bits, bitAt_eq_bits, bits_of_lt, accept_ok hw]
  all_goals cases hs

/-- A short op decodes on its strand (R71, R73). -/
theorem decodeShort_number {i : Instr} {k : StrandId} (hs : i.shape = .short) (hk : k ∈ strandsOf i) (hw : i.wf = true) :
    decodeShort k i.number = .ok i := by
  cases i
  case idle n =>
    have hop : bits n.toNat 10 5 = 0 := bits_eq_zero (by omega)
    simp [Instr.number, decodeShort, hop, bvAt_eq_bits, accept_ok hw]
  case join => exact accept_ok hw
  case mzero acc pair =>
    cases List.mem_singleton.1 hk
    have := b2n_lt pair
    have hfields : let w := 9216 + 128 * b2n pair + 256 * acc.toNat
        bits w 10 5 = 9 ∧ bits w 0 7 = 0 ∧ bits w 7 1 = b2n pair ∧ bits w 8 2 = acc.toNat := by unfold bits; omega
    simp [Instr.number, decodeShort, hfields, zf, bvAt_eq_bits, bitAt_eq_bits, accept_ok hw]
  all_goals cases hs

theorem number_of_short {i : Instr} (hs : i.shape = .short) : i.number < 2 ^ 15 := by
  cases i
  case idle n => exact n.isLt.trans (by decide)
  case join => decide
  case mzero acc pair =>
    have := b2n_lt pair
    dsimp only [Instr.number]
    omega
  all_goals cases hs

/-! Encodings in a stream. -/

/-- Two parcels hold a number of 32 bits. -/
theorem toNat_parcels {w : Nat} (h : w < 2 ^ 32) : (BitVec.ofNat 16 w).toNat + 65536 * (BitVec.ofNat 16 (w / 65536)).toNat = w := by
  simp only [BitVec.toNat_ofNat]
  omega

theorem decodeCtl_encode_word {i : Instr} (rest : List Parcel) (hs : i.shape = .word) (hw : i.wf = true) :
    decodeCtl (encode i ++ rest) = .ok (i, (encode i).length) := by
  obtain ⟨hlt, hlow⟩ := number_of_word hs
  have hb : bits (BitVec.ofNat 16 i.number).toNat 0 2 = 3 := by
    simp only [bits, BitVec.toNat_ofNat]
    omega
  simp only [encode, hs, List.cons_append, decodeCtl, if_pos hb, toNat_parcels hlt, decodeWord_number hs hw, Except.map]
  rfl

theorem decodeCtl_encode_half {i : Instr} (rest : List Parcel) (hs : i.shape = .half) (hw : i.wf = true) :
    decodeCtl (encode i ++ rest) = .ok (i, (encode i).length) := by
  obtain ⟨hlt, hlow⟩ := number_of_half hs
  have hb : bits (BitVec.ofNat 16 i.number).toNat 0 2 ≠ 3 := by
    simp only [bits, BitVec.toNat_ofNat]
    omega
  have he : (BitVec.ofNat 16 i.number).toNat = i.number := Nat.mod_eq_of_lt hlt
  rw [he] at hb
  simp only [encode, hs, List.cons_append, decodeCtl, he, if_neg hb, decodeHalf_number hs hw, Except.map]
  rfl

theorem decodeStrand_encode_short {i : Instr} {k : StrandId} (rest : List Parcel) (hs : i.shape = .short) (hk : k ∈ strandsOf i)
    (hw : i.wf = true) : decodeStrand k (encode i ++ rest) = .ok (i, (encode i).length) := by
  have hlt := number_of_short hs
  have he : (BitVec.ofNat 16 i.number).toNat = i.number := Nat.mod_eq_of_lt (by omega)
  have hshort : i.number < 32768 := hlt
  simp only [encode, hs, List.cons_append, decodeStrand, he, if_pos hshort, decodeShort_number hs hk hw, Except.map]
  rfl

theorem decodeStrand_encode_long {i : Instr} {k : StrandId} (rest : List Parcel) (hs : i.shape = .long) (hk : k ∈ strandsOf i)
    (hw : i.wf = true) : decodeStrand k (encode i ++ rest) = .ok (i, (encode i).length) := by
  obtain ⟨op, F, hop, hne, hF, hn⟩ := number_of_long hs
  have hlt : i.number < 2 ^ 32 := by rw [hn, encLong]; omega
  have hlong : ¬ (BitVec.ofNat 16 (i.number / 65536)).toNat < 32768 := by rw [BitVec.toNat_ofNat, hn, encLong]; omega
  have hop24 : bits i.number 26 5 ≠ 24 := by rwa [hn, bits_encLong_op hop hF]
  have hword := toNat_parcels hlt
  rw [Nat.add_comm] at hword
  simp only [encode, hs, List.cons_append, decodeStrand, if_neg hlong, hword, hop24, and_false, if_false, decodeLong_number hs hk hw,
    Except.map]
  rfl

theorem decodeStrand_encode_check {i : Instr} {k : StrandId} (rest : List Parcel) (hs : i.shape = .check) (hk : k ∈ strandsOf i)
    (hw : i.wf = true) : decodeStrand k (encode i ++ rest) = .ok (i, (encode i).length) := by
  cases i
  case vchk pr rnd c =>
    cases List.mem_singleton.1 hk
    have hpr := b2n_lt pr
    have hF : 16 * rnd.toNat + 128 * b2n pr < 2 ^ 26 := by omega
    have hn : (Instr.vchk pr rnd c).number = encLong 24 (16 * rnd.toNat + 128 * b2n pr) := rfl
    have hop := bits_encLong_op (by decide : 24 < 32) hF
    have hlt : encLong 24 (16 * rnd.toNat + 128 * b2n pr) < 2 ^ 32 := by unfold encLong; omega
    have hlong : ¬ (BitVec.ofNat 16 (encLong 24 (16 * rnd.toNat + 128 * b2n pr) / 65536)).toNat < 32768 := by
      rw [BitVec.toNat_ofNat, encLong]; omega
    have hword := toNat_parcels hlt
    rw [Nat.add_comm] at hword
    have hconst := toNat_parcels c.isLt
    have hchk : decodeVchk (encLong 24 (16 * rnd.toNat + 128 * b2n pr)) c.toNat = .ok (.vchk pr rnd c) := by
      simp (disch := omega) [decodeVchk, bits_add_mul_above, bits_add_mul_below, bits_mul_above, bits_mul_below, zf, bvAt_eq_bits,
        bitAt_eq_bits, bits_of_lt, bits_eq_zero, accept_ok hw]
    simp only [encode, Instr.shape, Instr.constant, hn, List.cons_append, decodeStrand, if_neg hlong, hword, hop, and_self, if_true,
      hconst, hchk,
      Except.map]
    rfl
  all_goals cases hs

/-- The ops that a strand's table holds are those laid out as strand ops (R70). -/
theorem strandsOf_ne_nil_iff {i : Instr} : strandsOf i ≠ [] ↔ i.shape = .short ∨ i.shape = .long ∨ i.shape = .check := by
  constructor
  · intro h
    cases i <;> first | exact absurd rfl h | exact .inl rfl | exact .inr (.inl rfl) | exact .inr (.inr rfl)
  · rintro (h | h | h) <;> cases i <;> first | exact List.cons_ne_nil _ _ | cases h

/-- Settles O54: number by number the encoding tables and the decoder's rows agree, and the parcels hold the number. -/
theorem decodingInvertsEncoding : Obligations.DecodingInvertsEncoding := by
  intro i rest hw
  refine ⟨fun hs => ?_, fun k hk => ?_, strandsOf_ne_nil_iff.2⟩
  · rcases hs with hs | hs
    · exact decodeCtl_encode_word rest hs hw
    · exact decodeCtl_encode_half rest hs hw
  · rcases strandsOf_ne_nil_iff.1 (List.ne_nil_of_mem hk) with hs | hs | hs
    · exact decodeStrand_encode_short rest hs hk hw
    · exact decodeStrand_encode_long rest hs hk hw
    · exact decodeStrand_encode_check rest hs hk hw

end Sys2Proof
end

section
/-! Every instruction answers a next state (01: R19; 15: R299). -/

namespace Sys2Proof.Machine

theorem strandForm_next (k len : Nat) (f : State → At → Iss (State × Bool)) (s : State) : ∃ t, strandForm k len f s = .next t := by
  unfold strandForm
  dsimp only
  (repeat' split) <;> exact ⟨_, rfl⟩

theorem stateForm_next (g : BitVec 4) (d : BitVec 5) (busy : State → Bool) (f : State → Iface → StateOut) (s : State) :
    ∃ t, stateForm g d busy f s = .next t := by
  unfold stateForm
  split <;> exact ⟨_, rfl⟩

theorem execFlitSend_next (s : State) : ∃ t, execFlitSend s = .next t := by
  unfold execFlitSend
  dsimp only
  generalize (s.portHead s.agent.1 s.agent.2.1).ownHead s.agent.1 s.agent.2.1 = t
  by_cases h : s.agent.2.1 = 2
  · exact ⟨_, if_pos h⟩
  · rw [if_neg h]
    cases oldest (t.cands s.agent.1 s.agent.2.1) <;> exact ⟨_, rfl⟩

/-- Settles O58: strand ops and state instructions answer through their shared forms; the meanings of the others are trees of tests, each of
whose leaves is a next state. -/
theorem noInstructionStops : Obligations.NoInstructionStops := by
  intro i s
  cases i
  case idle | mmaBf16 | mmaFp16 | mmaFp8e4 | mmaFp8e5 | mmaCb4 | cmmaCbf16 | cmmaCfp16 | mzero | mdrainTrk | mdrainSpd | mdrainCp | mwl |
    mcb | mstop | scanD | scanC | schunk | scarry | sout | slin | vadd | vsub | vmul | vfma | vmin | vmax | vneg | vabs | vcmp | vsel | vcvt
    | vexp | vlog | vrcp | vrsq | vact | vcmul | vredSum | vredMax | vrot | vkey | vhist | vchk | vmov | vbit | viadd | vimul | vpack |
    vunpk | ldt | ldx | ldm | ldc | ldb | stt | stx | stm | stb | join =>
    dsimp only [exec, execIdle, execMmaBf16, execMmaFp16, execMmaFp8e4, execMmaFp8e5, execMmaCb4, execCmmaCbf16, execCmmaCfp16,
      execMzero, execMdrainTrk, execMdrainSpd, execMdrainCp, execMwl, execMcb, execMstop, execScanD, execScanC, execSchunk,
      execScarry, execSout, execSlin, execVadd, execVsub, execVmul, execVfma, execVmin, execVmax, execVneg, execVabs, execVcmp,
      execVsel, execVcvt, execVexp, execVlog, execVrcp, execVrsq, execVact, execVcmul, execVredSum, execVredMax, execVrot,
      execVkey, execVhist, execVchk, execVmov, execVbit, execViadd, execVimul, execVpack, execVunpk, execLdt, execLdx, execLdm,
      execLdc, execLdb, execStt, execStx, execStm, execStb, execJoin, tileForm, drainForm, scanForm, loadForm, storeForm, vxFun,
      vxForm]
    exact strandForm_next ..
  case qput | cQput =>
    dsimp only [exec, execQput, execCQput, qputForm]
    (repeat' split) <;> exact ⟨_, rfl⟩
  case qget | cQget =>
    dsimp only [exec, execQget, execCQget, qgetForm]
    (repeat' split) <;> exact ⟨_, rfl⟩
  case lpw | cLpw =>
    dsimp only [exec, execLpw, execCLpw, lpwForm]
    (repeat' split) <;> exact ⟨_, rfl⟩
  case rvin | rvout =>
    dsimp only [exec, execRvin, execRvout, reeveForm]
    (repeat' split) <;> exact ⟨_, rfl⟩
  case snap | fork | rollb | freeh =>
    dsimp only [exec, execSnap, execFork, execRollb, execFreeh]
    exact stateForm_next ..
  case commit | commitSwap | bar =>
    dsimp only [exec, execCommit, execCommitSwap, execBar, commitForm]
    (repeat' split) <;> exact ⟨_, rfl⟩
  case gadd | gset | gmax =>
    dsimp only [exec, execGadd, execGset, execGmax, gainForm]
    (repeat' split) <;> exact ⟨_, rfl⟩
  case job | fmt =>
    dsimp only [exec, execJob, execFmt]
    (repeat' split) <;> exact ⟨_, rfl⟩
  case task | resid =>
    dsimp only [exec, execTask, execResid]
    (repeat' split) <;> exact ⟨_, rfl⟩
  case rte | crr | crw | tsave | trstr | yield =>
    dsimp only [exec, execRte, execCrr, execCrw, execTsave, execTrstr, execYield]
    (repeat' split) <;> exact ⟨_, rfl⟩
  case blk =>
    dsimp only [exec, execBlk]
    (repeat' split) <;> exact ⟨_, rfl⟩
  case flit | returnWord | auditFlit | auditTick | packetDelivery =>
    dsimp only [exec, execFlit, execReturnWord, execAuditFlit, execAuditTick, execPacketDelivery]
    (repeat' split) <;> exact ⟨_, rfl⟩
  case mail | done | bara | barr | rdreq | rdrsp | prep | amoreq | amorsp | redent | engine =>
    dsimp only [exec, execMail, execDone, execBara, execBarr, execRdreq, execRdrsp, execPrep, execAmoreq, execAmorsp, execRedent,
      execEngine]
    (repeat' split) <;> exact ⟨_, rfl⟩
  case heap | gainRefusal | heapRun | roundTaskStart =>
    dsimp only [exec, execHeap, execGainRefusal, execHeapRun, execRoundTaskStart]
    (repeat' split) <;> exact ⟨_, rfl⟩
  case ctrl | taskStart | taskSpillReturn =>
    dsimp only [exec, execCtrl, execTaskStart, execTaskSpillReturn]
    (repeat' split) <;> exact ⟨_, rfl⟩
  case slotref | slotBoundary | slotrefTimeout =>
    dsimp only [exec, execSlotref, execSlotBoundary, execSlotrefTimeout]
    (repeat' split) <;> exact ⟨_, rfl⟩
  case tokenRetry | tokenRefuse | lightFault | cancellation | discard | suspend | tokenRecordPost | bankSwitch | braidStall | preemption |
    launchResume =>
    dsimp only [exec, execTokenRetry, execTokenRefuse, execLightFault, execCancellation, execDiscard, execSuspend,
      execTokenRecordPost, execBankSwitch, execBraidStall, execPreemption, execLaunchResume]
    (repeat' split) <;> exact ⟨_, rfl⟩
  case l2Scrub | inFieldTestEnd | inFieldTest =>
    dsimp only [exec, execL2Scrub, execInFieldTestEnd, execInFieldTest]
    (repeat' split) <;> exact ⟨_, rfl⟩
  case spliceFlit | retrainComplete | portFrame | flitReplay | linkDown =>
    dsimp only [exec, execSpliceFlit, execRetrainComplete, execPortFrame, execFlitReplay, execLinkDown]
    (repeat' split) <;> exact ⟨_, rfl⟩
  case cxlMemRead | cxlMemWrite | cxlCacheResponse =>
    dsimp only [exec, execCxlMemRead, execCxlMemWrite, execCxlCacheResponse]
    (repeat' split) <;> exact ⟨_, rfl⟩
  case create | destroy | assign | migrate | attest | tlbsync | registerWrite | adminCommandComplete =>
    dsimp only [exec, execCreate, execDestroy, execAssign, execMigrate, execAttest, execTlbsync, execRegisterWrite,
      execAdminCommandComplete]
    (repeat' split) <;> exact ⟨_, rfl⟩
  case resetN | bootStep =>
    dsimp only [exec, execResetN, execBootStep]
    (repeat' split) <;> exact ⟨_, rfl⟩
  case jobStart | rendezvous | overrun | illegalEncoding =>
    dsimp only [exec, execJobStart, execRendezvous, execOverrun, execIllegalEncoding]
    (repeat' split) <;> exact ⟨_, rfl⟩
  case commitEvent | eventPrepared | eventComplete =>
    dsimp only [exec, execCommitEvent, execEventPrepared, execEventComplete]
    (repeat' split) <;> exact ⟨_, rfl⟩
  case copyStart | copyPiece =>
    dsimp only [exec, execCopyStart, execCopyPiece]
    (repeat' split) <;> exact ⟨_, rfl⟩
  case reeveStart | rvinRetire | rvoutRetire =>
    dsimp only [exec, execReeveStart, execRvinRetire, execRvoutRetire]
    (repeat' split) <;> exact ⟨_, rfl⟩
  case recordTake | launchIssue | launchComplete =>
    dsimp only [exec, execRecordTake, execLaunchIssue, execLaunchComplete]
    (repeat' split) <;> exact ⟨_, rfl⟩
  case prefixLookup | prefixInsert | prefixUnpin =>
    dsimp only [exec, execPrefixLookup, execPrefixInsert, execPrefixUnpin]
    (repeat' split) <;> exact ⟨_, rfl⟩
  case flitSend => exact execFlitSend_next s
  all_goals exact ⟨_, rfl⟩
end Sys2Proof.Machine
end

section
/-! SUPPORT. Taking a fault: what posting, discarding and ending a task leave of the braids (15: R299 to R305, R349). -/

open Sys2Proof.Claims

namespace Sys2Proof.Machine

/-! Recording a fault touches no braid. -/

@[simp] theorem State.braids_modIface (s : State) (v : Nat) (f : Iface → Iface) : (s.modIface v f).braids = s.braids := by
  unfold State.modIface; split <;> rfl
@[simp] theorem State.braids_modLaunch (s : State) (uid : Nat) (f : Launch → Launch) : (s.modLaunch uid f).braids = s.braids := rfl
@[simp] theorem State.braids_later (s : State) (n : Nat) (a : Act) : (s.later n a).braids = s.braids := rfl
theorem State.OnlyMem.braids_eq {s t : State} (h : s.OnlyMem t) : t.braids = s.braids := by rw [h.1]
@[simp] theorem State.braids_homePuts (s : State) (v : Nat) (l : List (Nat × Byte)) : (s.homePuts v l).braids = s.braids :=
  (s.homePuts_only v l).braids_eq
@[simp] theorem State.braids_seqWrite (s : State) (v va : Nat) (l : List Byte) : (s.seqWrite v va l).1.braids = s.braids :=
  (s.seqWrite_only v va l).braids_eq
@[simp] theorem State.braids_postDevice (s : State) (l : List Byte) : (s.postDevice l).braids = s.braids := by
  unfold State.postDevice; simp only; split <;> simp
@[simp] theorem State.braids_postTry (s : State) (v : Nat) (l : List Byte) : (s.postTry v l).1.braids = s.braids := by
  unfold State.postTry
  simp only
  split
  · simp
  · split
    · rfl
    · have hw := s.braids_seqWrite v ((s.ifaceD v).fring + 64 * ((s.ifaceD v).fpi % 2 ^ (s.ifaceD v).flog)) l
      split <;> simp_all
@[simp] theorem State.braids_tryUnposted (s : State) (v : Nat) (u : Unposted) : (s.tryUnposted v u).1.braids = s.braids := by
  cases u with
  | record l => exact s.braids_postTry v l
  | heapDone va num data =>
    have hw := s.braids_seqWrite v va data
    unfold State.tryUnposted
    simp only
    split <;> simp_all
@[simp] theorem State.braids_put (s : State) (v : Nat) (u : Unposted) : (s.put v u).braids = s.braids := by
  have hu := s.braids_tryUnposted v u
  unfold State.put
  simp only
  split
  · simp
  · split <;> simp_all
@[simp] theorem State.braids_post (s : State) (v : Nat) (l : List Byte) : (s.post v l).braids = s.braids := s.braids_put v _
@[simp] theorem State.braids_completeHeap (s : State) (key status who place : Nat) :
    (s.completeHeap key status who place).braids = s.braids := by
  unfold State.completeHeap
  split
  · rfl
  · simp
@[simp] theorem State.braids_contend (s : State) (v : Nat) (f : FaultInfo) : (s.contend v f).braids = s.braids := by
  unfold State.contend
  split
  · simp only; split <;> rfl
  · rfl
@[simp] theorem State.mem_contend (s : State) (v : Nat) (f : FaultInfo) : (s.contend v f).mem = s.mem := by
  unfold State.contend
  split
  · simp only; split <;> rfl
  · rfl
theorem State.braid_of_braids {s t : State} (h : t.braids = s.braids) (b : Nat) : t.braid b = s.braid b := by
  unfold State.braid; rw [h]

/-! What a discard keeps of a bank until its task ends. -/

/-- The bank's cause registers and contexts are the same, and it holds a task if it did. -/
structure Bank.SameStatus (k m : Bank) : Prop where
  causeCode : m.causeCode = k.causeCode
  causeSrc : m.causeSrc = k.causeSrc
  spc : m.spc = k.spc
  ctx : ∀ c, m.ctx c = k.ctx c
  task : m.task.isSome = k.task.isSome

/-- In a braid its SRAM, and in each bank the cause registers and the contexts, are the same. -/
structure Braid.SameStatus (x y : Braid) : Prop where
  sram : y.sram = x.sram
  bank : ∀ i, (x.bank i).SameStatus (y.bank i)

/-- In every braid the SRAM, and in each bank the cause registers and the contexts, are the same. -/
def State.SameStatus (s t : State) : Prop := ∀ b, (s.braid b).SameStatus (t.braid b)

theorem Bank.SameStatus.refl (k : Bank) : k.SameStatus k := ⟨rfl, rfl, rfl, fun _ => rfl, rfl⟩
theorem Bank.SameStatus.trans {k m n : Bank} (h : k.SameStatus m) (g : m.SameStatus n) : k.SameStatus n :=
  ⟨g.causeCode.trans h.causeCode, g.causeSrc.trans h.causeSrc, g.spc.trans h.spc, fun c => (g.ctx c).trans (h.ctx c), g.task.trans h.task⟩
theorem Braid.SameStatus.refl (x : Braid) : x.SameStatus x := ⟨rfl, fun _ => .refl _⟩
theorem Braid.SameStatus.trans {x y z : Braid} (h : x.SameStatus y) (g : y.SameStatus z) : x.SameStatus z :=
  ⟨g.sram.trans h.sram, fun i => (h.bank i).trans (g.bank i)⟩
theorem State.SameStatus.trans {s t u : State} (h : s.SameStatus t) (g : t.SameStatus u) : s.SameStatus u := fun b => (h b).trans (g b)
theorem State.SameStatus.of_braids {s t : State} (h : t.braids = s.braids) : s.SameStatus t := fun b => by
  rw [State.braid_of_braids h]; exact .refl _
theorem State.SameStatus.foldl {α : Type} {f : State → α → State} (hf : ∀ (s : State) (a : α), s.SameStatus (f s a)) (l : List α) (s : State) :
    s.SameStatus (l.foldl f s) := by
  induction l generalizing s with
  | nil => exact .of_braids rfl
  | cons a l ih => exact (hf s a).trans (ih _)

theorem Braid.SameStatus.setBank {x y : Braid} (h : x.SameStatus y) (i : Nat) {k : Bank} (hk : (y.bank i).SameStatus k) : x.SameStatus (y.setBank i k) where
  sram := by simp [h.sram]
  bank j := by
    by_cases hj : (i = 0) = (j = 0)
    · have hb : ∀ z : Braid, z.bank j = z.bank i := fun z => by unfold Braid.bank; simp only [hj]
      rw [hb, hb, Braid.bank_setBank_same, ← hb x]
      exact (hb x ▸ h.bank i).trans hk
    · rw [Braid.bank_setBank_other _ _ hj]
      exact h.bank j
theorem State.SameStatus.modBraid (s : State) (b : Nat) {f : Braid → Braid} (hf : (s.braid b).SameStatus (f (s.braid b))) : s.SameStatus (s.modBraid b f) := fun c => by
  by_cases hc : c = b
  · subst hc; rw [State.braid_modBraid_same]; exact hf
  · rw [State.braid_modBraid_ne _ _ hc]; exact .refl _
theorem State.SameStatus.modBank (s : State) (b i : Nat) {f : Bank → Bank} (hf : (s.bank b i).SameStatus (f (s.bank b i))) : s.SameStatus (s.modBank b i f) :=
  .modBraid s b ((Braid.SameStatus.refl _).setBank i hf)

theorem State.phaseDone_sameStatus (s : State) (b i : Nat) (swap : Bool) (k : Nat) : s.SameStatus (s.phaseDone b i swap k) := by
  unfold State.phaseDone
  refine .modBraid s b ?_
  dsimp only
  refine Braid.SameStatus.setBank ?_ i ?_
  · exact ⟨rfl, fun j => .refl _⟩
  exact ⟨rfl, rfl, rfl, fun c => by cases c <;> rfl, by simp [Braid.bank]⟩
theorem State.dropEvents_sameStatus (s : State) (b i : Nat) : s.SameStatus (s.dropEvents b i) := by
  unfold State.dropEvents
  simp only
  refine .trans (.foldl (fun st e => .foldl (fun st p => .modBank _ _ _ ?_) _ _) _ s) (.of_braids rfl)
  exact ⟨rfl, rfl, rfl, fun c => by cases c <;> rfl, rfl⟩
theorem Braid.stopStrands_sameStatus (x : Braid) (i : Nat) : x.SameStatus (x.stopStrands i) := by
  unfold Braid.stopStrands Braid.dropHalfTiles
  dsimp only
  refine Braid.SameStatus.setBank ?_ i ?_
  · exact ⟨rfl, fun j => .refl _⟩
  exact ⟨rfl, rfl, rfl, fun c => by cases c <;> rfl, rfl⟩
theorem Bank.dropPhase_sameStatus (k : Bank) : k.SameStatus k.dropPhase :=
  ⟨rfl, rfl, rfl, fun c => by cases c <;> rfl, by simp [Bank.dropPhase]⟩

/-- The part of a discard that comes before the bank's own removals: its event is applied or gone (R235, R302). -/
theorem State.dropPhase_eq (s : State) (b i : Nat) : ∃ (u : State) (x : Braid), s.SameStatus u ∧ (u.braid b).SameStatus x
    ∧ s.dropPhase b i = u.setBraid b (x.setBank i (x.bank i).dropPhase) := by
  let u : State := match (s.bank b i).arrive with
    | some a => if s.committed b i then s.phaseDone b i a.swap a.level else s.dropEvents b i
    | none => s
  let x : Braid := u.braid b
  let y := if x.jobsOpen.any (·.bank == i) || x.strands.any (fun e => e.2.job.isSome && e.2.bank == i) then x.stopStrands i else x
  have hu : s.SameStatus u := by
    simp only [u]
    split
    · split
      · exact s.phaseDone_sameStatus _ _ _ _
      · exact s.dropEvents_sameStatus _ _
    · exact .of_braids rfl
  have hy : x.SameStatus y := by
    simp only [y]
    split
    · exact x.stopStrands_sameStatus i
    · exact .refl _
  exact ⟨u, { y with merge := if y.runBank = i then [] else y.merge }, hu, hy.trans ⟨rfl, fun j => .refl _⟩, rfl⟩

theorem State.dropPhase_sameStatus (s : State) (b i : Nat) : s.SameStatus (s.dropPhase b i) := by
  obtain ⟨u, x, hu, hx, he⟩ := s.dropPhase_eq b i
  rw [he]
  exact hu.trans (.modBraid u b (f := fun _ => x.setBank i (x.bank i).dropPhase) (hx.setBank i (x.bank i).dropPhase_sameStatus))
theorem State.dropPhase_late (s : State) (b i : Nat) : ((s.dropPhase b i).bank b i).late = [] := by
  obtain ⟨u, x, -, -, he⟩ := s.dropPhase_eq b i
  simp [he, State.bank, Bank.dropPhase]

@[simp] theorem State.bank_idleRest (s : State) (b i c j : Nat) : (s.idleRest b i).bank c j = s.bank c j := rfl
@[simp] theorem State.braid_idleRest (s : State) (b i c : Nat) : (s.idleRest b i).braid c = s.braid c := rfl
@[simp] theorem State.bank_modLaunch (s : State) (uid : Nat) (f : Launch → Launch) (c j : Nat) : (s.modLaunch uid f).bank c j = s.bank c j := rfl
@[simp] theorem State.braid_modLaunch (s : State) (uid : Nat) (f : Launch → Launch) (c : Nat) : (s.modLaunch uid f).braid c = s.braid c := rfl

/-- The launch's end clears task queue and reservation of every braid that holds its records, and nothing else there (R303). -/
def Braid.clearLaunch (x : Braid) (uid : Nat) : Braid :=
  { x with taskQ := x.taskQ.filter (·.launch ≠ uid), reserved := if x.reserved = some uid then none else x.reserved }

theorem State.doomLaunch_braids (s : State) (uid b i status hstatus : Nat) :
    (s.doomLaunch uid b i status hstatus).braids = s.braids
      ∨ (s.doomLaunch uid b i status hstatus).braids = s.braids.map fun e => (e.1, e.2.clearLaunch uid) := by
  unfold State.doomLaunch
  split
  · exact .inl rfl
  · split
    · exact .inl rfl
    · right
      have hl : ∀ (n : Nat) (l : List Nat) (u : State),
          (l.foldl (fun x c => x.later (x.cycle + 1 + n % 64) (.event .discard uid c 0)) u).braids = u.braids := by
        intro n l
        induction l with
        | nil => intro u; rfl
        | cons c l ih => intro u; exact ih _
      dsimp only [State.draw]
      split <;> simp [hl, Braid.clearLaunch]

theorem tget_map_val {α : Type} (d : α) (f : α → α) (hd : f d = d) (t : Tab α) (k : Nat) : tget d (t.map fun e => (e.1, f e.2)) k = f (tget d t k) := by
  induction t with
  | nil => exact hd.symm
  | cons e t ih =>
    simp only [List.map_cons, tget]
    split
    · rfl
    · exact ih

/-- A launch's end leaves every braid as it was but for its task queue and its reservation. -/
theorem State.doomLaunch_braid (s : State) (uid b i status hstatus c : Nat) :
    (s.doomLaunch uid b i status hstatus).braid c = s.braid c ∨ (s.doomLaunch uid b i status hstatus).braid c = (s.braid c).clearLaunch uid := by
  rcases s.doomLaunch_braids uid b i status hstatus with h | h
  · exact .inl (State.braid_of_braids h c)
  · right
    unfold State.braid
    rw [h]
    exact tget_map_val {} (·.clearLaunch uid) rfl s.braids c
theorem State.doomLaunch_bank (s : State) (uid b i status hstatus c j : Nat) :
    (s.doomLaunch uid b i status hstatus).bank c j = s.bank c j := by
  unfold State.bank
  rcases s.doomLaunch_braid uid b i status hstatus c with h | h
  · rw [h]
  · rw [h]; rfl

/-- A bank whose task has ended. -/
def Bank.ended (k : Bank) : Bank :=
  { k.stopAll with
    task := none, mode := .idle, q := [], qStart := [], jobs := [], spilled := [], staged := [], reds := [], conflicts := [],
    w := [], arrive := none, held := none, parked := [], ckpt := none, susp := none, rerun := false, tSaved := false,
    chans := k.chans.map fun (n, c) => (n, { c with tile := none }) }

@[simp] theorem State.braids_closeUse (s : State) (b i : Nat) : (s.closeUse b i).braids = s.braids := by
  unfold State.closeUse
  dsimp only
  split
  · split <;> simp
  · rfl

/-- The end of a task empties its bank, and the merge buffer where the bank runs; braid SRAM stays. -/
theorem State.endTask_spec {s : State} {b i : Nat} (h : (s.bank b i).task.isSome = true) :
    (s.endTask b i).bank b i = (s.bank b i).ended
      ∧ (((s.endTask b i).braid b).runBank = i → ((s.endTask b i).braid b).merge = [])
      ∧ ((s.endTask b i).braid b).sram = (s.braid b).sram := by
  obtain ⟨t, ht⟩ := Option.isSome_iff_exists.mp h
  have hb : ∀ v : State, v.braids = ((s.closeUse b i).modBraid b fun x =>
        let x1 := x.setBank i (s.bank b i).ended
        let (dn, fin) := settleDone x.sqDone (t.sq :: x.sqFin) (x.sqFin.length + 1)
        { x1 with merge := if x.runBank = i then [] else x.merge, l1 := dropL1 x.l1 (·.kind == 0), sqDone := dn, sqFin := fin }).braids →
      v.bank b i = (s.bank b i).ended ∧ ((v.braid b).runBank = i → (v.braid b).merge = []) ∧ (v.braid b).sram = (s.braid b).sram := by
    intro v hv
    have hv := State.braid_of_braids hv b
    rw [State.braid_modBraid_same, State.braid_of_braids (s.braids_closeUse b i)] at hv
    refine ⟨?_, fun hr => ?_, ?_⟩
    · rw [State.bank_eq, hv]; exact Braid.bank_setBank_same _ _ _
    · rw [hv] at hr ⊢; exact if_pos (by simpa using hr)
    · rw [hv]; simp
  apply hb
  unfold State.endTask
  dsimp only
  rw [ht]
  dsimp only
  split <;> rfl

/-- The marks of a discard fault on its bank (R24, R26, R300). -/
theorem Bank.fault_marks (k : Bank) (f : FaultInfo) :
    (k.fault f).causeCode = BitVec.ofNat 8 f.code ∧ (k.fault f).causeSrc = BitVec.ofNat 3 f.src ∧ (k.fault f).spc = f.spc
      ∧ (k.fault f).task = k.task ∧ ∀ d, (k.fault f).ctx d = if d = f.ctx then { (k.ctx d).stopped with fault := true, epc := f.epc }
        else { (k.ctx d).stopped with epc := (k.ctx d).pc } :=
  ⟨rfl, rfl, rfl, rfl, fun d => by cases d <;> rfl⟩

/-- A task that ends by a discard fault has had the fault taken. -/
theorem State.endByFault_discarded {s : State} {b i : Nat} (f : FaultInfo) (h : (s.bank b i).task.isSome = true) :
    discarded s (s.endByFault b i f) b i f := by
  obtain ⟨t, ht⟩ := Option.isSome_iff_exists.mp h
  have hp : (s.post t.vi (s.recordFault b i f 0)).braids = s.braids := s.braids_post _ _
  generalize hu : s.post t.vi (s.recordFault b i f 0) = u at hp
  have hub : u.braid b = s.braid b := State.braid_of_braids hp b
  have hd := (u.modBank b i (·.fault f)).dropPhase_sameStatus b i b
  have hl := (u.modBank b i (·.fault f)).dropPhase_late b i
  generalize hv : (u.modBank b i (·.fault f)).dropPhase b i = v at hd hl
  let w := ((v.idleRest b i).modLaunch t.launch (·.lose b)).doomLaunch t.launch b i 4 6
  have hwb : w.bank b i = v.bank b i := State.doomLaunch_bank _ _ _ _ _ _ _ _
  have hws : (w.braid b).sram = (v.braid b).sram := by
    rcases State.doomLaunch_braid ((v.idleRest b i).modLaunch t.launch (·.lose b)) t.launch b i 4 6 b with e | e <;>
      · simp only [w, e]; rfl
  obtain ⟨hcode, hsrc, hspc, hctx, htask⟩ := hd.bank i
  rw [← State.bank_eq, ← State.bank_eq, State.bank_modBank_same, State.bank_eq u, hub, ← State.bank_eq s] at hcode hsrc hspc hctx htask
  obtain ⟨fcode, fsrc, fspc, ftask, fctx⟩ := (s.bank b i).fault_marks f
  have hw : (w.bank b i).task.isSome = true := by rw [hwb, htask, ftask, h]
  have he : s.endByFault b i f = w.endTask b i := by
    unfold State.endByFault; rw [ht]; simp only [hu, hv, w]
  obtain ⟨hbank, hmerge, hsram⟩ := State.endTask_spec hw
  have hs : (v.braid b).sram = (s.braid b).sram := by
    rw [hd.sram]; simp [State.modBank, State.setBank, hub]
  have hc : ∀ d, ((w.bank b i).ended.ctx d).run = false ∧ ((w.bank b i).ended.ctx d).fault = ((v.bank b i).ctx d).fault
      ∧ ((w.bank b i).ended.ctx d).epc = ((v.bank b i).ctx d).epc := fun d => by
    rw [hwb]; cases d <;> exact ⟨rfl, rfl, rfl⟩
  unfold discarded
  rw [he]
  dsimp only
  rw [hbank]
  refine ⟨?_, ?_, ?_, ?_, ?_, ?_, ?_, rfl, rfl, rfl, rfl, rfl, rfl, ?_, hmerge, ?_⟩
  · exact (congrArg Bank.causeCode hwb).trans (hcode.trans fcode)
  · exact (congrArg Bank.causeSrc hwb).trans (hsrc.trans fsrc)
  · exact (congrArg Bank.spc hwb).trans (hspc.trans fspc)
  · rw [(hc _).2.1, hctx, fctx, if_pos rfl]
  · exact (hc _).1
  · rw [(hc _).2.2, hctx, fctx, if_pos rfl]
  · intro d hne
    refine ⟨(hc d).1, ?_, ?_⟩
    · rw [(hc d).2.2, hctx, fctx, if_neg hne]
    · rw [(hc d).2.1, hctx, fctx, if_neg hne]; rfl
  · exact (congrArg Bank.late hwb).trans hl
  · rw [hsram, hws, hs]

/-! Raising a fault. -/

/-- The registers of other contexts, of a task's bank and of the braid's memory do not enter the discard of a fault. -/
theorem discarded_congr {s u t : State} {b i : Nat} {f : FaultInfo} (h : discarded u t b i f) (hs : (u.braid b).sram = (s.braid b).sram)
    (hc : ∀ d, ((u.bank b i).ctx d).pc = ((s.bank b i).ctx d).pc ∧ ((u.bank b i).ctx d).fault = ((s.bank b i).ctx d).fault) :
    discarded s t b i f := by
  obtain ⟨h1, h2, h3, h4, h5, h6, hd, rest⟩ := h
  obtain ⟨r1, r2, r3, r4, r5, r6, r7, r8, r9⟩ := rest
  exact ⟨h1, h2, h3, h4, h5, h6, fun d hne => ⟨(hd d hne).1, (hd d hne).2.1.trans (hc d).1, (hd d hne).2.2.trans (hc d).2⟩,
    r1, r2, r3, r4, r5, r6, r7, r8, r9.trans hs⟩

/-- Nor does anything of the braid but its banks, merge buffer and SRAM. -/
theorem discarded_congr_after {s u t : State} {b i : Nat} {f : FaultInfo} (h : discarded s u b i f) (hk : t.bank b i = u.bank b i)
    (hr : (t.braid b).runBank = (u.braid b).runBank) (hm : (t.braid b).merge = (u.braid b).merge) (hs : (t.braid b).sram = (u.braid b).sram) :
    discarded s t b i f := by
  unfold discarded at h ⊢
  rw [hk, hr, hm, hs]
  exact h

/-- Raising a discard fault that re-runs nothing ends the task by it. -/
theorem State.raise_discarded {s : State} {b i : Nat} {f : FaultInfo} (h : (s.bank b i).task.isSome = true) (hr : f.resumes = false)
    (h19 : f.code ≠ 19) (h20 : f.code ≠ 20) : discarded s (s.raise b i f) b i f := by
  obtain ⟨t, ht⟩ := Option.isSome_iff_exists.mp h
  have he : s.raise b i f = (s.endByFault b i f).modBraid b fun x =>
      { x with held := x.held || f.code == 23, testAsked := x.testAsked || (f.code == 19 && (s.bank b i).inelig && !(s.bank b i).rerun) } := by
    unfold State.raise
    dsimp only
    rw [ht]
    simp [hr, h19, h20]
  have hd := s.endByFault_discarded f h
  rw [he]
  refine discarded_congr_after hd ?_ ?_ ?_ ?_
  · rw [State.bank_eq, State.braid_modBraid_same]; rfl
  all_goals rw [State.braid_modBraid_same]

/-- A resumable fault marks its running task's bank for suspension, and touches nothing else but, for a contended page, the device's own
tables (R299, R351). -/
theorem State.raise_resumable {s : State} {b i : Nat} {f : FaultInfo} {y : Task} (ht : (s.bank b i).task = some y) (hm : (s.bank b i).mode = .running)
    (hr : f.resumes = true) :
    (s.raise b i f).mem = s.mem ∧ (s.raise b i f).braid b = (s.braid b).setBank i { s.bank b i with
      mode := .suspending,
      susp := some { code := f.code, src := f.src, ctx := f.ctx, epc := f.epc, write := f.write, va := f.va, token := none, posted := false, answered := false, cycle := s.cycle } } := by
  have he : s.raise b i f = (s.contend y.vi f).setBank b i { s.bank b i with
      mode := .suspending,
      susp := some { code := f.code, src := f.src, ctx := f.ctx, epc := f.epc, write := f.write, va := f.va, token := none, posted := false, answered := false, cycle := s.cycle } } := by
    unfold State.raise
    dsimp only
    rw [ht]
    simp [hr, hm]
  rw [he]
  refine ⟨s.mem_contend _ _, ?_⟩
  rw [State.setBank, State.braid_modBraid_same, State.braid_of_braids (s.braids_contend _ _)]

/-- The issuing context gives up its instruction at a fault (R24). -/
def Ctx.gaveUp (c : Ctx) : Ctx := { c with retireAt := none, ins := none, store := none, holding := false }
/-- The fault of the issuing context at its instruction. -/
def State.faultHere (s : State) (code va : Nat) (w : Bool) : FaultInfo :=
  { code, src := if s.me.2.2 = .T then 6 else 0, ctx := s.me.2.2, epc := s.myCtx.pc, va, write := w }

theorem State.ctxFault_eq (s : State) (code va : Nat) (w : Bool) :
    s.ctxFault code va w = (s.modMyCtx Ctx.gaveUp).fault s.me.1 s.me.2.1 (s.faultHere code va w) := rfl
theorem State.bank_me (s : State) : s.bank s.me.1 s.me.2.1 = s.myBank := rfl
theorem State.bank_me_modMyCtx (s : State) (f : Ctx → Ctx) : (s.modMyCtx f).bank s.me.1 s.me.2.1 = s.myBank.setCtx s.me.2.2 (f s.myCtx) :=
  s.myBank_modMyCtx f
theorem Bank.setCtx_gaveUp (k : Bank) (c d : CtxId) : ((k.setCtx c (k.ctx c).gaveUp).ctx d).pc = (k.ctx d).pc
    ∧ ((k.setCtx c (k.ctx c).gaveUp).ctx d).fault = (k.ctx d).fault ∧ ((k.setCtx c (k.ctx c).gaveUp).ctx d).s = (k.ctx d).s := by
  by_cases h : d = c
  · subst h; rw [Bank.ctx_setCtx_same]; exact ⟨rfl, rfl, rfl⟩
  · rw [Bank.ctx_setCtx_ne _ _ h]; exact ⟨rfl, rfl, rfl⟩
theorem State.faultHere_resumes (s : State) (code va : Nat) (w : Bool) :
    (s.faultHere code va w).resumes = ((code == 9 || code == 10) && s.me.2.2 != .T) := by
  unfold State.faultHere FaultInfo.resumes resumable
  cases s.me.2.2 <;> simp

/-- R300: whether a discard fault of the issuing context goes before all others of its cycle. -/
theorem State.raisedFirst_faultHere {s : State} {code va : Nat} {w : Bool} (hr : (s.faultHere code va w).resumes = false) :
    (s.modMyCtx Ctx.gaveUp).raisedFirst s.me.1 s.me.2.1 (s.faultHere code va w) = true
      ↔ s.me.2.2 = .L ∨ s.me.2.2 = .X ∧ s.jobIn s.me.1 s.me.2.1 = false ∧ s.myBank.late = [] := by
  have hj : (s.modMyCtx Ctx.gaveUp).jobIn s.me.1 s.me.2.1 = s.jobIn s.me.1 s.me.2.1 := by
    have hm : (s.modMyCtx Ctx.gaveUp).myBraid.jobsOpen = s.myBraid.jobsOpen := by simp [State.modMyCtx]
    exact congrArg (List.any · fun j => j.bank == s.me.2.1) hm
  have hl : ((s.modMyCtx Ctx.gaveUp).bank s.me.1 s.me.2.1).late = s.myBank.late := by
    rw [State.bank_me_modMyCtx]; cases s.me.2.2 <;> rfl
  unfold State.raisedFirst
  rw [hr, hj, hl]
  unfold State.faultHere
  cases s.me.2.2 <;> simp

theorem takingADiscardFault : TakingADiscardFault := by
  intro s code va w y
  dsimp only
  intro _ hres h19 h20 _ ht
  have hr : (s.faultHere code va w).resumes = false := by
    rw [State.faultHere_resumes]
    rcases hres with ⟨h9, h10⟩ | hT
    · simp [h9, h10]
    · simp [hT]
  have htask : ((s.modMyCtx Ctx.gaveUp).bank s.me.1 s.me.2.1).task.isSome = true := by
    rw [State.bank_me_modMyCtx]; cases s.me.2.2 <;> simp [Bank.setCtx, ht]
  rw [State.ctxFault_eq, ← State.raisedFirst_faultHere hr]
  unfold State.fault
  refine ⟨fun h => ?_, fun h => ?_⟩
  · rw [if_pos h]
    refine discarded_congr (State.raise_discarded htask hr h19 h20) ?_ fun d => ?_
    · exact congrArg Braid.sram (State.myBraid_modMyBank s _) |>.trans (by simp [State.myBraid])
    · rw [State.bank_me_modMyCtx]
      exact ⟨(Bank.setCtx_gaveUp _ _ d).1, (Bank.setCtx_gaveUp _ _ d).2.1⟩
  · rw [if_neg h]
    have he : (s.modMyCtx Ctx.gaveUp).defer s.me.1 s.me.2.1 (s.faultHere code va w)
        = s.modMyBank fun k => { k.setCtx s.me.2.2 (k.ctx s.me.2.2).gaveUp with late := s.faultHere code va w :: (k.setCtx s.me.2.2 (k.ctx s.me.2.2).gaveUp).late } :=
      State.modMyBank_modMyBank s _ _
    rw [he]
    refine ⟨onlyBank_modMyBank _ _, ?_⟩
    rw [State.myBank_modMyBank]
    unfold State.faultHere State.myCtx
    cases s.me.2.2 <;> rfl

theorem takingAResumableFault : TakingAResumableFault := by
  intro s code va w y
  dsimp only
  intro hcode hT ht hm
  have hr : (s.faultHere code va w).resumes = true := by
    rw [State.faultHere_resumes]
    rcases hcode with h | h <;> simp [h, hT]
  have hb := s.bank_me_modMyCtx Ctx.gaveUp
  have ht' : ((s.modMyCtx Ctx.gaveUp).bank s.me.1 s.me.2.1).task = some y := by rw [hb]; cases s.me.2.2 <;> exact ht
  have hm' : ((s.modMyCtx Ctx.gaveUp).bank s.me.1 s.me.2.1).mode = .running := by rw [hb]; cases s.me.2.2 <;> exact hm
  obtain ⟨hmem, hbraid⟩ := State.raise_resumable ht' hm' hr
  have he : s.ctxFault code va w = (s.modMyCtx Ctx.gaveUp).raise s.me.1 s.me.2.1 (s.faultHere code va w) := by
    rw [State.ctxFault_eq, State.fault, if_pos]
    simp [State.raisedFirst, hr]
  have hx : (s.modMyCtx Ctx.gaveUp).braid s.me.1 = s.myBraid.setBank s.me.2.1 (s.myBank.setCtx s.me.2.2 s.myCtx.gaveUp) :=
    s.myBraid_modMyBank _
  have hg := s.myBank.setCtx_gaveUp s.me.2.2
  rw [he, State.bank_eq, hbraid, Braid.bank_setBank_same, hb, hx]
  refine ⟨rfl, ⟨_, rfl, rfl, rfl, rfl, rfl, rfl⟩, ?_, ?_, ?_, fun d r => ?_, fun d => ?_, ?_, ?_, hmem⟩
  · cases s.me.2.2 <;> exact ht
  · cases s.me.2.2 <;> rfl
  · cases s.me.2.2 <;> rfl
  · refine Eq.trans ?_ (congrArg (fun m => if r = 0 then 0 else tget 0 m r.toNat) (hg d).2.2)
    cases d <;> rfl
  · refine Eq.trans ?_ (hg d).1
    cases d <;> rfl
  · simp
  · simp

/-! Of the faults that stand, one is taken (R300). -/

/-- The place of a fault among those of its cycle: its class, its source, its code. -/
def FaultInfo.place (f : FaultInfo) : Nat := 4096 * bit f.resumes + 256 * sourcePlace f + f.code

theorem sourcePlace_le (f : FaultInfo) (h : f.src < 7) : sourcePlace f = (if f.engine then 9 else f.rank) ∧ sourcePlace f ≤ 9 := by
  unfold sourcePlace FaultInfo.rank
  split
  · exact ⟨rfl, le_refl _⟩
  · split
    · simp [*]
    · split
      · cases f.ctx <;> simp
      · have h6 : f.src < 6 := by omega
        simp only [h6, if_true]; omega
theorem FaultInfo.before_iff {f g : FaultInfo} (hf : f.src < 7) (hg : g.src < 7) : f.before g = true ↔ f.place ≤ g.place := by
  unfold FaultInfo.before FaultInfo.place
  rw [(sourcePlace_le f hf).1, (sourcePlace_le g hg).1, decide_eq_true_iff]

/-- The recorded fault is one of the cycle's, and none of them is placed before it. -/
theorem firstFault_least : ∀ {l : List FaultInfo} {f : FaultInfo}, (∀ g ∈ l, g.src < 7) → firstFault l = some f → f ∈ l ∧ ∀ g ∈ l, f.place ≤ g.place
  | [], f, _, h => by simp [firstFault] at h
  | a :: l, f, hs, h => by
    have ha := hs a List.mem_cons_self
    have hl : ∀ g ∈ l, g.src < 7 := fun g hg => hs g (List.mem_cons_of_mem _ hg)
    unfold firstFault at h
    split at h
    · next hn =>
      obtain rfl : a = f := by simpa using h
      have : l = [] := by
        cases l with
        | nil => rfl
        | cons c r =>
          unfold firstFault at hn
          split at hn <;> simp at hn
      subst this
      simp
    · next c hc =>
      obtain ⟨hmem, hmin⟩ := firstFault_least hl hc
      have hb := FaultInfo.before_iff ha (hl c hmem)
      obtain rfl : (if a.before c then a else c) = f := by simpa using h
      split
      · next hac =>
        refine ⟨List.mem_cons_self, fun g hg => ?_⟩
        rcases List.mem_cons.mp hg with rfl | hg
        · exact le_refl _
        · exact (hb.mp hac).trans (hmin g hg)
      · next hac =>
        refine ⟨List.mem_cons_of_mem _ hmem, fun g hg => ?_⟩
        rcases List.mem_cons.mp hg with rfl | hg
        · exact le_of_not_ge fun h => hac (hb.mpr h)
        · exact hmin g hg

/-- Places compare by class, then source, then code. -/
theorem FaultInfo.place_le {f g : FaultInfo} (hf : f.code < 256 ∧ f.src < 7) (hg : g.code < 256 ∧ g.src < 7) (h : f.place ≤ g.place) :
    (f.resumes = true → g.resumes = true)
      ∧ (f.resumes = g.resumes → sourcePlace f < sourcePlace g ∨ sourcePlace f = sourcePlace g ∧ f.code ≤ g.code) := by
  have hf9 := (sourcePlace_le f hf.2).2
  have hg9 := (sourcePlace_le g hg.2).2
  unfold FaultInfo.place at h
  obtain ⟨hf, -⟩ := hf
  obtain ⟨hg, -⟩ := hg
  cases hfr : f.resumes <;> cases hgr : g.resumes <;> simp only [hfr, hgr, bit] at h ⊢ <;> simp at h ⊢ <;> omega

theorem execOverrun_lastFault {s : State} {b i : Nat} (h : s.agent = (b, i, lastFault)) : exec .overrun s = .next (s.settleFaults b i) := by
  have he : exec .overrun s = execOverrun s := rfl
  rw [he]
  unfold execOverrun
  rw [h]
  simp

theorem oneFaultOfACycleIsTaken : OneFaultOfACycleIsTaken := by
  intro s b i f
  dsimp only
  intro ha
  rw [execOverrun_lastFault ha]
  refine ⟨fun hl => ?_, fun hb hf => ?_, fun hf ht _ hr h19 h20 => ⟨_, rfl, ?_⟩⟩
  · unfold State.settleFaults; rw [hl]; rfl
  · obtain ⟨hmem, hmin⟩ := firstFault_least (fun g hg => (hb g hg).2) hf
    exact ⟨hmem, fun g hg => FaultInfo.place_le (hb f hmem) (hb g hg) (hmin g hg)⟩
  · unfold State.settleFaults
    rw [hf]
    have hk := s.bank_modBank_same b i fun k => { k with late := [] }
    refine discarded_congr (State.raise_discarded ?_ hr h19 h20) ?_ fun d => ?_
    · rw [hk]; exact ht
    · simp [State.modBank, State.setBank]
    · rw [hk]; cases d <;> exact ⟨rfl, rfl⟩

/-- Settles O19: a discard fault's removals change only what R302 names, and R300's order is the order of `firstFault`. -/
theorem takingAFault : Obligations.TakingAFault :=
  ⟨takingADiscardFault, oneFaultOfACycleIsTaken, takingAResumableFault⟩

end Sys2Proof.Machine
end

section
/-! SUPPORT. How tasks start: the L2 pins of the sequencer, the bank and the braid that a start leaves (05: R119, R120, R135; 13: R281, R286,
R291). -/

open Sys2Proof.Claims

namespace Sys2Proof.Machine

/-! Pins move no byte. -/

theorem State.l2Bring_wf (s : State) (tag valid dirty : Nat) : s.onlyWf (s.l2Bring tag valid dirty) := by
  unfold State.l2Bring
  dsimp only
  split
  · exact State.setL2_wf _ _ _
  · split
    · exact State.setL2_wf _ _ _
    · exact (State.setL2_wf _ _ _).trans (.foldl _ (fun _ _ => State.l2Drop_wf _ _ _) _ _)

/-- A superblock brought in with no line of its own. -/
theorem State.l2Bring_only (s : State) (tag : Nat) : s.OnlyReads (s.l2Bring tag 0 0) := by
  have w := s.l2Bring_wf tag 0 0
  refine ⟨⟨w.1, fun h => ⟨w.2 h.1, ?_⟩⟩, fun h pa => ?_⟩ <;> obtain ⟨hb, hl⟩ := (MemSide.l2Ok_iff _).1 h.2 <;>
    obtain ⟨b, l⟩ := State.l2Bring_lines (valid := 0) (dirty := 0) hb fun ln (_ : ln / 4 ≠ tag) => hl ln
  · refine (MemSide.l2Ok_iff _).2 ⟨b, fun ln => ?_⟩
    have e := (l ln).2
    split at e
    · rw [e.1]
      simpa [bitAt_zero] using (hl ln).of_same e.2
    · rcases e with ⟨e, same⟩ | ⟨e, clean⟩
      · rw [e]; exact (hl ln).of_same same
      · rw [e]; exact lineOk.of_clean clean fun _ => rfl
  · exact ⟨(l (pa / 64)).1.2 pa rfl, (l (pa / 64)).1.1⟩

/-- One more pin of a superblock. -/
def pinned (l : List L2Sb) (tag : Nat) : List L2Sb := l.map fun x => if x.tag = tag then { x with pins := x.pins + 1 } else x

theorem tags_pinned (l : List L2Sb) (tag : Nat) : (pinned l tag).map L2Sb.tag = l.map L2Sb.tag := by
  unfold pinned
  rw [List.map_map]
  refine List.map_congr_left fun x _ => ?_
  dsimp only [Function.comp]
  split <;> rfl
theorem lineIn_pinned (l : List L2Sb) (tag line : Nat) : lineIn (pinned l tag) line = lineIn l line := by
  induction l with
  | nil => rfl
  | cons x l ih =>
    have hx : pinned (x :: l) tag = (if x.tag = tag then { x with pins := x.pins + 1 } else x) :: pinned l tag := rfl
    rw [hx, lineIn_cons, lineIn_cons, ih]
    split <;> rfl
theorem blocksOk_pinned {east : Bool} {l : List L2Sb} (h : blocksOk east l) (tag : Nat) : blocksOk east (pinned l tag) := by
  refine ⟨fun x hx => ?_, by rw [tags_pinned]; exact h.2⟩
  have hm : x.tag ∈ l.map L2Sb.tag := by rw [← tags_pinned l tag]; exact List.mem_map_of_mem hx
  obtain ⟨y, hy, e⟩ := List.mem_map.1 hm
  rw [← e]
  exact h.1 y hy
theorem State.setL2_pinned_only (s : State) (east : Bool) (tag : Nat) : s.OnlyReads (s.setL2 east (pinned (s.l2 east) tag)) := by
  obtain ⟨same, state⟩ := s.setL2_parts east (pinned (s.l2 east) tag)
  have w := s.setL2_wf east (pinned (s.l2 east) tag)
  refine ⟨⟨w.1, fun h => ⟨w.2 h.1, ?_⟩⟩, fun _ pa => ⟨(same (pa / 64)).kept.2 pa rfl, (same (pa / 64)).kept.1⟩⟩
  obtain ⟨hb, hl⟩ := (MemSide.l2Ok_iff _).1 h.2
  have hd : blocksOk east (s.l2 east) := by
    cases east
    · exact hb.1
    · exact hb.2
  refine (MemSide.l2Ok_iff _).2 ⟨State.setL2_blocks hb (blocksOk_pinned hd tag), fun ln => ?_⟩
  have e : (s.setL2 east (pinned (s.l2 east) tag)).mem.l2State ln = s.mem.l2State ln := by
    rw [state, MemSide.l2State_eq]
    cases east <;> cases homeEast (64 * ln) <;> simp [lineIn_pinned, State.l2]
  rw [e]
  exact (hl ln).of_same (same ln)

/-- Nothing but the L2s' order and pins, what goes to the host and the pins of a bank's task differs. -/
structure State.OnlyPins (s t : State) (b i : Nat) : Prop where
  links : t.links = s.links
  memOk : s.memOk → t.memOk
  kept : keptMem s t
  braid : ∃ p, t.braid b = (s.braid b).setBank i { s.bank b i with task := (s.bank b i).task.map fun y => { y with pins := p ++ y.pins } }

theorem Braid.setBank_repinned_nil (x : Braid) (i : Nat) :
    x.setBank i { x.bank i with task := (x.bank i).task.map fun y => { y with pins := [] ++ y.pins } } = x := by
  simp [Braid.setBank, Braid.bank]
  split <;> rfl

theorem State.OnlyPins.of_reads {s t : State} (h : s.OnlyReads t) (b i : Nat) : s.OnlyPins t b i where
  links := by rw [h.1.1]
  memOk := h.1.2
  kept := h.2
  braid := ⟨[], by rw [State.bank_eq, Braid.setBank_repinned_nil, State.braid_of_braids h.1.braids_eq]⟩
theorem State.OnlyPins.trans {s t u : State} {b i : Nat} (h : s.OnlyPins t b i) (g : t.OnlyPins u b i) : s.OnlyPins u b i where
  links := g.links.trans h.links
  memOk o := g.memOk (h.memOk o)
  kept o pa := ⟨((g.kept (h.memOk o) pa).1).trans (h.kept o pa).1, ((g.kept (h.memOk o) pa).2).trans (h.kept o pa).2⟩
  braid := by
    obtain ⟨p, hp⟩ := h.braid
    obtain ⟨q, hq⟩ := g.braid
    refine ⟨q ++ p, ?_⟩
    rw [hq, State.bank_eq t, hp, Braid.bank_setBank_same, Braid.setBank_setBank]
    simp [Function.comp_def]
theorem State.OnlyPins.foldl {α : Type} {b i : Nat} {f : State → α → State} (hf : ∀ (s : State) a, s.OnlyPins (f s a) b i) (l : List α) :
    ∀ s : State, s.OnlyPins (l.foldl f s) b i := by
  induction l with
  | nil => exact fun s => .of_reads (.refl s) b i
  | cons a r ih => exact fun s => (hf s a).trans (ih _)

theorem State.pinOne_onlyPins (s : State) (b i tag : Nat) : s.OnlyPins (s.pinOne b i tag) b i := by
  unfold State.pinOne
  dsimp only
  have hr := s.l2Bring_only tag
  generalize s.l2Bring tag 0 0 = u at hr
  refine .trans (.of_reads hr b i) ?_
  split
  · exact .of_reads (u.countHint_only _) b i
  · have hs := u.setL2_pinned_only (homeEast (256 * tag)) tag
    refine .trans (.of_reads hs b i) ⟨rfl, id, fun _ _ => ⟨rfl, rfl⟩, [tag], ?_⟩
    exact State.braid_modBraid_same _ _ _

/-- The sequencer's pins (R231). -/
theorem State.weightPins_onlyPins (s : State) (b i v : Nat) : s.OnlyPins (s.weightPins b i v) b i := by
  unfold State.weightPins
  split
  · exact .of_reads (.refl s) b i
  · refine .trans (t := { s with free := s.free + 1 }) ⟨rfl, id, fun _ _ => ⟨rfl, rfl⟩, [], ?_⟩ (.foldl (fun t tag => t.pinOne_onlyPins b i tag) _ _)
    rw [State.bank_eq, Braid.setBank_repinned_nil]; rfl
theorem State.weightPins_none {s : State} {v : Nat} (h : s.stableBlocks v = []) (b i : Nat) : s.weightPins b i v = s := by
  unfold State.weightPins
  rw [h]
/-- Its pins are the task's, none of them where the interface has no STABLE page. -/
theorem State.weightPins_braid (s : State) (b i v : Nat) : ∃ p, (s.stableBlocks v = [] → p = [])
    ∧ (s.weightPins b i v).braid b = (s.braid b).setBank i { s.bank b i with task := (s.bank b i).task.map fun y => { y with pins := p ++ y.pins } } := by
  by_cases h : s.stableBlocks v = []
  · refine ⟨[], fun _ => rfl, ?_⟩
    rw [State.weightPins_none h, State.bank_eq, Braid.setBank_repinned_nil]
  · obtain ⟨p, hp⟩ := (s.weightPins_onlyPins b i v).braid
    exact ⟨p, fun g => absurd g h, hp⟩

/-! The registers of a fresh context. -/

/-- Values listed at consecutive keys. -/
theorem tget_listed (args : List Word64) (a r : Nat) (m : Tab Word64) :
    tget 0 (((upto a args.length).zip args).foldl (fun (m : Tab Word64) e => tset 0 m e.1 e.2) m) r
      = if a ≤ r ∧ r < a + args.length then args.getD (r - a) 0 else tget 0 m r := by
  induction args generalizing a m with
  | nil => simp [upto]
  | cons x l ih =>
    simp only [List.length_cons, upto, List.zip_cons_cons, List.foldl_cons, ih, tget_tset]
    by_cases h : r = a
    · subst h; simp
    · rw [if_neg h]
      by_cases hr : a < r
      · obtain ⟨d, rfl⟩ : ∃ d, r = a + 1 + d := ⟨r - (a + 1), by omega⟩
        simp [show a + 1 + d - a = d + 1 by omega, show a ≤ a + 1 + d by omega, show a + 1 + d < a + (l.length + 1) ↔ a + 1 + d < a + 1 + l.length by omega]
      · rw [if_neg (by omega), if_neg (by omega)]

theorem freshCtx_regs (args : List Word64) (pc : Addr) : freshRegs (freshCtx args pc) args := by
  refine ⟨fun r => ?_, fun p => ?_⟩
  · show (if r = 0 then 0 else tget 0 _ r.toNat) = _
    by_cases h : r = 0
    · subst h; simp
    · rw [if_neg h, freshCtx, tget_listed, tget_nil]
  · show (p == 0 || (0 : BitVec 16).getLsbD p.toNat) = _
    simp [beq_eq_decide]

/-! The braid of a start. -/

/-- What a bank's or a braid's TLBs, and an L1's leases, leave alone. -/
structure Braid.SameData (x y : Braid) : Prop where
  sram : y.sram = x.sram
  h : y.h = x.h
  taskQ : y.taskQ = x.taskQ
  curBank : ∀ i, (y.bank i).curBank = (x.bank i).curBank

/-- Of the braids nothing but TLBs, L1s and what else starts no task differs, and nothing outside them. -/
structure State.SameData (s t : State) : Prop where
  frame : t = { s with braids := t.braids }
  braid : ∀ b, (s.braid b).SameData (t.braid b)

theorem State.SameData.refl (s : State) : s.SameData s := ⟨rfl, fun _ => ⟨rfl, rfl, rfl, fun _ => rfl⟩⟩
theorem State.SameData.trans {s t u : State} (h : s.SameData t) (g : t.SameData u) : s.SameData u where
  frame := by rw [g.frame, h.frame]
  braid b := ⟨(g.braid b).sram.trans (h.braid b).sram, (g.braid b).h.trans (h.braid b).h, (g.braid b).taskQ.trans (h.braid b).taskQ,
    fun i => ((g.braid b).curBank i).trans ((h.braid b).curBank i)⟩
theorem State.SameData.foldl {α : Type} {f : State → α → State} (hf : ∀ (s : State) a, s.SameData (f s a)) (l : List α) :
    ∀ s : State, s.SameData (l.foldl f s) := by
  induction l with
  | nil => exact .refl
  | cons a r ih => exact fun s => (hf s a).trans (ih _)
theorem State.SameData.modBraid (s : State) (b : Nat) {f : Braid → Braid} (hf : (s.braid b).SameData (f (s.braid b))) : s.SameData (s.modBraid b f) where
  frame := rfl
  braid c := by
    by_cases hc : c = b
    · subst hc; rw [State.braid_modBraid_same]; exact hf
    · rw [State.braid_modBraid_ne _ _ hc]; exact ⟨rfl, rfl, rfl, fun _ => rfl⟩

/-- Emptying the TLBs of an interface touches its braids alone, and there neither SRAM, H bits, task queue nor cr.BANK. -/
theorem State.emptyTlbs_sameData (s : State) (v : Nat) (stable : Bool) : s.SameData (s.emptyTlbs v stable) := by
  unfold State.emptyTlbs
  refine .foldl (fun t c => ?_) _ s
  split
  · refine .modBraid t c ⟨rfl, rfl, rfl, fun i => ?_⟩
    unfold Braid.bank
    split <;> rfl
  · exact .refl t

/-- A start touches no braid but its own, takes its task and arguments into its bank, and leaves the braid's SRAM, H bits and task queue
(R119, R120, R135, R284). -/
theorem State.startTask_spec (s : State) (b i : Nat) (w : Start) (map : Tab Byte) :
    s.startTask b i w map = { s with braids := (s.startTask b i w map).braids }
      ∧ ((s.startTask b i w map).braid b).taskQ = (s.braid b).taskQ
      ∧ ∃ sq started from_, taskStarts s (s.startTask b i w map) b i { w.task with sq, started, from_ } w.args := by
  obtain ⟨he, hd⟩ := s.emptyTlbs_sameData w.task.vi false
  unfold State.startTask
  generalize s.emptyTlbs w.task.vi false = u at he hd
  refine ⟨by rw [he]; rfl, ?_, (u.braid b).sqNext.succ % 2 ^ 28, (u.braid b).started, s.cycle, ?_⟩
  · rw [State.braid_modBraid_same]
    refine Eq.trans ?_ (hd b).taskQ
    dsimp only
    unfold Braid.setBank
    split <;> rfl
  · unfold taskStarts
    dsimp only
    rw [State.bank_eq, State.braid_modBraid_same, Braid.bank_setBank_same]
    have hr : ∀ pc, freshRegs (freshCtx w.args pc) w.args ∧ (freshCtx w.args pc).run = false := fun pc => ⟨freshCtx_regs _ _, rfl⟩
    refine ⟨rfl, rfl, rfl, ?_, rfl, fun c hc => ?_, fun r => ?_, rfl, rfl, rfl, rfl, rfl, rfl, ?_, ?_⟩
    · simp [Bank.fresh, freshCtx]
    · cases c
      · exact hr _
      · exact hr _
      · exact hr _
      · exact absurd rfl hc
    · simp [Bank.fresh, Ctx.getS]
    · exact (hd b).curBank i
    · rw [← (hd b).sram, ← (hd b).h]
      unfold Braid.setBank
      split <;> exact ⟨rfl, rfl, rfl, rfl, rfl, rfl⟩

/-- What a start says of the state before it is the cycle, cr.BANK, SRAM and the H bits. -/
theorem taskStarts_of_before {s u t : State} {b i : Nat} {y : Task} {args : List Word64} (h : taskStarts u t b i y args) (hc : u.cycle = s.cycle)
    (hk : (u.bank b i).curBank = (s.bank b i).curBank) (hs : (u.braid b).sram = (s.braid b).sram) (hh : (u.braid b).h = (s.braid b).h) :
    taskStarts s t b i y args := by
  unfold taskStarts at h ⊢
  rw [← hc, ← hk, ← hs, ← hh]
  exact h

/-- A start stands while what comes after it changes but the task's pins and what is none of the start's of the braid. -/
theorem taskStarts_of_after {s u t : State} {b i : Nat} {y z : Task} {args : List Word64} (h : taskStarts s u b i y args)
    (hk : t.bank b i = { u.bank b i with task := some z }) (hz : z.entry = y.entry) (hr : (t.braid b).runBank = (u.braid b).runBank)
    (hg : (t.braid b).regs = (u.braid b).regs) (hn : (t.braid b).strands = (u.braid b).strands) (hm : (t.braid b).merge = (u.braid b).merge)
    (hs : (t.braid b).sram = (u.braid b).sram) (hh : (t.braid b).h = (u.braid b).h) : taskStarts s t b i z args := by
  unfold taskStarts at h ⊢
  rw [hk, hz, hr, hg, hn, hm, hs, hh]
  obtain ⟨-, rest⟩ := h
  exact ⟨rfl, rest⟩

theorem State.launch_uid {s : State} {u : Nat} {l : Launch} (h : s.launch u = some l) : l.uid = u := by
  simpa using List.find?_some h

/-- A delivery that has come, with no writer map: the task starts and its braid is no longer reserved. -/
theorem State.deliverTask_start {s : State} {u b : Nat} {l : Launch} (hl : s.launch u = some l) (hd : ∃ e ∈ l.deliver, e.1 = b ∧ e.2 ≤ s.cycle)
    (hp : l.preempted = false) (hr : l.kind = 1 → l.resident = true) (hw : l.wmap = 0) :
    s.deliverTask u b = ((((s.startTask b (s.emptyBank b u) (l.start (s.arcNo l.vi b - l.braid0)) []).weightPins b (s.emptyBank b u) l.vi).modBraid b
      fun x => { x with reserved := none }).modLaunch u fun l =>
        { l with deliver := l.deliver.filter fun e => e.1 != b, live := l.live ++ [(b, s.emptyBank b u)] }) := by
  have hany : (l.deliver.any fun e => e.1 == b && decide (e.2 ≤ s.cycle)) = true := by
    obtain ⟨e, he, h1, h2⟩ := hd
    exact List.any_eq_true.mpr ⟨e, he, by simp [h1, h2]⟩
  have hres : (l.kind == 1 && !l.resident) = false := by
    by_cases hk : l.kind = 1
    · simp [hr hk]
    · simp [hk]
  unfold State.deliverTask
  rw [hl]
  simp only [hany, hres, hp, hw, State.withMap]
  rfl

/-- What a spawned task of launch `l` starts with (R291). -/
def State.spawned (s : State) (b : Nat) (l : Launch) (r : Spawn) : Start :=
  { task := { l.task r.record.tid (s.arcNo l.vi b - l.braid0) r.record.entry with spawned := true },
    args := r.record.args ++ [BitVec.ofNat 64 r.record.tid, r.record.gain.setWidth 64, if Braid.isEast b then s.clock.slotE else s.clock.slot] }

/-- The head of a device task queue whose waits are over, with no writer map (R291). -/
theorem State.startSpawn_start {s : State} {b : Nat} {r : Spawn} {rest : List Spawn} {l : Launch} (hq : (s.braid b).taskQ = r :: rest)
    (hl : s.launch r.launch = some l) (ho : (s.braid b).outOfService = false) (ht : (s.braid b).testEnd = none)
    (h0 : (s.braid b).b0.mode.occupies = false) (h1 : (s.braid b).b1.mode.occupies = false)
    (hf : (s.braid b).b0.task = none ∨ (s.braid b).b1.task = none) (hr : (s.braid b).reserved = none)
    (hh : s.refsHold b (s.braid b).runBank r.record.preds = true) (hp : l.preempted = false) (hw : l.wmap = 0)
    (hb : s.bankOf b l.uid = none) (hc : r.retired + 679 ≤ s.cycle) :
    s.startSpawn b = ((s.modBraid b fun x => { x with taskQ := rest }).startTask b (s.emptyBank b l.uid) (s.spawned b l r) []).modLaunch l.uid
      fun m => { m with pendingSpawns := m.pendingSpawns - 1, live := m.live ++ [(b, s.emptyBank b l.uid)] } := by
  have hn : ((s.braid b).b0.task.isNone || (s.braid b).b1.task.isNone) = true := by
    rcases hf with h | h <;> simp [h]
  have hc' : decide (s.cycle < r.retired + 679) = false := by simpa using hc
  unfold State.startSpawn
  dsimp only
  rw [hq]
  dsimp only
  rw [hl]
  simp only [ho, ht, h0, h1, hn, hr, hh, hp, hb, hc', hw, State.withMap]
  rfl

/-- The head of a device task queue waits for its 679 cycles, and for the launch's other task on the braid (R291, R292). -/
theorem State.startSpawn_waits {s : State} {b : Nat} {r : Spawn} {rest : List Spawn} {l : Launch} (hq : (s.braid b).taskQ = r :: rest)
    (hl : s.launch r.launch = some l) (h : s.cycle < r.retired + 679 ∨ s.bankOf b l.uid ≠ none) : s.startSpawn b = s := by
  unfold State.startSpawn
  dsimp only
  rw [hq]
  dsimp only
  rw [hl]
  dsimp only
  rw [if_pos]
  rcases h with h | h
  · simp [h]
  · simp [Option.isSome_iff_ne_none.mpr h]

/-- In its sixth cycle a starting bank's contexts run (R135). -/
theorem State.goOn_runs {s : State} {b i : Nat} (hr : (s.braid b).runBank = i) (hm : (s.bank b i).mode = .starting) (hx : (s.bank b i).x.began = true)
    (hc : (s.bank b i).startAt ≤ s.cycle) :
    s.goOn b i = s.modBank b i fun k =>
      let run (c : Ctx) : Ctx := { c with run := c.began, issueAt := s.cycle + 6 }
      ({ k with l := run k.l, x := run k.x, s := run k.s, mode := .running } : Bank).checkpoint := by
  unfold State.goOn
  simp [hr, hm, hx, hc]

theorem execTaskStart_deliver {s : State} {u b : Nat} (h : s.cur = .agent u b 0) : exec .taskStart s = .next (s.deliverTask u b) := by
  show execTaskStart s = _
  simp [execTaskStart, State.agent, h]
theorem execTaskStart_spawn {s : State} {b : Nat} (h : s.cur = .agent b 0 1) : exec .taskStart s = .next (s.startSpawn b) := by
  show execTaskStart s = _
  simp [execTaskStart, State.agent, h]
theorem execTaskStart_goOn {s : State} {b i : Nat} (h : s.cur = .agent b i 2) : exec .taskStart s = .next (s.goOn b i) := by
  show execTaskStart s = _
  simp [execTaskStart, State.agent, h]

/-- The launched task of a braid: `startTask`, the sequencer's pins, and the reservation's end (R281, R286). -/
theorem State.deliverTask_starts {s : State} {u b : Nat} {l : Launch} (hl : s.launch u = some l) (hd : ∃ e ∈ l.deliver, e.1 = b ∧ e.2 ≤ s.cycle)
    (hp : l.preempted = false) (hr : l.kind = 1 → l.resident = true) (hw : l.wmap = 0) :
    (∃ sq started from_ pins, (s.stableBlocks l.vi = [] → pins = [])
        ∧ taskStarts s (s.deliverTask u b) b (s.emptyBank b u)
          { (l.start (s.arcNo l.vi b - l.braid0)).task with sq, started, from_, pins } (l.start (s.arcNo l.vi b - l.braid0)).args)
      ∧ ((s.deliverTask u b).braid b).reserved = none ∧ (s.deliverTask u b).links = s.links ∧ keptMem s (s.deliverTask u b)
      ∧ (s.stableBlocks l.vi = [] → (s.deliverTask u b).mem = s.mem) := by
  rw [State.deliverTask_start hl hd hp hr hw]
  have hp0 : (l.start (s.arcNo l.vi b - l.braid0)).task.pins = [] := rfl
  generalize l.start (s.arcNo l.vi b - l.braid0) = w at hp0
  generalize s.emptyBank b u = i
  obtain ⟨hframe, -, sq, started, from_, hst⟩ := s.startTask_spec b i w []
  have hblocks : (s.startTask b i w []).stableBlocks l.vi = s.stableBlocks l.vi := by rw [hframe]; rfl
  generalize s.startTask b i w [] = a at *
  have plinks := (a.weightPins_onlyPins b i l.vi).links
  have pkept := (a.weightPins_onlyPins b i l.vi).kept
  obtain ⟨p, hnil, pbraid⟩ := a.weightPins_braid b i l.vi
  have hnone (h : s.stableBlocks l.vi = []) : a.weightPins b i l.vi = a := State.weightPins_none (hblocks.trans h) b i
  generalize a.weightPins b i l.vi = v at *
  rw [hst.1] at pbraid
  refine ⟨⟨sq, started, from_, p ++ w.task.pins, fun h => by rw [hnil (hblocks.trans h), hp0]; rfl, taskStarts_of_after hst ?_ rfl ?_ ?_ ?_ ?_ ?_ ?_⟩,
    ?_, ?_, ?_, fun h => ?_⟩
  · rw [State.bank_modLaunch, State.bank_eq, State.braid_modBraid_same, pbraid]
    exact Braid.bank_setBank_same _ _ _
  iterate 6 (rw [State.braid_modLaunch, State.braid_modBraid_same, pbraid]; unfold Braid.setBank; split <;> rfl)
  · rw [State.braid_modLaunch, State.braid_modBraid_same]
  · exact plinks.trans (by rw [hframe])
  · refine fun o pa => ?_
    have hm : a.mem = s.mem := by rw [hframe]
    have hk := pkept (by unfold State.memOk; rw [hm]; exact o) pa
    rw [hm] at hk
    exact hk
  · show v.mem = s.mem
    rw [hnone h, hframe]

/-- The spawned task at the head of a queue: `startTask`, once its record has left the queue (R291). -/
theorem State.startTask_spawned (s : State) (b i uid : Nat) (w : Start) (rest : List Spawn) (f : Launch → Launch) :
    let t := ((s.modBraid b fun x => { x with taskQ := rest }).startTask b i w []).modLaunch uid f
    (∃ sq started from_, taskStarts s t b i { w.task with sq, started, from_ } w.args) ∧ (t.braid b).taskQ = rest ∧ t.mem = s.mem := by
  obtain ⟨hframe, htq, sq, started, from_, hst⟩ := (s.modBraid b fun x => { x with taskQ := rest }).startTask_spec b i w []
  have hb : ∀ j, ((s.modBraid b fun x => { x with taskQ := rest }).bank b j) = s.bank b j := fun j => by
    rw [State.bank_eq, State.braid_modBraid_same]; rfl
  refine ⟨⟨sq, started, from_, taskStarts_of_before hst rfl ?_ ?_ ?_⟩, ?_, ?_⟩
  · rw [hb]
  · rw [State.braid_modBraid_same]
  · rw [State.braid_modBraid_same]
  · rw [State.braid_modLaunch, htq, State.braid_modBraid_same]
  · show State.mem (State.startTask _ b i w []) = _
    rw [hframe]; rfl

/-- Settles O33: each kind of start is `startTask` with its arguments, behind it only pins, a reservation and the launch's counts. -/
theorem tasksStart : Obligations.TasksStart := by
  intro s b
  dsimp only
  refine ⟨fun u l hcur hl hd hp hr hw hargs => ?_, fun r rest l hcur hq hl ho ht h0 h1 hf hr hh hp hw hargs => ⟨fun hb hc => ?_, fun h => ?_⟩,
    fun i hi hcur hr hm hx hc => ?_⟩
  · obtain ⟨⟨sq, started, from_, pins, hpins, hst⟩, hres, hlinks, hkept, hmem⟩ := State.deliverTask_starts hl hd hp hr hw
    exact ⟨_, _, execTaskStart_deliver hcur, hst, rfl, rfl, rfl, State.launch_uid hl, rfl, rfl, rfl, rfl, hres, hlinks, hkept, fun h => ⟨hmem h, hpins h⟩⟩
  · rw [execTaskStart_spawn hcur, State.startSpawn_start hq hl ho ht h0 h1 hf hr hh hp hw hb hc]
    obtain ⟨⟨sq, started, from_, hst⟩, htq, hmem⟩ := s.startTask_spawned b (s.emptyBank b l.uid) l.uid (s.spawned b l r) rest
      fun m => { m with pendingSpawns := m.pendingSpawns - 1, live := m.live ++ [(b, s.emptyBank b l.uid)] }
    exact ⟨_, _, rfl, hst, rfl, rfl, State.launch_uid hl, rfl, htq, hmem⟩
  · rw [execTaskStart_spawn hcur, State.startSpawn_waits hq hl h]
  · rw [execTaskStart_goOn hcur, State.goOn_runs hr hm hx hc]
    refine ⟨_, rfl, ?_⟩
    rw [State.bank_modBank_same]
    refine ⟨rfl, rfl, fun c hc => ?_, rfl⟩
    cases c
    · rfl
    · rfl
    · rfl
    · exact absurd rfl hc

end Sys2Proof.Machine
end

section
/-! SUPPORT. The order of registers, queues and tables (R12, R14, R124, R128, R209, R253, R291): what keeps a context, a bank, a braid and a state in
order. -/

namespace Sys2Proof.Machine

/-! The parts of the order. -/

/-- Queues within their depths, q7 apart. -/
def depthsTidy (q : Tab (List Word64)) : Prop := ∀ i, i ≠ 7 → (tget [] q i).length ≤ qDepth i

/-- At most 16 commands in a copy channel. -/
def chansTidy (t : Tab Chan) : Prop := ∀ e ∈ t, e.2.queue.length ≤ 16

/-- The contexts and queues of a checkpoint. -/
def Ckpt.tidy (c : Ckpt) : Prop := c.l.tidy ∧ c.x.tidy ∧ c.s.tidy ∧ c.t.tidy ∧ queuesTidy c.q c.jobs c.lp

/-- SRAM as a table. -/
def sramTidy (m : Tab Byte) : Prop := twf 0 m = true ∧ ∀ a ∈ m, a.1 < Config.sramBytes

/-- A braid, as `State.tidy` asks of each. -/
def Braid.tidy (x : Braid) : Prop :=
  x.b0.tidy ∧ x.b1.tidy ∧ twf 0 x.sram = true ∧ (∀ a ∈ x.sram, a.1 < Config.sramBytes) ∧ twf false x.full = true ∧ x.taskQ.length ≤ 64

theorem Bank.tidy_iff (k : Bank) : k.tidy ↔ (k.l.tidy ∧ k.x.tidy ∧ k.s.tidy ∧ k.t.tidy) ∧
    (depthsTidy k.q ∧ k.jobs.length ≤ 8 ∧ twf 0 k.lp = true)
    ∧ chansTidy k.chans ∧ ∀ c, k.ckpt = some c → c.tidy :=
  ⟨fun ⟨a, b, c, d, e, f, g⟩ => ⟨⟨a, b, c, d⟩, e, f, g⟩, fun ⟨⟨a, b, c, d⟩, e, f, g⟩ => ⟨a, b, c, d, e, f, g⟩⟩

theorem mem_tput {α : Type} {t : Tab α} {i : Nat} {x : α} {e : Nat × α} (h : e ∈ tput t i x) : e = (i, x) ∨ e ∈ t := by
  induction t with
  | nil => simpa [tput] using h
  | cons a t ih =>
    unfold tput at h
    split at h
    · simpa using h
    · split at h
      · rcases List.mem_cons.mp h with h | h
        · exact .inl h
        · exact .inr (List.mem_cons_of_mem _ h)
      · rcases List.mem_cons.mp h with h | h
        · exact .inr (h ▸ List.mem_cons_self)
        · exact (ih h).imp_right (List.mem_cons_of_mem _)

theorem mem_tdel {α : Type} {t : Tab α} {i : Nat} {e : Nat × α} (h : e ∈ tdel t i) : e ∈ t := by
  induction t with
  | nil => exact h
  | cons a t ih =>
    unfold tdel at h
    split at h
    · exact List.mem_cons_of_mem _ (ih h)
    · rcases List.mem_cons.mp h with h | h
      · exact h ▸ List.mem_cons_self
      · exact List.mem_cons_of_mem _ (ih h)

theorem mem_tget {α : Type} {d : α} {t : Tab α} {i : Nat} : tget d t i = d ∨ ∃ k, (k, tget d t i) ∈ t := by
  induction t with
  | nil => exact .inl rfl
  | cons a t ih =>
    unfold tget
    split
    · exact .inr ⟨a.1, List.mem_cons_self⟩
    · exact ih.imp_right fun ⟨k, h⟩ => ⟨k, List.mem_cons_of_mem _ h⟩

theorem thas_tset {α : Type} [DecidableEq α] {d : α} {m : Tab α} {i j : Nat} {x : α} (h : thas m j = false) (hj : i ≠ j) :
    thas (tset d m i x) j = false := by
  unfold tset
  split
  · simp [thas_tdel, h]
  · simp [thas_tput, h, Ne.symm hj]

/-! Contexts. -/

theorem Ctx.tidy_empty : ({} : Ctx).tidy := ⟨rfl, rfl, rfl⟩

theorem Ctx.tidy_setS {c : Ctx} (h : c.tidy) (d : BitVec 5) (v : Word64) : (c.setS d v).tidy := by
  obtain ⟨hw, h0, hp⟩ := h
  unfold Ctx.setS
  split
  · exact ⟨hw, h0, hp⟩
  · next hd => exact ⟨twf_tset _ _ _ _ hw, thas_tset h0 fun e => hd (BitVec.eq_of_toNat_eq e), hp⟩

theorem Ctx.tidy_setP {c : Ctx} (h : c.tidy) (d : BitVec 4) (v : Bool) : (c.setP d v).tidy := by
  obtain ⟨hw, h0, hp⟩ := h
  unfold Ctx.setP
  split
  · exact ⟨hw, h0, hp⟩
  · next hd =>
    have hn : d.toNat ≠ 0 := fun e => hd (BitVec.eq_of_toNat_eq e)
    rw [BitVec.getLsbD_eq_getElem (by decide)] at hp
    refine ⟨hw, h0, ?_⟩
    cases v <;> simp [hp, Nat.pos_of_ne_zero hn]

theorem Ctx.tidy_retired {c : Ctx} (h : c.tidy) : c.retired.tidy := h
theorem Ctx.tidy_goto {c : Ctx} (h : c.tidy) (a : Addr) : (c.goto a).tidy := h

/-- Registers listed one after the other from s1 on, or a register above it. -/
theorem tidy_listed {α : Type} (f : α → Nat × Word64) (l : List α) (hl : ∀ e ∈ l, (f e).1 ≠ 0) (m : Tab Word64)
    (h : twf 0 m = true ∧ thas m 0 = false) :
    twf 0 (l.foldl (fun (m : Tab Word64) e => tset 0 m (f e).1 (f e).2) m) = true
      ∧ thas (l.foldl (fun (m : Tab Word64) e => tset 0 m (f e).1 (f e).2) m) 0 = false := by
  induction l generalizing m with
  | nil => exact h
  | cons e l ih =>
    exact ih (fun a ha => hl a (List.mem_cons_of_mem _ ha)) _ ⟨twf_tset _ _ _ _ h.1, thas_tset h.2 (hl e List.mem_cons_self)⟩

theorem freshCtx_tidy (args : List Word64) (pc : Addr) : (freshCtx args pc).tidy := by
  have h := tidy_listed (fun e : Nat × Word64 => e) ((upto 2 args.length).zip args)
    (fun e he => by have := mem_upto.mp (List.of_mem_zip he).1; omega) [] ⟨rfl, rfl⟩
  exact ⟨h.1, h.2, BitVec.getLsbD_zero⟩

/-! Banks. -/

theorem Bank.tidy_empty : ({} : Bank).tidy :=
  (Bank.tidy_iff _).mpr ⟨⟨⟨rfl, rfl, rfl⟩, ⟨rfl, rfl, rfl⟩, ⟨rfl, rfl, rfl⟩, ⟨rfl, rfl, rfl⟩⟩,
      ⟨fun _ _ => Nat.zero_le _, Nat.zero_le _, rfl⟩,
    fun _ h => (List.not_mem_nil h).elim, fun _ h => nomatch h⟩

theorem Bank.tidy_ctx {k : Bank} (h : k.tidy) (c : CtxId) : (k.ctx c).tidy := by
  obtain ⟨l, x, s, t, -⟩ := h
  cases c
  · exact l
  · exact x
  · exact s
  · exact t

theorem Bank.tidy_setCtx {k : Bank} (h : k.tidy) (c : CtxId) {x : Ctx} (hx : x.tidy) : (k.setCtx c x).tidy := by
  obtain ⟨l, x', s, t, rest⟩ := h
  cases c
  · exact ⟨hx, x', s, t, rest⟩
  · exact ⟨l, hx, s, t, rest⟩
  · exact ⟨l, x', hx, t, rest⟩
  · exact ⟨l, x', s, hx, rest⟩

theorem Bank.tidy_setQ {k : Bank} (h : k.tidy) {q : Tab (List Word64)} (hq : depthsTidy q) : ({ k with q } : Bank).tidy := by
  obtain ⟨hc, ⟨-, hj, hl⟩, rest⟩ := (Bank.tidy_iff k).mp h
  exact (Bank.tidy_iff _).mpr ⟨hc, ⟨hq, hj, hl⟩, rest⟩

theorem Bank.tidy_setJobs {k : Bank} (h : k.tidy) {jobs : List Job} (hj : jobs.length ≤ 8) : ({ k with jobs } : Bank).tidy := by
  obtain ⟨hc, ⟨hq, -, hl⟩, rest⟩ := (Bank.tidy_iff k).mp h
  exact (Bank.tidy_iff _).mpr ⟨hc, ⟨hq, hj, hl⟩, rest⟩

theorem Bank.tidy_setLp {k : Bank} (h : k.tidy) {lp : Tab Word32} (hl : twf 0 lp = true) : ({ k with lp } : Bank).tidy := by
  obtain ⟨hc, ⟨hq, hj, -⟩, rest⟩ := (Bank.tidy_iff k).mp h
  exact (Bank.tidy_iff _).mpr ⟨hc, ⟨hq, hj, hl⟩, rest⟩

theorem Bank.tidy_setChans {k : Bank} (h : k.tidy) {chans : Tab Chan} (hn : chansTidy chans) : ({ k with chans } : Bank).tidy := by
  obtain ⟨hc, hq, -, hk⟩ := (Bank.tidy_iff k).mp h
  exact (Bank.tidy_iff _).mpr ⟨hc, hq, hn, hk⟩

/-! Queues and channels. -/

theorem Bank.queue_length {k : Bank} (h : k.tidy) {q : Nat} (hq : q ≠ 7) : (k.queue q).length ≤ qDepth q := ((Bank.tidy_iff k).mp h).2.1.1 q
    hq
theorem depthsTidy_nil : depthsTidy [] := fun _ _ => Nat.zero_le _

theorem depthsTidy_tput {m : Tab (List Word64)} (h : depthsTidy m) {q : Nat} {l : List Word64} (hl : q ≠ 7 → l.length ≤ qDepth q) :
    depthsTidy (tput m q l) := by
  intro i hi
  rw [tget_tput]
  split
  · next e => subst e; exact hl hi
  · exact h i hi

theorem Bank.tidy_setQueue {k : Bank} (h : k.tidy) {q : Nat} {l : List Word64} (hl : q ≠ 7 → l.length ≤ qDepth q) :
    ({ k with q := tput k.q q l } : Bank).tidy :=
  Bank.tidy_setQ h (depthsTidy_tput ((Bank.tidy_iff k).mp h).2.1.1 hl)

theorem chansTidy_map {t : Tab Chan} (h : chansTidy t) {f : Nat × Chan → Nat × Chan} (hf : ∀ e, (f e).2.queue.length ≤ e.2.queue.length) :
    chansTidy (t.map f) := by
  intro e he
  obtain ⟨d, hd, rfl⟩ := List.mem_map.mp he
  exact (hf d).trans (h d hd)

theorem Bank.tidy_mapChans {k : Bank} (h : k.tidy) {f : Nat × Chan → Nat × Chan} (hf : ∀ e, (f e).2.queue.length ≤ e.2.queue.length) :
    ({ k with chans := k.chans.map f } : Bank).tidy :=
  Bank.tidy_setChans h (chansTidy_map ((Bank.tidy_iff k).mp h).2.2.1 hf)

theorem Bank.chan_length {k : Bank} (h : k.tidy) (n : Nat) : (k.chan n).queue.length ≤ 16 := by
  unfold Bank.chan
  rcases mem_tget (d := ({} : Chan)) (t := k.chans) (i := n) with e | ⟨j, hj⟩
  · rw [e]; exact Nat.zero_le _
  · exact ((Bank.tidy_iff k).mp h).2.2.1 _ hj

theorem Bank.tidy_setChan {k : Bank} (h : k.tidy) (n : Nat) {c : Chan} (hc : c.queue.length ≤ 16) : (k.setChan n c).tidy := by
  refine Bank.tidy_setChans h fun e he => ?_
  rcases mem_tput he with rfl | he
  · exact hc
  · exact ((Bank.tidy_iff k).mp h).2.2.1 e he

/-! The bank's operations. -/

theorem Bank.tidy_raise {k : Bank} (h : k.tidy) (f : FlagSet) : (k.raise f).tidy := h
theorem Bank.tidy_stopAll {k : Bank} (h : k.tidy) : k.stopAll.tidy := h
theorem Bank.tidy_nextPlace {k : Bank} (h : k.tidy) : k.nextPlace.tidy := h

theorem Bank.tidy_noteRead {k : Bank} (h : k.tidy) (a : Nat) : (k.noteRead a).tidy := by
  unfold Bank.noteRead; dsimp only; split <;> exact h

theorem Bank.tidy_noteWrite {k : Bank} (h : k.tidy) (a : Nat) : (k.noteWrite a).tidy := by
  unfold Bank.noteWrite; dsimp only; split <;> exact h

theorem Bank.tidy_noteReg {k : Bank} (h : k.tidy) (r : Nat) : (k.noteReg r).tidy := by
  unfold Bank.noteReg; split <;> exact h

theorem Bank.tidy_noteSet {k : Bank} (h : k.tidy) (r : Nat) : (k.noteSet r).tidy := by
  unfold Bank.noteSet; split <;> exact h

theorem Bank.tidy_crWrite {k : Bank} (h : k.tidy) (n : Nat) (v : Word64) : (k.crWrite n v).tidy := by
  unfold Bank.crWrite; split <;> exact h

theorem Bank.tidy_foldl {α : Type} {f : Bank → α → Bank} (hf : ∀ (k : Bank) (a : α), k.tidy → (f k a).tidy) (l : List α) {k : Bank}
    (h : k.tidy) :
    (l.foldl f k).tidy := by
  induction l generalizing k with
  | nil => exact h
  | cons a l ih => exact ih (hf k a h)

theorem Bank.tidy_noteReads {k : Bank} (h : k.tidy) (a n : Nat) : (k.noteReads a n).tidy := Bank.tidy_foldl
    (fun _ _ h => Bank.tidy_noteRead h _) _ h
theorem Bank.tidy_noteWrites {k : Bank} (h : k.tidy) (a n : Nat) : (k.noteWrites a n).tidy := Bank.tidy_foldl
    (fun _ _ h => Bank.tidy_noteWrite h _) _ h

theorem Bank.tidy_fault {k : Bank} (h : k.tidy) (f : FaultInfo) : (k.fault f).tidy := by
  obtain ⟨l, x, s, t, rest⟩ := h
  have mark : ∀ (c : CtxId) (y : Ctx), y.tidy →
      (if c = f.ctx then { y.stopped with fault := true, epc := f.epc } else { y.stopped with epc := y.pc } : Ctx).tidy := by
    intro c y hy
    split <;> exact hy
  exact ⟨mark .L _ l, mark .X _ x, mark .S _ s, mark .T _ t, rest⟩

theorem Chan.removed_length (c : Chan) : c.removed.queue.length ≤ c.queue.length := Nat.zero_le _

theorem Bank.tidy_dropPhase {k : Bank} (h : k.tidy) : k.dropPhase.tidy := by
  obtain ⟨hc, ⟨hq, -, hl⟩, hn, hk⟩ := (Bank.tidy_iff k).mp h
  exact (Bank.tidy_iff _).mpr ⟨hc, ⟨hq, Nat.zero_le _, hl⟩, chansTidy_map hn fun e => e.2.removed_length, hk⟩

theorem Bank.tidy_checkpoint {k : Bank} (h : k.tidy) : k.checkpoint.tidy := by
  obtain ⟨⟨hl, hx, hs, ht⟩, hq, hn, -⟩ := (Bank.tidy_iff k).mp h
  refine (Bank.tidy_iff _).mpr ⟨⟨hl, hx, hs, ht⟩, hq, hn, fun c hk => ?_⟩
  cases hk
  exact ⟨hl, hx, hs, ht, hq⟩

theorem Bank.tidy_restore {k : Bank} (h : k.tidy) {c : Ckpt} (hc : c.tidy) : (k.restore c).tidy := by
  obtain ⟨-, -, hn, hk⟩ := (Bank.tidy_iff k).mp h
  obtain ⟨l, x, s, t, hq⟩ := hc
  exact (Bank.tidy_iff _).mpr ⟨⟨l, x, s, t⟩, hq, chansTidy_map hn fun e => e.2.removed_length, hk⟩

theorem Bank.tidy_ckpt {k : Bank} (h : k.tidy) {c : Ckpt} (hc : k.ckpt = some c) : c.tidy := ((Bank.tidy_iff k).mp h).2.2.2 c hc

theorem Bank.tidy_takeTrap {k : Bank} (h : k.tidy) (c : CtxId) (code : BitVec 10) (ret tvec : Addr) :
    (k.takeTrap c code ret tvec).tidy := by
  have ht := tidy_listed (fun r => (r, tget 0 (k.ctx c).s r)) (upto 2 12)
      (fun r hr => by have := mem_upto.mp hr; simp only; omega) [] ⟨rfl, rfl⟩
  obtain ⟨l, x, s, -, rest⟩ := h
  exact ⟨l, x, s, ⟨ht.1, ht.2, BitVec.getLsbD_zero⟩, rest⟩

theorem Bank.tidy_returnTrap {k : Bank} (h : k.tidy) : k.returnTrap.tidy := by
  have hx : ∀ d, (k.ctx d).tidy := Bank.tidy_ctx h
  have ht : ({ k with tActive := false, t := { k.t.retired with run := false } } : Bank).tidy := h
  exact Bank.tidy_setCtx ht _ (Ctx.tidy_goto (Ctx.tidy_setS (Ctx.tidy_setS (hx _) _ _) _ _) _)

theorem Bank.tidy_fresh {k : Bank} (t : Task) (args : List Word64) (map : Tab Byte) (now : Nat) : (k.fresh t args map now).tidy := by
  refine (Bank.tidy_iff _).mpr ⟨⟨freshCtx_tidy _ _, freshCtx_tidy _ _, freshCtx_tidy _ _, Ctx.tidy_empty⟩,
      ⟨depthsTidy_nil, Nat.zero_le _, rfl⟩, fun e he => ?_,
    fun _ h => nomatch h⟩
  obtain ⟨d, hd, rfl⟩ := List.mem_map.mp he
  exact Nat.zero_le _

theorem Bank.tidy_vector {k : Bank} (h : k.tidy) (v : List Byte) : (k.vector v).tidy := h

/-! Braids. -/

theorem Braid.tidy_empty : ({} : Braid).tidy := ⟨Bank.tidy_empty, Bank.tidy_empty, rfl, fun _ h => (List.not_mem_nil h).elim, rfl,
    Nat.zero_le _⟩

theorem Braid.tidy_bank {x : Braid} (h : x.tidy) (i : Nat) : (x.bank i).tidy := by
  obtain ⟨h0, h1, -⟩ := h
  unfold Braid.bank
  split
  · exact h0
  · exact h1

theorem Braid.tidy_setBank {x : Braid} (h : x.tidy) (i : Nat) {k : Bank} (hk : k.tidy) : (x.setBank i k).tidy := by
  obtain ⟨h0, h1, rest⟩ := h
  unfold Braid.setBank
  split
  · exact ⟨hk, h1, rest⟩
  · exact ⟨h0, hk, rest⟩

theorem Braid.tidy_setSram {x : Braid} (h : x.tidy) {m : Tab Byte} (hm : sramTidy m) (l : List Nat) :
    ({ x with sram := m, bad := l } : Braid).tidy := by
  obtain ⟨h0, h1, -, -, rest⟩ := h
  exact ⟨h0, h1, hm.1, hm.2, rest⟩

theorem Braid.tidy_setFull {x : Braid} (h : x.tidy) {m : Tab Bool} (hm : twf false m = true) : ({ x with full := m } : Braid).tidy := by
  obtain ⟨h0, h1, h2, h3, -, h5⟩ := h
  exact ⟨h0, h1, h2, h3, hm, h5⟩

theorem Braid.tidy_setTaskQ {x : Braid} (h : x.tidy) {q : List Spawn} (hq : q.length ≤ 64) : ({ x with taskQ := q } : Braid).tidy := by
  obtain ⟨h0, h1, h2, h3, h4, -⟩ := h
  exact ⟨h0, h1, h2, h3, h4, hq⟩

theorem Braid.taskQ_length {x : Braid} (h : x.tidy) : x.taskQ.length ≤ 64 := by
  obtain ⟨-, -, -, -, -, hq⟩ := h
  exact hq

theorem Braid.full_wf {x : Braid} (h : x.tidy) : twf false x.full = true := by
  obtain ⟨-, -, -, -, hf, -⟩ := h
  exact hf

theorem Braid.sram_tidy {x : Braid} (h : x.tidy) : sramTidy x.sram := by
  obtain ⟨-, -, hw, hb, -⟩ := h
  exact ⟨hw, hb⟩

theorem sramTidy_tset {m : Tab Byte} (h : sramTidy m) {a : Nat} (ha : a < Config.sramBytes) (v : Byte) : sramTidy (tset 0 m a v) := by
  refine ⟨twf_tset _ _ _ _ h.1, fun e he => ?_⟩
  unfold tset at he
  split at he
  · exact h.2 e (mem_tdel he)
  · rcases mem_tput he with rfl | he
    · exact ha
    · exact h.2 e he

theorem Braid.tidy_sramPut {x : Braid} (h : x.tidy) (a : Nat) (v : Byte) : (x.sramPut a v).tidy := by
  unfold Braid.sramPut
  split
  · next ha => exact Braid.tidy_setSram h (sramTidy_tset (Braid.sram_tidy h) ha v) _
  · exact h

theorem Braid.tidy_sramPuts (l : List Byte) : ∀ {x : Braid} (_ : x.tidy) (a : Nat), (x.sramPuts a l).tidy := by
  induction l with
  | nil => exact fun h _ => h
  | cons v l ih => exact fun h a => ih (Braid.tidy_sramPut h a v) (a + 1)

theorem Braid.tidy_awarePut {x : Braid} (h : x.tidy) (bank : Nat) (w : SWrite) : (x.awarePut bank w).1.tidy := by
  unfold Braid.awarePut
  dsimp only
  split
  · exact Braid.tidy_sramPut h _ _
  · split
    · exact h
    · refine Braid.tidy_sramPut ?_ _ _
      split
      · exact h
      · exact Braid.tidy_setBank (Braid.tidy_sramPuts _ h _) _ (Braid.tidy_bank h bank)

theorem Braid.tidy_rawPut {x : Braid} (h : x.tidy) (w : SWrite) : (x.rawPut w).tidy := Braid.tidy_sramPut h _ _

theorem twf_foldl_tset {α β : Type} [DecidableEq α] {d : α} (f : β → Nat × α) (l : List β) {m : Tab α} (h : twf d m = true) :
    twf d (l.foldl (fun m e => tset d m (f e).1 (f e).2) m) = true := by
  induction l generalizing m with
  | nil => exact h
  | cons e l ih => exact ih (twf_tset _ _ _ _ h)

theorem Braid.tidy_setWindow {x : Braid} (h : x.tidy) (w : Nat) (v : Bool) : (x.setWindow w v).tidy :=
  Braid.tidy_setFull h (twf_foldl_tset (fun i => (i, v)) _ (Braid.full_wf h))

theorem Braid.tidy_mailIn {x : Braid} (h : x.tidy) (w : Nat) (words : List Word32) : (x.mailIn w words).tidy :=
  have hs := Braid.tidy_sramPuts (mailBytes words) h (Config.mailBase + 128 * w)
  Braid.tidy_setFull hs (twf_foldl_tset (fun i => (i, true)) _ (Braid.full_wf hs))

theorem Braid.tidy_dropHalfTiles {x : Braid} (h : x.tidy) (i : Nat) : (x.dropHalfTiles i).tidy :=
  Braid.tidy_setBank h i (Bank.tidy_mapChans (Braid.tidy_bank h i) fun _ => le_refl _)

theorem Braid.tidy_stopStrands {x : Braid} (h : x.tidy) (i : Nat) : (x.stopStrands i).tidy := by
  unfold Braid.stopStrands
  refine Braid.tidy_dropHalfTiles ?_ i
  exact h

theorem Braid.tidy_loadRegs {x : Braid} (h : x.tidy) (r : StrandRegs) (spb : Tab (Tab Nat)) : (x.loadRegs r spb).tidy := h
theorem Braid.tidy_modStrand {x : Braid} (h : x.tidy) (k : Nat) (f : Strand → Strand) : (x.modStrand k f).tidy := h

theorem Braid.tidy_popQueue {x : Braid} (h : x.tidy) (rank now : Nat) : (x.popQueue rank now).tidy := by
  unfold Braid.popQueue; split <;> exact h

theorem Braid.tidy_mapL1 {x : Braid} (h : x.tidy) (f : L1Line → L1Line) : (x.mapL1 f).tidy := h
theorem Braid.tidy_tick {x : Braid} (h : x.tidy) : x.tick.tidy := h

theorem Braid.tidy_foldl {α : Type} {f : Braid → α → Braid} (hf : ∀ (x : Braid) (a : α), x.tidy → (f x a).tidy) (l : List α) {x : Braid}
    (h : x.tidy) :
    (l.foldl f x).tidy := by
  induction l generalizing x with
  | nil => exact h
  | cons a l ih => exact ih (hf x a h)

/-! States. -/

theorem State.tidy_of_braids {s t : State} (h : s.tidy) (e : t.braids = s.braids) : t.tidy := by
  unfold State.tidy; rw [e]; exact h

theorem State.tidy_foldl {α : Type} {f : State → α → State} (hf : ∀ (s : State) (a : α), s.tidy → (f s a).tidy) (l : List α) {s : State}
    (h : s.tidy) :
    (l.foldl f s).tidy := by
  induction l generalizing s with
  | nil => exact h
  | cons a l ih => exact ih (hf s a h)

theorem State.tidy_braid {s : State} (h : s.tidy) (b : Nat) : (s.braid b).tidy := by
  unfold State.braid
  rcases mem_tget (d := ({} : Braid)) (t := s.braids) (i := b) with e | ⟨j, hj⟩
  · rw [e]; exact Braid.tidy_empty
  · exact h _ hj

theorem State.tidy_bank {s : State} (h : s.tidy) (b i : Nat) : (s.bank b i).tidy := Braid.tidy_bank (State.tidy_braid h b) i
theorem State.tidy_myBank {s : State} (h : s.tidy) : s.myBank.tidy := State.tidy_bank h _ _

theorem State.tidy_setBraid {s : State} (h : s.tidy) (b : Nat) {x : Braid} (hx : x.tidy) : (s.setBraid b x).tidy := fun e he => by
  rcases mem_tput he with rfl | he
  · exact hx
  · exact h e he

theorem State.tidy_modBraid {s : State} (h : s.tidy) (b : Nat) {f : Braid → Braid} (hf : ∀ x, x.tidy → (f x).tidy) :
    (s.modBraid b f).tidy :=
  State.tidy_setBraid h b (hf _ (State.tidy_braid h b))

theorem State.tidy_setBank {s : State} (h : s.tidy) (b i : Nat) {k : Bank} (hk : k.tidy) : (s.setBank b i k).tidy :=
  State.tidy_modBraid h b fun _ hx => Braid.tidy_setBank hx i hk

theorem State.tidy_modBank {s : State} (h : s.tidy) (b i : Nat) {f : Bank → Bank} (hf : ∀ k, k.tidy → (f k).tidy) :
    (s.modBank b i f).tidy :=
  State.tidy_setBank h b i (hf _ (State.tidy_bank h b i))

theorem State.tidy_modMyBraid {s : State} (h : s.tidy) {f : Braid → Braid} (hf : ∀ x, x.tidy → (f x).tidy) : (s.modMyBraid f).tidy :=
  State.tidy_modBraid h _ hf

theorem State.tidy_modMyBank {s : State} (h : s.tidy) {f : Bank → Bank} (hf : ∀ k, k.tidy → (f k).tidy) : (s.modMyBank f).tidy :=
  State.tidy_modBank h _ _ hf

theorem State.tidy_modMyCtx {s : State} (h : s.tidy) {f : Ctx → Ctx} (hf : ∀ c, c.tidy → (f c).tidy) : (s.modMyCtx f).tidy :=
  State.tidy_modMyBank h fun _ hk => Bank.tidy_setCtx hk _ (hf _ (Bank.tidy_ctx hk _))

/-! The same rules with the changed part as it stands: for goals where that is known. -/

theorem State.tidy_modBraid_of {s : State} (h : s.tidy) (b : Nat) {f : Braid → Braid} (hf : (f (s.braid b)).tidy) : (s.modBraid b f).tidy :=
  State.tidy_setBraid h b hf

theorem State.tidy_modBank_of {s : State} (h : s.tidy) (b i : Nat) {f : Bank → Bank} (hf : (f (s.bank b i)).tidy) :
    (s.modBank b i f).tidy :=
  State.tidy_setBank h b i hf

theorem State.tidy_modMyBank_of {s : State} (h : s.tidy) {f : Bank → Bank} (hf : (f s.myBank).tidy) : (s.modMyBank f).tidy :=
  State.tidy_setBank h _ _ hf

/-- The state that an instruction answers is tidy. -/
def NextTidy (r : Res) : Prop := ∀ t, r = .next t → t.tidy

theorem nextTidy_next {t : State} (h : t.tidy) : NextTidy (.next t) := fun _ e => by cases e; exact h

end Sys2Proof.Machine
end

section
/-! SUPPORT. What keeps the order: memory, the fault path and the accesses of a context (R209, R215, R299 to R302). -/

namespace Sys2Proof.Machine

theorem State.tidy_setMem {s : State} (h : s.tidy) (m : MemSide) : (s.setMem m).tidy := h

theorem State.tidy_ite {c : Prop} [Decidable c] {s t : State} (hs : s.tidy) (ht : t.tidy) : (if c then s else t).tidy := by
  split
  · exact hs
  · exact ht

theorem State.tidy_fst {α : Type} {x : State × α} {t : State} {a : α} (h : x.1.tidy) (e : x = (t, a)) : t.tidy := by
  rw [e] at h; exact h

theorem nextTidy_ite {c : Prop} [Decidable c] {r q : Res} (hr : NextTidy r) (hq : NextTidy q) : NextTidy (if c then r else q) := by
  split
  · exact hr
  · exact hq

theorem State.tidy_setCur {s : State} (h : s.tidy) (w : Who) : (s.setCur w).tidy := h
theorem State.tidy_setTodo {s : State} (h : s.tidy) (l : List Act) : (s.setTodo l).tidy := h
theorem State.tidy_next {s : State} (h : s.tidy) (l : List Act) : (s.next l).tidy := h
theorem State.tidy_later {s : State} (h : s.tidy) (c : Nat) (a : Act) : (s.later c a).tidy := h
theorem State.tidy_draw {s : State} (h : s.tidy) : s.draw.2.tidy := h
theorem State.tidy_flip {s : State} (h : s.tidy) : s.flip.2.tidy := h
theorem State.tidy_wS {s : State} (h : s.tidy) (r : BitVec 5) (v : Word64) : (s.wS r v).tidy := State.tidy_modMyCtx h fun _ hc =>
    Ctx.tidy_setS hc _ _
theorem State.tidy_wP {s : State} (h : s.tidy) (r : BitVec 4) (v : Bool) : (s.wP r v).tidy := State.tidy_modMyCtx h fun _ hc =>
    Ctx.tidy_setP hc _ _
theorem State.tidy_advance {s : State} (h : s.tidy) (n : Nat) : (s.advance n).tidy := State.tidy_modMyCtx h fun _ hc => hc
theorem State.tidy_waitIn {s : State} (h : s.tidy) (w : Wait) : (s.waitIn w).tidy := State.tidy_modMyCtx h fun _ hc => hc

theorem guarded_tidy {s : State} (h : s.tidy) (g : BitVec 4) (n : Nat) {f : State → State} (hf : (f s).tidy) :
    NextTidy (guarded g n s f) := by
  refine nextTidy_next ?_
  split
  · exact hf
  · exact State.tidy_advance h n

theorem State.tidy_raiseFlags {s : State} (h : s.tidy) (f : FlagSet) : (s.raiseFlags f).tidy := State.tidy_modMyBank h fun _ hk => hk

theorem State.tidy_warnIf {s : State} (h : s.tidy) (c : Bool) (n : Nat) : (s.warnIf c n).tidy := by
  unfold State.warnIf
  split
  · exact State.tidy_modMyBank h fun _ hk => hk
  · exact h

theorem State.tidy_modIface {s : State} (h : s.tidy) (v : Nat) (f : Iface → Iface) : (s.modIface v f).tidy := by
  unfold State.modIface
  split <;> exact h

theorem State.tidy_modLaunch {s : State} (h : s.tidy) (uid : Nat) (f : Launch → Launch) : (s.modLaunch uid f).tidy := h

theorem State.tidy_toHost {s : State} (h : s.tidy) (l : List HostOut) : (s.toHost l).tidy := by
  unfold State.toHost
  dsimp only
  split <;> exact h

theorem State.tidy_sendUnsent {s : State} (h : s.tidy) : s.sendUnsent.tidy := by
  unfold State.sendUnsent
  split
  · exact h
  · refine State.tidy_toHost ?_ _
    exact State.tidy_of_braids h rfl

theorem State.tidy_askLineOf {s : State} (h : s.tidy) (line : Nat) (own na : Bool) : (s.askLineOf line own na).tidy := by
  refine State.tidy_toHost ?_ _
  exact State.tidy_of_braids h rfl

theorem State.tidy_askHost {s : State} (h : s.tidy) (line : Nat) (own : Bool) : (s.askHost line own).tidy :=
  State.tidy_askLineOf h _ _ _

theorem State.tidy_askHostNa {s : State} (h : s.tidy) (line : Nat) : (s.askHostNa line).tidy :=
  State.tidy_askLineOf h _ _ _

theorem State.tidy_setL2 {s : State} (h : s.tidy) (east : Bool) (l : List L2Sb) : (s.setL2 east l).tidy := h
theorem State.tidy_countHint {s : State} (h : s.tidy) (east : Bool) : (s.countHint east).tidy := h

theorem State.tidy_dropHost {s : State} (h : s.tidy) (line : Nat) : (s.dropHost line).tidy := by
  unfold State.dropHost
  split
  · exact h
  · refine State.tidy_toHost ?_ _
    exact State.tidy_of_braids h rfl

theorem State.tidy_l2Drop {s : State} (h : s.tidy) (line : Nat) (dirty : Bool) : (s.l2Drop line dirty).tidy :=
  State.tidy_of_braids (State.tidy_dropHost h _) rfl

theorem State.tidy_l2Leave {s : State} (h : s.tidy) (x : L2Sb) :
    (s.l2Leave x).tidy := State.tidy_foldl (fun _ _ h => State.tidy_l2Drop h _ _) _ h
theorem State.tidy_of_onlyMem {s t : State} (h : s.tidy) (e : s.OnlyMem t) : t.tidy := State.tidy_of_braids h e.braids_eq

theorem State.tidy_l2Fill {s : State} (h : s.tidy) (v line : Nat) : (s.l2Fill v line).tidy := by
  unfold State.l2Fill
  split <;> exact h

theorem State.tidy_l2Bring {s : State} (h : s.tidy) (tag valid dirty : Nat) : (s.l2Bring tag valid dirty).tidy := by
  unfold State.l2Bring
  dsimp only
  split
  · exact State.tidy_setL2 h _ _
  · split
    · exact State.tidy_setL2 h _ _
    · exact State.tidy_l2Leave (State.tidy_setL2 h _ _) _

theorem State.tidy_l2Take {s : State} (h : s.tidy) (v line : Nat) (dirty : Bool) : (s.l2Take v line dirty).tidy :=
  State.tidy_l2Bring (State.tidy_l2Fill h _ _) _ _ _

theorem State.tidy_l2Use {s : State} (h : s.tidy) (v line : Nat) : (s.l2Use v line false).tidy := State.tidy_of_onlyMem h
    (s.l2Use_only v line).1
theorem State.tidy_l2Read {s : State} (h : s.tidy) (v line : Nat) (na : Bool) : (s.l2Read v line na).tidy := State.tidy_of_onlyMem h
    (s.l2Read_only v line na).1

theorem State.tidy_homeWrite {s : State} (h : s.tidy) (v : Nat) (na : Nat → Bool) (l : List (Nat × Byte)) : (s.homeWrite v na l).tidy :=
  State.tidy_of_onlyMem h (s.homeWrite_only v na l)

theorem State.tidy_homePuts {s : State} (h : s.tidy) (v : Nat) (l : List (Nat × Byte)) : (s.homePuts v l).tidy := State.tidy_homeWrite h v _
    l
theorem State.tidy_walked {s : State} (h : s.tidy) (v va : Nat) : (s.walked v va).tidy := State.tidy_of_onlyMem h (s.walked_only v va).1
theorem State.tidy_serveLight {s : State} (h : s.tidy) (v entry : Nat) (w : Bool) : (s.serveLight v entry w).tidy := State.tidy_homePuts
    h _ _

theorem State.tidy_seqTouch {s : State} (h : s.tidy) (v : Nat) (a : Acc) (va n : Nat) : (s.seqTouch v a va n).1.tidy :=
  State.tidy_of_onlyMem h (s.seqTouch_only v a va n)

theorem State.tidy_seqRead {s : State} (h : s.tidy) (v va n : Nat) : (s.seqRead v va n).1.tidy := State.tidy_of_onlyMem h
    (s.seqRead_only v va n)

theorem State.tidy_seqWrite {s : State} (h : s.tidy) (v va : Nat) (data : List Byte) : (s.seqWrite v va data).1.tidy :=
  State.tidy_of_onlyMem h (s.seqWrite_only v va data)

theorem State.tidy_postDevice {s : State} (h : s.tidy) (rec : List Byte) : (s.postDevice rec).tidy := State.tidy_of_braids h
    (s.braids_postDevice rec)
theorem State.tidy_put {s : State} (h : s.tidy) (v : Nat) (u : Unposted) : (s.put v u).tidy := State.tidy_of_braids h (s.braids_put v u)
theorem State.tidy_post {s : State} (h : s.tidy) (v : Nat) (rec : List Byte) : (s.post v rec).tidy := State.tidy_put h v _

theorem State.tidy_putWaiting {s : State} (h : s.tidy) (v : Nat) : (s.putWaiting v).tidy :=
  State.tidy_foldl (fun _ u h => State.tidy_put h v u) _ (State.tidy_modIface h v _)

theorem State.tidy_noteErr {s : State} (h : s.tidy) (east : Bool) (bank : Nat) (uc poison : Bool) (unit typ addr : Nat) :
    (s.noteErr east bank uc poison unit typ addr).tidy := by
  unfold State.noteErr
  dsimp only
  split
  · refine State.tidy_postDevice ?_ _
    exact State.tidy_of_braids h rfl
  · exact State.tidy_of_braids h rfl

theorem State.tidy_noteSram {s : State} (h : s.tidy) (b a : Nat) : (s.noteSram b a).tidy :=
  State.tidy_noteErr h _ _ _ _ _ _ _

theorem State.tidy_readLine {s : State} (h : s.tidy) (v line : Nat) (na : Bool) : (s.readLine v line na).tidy := by
  unfold State.readLine
  dsimp only
  split
  · exact State.tidy_noteErr (State.tidy_l2Read h _ _ _) _ _ _ _ _ _ _
  · exact State.tidy_l2Read h _ _ _

theorem State.tidy_rereadLine {s : State} (h : s.tidy) (line : Nat) : (s.rereadLine line).2.tidy := by
  unfold State.rereadLine
  dsimp only
  split
  · exact State.tidy_of_braids (State.tidy_flip h) rfl
  · exact State.tidy_noteErr (State.tidy_flip h) _ _ _ _ _ _ _

theorem State.tidy_phaseDone {s : State} (h : s.tidy) (b bank : Nat) (swap : Bool) (k : Nat) : (s.phaseDone b bank swap k).tidy := by
  refine State.tidy_modBraid h b fun x hx => ?_
  refine Braid.tidy_setBank ?_ bank ?_
  · exact hx
  · exact Braid.tidy_bank hx bank

theorem State.tidy_dropEvents {s : State} (h : s.tidy) (b bank : Nat) : (s.dropEvents b bank).tidy := by
  unfold State.dropEvents
  refine State.tidy_of_braids (State.tidy_foldl (fun _ e h => State.tidy_foldl (fun _ p h => ?_) _ h) _ h) rfl
  exact State.tidy_modBank h _ _ fun _ hk => hk

theorem State.tidy_dropPhase {s : State} (h : s.tidy) (b bank : Nat) : (s.dropPhase b bank).tidy := by
  unfold State.dropPhase
  refine State.tidy_modBraid ?_ b fun x hx => ?_
  · split
    · split
      · exact State.tidy_phaseDone h _ _ _ _
      · exact State.tidy_dropEvents h _ _
    · exact h
  · have hy : ∀ y : Braid, y.tidy → ({ y with merge := if y.runBank = bank then [] else y.merge } : Braid).tidy := fun _ hy => hy
    refine Braid.tidy_setBank (hy _ ?_) bank (Bank.tidy_dropPhase (Braid.tidy_bank (hy _ ?_) bank)) <;> split
    · exact Braid.tidy_stopStrands hx bank
    · exact hx
    · exact Braid.tidy_stopStrands hx bank
    · exact hx

theorem State.tidy_closeUse {s : State} (h : s.tidy) (b bank : Nat) : (s.closeUse b bank).tidy := State.tidy_of_braids h
    (s.braids_closeUse b bank)

theorem Bank.tidy_ended {k : Bank} (h : k.tidy) : k.ended.tidy := by
  obtain ⟨hc, ⟨-, -, hl⟩, hn, -⟩ := (Bank.tidy_iff k).mp h
  exact (Bank.tidy_iff _).mpr ⟨hc, ⟨depthsTidy_nil, Nat.zero_le _, hl⟩, chansTidy_map hn fun _ => le_refl _, fun _ h => nomatch h⟩

theorem State.tidy_endTask {s : State} (h : s.tidy) (b bank : Nat) : (s.endTask b bank).tidy := by
  unfold State.endTask
  dsimp only
  split
  · exact h
  · next t ht =>
    have hb : ((s.closeUse b bank).modBraid b fun x =>
        { x.setBank bank (s.bank b bank).ended with
          merge := if x.runBank = bank then [] else x.merge, l1 := dropL1 x.l1 (·.kind == 0),
          sqDone := (settleDone x.sqDone (t.sq :: x.sqFin) (x.sqFin.length + 1)).1,
          sqFin := (settleDone x.sqDone (t.sq :: x.sqFin) (x.sqFin.length + 1)).2 }).tidy :=
      State.tidy_modBraid (State.tidy_closeUse h b bank) b fun x hx => Braid.tidy_setBank hx bank
          (Bank.tidy_ended (State.tidy_bank h b bank))
    split <;> exact State.tidy_of_braids hb rfl

theorem State.tidy_completeHeap {s : State} (h : s.tidy) (key status who place : Nat) : (s.completeHeap key status who place).tidy :=
  State.tidy_of_braids h (s.braids_completeHeap key status who place)

theorem State.tidy_doomLaunch {s : State} (h : s.tidy) (uid b bank status hstatus : Nat) :
    (s.doomLaunch uid b bank status hstatus).tidy := by
  rcases s.doomLaunch_braids uid b bank status hstatus with e | e
  · exact State.tidy_of_braids h e
  · intro a ha
    rw [e] at ha
    obtain ⟨d, hd, rfl⟩ := List.mem_map.mp ha
    exact Braid.tidy_setTaskQ (x := { d.2 with reserved := _ }) (h d hd) ((List.length_filter_le _ _).trans (Braid.taskQ_length (h d hd)))

theorem State.tidy_idleRest {s : State} (h : s.tidy) (b bank : Nat) : (s.idleRest b bank).tidy := h

theorem State.tidy_endByFault {s : State} (h : s.tidy) (b bank : Nat) (f : FaultInfo) : (s.endByFault b bank f).tidy := by
  unfold State.endByFault
  split
  · exact h
  · next t ht =>
    have h2 := State.tidy_modBank (State.tidy_post h t.vi (s.recordFault b bank f 0)) b bank fun _ hk => Bank.tidy_fault hk f
    have h3 : (((State.post s t.vi (s.recordFault b bank f 0)).modBank b bank (·.fault f)).dropPhase b bank).tidy := State.tidy_dropPhase h2
        b bank
    exact State.tidy_endTask (State.tidy_doomLaunch (State.tidy_modLaunch (State.tidy_idleRest h3 b bank) _ _) _ _ _ _ _) b bank

theorem State.tidy_fence {s : State} (h : s.tidy) (b : Nat) : (s.fence b).tidy := by
  unfold State.fence
  refine State.tidy_foldl (fun t l ht => ?_) _ ?_
  · exact State.tidy_doomLaunch (State.tidy_post ht _ _) _ _ _ _ _
  · refine State.tidy_endByFault (State.tidy_endByFault (State.tidy_modBraid h b ?_) _ _ _) _ _ _
    exact fun _ hx => hx

theorem State.tidy_nowContended {s : State} (h : s.tidy) (src size : Nat) : (s.nowContended src size).tidy := h
theorem State.tidy_contend {s : State} (h : s.tidy) (v : Nat) (f : FaultInfo) : (s.contend v f).tidy := State.tidy_of_braids h
    (s.braids_contend v f)

theorem State.tidy_raise {s : State} (h : s.tidy) (b bank : Nat) (f : FaultInfo) : (s.raise b bank f).tidy := by
  have hk := State.tidy_bank h b bank
  unfold State.raise
  dsimp only
  split
  · exact State.tidy_postDevice h _
  next t _ =>
  split
  · split
    · exact State.tidy_setBank (State.tidy_contend h _ f) b bank hk
    · exact h
  split
  · next c _ hc =>
    have h2 := State.tidy_modBank (State.tidy_post h t.vi (s.recordFault b bank f 0)) b bank fun _ hk => Bank.tidy_fault hk f
    have h3 := State.tidy_idleRest (State.tidy_dropPhase h2 b bank) b bank
    refine State.tidy_modBank ?_ b bank fun _ hk' => Bank.tidy_restore hk' (Bank.tidy_ckpt hk hc)
    split
    · split
      · exact State.tidy_rereadLine h3 _
      · exact h3
    · exact h3
  · have h1 := State.tidy_endByFault h b bank f
    split
    · refine State.tidy_fence (State.tidy_modBraid h1 b ?_) b
      exact fun _ hx => hx
    · exact State.tidy_modBraid h1 b fun _ hx => hx

theorem State.tidy_defer {s : State} (h : s.tidy) (b bank : Nat) (f : FaultInfo) : (s.defer b bank f).tidy := State.tidy_modBank h b bank
    fun _ hk => hk

theorem State.tidy_fault {s : State} (h : s.tidy) (b bank : Nat) (f : FaultInfo) : (s.fault b bank f).tidy := by
  unfold State.fault
  split
  · exact State.tidy_raise h _ _ _
  · exact State.tidy_defer h _ _ _

theorem State.tidy_settleFaults {s : State} (h : s.tidy) (b bank : Nat) : (s.settleFaults b bank).tidy := by
  unfold State.settleFaults
  split
  · exact h
  · refine State.tidy_raise (State.tidy_modBank h b bank ?_) b bank _
    exact fun _ hk => hk

theorem State.tidy_ctxFault {s : State} (h : s.tidy) (code va : Nat) (write : Bool) (line : Option Nat) :
    (s.ctxFault code va write line).tidy := by
  unfold State.ctxFault
  refine State.tidy_fault (State.tidy_modMyCtx h ?_) _ _ _
  exact fun _ hc => hc

theorem State.tidy_illegal {s : State} (h : s.tidy) : s.illegal.tidy := State.tidy_ctxFault h 1 0 false none
theorem State.tidy_jobFault {s : State} (h : s.tidy) (b bank code : Nat) (j : Job) (va : Nat) :
    (s.jobFault b bank code j va).tidy := State.tidy_fault h _ _ _

theorem State.tidy_strandFault {s : State} (h : s.tidy) (b k code pc va : Nat) (write : Bool) : (s.strandFault b k code pc va write).tidy :=
  State.tidy_fault (State.tidy_ite (State.tidy_noteSram h _ _) h) _ _ _

theorem State.tidy_sendMem {s : State} (h : s.tidy) (typ a b arg flits : Nat) (body : Body) : (s.sendMem typ a b arg flits body).tidy := by
  unfold State.sendMem
  split
  · exact State.tidy_later h _ _
  · refine State.tidy_modBraid h _ ?_
    exact fun _ hx => hx

theorem State.tidy_askLine {s : State} (h : s.tidy) (b bank : Nat) (c : CtxId) (vi line : Nat) (na : Bool) :
    (s.askLine b bank c vi line na).tidy :=
  State.tidy_sendMem h _ _ _ _ _ _

theorem State.tidy_ctxTouch (b vi : Nat) (a : Acc) (n : Nat) : ∀ {s : State} (_ : s.tidy) (va : Nat), (s.ctxTouch b vi a va n).1.tidy := by
  induction n with
  | zero => exact fun h _ => h
  | succ n ih =>
    intro s h va
    unfold State.ctxTouch
    split
    · exact ih h _
    · have h0 : ((if (s.lookup vi b 64 a va (s.braid b).tlb).2.2 then s else s.walked vi va).modBraid b fun x =>
          { x with tlb := (s.lookup vi b 64 a va (s.braid b).tlb).2.1 }).tidy := by
        refine State.tidy_modBraid ?_ b fun _ hx => hx
        split
        · exact h
        · exact State.tidy_walked h vi va
      dsimp only
      split
      · exact ih h0 _
      · exact h0
      · exact h0
      · exact State.tidy_askHost h0 _ _

theorem State.tidy_ctxStop {s : State} (h : s.tidy) (write : Bool) (e : Stop) : (s.ctxStop write e).tidy := by
  cases e
  · exact State.tidy_ctxFault h _ _ _ _
  · exact State.tidy_waitIn h _

theorem State.braids_noteErr (s : State) (east : Bool) (bank : Nat) (uc poison : Bool) (unit typ addr : Nat) :
    (s.noteErr east bank uc poison unit typ addr).braids = s.braids := by
  unfold State.noteErr
  dsimp only
  split
  · exact State.braids_postDevice _ _
  · rfl

theorem State.braids_consumeByte (s : State) (v va pa leaf : Nat) (bad : Bool) : (s.consumeByte v va pa leaf bad).1.braids = s.braids := by
  have hr : ∀ line, (s.rereadLine line).2.braids = s.braids := fun line => by
    unfold State.rereadLine
    dsimp only
    split
    · rfl
    · exact State.braids_noteErr _ _ _ _ _ _ _ _
  unfold State.consumeByte
  split
  · rfl
  split
  · rfl
  split
  · rfl
  split
  · next e => exact (congrArg (·.2.braids) e).symm.trans (hr _)
  · next e => exact (congrArg (·.2.braids) e).symm.trans (hr _)

theorem State.tidy_consumeByte {s : State} (h : s.tidy) (v va pa leaf : Nat) (bad : Bool) : (s.consumeByte v va pa leaf bad).1.tidy :=
  State.tidy_of_braids h (s.braids_consumeByte v va pa leaf bad)

theorem State.tidy_consume (v : Nat) (l : List (Nat × Nat × Nat × Bool)) : ∀ {s : State} (_ : s.tidy), (s.consume v l).1.tidy := by
  induction l with
  | nil => exact fun h => h
  | cons e l ih =>
    intro s h
    have h1 := State.tidy_consumeByte h v e.1 e.2.1 e.2.2.1 e.2.2.2
    unfold State.consume
    generalize s.consumeByte v e.1 e.2.1 e.2.2.1 e.2.2.2 = p at h1
    obtain ⟨t, _ | code⟩ := p
    · exact ih h1
    · exact h1

theorem State.tidy_areaRead (b bank : Nat) (l : List Nat) : ∀ {s : State} (_ : s.tidy), (s.areaRead b bank l).1.tidy := by
  induction l with
  | nil => exact fun h => h
  | cons e l ih =>
    intro s h
    unfold State.areaRead
    dsimp only
    split
    · exact ih (State.tidy_foldl (fun _ _ h => State.tidy_l2Use h _ _) _ (State.tidy_walked h _ _))
    · exact h
    · exact h
    · exact State.tidy_askHost h _ _

theorem State.tidy_ctxRead {s : State} (h : s.tidy) (va n sid : Nat) (na : Bool) : (s.ctxRead va n sid na).1.tidy := by
  have ht := State.tidy_ctxTouch s.me.1 s.myBank.vi .load n h va
  unfold State.ctxRead
  dsimp only
  split
  · exact State.tidy_ctxFault h _ _ _ _
  split
  · exact State.tidy_waitIn h _
  split
  · exact State.tidy_ctxFault (State.tidy_noteSram h _ _) _ _ _ _
  · next e => rw [e] at ht; exact State.tidy_ctxStop ht _ _
  next s1 l _ e =>
  rw [e] at ht
  have ha := State.tidy_areaRead s.me.1 s.me.2.1 (distinct (((l.filterMap id).map fun e => if leafKind e.2 = 3 then
      [] else s1.myBank.entriesOf e.1).flatten)) ht
  split
  · next e => rw [e] at ha; exact State.tidy_ctxStop ha _ _
  next s2 e =>
  rw [e] at ha
  have h3 : (if (l.filterMap id).isEmpty then (0, s2) else s2.draw).2.tidy := by
    split
    · exact ha
    · exact State.tidy_draw ha
  generalize (if (l.filterMap id).isEmpty then (0, s2) else s2.draw) = p at h3
  split
  · have hc := State.tidy_consume s.myBank.vi (((upto va n).zip l).filterMap fun x =>
      x.2.map fun y => (x.1, y.1, y.2, p.2.fromBad s.me.1 s.me.2.1 s.me.2.2 y.1 y.2)) h3
    split
    · next e => rw [e] at hc; exact State.tidy_ctxFault hc _ _ _ _
    next s4 e =>
    rw [e] at hc
    refine State.tidy_modMyBank ?_ fun _ hk => Bank.tidy_foldl (fun _ _ hk => Bank.tidy_noteRead hk _) _ hk
    split
    · exact hc
    · refine State.tidy_modBraid hc _ ?_
      exact fun _ hx => hx
  · refine State.tidy_modMyCtx (State.tidy_foldl (fun _ _ h => State.tidy_askLine h _ _ _ _ _ _) _ h3) ?_
    exact fun _ hc => hc

theorem State.tidy_areaPut {s : State} (h : s.tidy) (b bank entry : Nat) (img : List Byte) : (s.areaPut b bank entry img).1.tidy := by
  unfold State.areaPut
  dsimp only
  split
  · exact h
  · split
    · exact State.tidy_homePuts (State.tidy_walked h _ _) _ _
    · exact h
    · exact h
    · exact State.tidy_askHost h _ _

theorem Bank.tidy_setSpilled {k : Bank} (h : k.tidy) (spilled : List MLine) : ({ k with spilled } : Bank).tidy := h
theorem Braid.tidy_setMerge {x : Braid} (h : x.tidy) (merge : List MLine) : ({ x with merge } : Braid).tidy := h

theorem State.tidy_spill {s : State} (h : s.tidy) (b bank : Nat) (l : MLine) : (s.spill b bank l).1.tidy := by
  have ha := State.tidy_areaPut h b bank (s.bank b bank).freeEntry (lineImage l 0 l.mark)
  unfold State.spill
  dsimp only
  split
  · next e => exact State.tidy_fst ha e
  · next e =>
    exact State.tidy_modBraid (State.tidy_fst ha e) b fun _ hx =>
      Braid.tidy_setBank (Braid.tidy_setMerge hx _) bank (Bank.tidy_setSpilled (Braid.tidy_bank hx bank) _)

theorem andThen_tidy {x : State × Option Stop} {f : State → State × Option Stop} (h : x.1.tidy) (hf : ∀ t, t.tidy → (f t).1.tidy) :
    (andThen x f).1.tidy := by
  obtain ⟨s, _ | e⟩ := x
  · exact hf s h
  · exact h

theorem State.tidy_openLine {s : State} (h : s.tidy) (b bank line leaf : Nat) (na : Bool) : (s.openLine b bank line leaf na).1.tidy := by
  unfold State.openLine
  dsimp only
  split
  · exact h
  refine andThen_tidy (andThen_tidy ?_ fun t ht => ?_) fun t ht => andThen_tidy (State.tidy_areaRead _ _ _ ht) fun t ht => ?_
  · split
    · exact State.tidy_spill h _ _ _
    · exact h
  · split
    · exact State.tidy_spill ht _ _ _
    · exact ht
  · refine State.tidy_modBraid ht _ fun x hx => ?_
    refine Braid.tidy_setBank ?_ _ ?_
    · exact hx
    · exact Braid.tidy_bank hx bank

theorem Bank.tidy_setConflicts {k : Bank} (h : k.tidy) (conflicts : List Nat) : ({ k with conflicts } : Bank).tidy := h

theorem State.tidy_mergeByte {s : State} (h : s.tidy) (b bank : Nat) (c : CtxId) (sid pa : Nat) (v : Byte) (na : Bool) :
    (s.mergeByte b bank c sid pa v na).tidy :=
  have hx := State.tidy_braid h b
  State.tidy_setBraid h b (Braid.tidy_setBank (Braid.tidy_setMerge hx _) bank (Bank.tidy_setConflicts (Braid.tidy_bank hx bank) _))

theorem State.tidy_ctxStore {s : State} (h : s.tidy) (va sid : Nat) (na : Bool) (data : List Byte) :
    (s.ctxStore va sid na data).1.tidy := by
  have ht := State.tidy_ctxTouch s.me.1 s.myBank.vi .store data.length h va
  unfold State.ctxStore
  dsimp only
  split
  · exact State.tidy_ctxFault h _ _ _ _
  split
  · exact State.tidy_waitIn h _
  split
  · next e => rw [e] at ht; exact State.tidy_ctxStop ht _ _
  next s1 l e =>
  rw [e] at ht
  have ho : ∀ (l : List (Nat × Nat)) (x : State × Option Stop), x.1.tidy →
      (l.foldl (fun st e => andThen st fun x => x.openLine s.me.1 s.me.2.1 e.1 e.2 na) x).1.tidy := by
    intro l
    induction l with
    | nil => exact fun _ h => h
    | cons e l ih => exact fun x hx => ih _ (andThen_tidy hx fun _ h => State.tidy_openLine h _ _ _ _ _)
  generalize hl : List.foldl _ _ _ = p
  have hp : p.1.tidy := hl ▸ ho _ (s1, none) ht
  split
  · exact State.tidy_ctxStop hp _ _
  next s2 =>
  refine State.tidy_modMyBank (State.tidy_foldl (fun t e ht => ?_) _ hp) fun _ hk =>
      Bank.tidy_foldl (fun _ _ hk => Bank.tidy_noteWrite hk _) _ hk
  split
  · exact State.tidy_mergeByte ht _ _ _ _ _ _ _
  · split
    · exact State.tidy_modMyBraid ht fun _ hx => Braid.tidy_sramPut hx _ _
    · exact ht

theorem State.tidy_fetchBytes {s : State} (h : s.tidy) (pc n : Nat) : (s.fetchBytes pc n).1.tidy := by
  have ht := State.tidy_ctxTouch s.me.1 s.myBank.vi .fetch n h pc
  unfold State.fetchBytes
  dsimp only
  split
  · exact State.tidy_ctxFault h _ _ _ _
  split
  · next e => rw [e] at ht; exact State.tidy_ctxStop ht _ _
  next e =>
  rw [e] at ht
  split
  · exact ht
  · refine State.tidy_modMyCtx (State.tidy_foldl (fun _ _ h => State.tidy_askHost h _ _) _ ht) ?_
    exact fun _ hc => hc

theorem State.tidy_fetchParcels {s : State} (h : s.tidy) : s.fetchParcels.1.tidy := by
  unfold State.fetchParcels
  dsimp only
  split
  · next e => exact State.tidy_fst (State.tidy_fetchBytes h _ _) e
  · next e =>
      split
      · split
        · next e1 => exact State.tidy_fst (State.tidy_fetchBytes (State.tidy_fst (State.tidy_fetchBytes h _ _) e) _ _) e1
        · next e1 => exact State.tidy_fst (State.tidy_fetchBytes (State.tidy_fst (State.tidy_fetchBytes h _ _) e) _ _) e1
      · exact State.tidy_fst (State.tidy_fetchBytes h _ _) e

theorem State.tidy_result {s : State} (h : s.tidy) (n : Nat) (d : BitVec 5) (v : Word64) : (s.result n d v).tidy :=
  State.tidy_advance (State.tidy_wS h _ _) _

end Sys2Proof.Machine
end

section
/-! SUPPORT. What keeps the order: the instructions of the control contexts (R88 to R107, R253, R291, R311). -/

namespace Sys2Proof.Machine

theorem State.tidy_resultP {s : State} (h : s.tidy) (n : Nat) (d : BitVec 4) (v : Bool) : (s.resultP n d v).tidy :=
  State.tidy_advance (State.tidy_wP h _ _) _

theorem aluRR_tidy {s : State} (h : s.tidy) (g : BitVec 4) (n : Nat) (d a b : BitVec 5) (f : Word64 → Word64 → Word64) :
    NextTidy (aluRR g n d a b f s) :=
  guarded_tidy h _ _ (State.tidy_result h _ _ _)

theorem aluRRD_tidy {s : State} (h : s.tidy) (g : BitVec 4) (n : Nat) (d a b : BitVec 5) (f : Word64 → Word64 → Word64 → Word64) :
    NextTidy (aluRRD g n d a b f s) :=
  guarded_tidy h _ _ (State.tidy_result h _ _ _)

theorem aluD_tidy {s : State} (h : s.tidy) (g : BitVec 4) (n : Nat) (d : BitVec 5) (f : Word64 → Word64) : NextTidy (aluD g n d f s) :=
  guarded_tidy h _ _ (State.tidy_result h _ _ _)

theorem cmpRR_tidy {s : State} (h : s.tidy) (g pd : BitVec 4) (a b : BitVec 5) (f : Word64 → Word64 → Bool) :
    NextTidy (cmpRR g pd a b f s) :=
  guarded_tidy h _ _ (State.tidy_resultP h _ _ _)

theorem cmpRI_tidy {s : State} (h : s.tidy) (g pd : BitVec 4) (a : BitVec 3) (imm : BitVec 11) (f : Word64 → Word64 → Bool) :
    NextTidy (cmpRI g pd a imm f s) :=
  guarded_tidy h _ _ (State.tidy_resultP h _ _ _)

theorem predForm_tidy {s : State} (h : s.tidy) (g pd : BitVec 4) (f : Ctx → Bool) : NextTidy (predForm g pd f s) :=
  guarded_tidy h _ _ (State.tidy_resultP h _ _ _)

theorem Bank.tidy_setLines {k : Bank} (h : k.tidy) (spilled : List MLine) (staged : List Tile) :
    ({ k with spilled, staged } : Bank).tidy := h

theorem State.tidy_mapOwn {s : State} (h : s.tidy) (b bank : Nat) (f : OldByte → OldByte) : (s.mapOwn b bank f).tidy :=
  State.tidy_modBraid h b fun _ hx => Braid.tidy_setBank (Braid.tidy_setMerge hx _) bank (Bank.tidy_setLines (Braid.tidy_bank hx bank) _ _)

theorem execFenceJ_tidy {s : State} (h : s.tidy) (g : BitVec 4) (a : BitVec 5) : NextTidy (execFenceJ g a s) :=
  guarded_tidy h _ _ (State.tidy_advance (State.tidy_mapOwn h _ _ _) _)

theorem amo_tidy {s : State} (h : s.tidy) (op : Nat) (g : BitVec 4) (z wide : Bool) (d a b : BitVec 5) :
    NextTidy (amo op g z wide d a b s) := by
  have ht := State.tidy_ctxTouch s.me.1 s.myBank.vi .amo 1 h (addrOf (s.rS a))
  refine guarded_tidy h g 4 ?_
  dsimp only
  generalize (if wide then 8 else 4) = n
  split
  · refine State.tidy_result (State.tidy_modMyBank (State.tidy_warnIf h _ _) ?_) _ _ _
    exact fun _ hk => hk
  split
  · exact State.tidy_waitIn h _
  split
  · exact State.tidy_ctxFault h _ _ _ _
  split
  · exact State.tidy_ctxStop ht _ _
  split
  · split
    · exact State.tidy_ctxFault ht _ _ _ _
    split
    · exact State.tidy_ctxFault ht _ _ _ _
    refine State.tidy_modMyCtx (State.tidy_modMyBraid (State.tidy_sendMem ht _ _ _ _ _ _) fun x hx => ?_) ?_
    · split <;> exact hx
    · exact fun _ hc => hc
  · exact State.tidy_ctxFault ht _ _ _ _

theorem Bank.tidy_setReds {k : Bank} (h : k.tidy) (reds : List RedItem) : ({ k with reds } : Bank).tidy := h

theorem red_tidy {s : State} (h : s.tidy) (op : Nat) (g : BitVec 4) (z comp wide : Bool) (a b : BitVec 5) :
    NextTidy (red op g z comp wide a b s) := by
  have ht := State.tidy_ctxTouch s.me.1 s.myBank.vi .red 1 h (addrOf (s.rS a))
  refine guarded_tidy h g 4 ?_
  dsimp only
  generalize (if op = 4 then 8 else if op = 3 then 4 else if wide then 8 else 4) = n
  refine State.tidy_ite (State.tidy_ctxFault h _ _ _ _) ?_
  split
  · exact State.tidy_ctxStop ht _ _
  split
  · refine State.tidy_ite (State.tidy_ctxFault ht _ _ _ _) (State.tidy_ite (State.tidy_ctxFault ht _ _ _ _) ?_)
    exact State.tidy_advance (State.tidy_warnIf (State.tidy_warnIf (State.tidy_modMyBank ht fun _ hk =>
        Bank.tidy_nextPlace (Bank.tidy_setReds hk _)) _ _) _ _) _
  · exact State.tidy_ctxFault ht _ _ _ _

theorem load_tidy {s : State} (h : s.tidy) (g : BitVec 4) (len n : Nat) (z na : Bool) (sid : BitVec 4) (d a : BitVec 5) :
    NextTidy (load g len n z na sid d a s) := by
  refine guarded_tidy h _ _ ?_
  split
  · next e => exact State.tidy_fst (State.tidy_ctxRead h _ _ _ _) e
  · next e => exact State.tidy_result (State.tidy_warnIf (State.tidy_fst (State.tidy_ctxRead h _ _ _ _) e) _ _) _ _ _

theorem store_tidy {s : State} (h : s.tidy) (g : BitVec 4) (len n : Nat) (na : Bool) (sid : BitVec 4) (a b : BitVec 5) :
    NextTidy (store g len n na sid a b s) := by
  refine guarded_tidy h _ _ ?_
  split
  · next e => exact State.tidy_fst (State.tidy_ctxStore h _ _ _ _) e
  · next e => exact State.tidy_advance (State.tidy_fst (State.tidy_ctxStore h _ _ _ _) e) _

theorem execLdf_tidy {s : State} (h : s.tidy) (g : BitVec 4) (d a : BitVec 5) : NextTidy (execLdf g d a s) := by
  refine guarded_tidy h g 4 ?_
  dsimp only
  split
  · exact State.tidy_ctxFault h _ _ _ _
  split
  · exact State.tidy_waitIn h _
  refine State.tidy_result (State.tidy_modMyBank (State.tidy_modMyBraid h fun x hx => ?_) ?_) _ _ _
  · exact Braid.tidy_setFull hx (twf_tset _ _ _ _ (Braid.full_wf hx))
  · exact fun _ hk => hk

theorem execSte_tidy {s : State} (h : s.tidy) (g : BitVec 4) (a b : BitVec 5) : NextTidy (execSte g a b s) := by
  refine guarded_tidy h g 4 ?_
  dsimp only
  split
  · exact State.tidy_ctxFault h _ _ _ _
  split
  · exact State.tidy_waitIn h _
  refine State.tidy_advance (State.tidy_modMyBank (State.tidy_modMyBraid h fun x hx => ?_) ?_) _
  · exact Braid.tidy_setFull (Braid.tidy_sramPuts _ hx _) (twf_tset _ _ _ _ (Braid.full_wf hx))
  · exact fun _ hk => hk

theorem execMbclr_tidy {s : State} (h : s.tidy) (g : BitVec 4) (a : BitVec 5) : NextTidy (execMbclr g a s) := by
  refine guarded_tidy h g 4 ?_
  dsimp only
  split
  · exact State.tidy_ctxFault h _ _ _ _
  refine State.tidy_advance (State.tidy_modMyBank (State.tidy_modMyBraid h fun x hx => Braid.tidy_setWindow hx _ _) ?_) _
  exact fun _ hk => hk

theorem execMbstat_tidy {s : State} (h : s.tidy) (g : BitVec 4) (d a : BitVec 5) : NextTidy (execMbstat g d a s) :=
  guarded_tidy h _ _ (State.tidy_ite (State.tidy_ctxFault h _ _ _ _) (State.tidy_result h _ _ _))

theorem putQueue_tidy {s : State} (h : s.tidy) (q len : Nat) (v : Word64) : (putQueue q len v s).tidy := by
  have hk := State.tidy_myBank h
  unfold putQueue
  dsimp only
  split
  · exact State.tidy_waitIn h _
  next hroom =>
  simp only [Bool.or_eq_true, decide_eq_true_eq, not_or, not_le] at hroom
  refine State.tidy_advance (State.tidy_modMyBank_of h ?_) _
  refine Bank.tidy_setQueue hk fun _ => ?_
  rw [List.length_append]
  exact hroom.2

theorem qputForm_tidy {s : State} (h : s.tidy) (g : BitVec 4) (len : Nat) (q : BitVec 3) (a : BitVec 5) :
    NextTidy (qputForm g len q a s) := by
  unfold qputForm
  split
  · exact guarded_tidy h _ _ (putQueue_tidy h _ _ _)
  · exact nextTidy_next (State.tidy_illegal h)

theorem qgetForm_tidy {s : State} (h : s.tidy) (g : BitVec 4) (len : Nat) (d : BitVec 5) (q : BitVec 3) :
    NextTidy (qgetForm g len d q s) := by
  have hk := State.tidy_myBank h
  unfold qgetForm
  split
  · refine guarded_tidy h g len ?_
    split
    · next v r _ hq =>
      refine State.tidy_result (State.tidy_modMyBank_of h ?_) _ _ _
      refine Bank.tidy_setQueue hk fun h7 => ?_
      have hl := Bank.queue_length hk h7
      rw [hq, List.length_cons] at hl
      omega
    · exact State.tidy_waitIn h _
  · exact nextTidy_next (State.tidy_illegal h)

theorem lpwForm_tidy {s : State} (h : s.tidy) (g : BitVec 4) (len : Nat) (lp : BitVec 4) (a : BitVec 5) :
    NextTidy (lpwForm g len lp a s) := by
  unfold lpwForm
  split
  · refine guarded_tidy h g len (State.tidy_advance (State.tidy_modMyBank h fun k hk => ?_) _)
    exact Bank.tidy_setLp hk (twf_tset _ _ _ _ ((Bank.tidy_iff k).mp hk).2.1.2.2)
  · exact nextTidy_next (State.tidy_illegal h)

theorem execFmt_tidy {s : State} (h : s.tidy) (g : BitVec 4) (a : BitVec 5) : NextTidy (execFmt g a s) := by
  unfold execFmt
  split
  · exact guarded_tidy h _ _ (putQueue_tidy h _ _ _)
  · exact nextTidy_next (State.tidy_illegal h)

/-- The queued jobs and the copy channels of a bank are as they were. -/
structure Bank.SameQueues (k m : Bank) : Prop where
  jobs : m.jobs = k.jobs
  chans : m.chans = k.chans

/-- The queued jobs and the copy channels of every bank are as they were. -/
def State.SameQueues (s t : State) : Prop := ∀ b i, (s.bank b i).SameQueues (t.bank b i)

theorem State.SameQueues.trans {s t u : State} (h : s.SameQueues t) (g : t.SameQueues u) : s.SameQueues u := fun b i =>
  ⟨(g b i).jobs.trans (h b i).jobs, (g b i).chans.trans (h b i).chans⟩

theorem State.SameQueues.of_braids {s t : State} (h : t.braids = s.braids) : s.SameQueues t := fun b i => by
  rw [State.bank_eq, State.bank_eq, State.braid_of_braids h]; exact ⟨rfl, rfl⟩

theorem State.SameQueues.modBraid (s : State) (b : Nat) {f : Braid → Braid} (hf : ∀ x i, (Braid.bank x i).SameQueues ((f x).bank i)) :
    s.SameQueues (s.modBraid b f) :=
  fun c i => by
  by_cases hc : c = b
  · subst hc; rw [State.bank_eq, State.bank_eq, State.braid_modBraid_same]; exact hf _ i
  · rw [State.bank_eq, State.bank_eq, State.braid_modBraid_ne _ _ hc]; exact ⟨rfl, rfl⟩

theorem State.SameQueues.modBank (s : State) (b i : Nat) {f : Bank → Bank} (hf : (s.bank b i).SameQueues (f (s.bank b i))) :
    s.SameQueues (s.modBank b i f) := fun c j => by
  by_cases hc : c = b
  · subst hc
    by_cases hj : (i = 0) = (j = 0)
    · have hb : ∀ t : State, t.bank c j = t.bank c i := fun t => by unfold State.bank Braid.bank; simp only [hj]
      rw [hb, hb, State.bank_modBank_same]; exact hf
    · unfold State.modBank State.setBank
      rw [State.bank_eq, State.bank_eq, State.braid_modBraid_same, Braid.bank_setBank_other _ _ hj]; exact ⟨rfl, rfl⟩
  · unfold State.modBank State.setBank
    rw [State.bank_eq, State.bank_eq, State.braid_modBraid_ne _ _ hc]; exact ⟨rfl, rfl⟩

theorem State.ctxTouch_sameQueues (b vi : Nat) (a : Acc) (n : Nat) : ∀ (s : State) (va : Nat), s.SameQueues (s.ctxTouch b vi a va n).1 := by
  induction n with
  | zero => exact fun s _ => .of_braids rfl
  | succ n ih =>
    intro s va
    unfold State.ctxTouch
    split
    · exact ih s _
    · have h0 : s.SameQueues ((if (s.lookup vi b 64 a va (s.braid b).tlb).2.2 then s else s.walked vi va).modBraid b fun x =>
          { x with tlb := (s.lookup vi b 64 a va (s.braid b).tlb).2.1 }) := by
        refine .trans ?_ (.modBraid _ b fun _ _ => ⟨rfl, rfl⟩)
        split
        · exact .of_braids rfl
        · exact .of_braids (s.walked_only vi va).1.braids_eq
      dsimp only
      split
      · exact h0.trans (ih _ _)
      · exact h0
      · exact h0
      · exact h0.trans (.of_braids (State.askHost_only _ _ _).1.braids_eq)

theorem State.areaRead_sameQueues (b bank : Nat) (l : List Nat) (s : State) : s.SameQueues (s.areaRead b bank l).1 := by
  induction l generalizing s with
  | nil => exact .of_braids rfl
  | cons e l ih =>
    unfold State.areaRead
    dsimp only
    split
    · refine State.SameQueues.trans (.of_braids ?_) (ih _)
      exact (State.OnlyMem.foldl _ (fun t ln => (t.l2Use_only _ ln).1) _ _).braids_eq.trans (s.walked_only _ _).1.braids_eq
    · exact .of_braids rfl
    · exact .of_braids rfl
    · exact .of_braids (State.askHost_only _ _ _).1.braids_eq

theorem State.braids_consume (v : Nat) (l : List (Nat × Nat × Nat × Bool)) (s : State) : (s.consume v l).1.braids = s.braids := by
  induction l generalizing s with
  | nil => rfl
  | cons e l ih =>
    have h := s.braids_consumeByte v e.1 e.2.1 e.2.2.1 e.2.2.2
    unfold State.consume
    split
    · next e' => rw [e'] at h; exact h
    · next e' => rw [e'] at h; exact (ih _).trans h

theorem State.ctxRead_sameQueues {s t : State} {va n sid : Nat} {na : Bool} {d : List Byte} (e : s.ctxRead va n sid na = (t, some d)) :
    s.SameQueues t := by
  have ht := State.ctxTouch_sameQueues s.me.1 s.myBank.vi .load n s va
  unfold State.ctxRead at e
  dsimp only at e
  split at e
  · exact nomatch e
  split at e
  · exact nomatch e
  split at e
  · exact nomatch e
  · exact nomatch e
  next s1 l _ e1 =>
  rw [e1] at ht
  have ha := State.areaRead_sameQueues s.me.1 s.me.2.1 (distinct
      (((l.filterMap id).map fun e => if leafKind e.2 = 3 then [] else s1.myBank.entriesOf e.1).flatten)) s1
  split at e
  · exact nomatch e
  next s2 e2 =>
  rw [e2] at ha
  have h3 : s.SameQueues (if (l.filterMap id).isEmpty then (0, s2) else s2.draw).2 := by
    refine (ht.trans ha).trans (.of_braids ?_)
    split <;> rfl
  generalize (if (l.filterMap id).isEmpty then (0, s2) else s2.draw) = p at h3 e
  split at e
  · have hc := State.braids_consume s.myBank.vi (((upto va n).zip l).filterMap fun x =>
      x.2.map fun y => (x.1, y.1, y.2, p.2.fromBad s.me.1 s.me.2.1 s.me.2.2 y.1 y.2)) p.2
    split at e
    · exact nomatch e
    next s4 e4 =>
    rw [e4] at hc
    cases e
    refine h3.trans (.trans (.of_braids hc) (.trans ?_ (.modBank _ _ _ ?_)))
    · split
      · exact .of_braids rfl
      · exact .modBraid _ _ fun _ _ => ⟨rfl, rfl⟩
    · generalize State.bank _ _ _ = k
      obtain ⟨u, hu⟩ := noteRead_eq k (upto va n)
      rw [hu]; exact ⟨rfl, rfl⟩
  · exact nomatch e

theorem execJob_tidy {s : State} (h : s.tidy) (g : BitVec 4) (d a : BitVec 5) : NextTidy (execJob g d a s) := by
  unfold execJob
  split
  · exact nextTidy_next (State.tidy_illegal h)
  refine guarded_tidy h g 4 ?_
  dsimp only
  split
  · exact State.tidy_ctxFault h _ _ _ _
  split
  · exact State.tidy_waitIn h _
  next hroom =>
  have hr := State.tidy_ctxRead h (addrOf (s.rS a)) 64 0 false
  split
  · next e => rw [e] at hr; exact hr
  next s1 r e =>
  rw [e] at hr
  split
  · exact State.tidy_illegal hr
  refine State.tidy_result (State.tidy_modBank_of hr _ _ ?_) _ _ _
  have hk := State.tidy_bank hr s.me.1 s.me.2.1
  have hj : ((s1.bank s.me.1 s.me.2.1).jobs.length < 8) := by
    rw [(State.ctxRead_sameQueues e s.me.1 s.me.2.1).jobs, State.bank_me]
    omega
  refine Bank.tidy_setJobs (k := { s1.bank s.me.1 s.me.2.1 with jobNext := _ }) hk ?_
  rw [List.length_append]
  exact hj

theorem copyForm_tidy {s : State} (h : s.tidy) (isOut : Bool) (g : BitVec 4) (d : BitVec 5) (ch : BitVec 2) (a : BitVec 5) :
    NextTidy (copyForm isOut g d ch a s) := by
  unfold copyForm
  refine guarded_tidy h g 4 ?_
  dsimp only
  split
  · exact State.tidy_waitIn h _
  next hroom =>
  have hr := State.tidy_ctxRead h (addrOf (s.rS a)) 64 0 false
  split
  · next e => rw [e] at hr; exact hr
  next s1 cmd e =>
  rw [e] at hr
  have hr2 := State.tidy_ctxRead hr (fieldLe cmd 8 6) 64 (bits (fieldLe cmd 0 4) 24 4) false
  split
  · next e2 => rw [e2] at hr2; exact hr2
  next s2 tsr e2 =>
  rw [e2] at hr2
  split
  · exact State.tidy_ctxFault hr2 _ _ _ _
  · exact State.tidy_ctxFault hr2 _ _ _ _
  have hk := State.tidy_bank hr2 s.me.1 s.me.2.1
  have hc : (s2.bank s.me.1 s.me.2.1).chan ch.toNat = s.myBank.chan ch.toNat := by
    unfold Bank.chan
    rw [((State.ctxRead_sameQueues e).trans (State.ctxRead_sameQueues e2) s.me.1 s.me.2.1).chans, State.bank_me]
  refine State.tidy_result (State.tidy_setBank hr2 _ _ ?_) _ _ _
  refine Bank.tidy_nextPlace (Bank.tidy_setChan hk _ ?_)
  rw [List.length_append, hc]
  exact Nat.lt_of_not_le hroom

theorem State.tidy_acquire {s : State} (h : s.tidy) (b bank ch n : Nat) : (s.acquire b bank ch n).tidy :=
  State.tidy_mapOwn h _ _ _

theorem Bank.tidy_setRv {k : Bank} (h : k.tidy) (rv : Rv) (inelig : Bool) : ({ k with rv, inelig } : Bank).tidy := h

theorem reeveForm_tidy {s : State} (h : s.tidy) (isOut : Bool) (g : BitVec 4) (d a : BitVec 5) : NextTidy (reeveForm isOut g d a s) := by
  have hr := State.tidy_ctxRead h (addrOf (s.rS a)) 64 0 false
  refine nextTidy_ite (nextTidy_next (State.tidy_illegal h)) (guarded_tidy h g 4 ?_)
  dsimp only
  refine State.tidy_ite (State.tidy_waitIn h _) ?_
  split
  · next e => exact State.tidy_fst hr e
  next e =>
  have h1 := State.tidy_fst hr e
  split
  · exact State.tidy_illegal h1
  · exact State.tidy_ite (State.tidy_ctxFault h1 _ _ _ _) (State.tidy_result
        (State.tidy_setBank h1 _ _ (Bank.tidy_setRv (State.tidy_bank h1 _ _) _ _)) _ _ _)

theorem State.tidy_dropTags {s : State} (h : s.tidy) (v : Nat) : (s.dropTags v).tidy := by
  intro e he
  obtain ⟨d, hd, rfl⟩ := List.mem_map.mp he
  exact h d hd

theorem stateForm_tidy {s : State} (h : s.tidy) (g : BitVec 4) (d : BitVec 5) (busy : State → Bool) (f : State → Iface → StateOut) :
    NextTidy (stateForm g d busy f s) := by
  unfold stateForm
  dsimp only
  split
  · exact nextTidy_next (State.tidy_illegal h)
  · refine guarded_tidy h _ _ (State.tidy_ite (State.tidy_waitIn h _) ?_)
    split
    · exact State.tidy_ctxFault h _ _ _ _
    · refine State.tidy_result (State.tidy_modMyBank (State.tidy_dropTags (State.tidy_modIface h _ _) _) ?_) _ _ _
      exact fun _ hx => hx

theorem State.tidy_toPort {s : State} (h : s.tidy) (port : Nat) (p : Packet) (vc : Nat) : (s.toPort port p vc).tidy := h

theorem State.tidy_sendCtl {s : State} (h : s.tidy) (b : Nat) (p : Packet) : (s.sendCtl b p).tidy := by
  unfold State.sendCtl
  split
  · exact State.tidy_toPort h _ _ _
  · refine State.tidy_modBraid h _ ?_
    exact fun _ hx => hx

theorem Bank.tidy_setArrive {k : Bank} (h : k.tidy) (arrive : Option Arrive) : ({ k with arrive } : Bank).tidy := h

theorem commitForm_tidy {s : State} (h : s.tidy) (g : BitVec 4) (k : Nat) (swap : Bool) : NextTidy (commitForm g k swap s) := by
  unfold commitForm
  refine nextTidy_ite (nextTidy_next (State.tidy_illegal h)) (guarded_tidy h g 4 ?_)
  dsimp only
  split
  · exact State.tidy_ite (State.tidy_waitIn (State.tidy_modMyBank (State.tidy_ite h (State.tidy_sendCtl h _ _)) fun _ hk =>
        Bank.tidy_setArrive hk _) _)
      (State.tidy_waitIn h _)
  · exact State.tidy_ite (State.tidy_modBank (State.tidy_advance (State.tidy_phaseDone h _ _ _ _) _) _ _ fun _ hk =>
        Bank.tidy_checkpoint hk) (State.tidy_waitIn h _)

theorem State.tidy_sendGain {s : State} (h : s.tidy) (kind : GainKind) (heap target : Nat) (x : Word32) (record : Option TaskRec) :
    (s.sendGain kind heap target x record).tidy := by
  refine State.tidy_modBank (State.tidy_modBraid (State.tidy_sendCtl h _ _) _ ?_) _ _ ?_
  · exact fun _ hx => hx
  · exact fun _ hx => hx

theorem gainForm_tidy {s : State} (h : s.tidy) (kind : GainKind) (g : BitVec 4) (a b : BitVec 5) : NextTidy (gainForm kind g a b s) := by
  unfold gainForm
  split
  · exact nextTidy_next (State.tidy_illegal h)
  · exact guarded_tidy h _ _ (State.tidy_ite (State.tidy_waitIn h _) (State.tidy_advance (State.tidy_sendGain h _ _ _ _ _) _))

theorem execResid_tidy {s : State} (h : s.tidy) (g : BitVec 4) (d : BitVec 5) : NextTidy (execResid g d s) := by
  unfold execResid
  split
  · exact nextTidy_next (State.tidy_illegal h)
  · exact guarded_tidy h _ _ (State.tidy_result h _ _ _)

theorem execTask_tidy {s : State} (h : s.tidy) (g : BitVec 4) (a : BitVec 5) : NextTidy (execTask g a s) := by
  unfold execTask
  split
  · exact nextTidy_next (State.tidy_illegal h)
  · refine guarded_tidy h _ _ (State.tidy_ite (State.tidy_waitIn h _) ?_)
    split
    · next e => exact State.tidy_fst (State.tidy_ctxRead h _ _ _ _) e
    · next e =>
        split
        · exact State.tidy_illegal (State.tidy_fst (State.tidy_ctxRead h _ _ _ _) e)
        · split
          · exact State.tidy_advance (State.tidy_sendGain (State.tidy_fst (State.tidy_ctxRead h _ _ _ _) e) _ _ _ _ _) _
          · refine State.tidy_advance (State.tidy_modBank (State.tidy_modLaunch
                (State.tidy_sendCtl (State.tidy_fst (State.tidy_ctxRead h _ _ _ _) e) _ _) _ _) _ _ ?_) _
            exact fun _ hx => hx

theorem execHmix_tidy {s : State} (h : s.tidy) (g : BitVec 4) (d a b : BitVec 5) : NextTidy (execHmix g d a b s) := by
  refine guarded_tidy h _ _ ?_
  split
  · next e => exact State.tidy_fst (State.tidy_ctxRead h _ _ _ _) e
  · next e => exact State.tidy_result (State.tidy_fst (State.tidy_ctxRead h _ _ _ _) e) _ _ _

theorem execCrr_tidy {s : State} (h : s.tidy) (g : BitVec 4) (d n : BitVec 5) : NextTidy (execCrr g d n s) := by
  unfold execCrr
  split
  · exact guarded_tidy h _ _ (State.tidy_result h _ _ _)
  · exact nextTidy_next (State.tidy_illegal h)

theorem execCrw_tidy {s : State} (h : s.tidy) (g : BitVec 4) (n a : BitVec 5) : NextTidy (execCrw g n a s) := by
  unfold execCrw
  split
  · exact guarded_tidy h _ _ (State.tidy_advance (State.tidy_modMyBank h fun _ hx => Bank.tidy_crWrite hx _ _) _)
  · exact nextTidy_next (State.tidy_illegal h)

theorem afterWait_tidy {s : State} (h : s.tidy) (n : Nat) (ready : Bool) {f : State → State} (hf : (f s).tidy) :
    (afterWait n ready s f).tidy := by
  unfold afterWait
  split
  · exact hf
  split
  · refine State.tidy_modMyCtx h ?_
    exact fun _ hc => hc
  · exact State.tidy_waitIn h _

theorem execTrap_tidy {s : State} (h : s.tidy) (g : BitVec 4) (code : BitVec 10) : NextTidy (execTrap g code s) :=
  guarded_tidy h _ _ (State.tidy_ite (State.tidy_ctxFault h _ _ _ _)
      (State.tidy_modMyBank (State.tidy_modMyCtx h fun _ hx => Ctx.tidy_retired hx) fun _ hx => Bank.tidy_takeTrap hx _ _ _ _))

theorem execRte_tidy {s : State} (h : s.tidy) (g : BitVec 4) : NextTidy (execRte g s) := by
  unfold execRte
  split
  · exact nextTidy_next (State.tidy_illegal h)
  · exact guarded_tidy h _ _ (State.tidy_ite (State.tidy_ctxFault h _ _ _ _) (State.tidy_modMyBank h fun _ hx => Bank.tidy_returnTrap hx))

theorem execYield_tidy {s : State} (h : s.tidy) (g : BitVec 4) : NextTidy (execYield g s) := by
  unfold execYield
  split
  · exact nextTidy_next (State.tidy_illegal h)
  · refine guarded_tidy h _ _ (afterWait_tidy h _ _ (State.tidy_ite (State.tidy_modBank (State.tidy_advance h _) _ _ ?_)
        (State.tidy_advance h _)))
    exact fun _ hx => hx

theorem Bank.tidy_saved {k : Bank} (h : k.tidy) (held : Option Held) : ({ k with held, jobs := [], tSaved := true } : Bank).tidy := by
  obtain ⟨hc, ⟨hq, -, hl⟩, rest⟩ := (Bank.tidy_iff k).mp h
  exact (Bank.tidy_iff _).mpr ⟨hc, ⟨hq, Nat.zero_le _, hl⟩, rest⟩

theorem execTsave_tidy {s : State} (h : s.tidy) (g : BitVec 4) (a : BitVec 5) : NextTidy (execTsave g a s) := by
  unfold execTsave
  split
  · exact nextTidy_next (State.tidy_illegal h)
  refine guarded_tidy h g 4 ?_
  dsimp only
  split
  · exact State.tidy_ctxFault h _ _ _ _
  split
  · exact State.tidy_ctxFault h _ _ _ _
  refine afterWait_tidy h _ _ (State.tidy_advance (State.tidy_modBank (State.tidy_modBraid h _ fun x hx => Braid.tidy_sramPuts _ hx _) _ _
      fun k hk => ?_) _)
  exact Bank.tidy_saved (Bank.tidy_noteWrites (Bank.tidy_foldl (fun _ r h => Bank.tidy_noteReg h r) strandRegs hk) _ _) _

theorem length_of_mapM {α β : Type} {f : α → Option β} (l : List α) : ∀ {m : List β}, l.mapM f = some m → m.length = l.length := by
  induction l with
  | nil => intro m e; cases e; rfl
  | cons a l ih =>
    intro m e
    rw [List.mapM_cons] at e
    obtain ⟨b, -, e⟩ := Option.bind_eq_some_iff.mp e
    obtain ⟨r, hr, e⟩ := Option.bind_eq_some_iff.mp e
    cases e
    rw [List.length_cons, List.length_cons, ih hr]

theorem State.length_imageJobs {s : State} {img : List Byte} {k : Bank} {n : Nat} {jobs : List Job} (e : s.imageJobs img k n = some jobs) :
    jobs.length = n := by
  unfold State.imageJobs at e
  rw [length_of_mapM _ e, upto_length]

theorem length_upto_min (d n : Nat) : (upto 0 (min d n)).length ≤ d := by
  rw [upto_length]; exact min_le_left _ _

theorem Bank.tidy_loadQueues {k : Bank} (h : k.tidy) {q : Tab (List Word64)} {jobs : List Job} {lp : Tab Word32} (hq : depthsTidy q)
    (hj : jobs.length ≤ 8)
    (hl : twf 0 lp = true) : ({ k with lp, jobs, held := none, tSaved := false, q } : Bank).tidy := by
  obtain ⟨hc, -, rest⟩ := (Bank.tidy_iff k).mp h
  exact (Bank.tidy_iff _).mpr ⟨hc, ⟨hq, hj, hl⟩, rest⟩

theorem execTrstr_tidy {s : State} (h : s.tidy) (g : BitVec 4) (a : BitVec 5) : NextTidy (execTrstr g a s) := by
  unfold execTrstr
  split
  · exact nextTidy_next (State.tidy_illegal h)
  refine guarded_tidy h g 4 ?_
  dsimp only
  split
  · exact State.tidy_ctxFault h _ _ _ _
  split
  · exact State.tidy_ctxFault h _ _ _ _
  refine afterWait_tidy h _ _ ?_
  split
  · exact State.tidy_illegal h
  next jobs e =>
  refine State.tidy_advance (State.tidy_modBank (State.tidy_modBraid h _ fun x hx => Braid.tidy_loadRegs hx _ _) _ _ fun k hk => ?_) _
  have hn := Bank.tidy_foldl (fun _ r h => Bank.tidy_noteSet h r) strandRegs (Bank.tidy_noteReads hk (addrOf (s.rS a)) Config.saveBytes)
  refine Bank.tidy_loadQueues hn ?_ ?_ ?_
  · refine depthsTidy_tput (depthsTidy_tput (depthsTidy_tput (depthsTidy_tput ((Bank.tidy_iff k).mp hk).2.1.1 ?_) ?_) ?_) ?_
    all_goals
      intro _
      rw [List.length_map]
      exact length_upto_min _ _
  · rw [State.length_imageJobs e]
    exact min_le_left _ _
  · exact twf_foldl_tset (fun i => (i, _)) _ rfl

theorem State.tidy_finishTask {s : State} (h : s.tidy) (b bank : Nat) : (s.finishTask b bank).tidy := by
  unfold State.finishTask
  dsimp only
  split
  · exact h
  · split
    · exact State.tidy_endTask h _ _
    · refine State.tidy_endTask ?_ _ _
      exact State.tidy_of_braids (State.tidy_ite h (State.tidy_modLaunch h _ _)) rfl

theorem State.tidy_spillLines (b bank : Nat) (l : List MLine) : ∀ {s : State} (_ : s.tidy), (s.spillLines b bank l).1.tidy := by
  induction l with
  | nil => exact fun h => h
  | cons e l ih =>
    intro s h
    have h1 := State.tidy_spill h b bank e
    unfold State.spillLines
    split
    · next e' => rw [e'] at h1; exact h1
    · next e' => rw [e'] at h1; exact ih h1

theorem execHalt_tidy {s : State} (h : s.tidy) (g : BitVec 4) : NextTidy (execHalt g s) := by
  have hh : ∀ (t : State), t.tidy → (t.modMyCtx fun x => { x.goto (x.pc + 4) with run := false, halt := true }).tidy := fun t ht => by
    refine State.tidy_modMyCtx ht ?_
    exact fun _ hc => hc
  refine guarded_tidy h g 4 ?_
  dsimp only
  split
  · refine State.tidy_waitIn (State.tidy_modMyCtx h ?_) _
    exact fun _ hc => hc
  split
  · have hs := State.tidy_spillLines s.me.1 s.me.2.1 (if s.myBraid.runBank = s.me.2.1 then s.myBraid.merge.reverse else []) h
    split
    · next e => rw [e] at hs; exact State.tidy_ctxStop hs _ _
    · next e => rw [e] at hs; exact State.tidy_finishTask (hh _ hs) _ _
  · split
    · exact State.tidy_finishTask (hh _ h) _ _
    · exact hh _ h

theorem State.tidy_modStrand {s : State} (h : s.tidy) (b k : Nat) (f : Strand → Strand) :
    (s.modStrand b k f).tidy := State.tidy_modBraid h _ fun _ hx => hx

end Sys2Proof.Machine
end

section
/-! SUPPORT. What keeps the order: the ops of the strands (R116 to R133, R158 to R174). -/

namespace Sys2Proof.Machine

theorem At.tidy_modOpen {s : State} (h : s.tidy) (a : At) (f : OpenJob → OpenJob) : (a.modOpen s f).tidy := State.tidy_modBraid h _
    fun _ hx => hx

/-- What holds of the answer, if an op gives one. -/
def IssKeeps {α : Type} (P : α → Prop) (x : Iss α) : Prop := ∀ a, x = .ok a → P a

theorem issKeeps_ok {α : Type} {P : α → Prop} {a : α} (h : P a) : IssKeeps P (.ok a) := fun _ e => by cases e; exact h
theorem issKeeps_fst {α : Type} {t : State} {b : α} (h : t.tidy) : IssKeeps (fun x : State × α => x.1.tidy) (.ok (t, b)) := issKeeps_ok h
theorem issKeeps_error {α : Type} {P : α → Prop} (e : Bad) : IssKeeps P (.error e) := fun _ e => nomatch e
theorem issKeeps_any {α : Type} (x : Iss α) : IssKeeps (fun _ => True) x := fun _ _ => trivial

theorem issKeeps_bind {α β : Type} {P : α → Prop} {Q : β → Prop} {x : Iss α} {f : α → Iss β} (h : IssKeeps P x)
    (hf : ∀ a, P a → IssKeeps Q (f a)) :
    IssKeeps Q (x >>= f) := by
  intro b e
  cases hx : x with
  | error e' => rw [hx] at e; exact nomatch e
  | ok a => rw [hx] at e; exact hf a (h a hx) b e

theorem issKeeps_orFault {α : Type} {P : α → Prop} {x : Iss α} (h : IssKeeps P x) (e : Errs) : IssKeeps P (orFault e x) := by
  unfold orFault
  split
  · exact h
  · exact issKeeps_error _

theorem issKeeps_ite {α : Type} {P : α → Prop} {c : Prop} [Decidable c] {x y : Iss α} (hx : IssKeeps P x) (hy : IssKeeps P y) :
    IssKeeps P (if c then x else y) := by
  split
  · exact hx
  · exact hy

/-- The first cycle of an op after the others: what follows the beginning is one goal for both. -/
theorem issKeeps_start {α : Type} {P : α → Prop} {c : Prop} [Decidable c] {x y : Iss α} (hy : IssKeeps P y) (hx : IssKeeps P x) :
    IssKeeps P (if c then x else y) :=
  issKeeps_ite hx hy

/-- The same where the first cycle of an op may only change the state. -/
theorem issKeeps_first {α : Type} {P : α → Prop} {s : State} (h : s.tidy) {c : Prop} [Decidable c] {x : Iss State} {f : State → Iss α}
    (hx : IssKeeps State.tidy x) (hf : ∀ t, t.tidy → IssKeeps P (f t)) : IssKeeps P (if c then x >>= f else (.ok s : Iss State) >>= f) :=
  issKeeps_start (issKeeps_bind (P := State.tidy) (issKeeps_ok h) hf) (issKeeps_bind hx hf)

theorem strandForm_tidy {s : State} (h : s.tidy) (k len : Nat) {f : State → At → Iss (State × Bool)} (hf : ∀ a, IssKeeps (·.1.tidy) (f s a))
    :
    NextTidy (strandForm k len f s) := by
  unfold strandForm
  dsimp only
  split
  · exact nextTidy_next h
  split
  · exact nextTidy_next (State.tidy_strandFault h _ _ _ _ _ _)
  · next e => exact nextTidy_next (State.tidy_modStrand (hf _ _ e) _ _ _)
  · next e => exact nextTidy_next (State.tidy_modStrand (hf _ _ e) _ _ _)

theorem execBlk_tidy {s : State} (h : s.tidy) (depth : BitVec 3) (rsrc : Bool) (len : BitVec 10) (rep : BitVec 12) :
    NextTidy (execBlk depth rsrc len rep s) := by
  unfold execBlk
  dsimp only
  split
  · exact nextTidy_next h
  · split
    · split
      · exact nextTidy_next (State.tidy_strandFault h _ _ _ _ _ _)
      · exact nextTidy_next (State.tidy_modStrand h _ _ _)
    · split
      · exact nextTidy_next (State.tidy_strandFault h _ _ _ _ _ _)
      · exact nextTidy_next (State.tidy_modStrand h _ _ _)

theorem At.tidy_emit {s : State} (h : s.tidy) (a : At) (due : Nat) (flags : FlagSet) (eff : Eff) :
    (a.emit s due flags eff).tidy := State.tidy_modBraid h _ fun _ hx => hx

theorem At.tidy_modBank {s : State} (h : s.tidy) (a : At) {f : Bank → Bank} (hf : ∀ k, k.tidy → (f k).tidy) :
    (a.modBank s f).tidy := State.tidy_modBank h _ _ hf

theorem At.tidy_warnIf {s : State} (h : s.tidy) (a : At) (c : Bool) (n : Nat) : (a.warnIf s c n).tidy := by
  unfold At.warnIf
  split
  · exact At.tidy_modBank h a fun _ hk => hk
  · exact h

theorem At.tidy_noteRegs {s : State} (h : s.tidy) (a : At) (l : List Nat) : (a.noteRegs s l).tidy :=
  At.tidy_modBank h a fun _ hk => Bank.tidy_foldl (fun _ r hk => Bank.tidy_noteReg hk r) l hk

theorem At.tidy_noteSets {s : State} (h : s.tidy) (a : At) (l : List Nat) : (a.noteSets s l).tidy :=
  At.tidy_modBank h a fun _ hk => Bank.tidy_foldl (fun _ r hk => Bank.tidy_noteSet hk r) l hk

theorem At.tidy_noteReads {s : State} (h : s.tidy) (a : At) (l : List Nat) : (a.noteReads s l).tidy :=
  At.tidy_modBank h a fun _ hk => Bank.tidy_foldl (fun _ r hk => Bank.tidy_noteRead hk r) l hk

theorem At.tidy_noteWrites {s : State} (h : s.tidy) (a : At) (l : List Nat) : (a.noteWrites s l).tidy :=
  At.tidy_modBank h a fun _ hk => Bank.tidy_foldl (fun _ r hk => Bank.tidy_noteWrite hk r) l hk

theorem At.tidy_pop {s t : State} (h : s.tidy) {a : At} {q : Nat} {w : Word64} (e : a.pop s q = some (t, w)) : t.tidy := by
  unfold At.pop at e
  split at e
  · exact nomatch e
  split at e
  · exact nomatch e
  cases e
  refine At.tidy_modOpen (State.tidy_modBank_of h _ _ ?_) _ _
  have hk := State.tidy_bank h a.b a.bank
  exact Bank.tidy_setQueue hk fun hq => (List.length_eraseIdx_le _ _).trans (Bank.queue_length hk hq)

theorem At.tidy_openFor {s : State} (h : s.tidy) (a : At) (wr : Bool) (i : Nat) : (a.openFor wr s i).s.tidy := by
  have hd : ∀ (t : State) (f : Strand → Strand) l, t.tidy → (a.noteRegs (t.modStrand a.b a.k f) l).tidy := fun t f l ht =>
    At.tidy_noteRegs (State.tidy_modStrand ht _ _ _) _ _
  unfold At.openFor
  dsimp only
  split
  · exact h
  split
  · exact hd _ _ _ h
  split
  · exact h
  · next e => exact hd _ _ _ (At.tidy_pop h e)

theorem At.tidy_openSpb {s : State} (h : s.tidy) (a : At) (i : Nat) : (a.openSpb s i).s.tidy := At.tidy_openFor h a _ i

theorem At.tidy_readElems {s : State} (h : s.tidy) (a : At) (p : Spb) (is : List Nat) : IssKeeps (·.1.tidy) (a.readElems s p is) :=
  issKeeps_orFault (issKeeps_fst (At.tidy_noteReads h a (p.ends is))) _

theorem At.tidy_writeElems {s : State} (h : s.tidy) (a : At) (p : Spb) (due : Nat) (flags : FlagSet) (aware : Bool) (vs : List (Nat × Nat))
    :
    IssKeeps State.tidy (a.writeElems s p due flags aware vs) :=
  issKeeps_orFault (issKeeps_ok (At.tidy_emit (At.tidy_noteWrites h _ _) _ _ _ _)) _

theorem At.tidy_drive {s : State} (h : s.tidy) (a : At) (due t : Nat) (flags : FlagSet) (lanes : List Word32) (marker : Bool) :
    (a.drive s due t flags lanes marker).tidy :=
  At.tidy_emit h _ _ _ _

theorem At.tidy_openOperand {s : State} (h : s.tidy) (a : At) (o : TileOp) (isA : Bool) (code fmt lanes : Nat) (scaled : Bool) (n : Nat) :
    (a.openOperand s o isA code fmt lanes scaled n).1.tidy := by
  unfold At.openOperand
  dsimp only
  generalize hx : (if 6 ≤ code then _ else _ : State × Errs) = x
  have h1 : x.1.tidy := by
    rw [← hx]
    split
    · exact At.tidy_openSpb h _ _
    split
    · exact At.tidy_noteRegs h _ _
    · exact h
  split
  · exact At.tidy_openSpb h1 _ _
  · exact h1

theorem At.tidy_operand {s : State} (h : s.tidy) (a : At) (code fmt lanes kpc np : Nat) (last : Bool) :
    IssKeeps (·.1.tidy) (a.operand s code fmt lanes kpc np last) := by
  unfold At.operand
  dsimp only
  split
  · exact issKeeps_bind (At.tidy_readElems h a _ _) fun x hx => issKeeps_ok hx
  split
  · exact issKeeps_ok h
  · exact issKeeps_bind (issKeeps_any _) fun _ _ => issKeeps_ok h

theorem At.tidy_scales {s : State} (h : s.tidy) (a : At) (code : Nat) (isA : Bool) (lanes kpc : Nat) (scaled : Bool) (old : List Nat) :
    IssKeeps (·.1.tidy) (a.scales s code isA lanes kpc scaled old) :=
  issKeeps_ite (At.tidy_readElems h a _ _) (issKeeps_ok h)

theorem Braid.tidy_setChain {x : Braid} (h : x.tidy) (chain : Tab (List Word32)) (accReady : Tab Nat) :
    ({ x with chain, accReady } : Braid).tidy := h

theorem At.tidy_writeAcc {s : State} (h : s.tidy) (a : At) (acc due : Nat) (flags : FlagSet) (data : List Word32) :
    (a.writeAcc s acc due flags data).tidy :=
  At.tidy_noteSets (At.tidy_emit (State.tidy_setBraid h _ (Braid.tidy_setChain (State.tidy_braid h _) _ _)) _ _ _ _) _ _

theorem At.tidy_beginTile {s : State} (h : s.tidy) (a : At) (o : TileOp) : IssKeeps State.tidy (a.beginTile s o) := by
  unfold At.beginTile
  split
  · exact issKeeps_error _
  next s1 e he =>
  have h1 := At.tidy_pop h he
  split
  · exact issKeeps_error _
  dsimp only
  refine issKeeps_orFault (issKeeps_ok (At.tidy_noteSets (At.tidy_noteRegs
      (At.tidy_warnIf (At.tidy_warnIf (At.tidy_warnIf (State.tidy_modStrand
    (State.tidy_setBraid ?_ _ ?_) _ _ _) _ _ _) _ _ _) _ _ _) _ _) _ _)) _
  · exact At.tidy_openOperand (At.tidy_openOperand h1 _ _ _ _ _ _ _ _) _ _ _ _ _ _ _ _
  · exact State.tidy_braid (At.tidy_openOperand (At.tidy_openOperand h1 _ _ _ _ _ _ _ _) _ _ _ _ _ _ _ _) _

theorem At.tidy_tileCycle {s : State} (h : s.tidy) (a : At) (o : TileOp) (w : FmtWord) : IssKeeps (·.1.tidy) (a.tileCycle s o w) := by
  unfold At.tileCycle
  refine issKeeps_bind (At.tidy_operand h a _ _ _ _ _ _) fun x1 h1 => ?_
  refine issKeeps_bind (At.tidy_operand h1 a _ _ _ _ _ _) fun x2 h2 => ?_
  refine issKeeps_bind (At.tidy_scales h2 a _ _ _ _ _ _) fun x3 h3 => ?_
  refine issKeeps_bind (At.tidy_scales h3 a _ _ _ _ _ _) fun x4 h4 => ?_
  dsimp only
  refine issKeeps_ite (issKeeps_ok ?_) (issKeeps_ok ?_)
  · dsimp only
    split
    · exact At.tidy_writeAcc (At.tidy_writeAcc (State.tidy_modStrand h4 _ _ _) a _ _ _ _) a _ _ _ _
    · exact At.tidy_writeAcc (State.tidy_modStrand h4 _ _ _) a _ _ _ _
  · exact State.tidy_modStrand h4 _ _ _

theorem tileForm_tidy {s : State} (h : s.tidy) (o : TileOp) : NextTidy (tileForm o s) := by
  refine strandForm_tidy h 1 2 fun a => issKeeps_first h (At.tidy_beginTile h a o) fun s1 h1 => ?_
  dsimp only
  split
  · exact issKeeps_error _
  · exact At.tidy_tileCycle h1 a o _

theorem execMzero_tidy {s : State} (h : s.tidy) (acc : BitVec 2) (pair : Bool) : NextTidy (execMzero acc pair s) := by
  refine strandForm_tidy h 1 1 fun a => issKeeps_ok ?_
  dsimp only
  split
  · exact At.tidy_writeAcc (At.tidy_writeAcc h a _ _ _ _) a _ _ _ _
  · exact At.tidy_writeAcc h a _ _ _ _

theorem At.tidy_beginDrain {s : State} (h : s.tidy) (a : At) (acc : Nat) (pair : Bool) (d : DrainDest) (r : DrainRec) :
    IssKeeps State.tidy (a.beginDrain s acc pair d r) := by
  unfold At.beginDrain
  dsimp only
  generalize h3 : a.noteRegs _ _ = s3
  have ht : s3.tidy := h3 ▸ At.tidy_noteRegs (At.tidy_warnIf (At.tidy_warnIf (State.tidy_modStrand h _ _ _) _ _ _) _ _ _) _ _
  cases d with
  | trk t => exact issKeeps_ok ht
  | spd i => exact issKeeps_orFault (issKeeps_ok (At.tidy_openFor ht a true i)) _
  | cp ch =>
    refine issKeeps_ite (issKeeps_error _) (issKeeps_ok (State.tidy_setBank ht _ _ ?_))
    have hk := State.tidy_bank ht a.b a.bank
    exact Bank.tidy_setChan hk ch (Bank.chan_length hk ch)

theorem drainForm_tidy {s : State} (h : s.tidy) (acc : BitVec 2) (pair : Bool) (d : DrainDest) : NextTidy (drainForm acc pair d s) := by
  refine strandForm_tidy h 1 2 fun a => issKeeps_first h (At.tidy_beginDrain h a _ _ _ _) fun s1 h1 => ?_
  dsimp only
  cases d with
  | trk t => exact issKeeps_bind (P := State.tidy) (issKeeps_ok (At.tidy_drive h1 _ _ _ _ _ _)) fun _ h2 => issKeeps_ok h2
  | spd i => exact issKeeps_bind (At.tidy_writeElems h1 _ _ _ _ _ _) fun _ h2 => issKeeps_ok h2
  | cp ch => exact issKeeps_bind (P := State.tidy) (issKeeps_ok (At.tidy_emit h1 _ _ _ _)) fun _ h2 => issKeeps_ok h2

theorem At.tidy_loadBeat {s : State} (h : s.tidy) (a : At) (src n : Nat) (last : Bool) : IssKeeps (·.1.tidy) (a.loadBeat s src n last) :=
  issKeeps_ite (issKeeps_bind (At.tidy_readElems h a _ _) fun _ hx => issKeeps_ok hx) (issKeeps_bind (issKeeps_any _) fun _ _ =>
      issKeeps_ok h)

/-- The beginning of an op that opens at most one stream. -/
theorem At.tidy_openIf {s : State} (h : s.tidy) (a : At) (c : Prop) [Decidable c] (i : Nat) (p : Spb) (l : Errs) :
    (if c then a.openSpb s i else ⟨s, p, l⟩ : Opened).s.tidy := by
  split
  · exact At.tidy_openSpb h a i
  · exact h

theorem execMwl_tidy {s : State} (h : s.tidy) (wb : BitVec 1) (src : BitVec 3) (k : BitVec 14) : NextTidy (execMwl wb src k s) := by
  unfold execMwl
  refine strandForm_tidy h 1 2 fun a => issKeeps_first h (issKeeps_orFault (issKeeps_ok (At.tidy_openIf h a _ _ _ _)) _) fun s1 h1 => ?_
  dsimp only
  refine issKeeps_bind (At.tidy_loadBeat h1 a _ _ _) fun x hx => ?_
  exact issKeeps_ite (issKeeps_ok (At.tidy_noteSets (At.tidy_emit hx _ _ _ _) _ _)) (issKeeps_ok (State.tidy_modStrand hx _ _ _))

theorem execMcb_tidy {s : State} (h : s.tidy) (cb : BitVec 2) (src : BitVec 3) : NextTidy (execMcb cb src s) := by
  refine strandForm_tidy h 1 2 fun a => issKeeps_bind (P := State.tidy) (issKeeps_orFault (issKeeps_ok (At.tidy_openIf h a _ _ _ _)) _)
      fun s1 h1 => ?_
  exact issKeeps_bind (At.tidy_loadBeat h1 a _ _ _) fun x hx => issKeeps_ok (At.tidy_noteSets (At.tidy_emit hx _ _ _ _) _ _)

theorem At.tidy_scanRead {s : State} (h : s.tidy) (a : At) (p : Spb) (first n : Nat) : IssKeeps (·.1.tidy) (a.scanRead s p first n) :=
  issKeeps_orFault (issKeeps_fst (At.tidy_noteReads h a (p.ends (upto first n)))) _

theorem At.tidy_scanWrite {s : State} (h : s.tidy) (a : At) (p : Spb) (due : Nat) (flags : FlagSet) (first : Nat) (ws : List Word32) :
    IssKeeps State.tidy (a.scanWrite s p due flags first ws) := At.tidy_writeElems h a _ _ _ _ _

theorem At.tidy_coeffs {s : State} (h : s.tidy) (a : At) (o : ScanOp) (n t : Nat) :
    IssKeeps (·.1.tidy) (a.coeffs s o n t) := At.tidy_scanRead h a _ _ _

theorem scanForm_tidy {s : State} (h : s.tidy) (cplx : Bool) (dtrk xtrk : BitVec 2) (comp fz : Bool) (spb : BitVec 3) (n : BitVec 10) :
    NextTidy (scanForm cplx dtrk xtrk comp fz spb n s) := by
  unfold scanForm
  refine strandForm_tidy h 2 2 fun a => issKeeps_start (issKeeps_bind (P := State.tidy) (issKeeps_ok h) ?tail)
    (issKeeps_bind (P := State.tidy) (issKeeps_orFault (issKeeps_ok (At.tidy_openSpb (At.tidy_openSpb h a _) a _)) _) fun s1 h1 =>
      issKeeps_bind (At.tidy_scanRead h1 a _ _ _) fun x hx => issKeeps_bind (issKeeps_ok (State.tidy_modStrand hx _ _ _)) ?tail)
  intro s1 h1
  refine issKeeps_bind (issKeeps_any _) fun y _ => issKeeps_bind (At.tidy_coeffs h1 a _ _ _) fun x hx => ?_
  dsimp only
  refine issKeeps_ite (issKeeps_bind (At.tidy_scanWrite hx a _ _ _ _ _) fun _ h3 => issKeeps_ok h3)
      (issKeeps_ok (State.tidy_modStrand hx _ _ _))

theorem execSchunk_tidy {s : State} (h : s.tidy) (dtrk xtrk : BitVec 2) (comp fz : Bool) (spb : BitVec 3) (n : BitVec 10) :
    NextTidy (execSchunk dtrk xtrk comp fz spb n s) := by
  unfold execSchunk
  refine strandForm_tidy h 2 2 fun a => issKeeps_first h (issKeeps_orFault
      (issKeeps_ok (State.tidy_modStrand (At.tidy_openSpb (At.tidy_openSpb h a _) a _) _ _ _)) _) fun s1 h1 => ?_
  dsimp only
  refine issKeeps_bind (issKeeps_any _) fun y _ => issKeeps_bind (At.tidy_coeffs h1 a _ _ _) fun x hx => ?_
  exact issKeeps_bind (At.tidy_scanWrite hx a _ _ _ _ _) fun _ h3 => issKeeps_ok (State.tidy_modStrand h3 _ _ _)

theorem execScarry_tidy {s : State} (h : s.tidy) (spb rspb : BitVec 3) (comp : Bool) (n : BitVec 10) :
    NextTidy (execScarry spb rspb comp n s) := by
  unfold execScarry
  refine strandForm_tidy h 2 2 fun a => issKeeps_start (issKeeps_bind (P := State.tidy) (issKeeps_ok h) ?tail)
    (issKeeps_bind (P := State.tidy) (issKeeps_orFault (issKeeps_ok (At.tidy_openSpb (At.tidy_openSpb h a _) a _)) _) fun s1 h1 =>
      issKeeps_bind (At.tidy_scanRead h1 a _ _ _) fun x hx => issKeeps_bind (issKeeps_ok (State.tidy_modStrand hx _ _ _)) ?tail)
  intro s1 h1
  refine issKeeps_bind (At.tidy_scanRead h1 a _ _ _) fun x hx => issKeeps_bind (At.tidy_scanWrite hx a _ _ _ _ _) fun s3 h3 => ?_
  exact issKeeps_ite (issKeeps_bind (At.tidy_scanWrite h3 a _ _ _ _ _) fun _ h4 => issKeeps_ok h4) (issKeeps_ok h3)

theorem execSout_tidy {s : State} (h : s.tidy) (trk : BitVec 2) (spb : BitVec 3) (comp : Bool) (n : BitVec 10) :
    NextTidy (execSout trk spb comp n s) := by
  unfold execSout
  refine strandForm_tidy h 2 2 fun a => issKeeps_first h (issKeeps_orFault (issKeeps_ok (At.tidy_openSpb h a _)) _) fun s1 h1 => ?_
  exact issKeeps_bind (At.tidy_scanRead h1 a _ _ _) fun x hx => issKeeps_ok (At.tidy_drive hx _ _ _ _ _ _)

theorem execSlin_tidy {s : State} (h : s.tidy) (ktrk vtrk : BitVec 2) (spb : BitVec 3) (comp : Bool) (n : BitVec 10) :
    NextTidy (execSlin ktrk vtrk spb comp n s) := by
  unfold execSlin
  refine strandForm_tidy h 2 2 fun a => issKeeps_first h (issKeeps_orFault (issKeeps_ok (At.tidy_openSpb h a _)) _) fun s1 h1 => ?_
  refine issKeeps_bind (issKeeps_any _) fun y _ => issKeeps_bind (At.tidy_scanRead h1 a _ _ _) fun x hx => ?_
  exact issKeeps_bind (At.tidy_scanWrite hx a _ _ _ _ _) fun _ h3 => issKeeps_ok h3

theorem loadForm_tidy {s : State} (h : s.tidy) (aware : Bool) (trk : BitVec 2) (spb : BitVec 3) : NextTidy (loadForm aware trk spb s) := by
  unfold loadForm
  refine strandForm_tidy h 0 2 fun a => issKeeps_first h (issKeeps_orFault (issKeeps_ok (At.tidy_openSpb h a _)) _) fun s1 h1 => ?_
  refine issKeeps_bind (P := State.tidy) (issKeeps_orFault (issKeeps_ok (At.tidy_noteReads h1 a _)) _) fun s2 h2 => ?_
  exact issKeeps_ok (At.tidy_drive h2 _ _ _ _ _ _)

theorem execLdx_tidy {s : State} (h : s.tidy) (trk : BitVec 2) (ispb dspb : BitVec 3) : NextTidy (execLdx trk ispb dspb s) := by
  unfold execLdx
  refine strandForm_tidy h 0 2 fun a => issKeeps_first h (issKeeps_orFault (issKeeps_ok (At.tidy_openSpb (At.tidy_openSpb h a _) a _)) _)
      fun s1 h1 => ?_
  exact issKeeps_bind (At.tidy_readElems h1 a _ _) fun x hx => issKeeps_ok (At.tidy_emit hx _ _ _ _)

theorem execLdc_tidy {s : State} (h : s.tidy) (trk : BitVec 2) (addr : BitVec 24) : NextTidy (execLdc trk addr s) := by
  unfold execLdc
  refine strandForm_tidy h 0 2 fun a => ?_
  exact issKeeps_ite (issKeeps_error _) (issKeeps_orFault (issKeeps_fst (At.tidy_drive (At.tidy_noteReads h a _) _ _ _ _ _ _)) _)

theorem execLdm_tidy {s : State} (h : s.tidy) (trk : BitVec 2) (win : BitVec 13) : NextTidy (execLdm trk win s) := by
  unfold execLdm
  refine strandForm_tidy h 0 2 fun a => ?_
  dsimp only
  refine issKeeps_ite (issKeeps_ok (At.tidy_drive (At.tidy_modBank (State.tidy_setBraid h _ ?_) a ?_) _ _ _ _ _ _)) (issKeeps_error _)
  · have hx := State.tidy_braid h a.b
    exact Braid.tidy_setFull (x := { s.braid a.b with taken := _ }) hx (twf_foldl_tset (fun w => (w, false)) _ (Braid.full_wf hx))
  · exact fun _ hk => hk

theorem storeForm_tidy {s : State} (h : s.tidy) (aware : Bool) (trk : BitVec 2) (spb : BitVec 3) :
    NextTidy (storeForm aware trk spb s) := by
  unfold storeForm
  refine strandForm_tidy h 4 2 fun a => issKeeps_first h (issKeeps_orFault (issKeeps_ok (At.tidy_openSpb h a _)) _) fun s1 h1 => ?_
  refine issKeeps_bind (issKeeps_any _) fun l _ => issKeeps_bind (At.tidy_writeElems h1 a _ _ _ _ _) fun s2 h2 => issKeeps_ok h2

theorem execStx_tidy {s : State} (h : s.tidy) (dtrk itrk : BitVec 2) (spb : BitVec 3) : NextTidy (execStx dtrk itrk spb s) := by
  unfold execStx
  refine strandForm_tidy h 4 2 fun a => issKeeps_first h (issKeeps_orFault (issKeeps_ok (At.tidy_openSpb h a _)) _) fun s1 h1 => ?_
  refine issKeeps_bind (issKeeps_any _) fun d _ => issKeeps_bind (issKeeps_any _) fun i _ => ?_
  exact issKeeps_ite (issKeeps_error _) (issKeeps_bind (At.tidy_writeElems h1 a _ _ _ _ _) fun s2 h2 => issKeeps_ok h2)

theorem execStm_tidy {s : State} (h : s.tidy) (trk : BitVec 2) (stop : BitVec 7) (win : BitVec 13) : NextTidy (execStm trk stop win s) := by
  unfold execStm
  refine strandForm_tidy h 4 2 fun a => ?_
  dsimp only
  split
  · exact issKeeps_orFault (issKeeps_error _) _
  · refine issKeeps_orFault (issKeeps_fst (At.tidy_emit (At.tidy_modBank (At.tidy_modOpen h _ _) a ?_) _ _ _ _)) _
    exact fun _ hk => hk

theorem fpu_tidy {s : State} (h : s.tidy) (g : BitVec 4) (d a b : BitVec 5) (f : Word32 → Word32 → Word32 → Word32 × FlagSet) :
    NextTidy (fpu g d a b f s) :=
  guarded_tidy h _ _ (State.tidy_result (State.tidy_raiseFlags h _) _ _ _)

theorem fcmp_tidy {s : State} (h : s.tidy) (g pd : BitVec 4) (a b : BitVec 5) (f : Word32 → Word32 → Bool) : NextTidy (fcmp g pd a b f s) :=
  guarded_tidy h _ _ (State.tidy_resultP h _ _ _)

theorem At.tidy_source {s : State} (h : s.tidy) (a : At) (f : BitVec 5) : IssKeeps (·.1.tidy) (a.source s f) :=
  issKeeps_ite (issKeeps_fst (At.tidy_noteRegs h a _)) (issKeeps_bind (issKeeps_any _) fun _ _ => issKeeps_fst h)

theorem At.tidy_addend {s : State} (h : s.tidy) (a : At) (f : BitVec 5) : (a.addend s f).1.tidy := by
  unfold At.addend
  dsimp only
  split
  · exact At.tidy_noteRegs h _ _
  · exact h

theorem At.tidy_vxWrite {s : State} (h : s.tidy) (a : At) (u : VxUse) (f : VxFrame) (mark : Option Bool) (out : List (Word32 × FlagSet)) :
    IssKeeps (·.1.tidy) (a.vxWrite s u f mark out) := by
  have h1 : (if f.me then a.noteRegs s [regM f.m.toNat] else s).tidy := by
    split
    · exact At.tidy_noteRegs h a _
    · exact h
  unfold At.vxWrite
  dsimp only
  generalize (if f.me then a.noteRegs s [regM f.m.toNat] else s) = s1 at h1
  refine issKeeps_ite (issKeeps_fst ?_) (issKeeps_ite (issKeeps_error _) (issKeeps_fst (At.tidy_emit h1 a _ _ _)))
  split
  · exact At.tidy_emit h1 a _ _ _
  · exact At.tidy_noteSets (At.tidy_emit h1 a _ _ _) a _

theorem At.tidy_vxRead {s : State} (h : s.tidy) (a : At) (u : VxUse) (f : VxFrame) : IssKeeps (·.s.tidy) (a.vxRead s u f) := by
  unfold At.vxRead
  refine issKeeps_bind (At.tidy_source h a _) fun x1 h1 =>
    issKeeps_start (issKeeps_bind (P := (·.1.tidy)) (issKeeps_fst h1) ?tail) (issKeeps_bind (At.tidy_source h1 a _) ?tail)
  intro x2 h2
  have last : ∀ c d : Bool, (a.warnIf (a.warnIf (if u.readsD then a.addend x2.1 f.d else (x2.1, [])).1 c 9) d 10).tidy := fun c d => by
    refine At.tidy_warnIf (At.tidy_warnIf ?_ a _ _) a _ _
    split
    · exact At.tidy_addend h2 a _
    · exact h2
  dsimp only
  split
  · exact issKeeps_ite (issKeeps_ok (last _ _)) (issKeeps_error _)
  · exact issKeeps_ok (last _ _)
  · exact issKeeps_ok (last _ _)

theorem vxForm_tidy {s : State} (h : s.tidy) (u : VxUse) (f : VxFrame) (g : VxIn → List (Word32 × FlagSet)) :
    NextTidy (vxForm u f g s) := by
  refine strandForm_tidy h 3 2 fun a => issKeeps_bind (At.tidy_vxRead h a u f) fun x hx => At.tidy_vxWrite hx a _ _ _ _

theorem execVcmp_tidy {s : State} (h : s.tidy) (f : VxFrame) : NextTidy (execVcmp f s) := by
  refine strandForm_tidy h 3 2 fun a => issKeeps_bind (At.tidy_vxRead h a vxTwo f) fun x hx => issKeeps_fst ?_
  split
  · exact At.tidy_emit (At.tidy_noteRegs hx a _) a _ _ _
  · exact At.tidy_noteSets (At.tidy_emit hx a _ _ _) a _

theorem execVsel_tidy {s : State} (h : s.tidy) (f : VxFrame) : NextTidy (execVsel f s) := by
  refine strandForm_tidy h 3 2 fun a => issKeeps_bind (At.tidy_vxRead h a vxTwo f) fun x hx => ?_
  exact At.tidy_vxWrite (At.tidy_noteRegs hx a _) a _ _ _ _

theorem execVcvt_tidy {s : State} (h : s.tidy) (f : VxFrame) : NextTidy (execVcvt f s) :=
  vxForm_tidy h _ _ _

theorem vxFun_tidy {s : State} (h : s.tidy) (f : VxFrame) (g : Fp → Fp) : NextTidy (vxFun f g s) :=
  vxForm_tidy h _ _ _

theorem execVredSum_tidy {s : State} (h : s.tidy) (f : VxFrame) : NextTidy (execVredSum f s) :=
  vxForm_tidy h _ _ _

theorem execVrot_tidy {s : State} (h : s.tidy) (f : VxFrame) : NextTidy (execVrot f s) :=
  vxForm_tidy h _ _ _

theorem execVkey_tidy {s : State} (h : s.tidy) (f : VxFrame) : NextTidy (execVkey f s) :=
  vxForm_tidy h _ _ _

theorem execVhist_tidy {s : State} (h : s.tidy) (f : VxFrame) : NextTidy (execVhist f s) :=
  vxForm_tidy h _ _ _

theorem execVpack_tidy {s : State} (h : s.tidy) (f : VxFrame) : NextTidy (execVpack f s) :=
  vxForm_tidy h _ _ _

end Sys2Proof.Machine
end

section
/-! SUPPORT. What keeps the order: jobs, results and the mesh (R124, R125, R128, R135, R190, R191). -/

namespace Sys2Proof.Machine

theorem State.tidy_startJob {s : State} (h : s.tidy) (b bank : Nat) (j : Job) : (s.startJob b bank j).tidy := by
  unfold State.startJob
  refine State.tidy_modBraid (State.tidy_foldl (fun _ e h => State.tidy_acquire h b bank e.1 e.2) _ h) b fun x hx => ?_
  dsimp only
  refine Braid.tidy_setBank ?_ bank (Bank.tidy_foldl (fun _ _ hk => Bank.tidy_noteSet hk _) _ ?_)
  · refine Braid.tidy_foldl (fun _ _ hy => Braid.tidy_modStrand hy _ _) j.loads (Braid.tidy_foldl (fun y p hy => ?_) (upto 0 5) hx)
    split
    · exact Braid.tidy_modStrand hy _ _
    · exact hy
  · have hk := Braid.tidy_bank hx bank
    refine Bank.tidy_setJobs hk ?_
    rw [List.length_drop]
    exact (Nat.sub_le _ _).trans ((Bank.tidy_iff _).mp hk).2.1.2.1

theorem execJobStart_tidy {s : State} (h : s.tidy) : NextTidy (execJobStart s) := by
  unfold execJobStart
  dsimp only
  split
  · exact nextTidy_next h
  · split
    · exact nextTidy_next h
    · split
      · exact nextTidy_next (State.tidy_startJob h _ _ _)
      · exact nextTidy_next (State.tidy_defer h _ _ _)

theorem State.tidy_placeMail {s : State} (h : s.tidy) (b start : Nat) (p : Packet) : (s.placeMail b start p).tidy := by
  unfold State.placeMail
  split
  · refine State.tidy_modBraid (State.tidy_later h _ _) _ ?_
    exact fun _ hx => hx
  · refine State.tidy_modBraid h _ ?_
    exact fun _ hx => hx

theorem Braid.tidy_sramLanding {x : Braid} (h : x.tidy) (bank : Nat) (aware : Bool) (ws : List SWrite) (bad : Option Nat) :
    (ws.foldl (fun (e : Braid × Option Nat) w =>
      if aware then ((e.1.awarePut bank w).1, if (e.1.awarePut bank w).2 && e.2.isNone then some w.addr else e.2) else (e.1.rawPut w, e.2))
          (x, bad)).1.tidy := by
  induction ws generalizing x bad with
  | nil => exact h
  | cons w ws ih =>
    rw [List.foldl_cons]
    cases aware with
    | true => exact ih (Braid.tidy_awarePut h bank w) _
    | false => exact ih (Braid.tidy_rawPut h w) _

theorem State.tidy_landEff {s : State} (h : s.tidy) (b : Nat) (p : Pend) : ∀ t, s.landEff b p = .ok t ∨ s.landEff b p = .error t →
    t.tidy := by
  have hx := State.tidy_braid h b
  have ok : ∀ {u : State}, u.tidy → ∀ t, (Except.ok u : Except State State) = .ok t ∨ (Except.ok u : Except State State) = .error t →
      t.tidy := by
    rintro u hu t (e | e) <;> cases e
    exact hu
  have err : ∀ {u : State}, u.tidy → ∀ t, (Except.error u : Except State State) = .ok t ∨ (Except.error u : Except State State) = .error t →
      t.tidy := by
    rintro u hu t (e | e) <;> cases e
    exact hu
  have regs : ∀ r : StrandRegs, (s.setBraid b { s.braid b with regs := r }).tidy := fun r => by
    refine State.tidy_setBraid h b ?_
    exact hx
  unfold State.landEff
  dsimp only
  split
  · exact ok (regs _)
  · exact ok (regs _)
  · exact ok (State.tidy_setBraid h b hx)
  · exact ok (regs _)
  · exact ok (regs _)
  · exact ok (regs _)
  · exact ok (regs _)
  · exact ok h
  · next ws aware _ =>
    have hw := Braid.tidy_sramLanding hx p.bank aware ws none
    split
    · next y e =>
      have ey : _ = y := congrArg (·.1) e
      exact ok (State.tidy_setBraid h b (ey ▸ hw))
    · exact err (State.tidy_strandFault h _ _ _ _ _ _)
  · exact ok (State.tidy_placeMail h b _ _)
  · refine ok (State.tidy_modBank h b _ fun k hk => ?_)
    exact Bank.tidy_setChan hk _ (Bank.chan_length hk _)
  · exact err (State.tidy_strandFault h _ _ _ _ _ _)
  · split
    · exact err (State.tidy_strandFault h _ _ _ _ _ _)
    · exact ok (At.tidy_drive (At.tidy_noteReads h _ _) _ _ _ _ _ _)

theorem State.tidy_land {s : State} (h : s.tidy) (b : Nat) (p : Pend) : (s.land b p).tidy := by
  unfold State.land
  split
  · next s1 e => exact State.tidy_modBank (State.tidy_landEff h b p s1 (.inl e)) b _ fun _ hk => Bank.tidy_raise hk _
  · next s1 e => exact State.tidy_landEff h b p s1 (.inr e)

theorem execOpResult_tidy {s : State} (h : s.tidy) (b : Nat) (late : Bool) : NextTidy (execOpResult b late s) := by
  refine nextTidy_next (State.tidy_foldl (fun t p ht => ?_) _ (State.tidy_setBraid h b ?_))
  · split
    · exact State.tidy_land ht b p
    · exact ht
  · exact State.tidy_braid h b

theorem execRendezvous_tidy {s : State} (h : s.tidy) : NextTidy (execRendezvous s) := by
  unfold execRendezvous
  dsimp only
  split
  · exact nextTidy_next h
  next j _ =>
  split
  · exact nextTidy_next h
  split
  · exact nextTidy_next (State.tidy_jobFault h _ _ _ _ _)
  refine nextTidy_next (State.tidy_modBraid h _ fun x hx => ?_)
  have hk := Braid.tidy_bank hx s.agent.2.1
  have hq : depthsTidy (if j.resv7 = 0 then (x.bank s.agent.2.1).q else
      tput (x.bank s.agent.2.1).q 7 ((x.bank s.agent.2.1).queue 7 ++ [BitVec.ofNat 64 (s.agent.2.2 + 2 ^ 32 * (s.cycle - j.start + 1))])) :=
        by
    split
    · exact ((Bank.tidy_iff _).mp hk).2.1.1
    · exact depthsTidy_tput ((Bank.tidy_iff _).mp hk).2.1.1 fun h7 => absurd rfl h7
  refine Braid.tidy_setBank ?_ _ ?_
  · exact hx
  · exact Bank.tidy_setQ (k := { x.bank s.agent.2.1 with jobDone := _, jobFin := _ }) hk hq

theorem execOverrun_tidy {s : State} (h : s.tidy) : NextTidy (execOverrun s) := by
  unfold execOverrun
  dsimp only
  split
  · exact nextTidy_next (State.tidy_settleFaults h _ _)
  · split
    · exact nextTidy_next h
    · split
      · exact nextTidy_next h
      · exact nextTidy_next (State.tidy_jobFault h _ _ _ _ _)

theorem execIllegalEncoding_tidy {s : State} (h : s.tidy) : NextTidy (execIllegalEncoding s) := by
  unfold execIllegalEncoding
  split
  · exact nextTidy_next (State.tidy_illegal h)
  · split
    · exact nextTidy_next (State.tidy_strandFault h _ _ _ _ _ _)
    · exact nextTidy_next h
  · exact nextTidy_next h

theorem State.tidy_modLink {s : State} (h : s.tidy) (k : Nat) (f : Link → Link) : (s.modLink k f).tidy := h
theorem State.tidy_modCrossing {s : State} (h : s.tidy) (c : Nat) (f : Crossing → Crossing) : (s.modCrossing c f).tidy := h

theorem State.tidy_launchFlit {s : State} (h : s.tidy) (k : Nat) (f : Flit) : (s.launchFlit k f).tidy := by
  unfold State.launchFlit
  split <;> exact h

theorem State.tidy_portHead {s : State} (h : s.tidy) (stop dir : Nat) : (s.portHead stop dir).tidy := by
  unfold State.portHead
  dsimp only
  split
  · exact h
  · split
    · refine State.tidy_modBraid (State.tidy_toPort h _ _ _) _ ?_
      exact fun _ hx => hx
    · exact h

theorem State.tidy_ownHead {s : State} (h : s.tidy) (stop dir : Nat) : (s.ownHead stop dir).tidy := by
  unfold State.ownHead
  dsimp only
  split
  · exact h
  · split
    · exact State.tidy_later (State.tidy_modBraid h _ fun _ hx => Braid.tidy_popQueue hx _ _) _ _
    · exact h

theorem State.tidy_modPort {s : State} (h : s.tidy) (n : Nat) (f : Port → Port) : (s.modPort n f).tidy := h
theorem State.tidy_modHop {s : State} (h : s.tidy) (n : Nat) (f : Link → Link) : (s.modHop n f).tidy := h

theorem State.tidy_sendFrame {s : State} (h : s.tidy) (port : Nat) (flit : Option (Packet × Nat × Nat)) (esc : Bool) (words : List RetWord)
    :
    (s.sendFrame port flit esc words).tidy := h

theorem State.tidy_portSend {s : State} (h : s.tidy) : s.portSend.tidy := by
  unfold State.portSend
  dsimp only
  split
  · exact h
  · split
    · exact h
    · split
      · exact h
      · exact State.tidy_sendFrame (State.tidy_modPort h _ _) _ _ _ _

theorem execFlitSend_tidy {s0 : State} (h : s0.tidy) : NextTidy (execFlitSend s0) := by
  have h1 := State.tidy_ownHead (State.tidy_portHead h s0.agent.1 s0.agent.2.1) s0.agent.1 s0.agent.2.1
  unfold execFlitSend
  dsimp only
  generalize (s0.portHead s0.agent.1 s0.agent.2.1).ownHead s0.agent.1 s0.agent.2.1 = s at h1
  refine nextTidy_ite (nextTidy_next (State.tidy_portSend h1)) ?_
  cases oldest (s.cands s0.agent.1 s0.agent.2.1) with
  | none => exact nextTidy_next h1
  | some c =>
    refine nextTidy_next (State.tidy_ite (State.tidy_modBraid ?s5 _ fun x hx => Braid.tidy_popQueue hx _ _) ?s5)
    refine State.tidy_ite (State.tidy_modBraid ?s4 _ ?held) ?s4
    case held => exact fun _ hx => hx
    refine State.tidy_ite ?s3 (State.tidy_foldl (fun _ _ ht => State.tidy_modLink ht _ _) _ ?s3)
    refine State.tidy_modLink (State.tidy_launchFlit ?_ _ _) _ _
    refine State.tidy_ite ?_ h1
    exact State.tidy_of_braids h1 rfl

theorem State.tidy_ringError {s : State} (h : s.tidy) (stop typ : Nat) : (s.ringError stop typ).tidy :=
  State.tidy_noteErr h _ _ _ _ _ _ _

theorem State.tidy_withLinks {s : State} (h : s.tidy) (links : Tab Link) : ({ s with links } : State).tidy := h

theorem State.tidy_flitIn {s : State} (h : s.tidy) (k : Nat) (f : Flit) (ok : Bool) : (s.flitIn k f ok).tidy := by
  unfold State.flitIn
  dsimp only
  split
  · have h1 := fun l => State.tidy_modLink h k l
    exact State.tidy_ite (State.tidy_ringError (State.tidy_ite (State.tidy_withLinks (h1 _) _) (h1 _)) _ _)
        (State.tidy_ite (State.tidy_withLinks (h1 _) _) (h1 _))
  · exact State.tidy_ite (State.tidy_modLink h _ _) (State.tidy_modLink h _ _)

theorem execFlit_tidy {s : State} (h : s.tidy) (stop : Nat) (ccw ok : Bool) : NextTidy (execFlit stop ccw ok s) := by
  unfold execFlit
  dsimp only
  split
  · exact nextTidy_next h
  · split
    · exact nextTidy_next h
    · exact nextTidy_next (State.tidy_flitIn (State.tidy_modLink h _ _) _ _ _)

theorem execPacketDelivery_tidy {s : State} (h : s.tidy) : NextTidy (execPacketDelivery s) := by
  unfold execPacketDelivery
  dsimp only
  split
  · exact nextTidy_next h
  · split
    · refine nextTidy_next (State.tidy_next ?_ _)
      exact State.tidy_of_braids (State.tidy_ite (State.tidy_modLink h _ _) (State.tidy_ringError (State.tidy_modLink h _ _) _ _)) rfl
    · refine nextTidy_next (State.tidy_toPort ?_ _ _ _)
      exact State.tidy_of_braids (State.tidy_ite (State.tidy_modLink h _ _) (State.tidy_ringError (State.tidy_modLink h _ _) _ _)) rfl

theorem State.tidy_launchWord {s : State} (h : s.tidy) (k : Nat) (w : RetWord) : (s.launchWord k w).tidy := by
  unfold State.launchWord
  split <;> exact h

theorem State.tidy_hopWord {s : State} (h : s.tidy) (w : RetWord) : (s.hopWord w).tidy := h

theorem State.tidy_sendWords {s : State} (h : s.tidy) : s.sendWords.tidy := by
  unfold State.sendWords
  split
  · exact h
  dsimp only
  generalize hl : List.foldl _ _ _ = s1
  have h1 : s1.tidy := by
    rw [← hl]
    refine State.tidy_foldl (fun t e ht => ?_) _ h
    split
    · exact ht
    · exact State.tidy_launchWord (State.tidy_modLink ht _ _) _ _
  split
  · exact h1
  · exact State.tidy_hopWord (State.tidy_modHop h1 _ _) _

theorem State.tidy_boardLanes {s : State} (h : s.tidy) : s.boardLanes.tidy := h

theorem State.tidy_sendAudit {s : State} (h : s.tidy) (k : Nat) : (s.sendAudit k).tidy :=
  State.tidy_launchWord (State.tidy_modLink h _ _) _ _

theorem State.tidy_hopAudit {s : State} (h : s.tidy) : s.hopAudit.tidy := h

theorem execAuditTick_tidy {s : State} (h : s.tidy) : NextTidy (execAuditTick s) := by
  unfold execAuditTick
  split
  · exact nextTidy_next h
  have h1 : (s.links.foldl (fun st e => if st.auditsNow e.1 then st.sendAudit e.1 else st) s).tidy := by
    refine State.tidy_foldl (fun t e ht => ?_) _ h
    split
    · exact State.tidy_sendAudit ht _
    · exact ht
  refine nextTidy_next ?_
  split
  · exact State.tidy_hopAudit h1
  · exact h1

theorem execReturnWord_tidy {s : State} (h : s.tidy) (stop : Nat) (ccw ok : Bool) : NextTidy (execReturnWord stop ccw ok s) := by
  unfold execReturnWord
  split
  · refine nextTidy_next ?_
    split
    · exact h
    · exact State.tidy_foldl (fun _ _ ht => State.tidy_modLink ht _ _) _ h
  · exact nextTidy_next (State.tidy_modLink h _ _)

theorem State.tidy_resend {s : State} (h : s.tidy) (c b : Nat) (x : Ctx) : (s.resend c b x).tidy := by
  unfold State.resend
  dsimp only
  split
  · split
    · split
      · exact State.tidy_sendMem h _ _ _ _ _ _
      · exact h
    · split
      · exact State.tidy_sendMem h _ _ _ _ _ _
      · exact h
  · exact h

theorem State.tidy_resendAmos {s : State} (h : s.tidy) (c : Nat) : (s.resendAmos c).tidy :=
  State.tidy_foldl (fun _ e h => State.tidy_foldl (fun _ _ h => State.tidy_foldl (fun _ x h => State.tidy_resend h c e.1 x) _ h) _ h) _ h

theorem State.tidy_auditApplied {s : State} (h : s.tidy) (c k : Nat) : (s.auditApplied c k).tidy := by
  unfold State.auditApplied
  dsimp only
  split
  · exact State.tidy_resendAmos (State.tidy_modCrossing h _ _) _
  · exact State.tidy_modCrossing h _ _

theorem execAuditFlit_tidy {s : State} (h : s.tidy) (stop : Nat) (ccw ok : Bool) : NextTidy (execAuditFlit stop ccw ok s) := by
  unfold execAuditFlit
  split
  · exact nextTidy_next h
  · split
    · exact nextTidy_next (State.tidy_ite (State.tidy_auditApplied (State.tidy_modLink h _ _) _ _) (State.tidy_modLink h _ _))
    · exact nextTidy_next (State.tidy_modLink h _ _)

theorem execMail_tidy {s : State} (h : s.tidy) (p : Packet) : NextTidy (execMail p s) := by
  unfold execMail
  dsimp only
  split
  · exact nextTidy_next (State.tidy_ite h (State.tidy_sendCtl h _ _))
  · split
    · exact nextTidy_next (State.tidy_ite h (State.tidy_sendCtl h _ _))
    · exact nextTidy_next (State.tidy_ite (State.tidy_modBraid h _ fun _ hx => Braid.tidy_mailIn hx _ _)
          (State.tidy_sendCtl (State.tidy_modBraid h _ fun _ hx => Braid.tidy_mailIn hx _ _) _ _))

theorem execDone_tidy {s : State} (h : s.tidy) (p : Packet) : NextTidy (execDone p s) := by
  unfold execDone
  dsimp only
  split
  · refine nextTidy_next (State.tidy_ite h (State.tidy_modBraid h _ ?_))
    exact fun _ hx => hx
  · split
    · refine nextTidy_next (State.tidy_fault (State.tidy_modBraid (State.tidy_ite h (State.tidy_modBraid h _ ?_)) _ ?_) _ _ _)
      · exact fun _ hx => hx
      · exact fun _ hx => hx
    · refine nextTidy_next (State.tidy_modBraid (State.tidy_ite h (State.tidy_modBraid h _ ?_)) _ ?_)
      · exact fun _ hx => hx
      · exact fun _ hx => hx

theorem execBara_tidy {s : State} (h : s.tidy) (p : Packet) : NextTidy (execBara p s) := by
  unfold execBara
  split
  · exact nextTidy_next h
  · split
    · exact nextTidy_next h
    · refine nextTidy_next (State.tidy_modBraid h _ ?_)
      exact fun _ hx => hx

theorem execBarr_tidy {s : State} (h : s.tidy) (p : Packet) : NextTidy (execBarr p s) := by
  unfold execBarr
  dsimp only
  split
  · exact nextTidy_next h
  · split
    · exact nextTidy_next h
    · refine nextTidy_next (State.tidy_modBank h _ _ ?_)
      exact fun _ hx => hx

theorem execReservedPacket_tidy {s : State} (h : s.tidy) (p : Packet) : NextTidy (execReservedPacket p s) :=
  nextTidy_next (State.tidy_ringError h _ _)

theorem execRdreq_tidy {s : State} (h : s.tidy) (p : Packet) : NextTidy (execRdreq p s) := by
  unfold execRdreq
  dsimp only
  split
  · split
    · exact nextTidy_next (State.tidy_later h _ _)
    · split
      · refine nextTidy_next ?_
        exact State.tidy_of_braids (State.tidy_ite (State.tidy_askHostNa h _) (State.tidy_askHost h _ _)) rfl
      · exact nextTidy_next (State.tidy_sendMem (State.tidy_readLine h _ _ _) _ _ _ _ _ _)
  · exact nextTidy_next h

/-- A context of a bank is changed and stays in order. -/
theorem State.tidy_setCtx {s : State} (h : s.tidy) (b bank : Nat) (c : CtxId) {x : Ctx} (hx : x.tidy) :
    (s.modBank b bank fun k => k.setCtx c x).tidy :=
  State.tidy_modBank h b bank fun _ hk => Bank.tidy_setCtx hk c hx

theorem execRdrsp_tidy {s : State} (h : s.tidy) (p : Packet) : NextTidy (execRdrsp p s) := by
  unfold execRdrsp
  split
  · next pa bank c data poison _ =>
    have hx := Bank.tidy_ctx (State.tidy_bank h p.dest bank) c
    refine nextTidy_ite (nextTidy_next (State.tidy_setCtx h _ _ _ ?_)) (nextTidy_ite (nextTidy_next (State.tidy_setCtx h _ _ _ ?_))
        (nextTidy_next h))
    · exact hx
    · exact hx
  · exact nextTidy_next h

theorem execPrep_tidy {s : State} (h : s.tidy) (p : Packet) : NextTidy (execPrep p s) := by
  unfold execPrep
  split
  · exact nextTidy_next (State.tidy_sendMem h _ _ _ _ _ _)
  · exact nextTidy_next h

theorem execRedent_tidy {s : State} (h : s.tidy) (p : Packet) : NextTidy (execRedent p s) := by
  unfold execRedent
  split
  · exact nextTidy_next (State.tidy_sendMem h _ _ _ _ _ _)
  · exact nextTidy_next h

theorem execAmoreq_tidy {s : State} (h : s.tidy) (p : Packet) : NextTidy (execAmoreq p s) := by
  unfold execAmoreq
  dsimp only
  split
  · split
    · exact nextTidy_next (State.tidy_later h _ _)
    · split
      · exact nextTidy_next (State.tidy_sendMem h _ _ _ _ _ _)
      · refine nextTidy_next (State.tidy_sendMem (State.tidy_ite ?_ (State.tidy_homePuts h _ _)) _ _ _ _ _ _)
        exact State.tidy_of_braids (State.tidy_homePuts h _ _) rfl
  · exact nextTidy_next h

theorem execAmorsp_tidy {s : State} (h : s.tidy) (p : Packet) : NextTidy (execAmorsp p s) := by
  unfold execAmorsp
  split
  · next old bank c _ =>
    have hx := Bank.tidy_ctx (State.tidy_bank h p.dest bank) c
    refine nextTidy_ite (nextTidy_next (State.tidy_setCtx h _ _ _ ?_)) (nextTidy_next h)
    exact hx
  · exact nextTidy_next h

end Sys2Proof.Machine
end

section
/-! SUPPORT. What keeps the order: copies, the reeve and commit events (R246 to R253). -/

namespace Sys2Proof.Machine

theorem State.tidy_readLines {s : State} (h : s.tidy) (vi : Nat) (l : List Nat) : (s.readLines vi l).1.tidy :=
  State.tidy_foldl (fun _ ln h => State.tidy_readLine h vi ln false) _ h

theorem execEngine_tidy {s : State} (h : s.tidy) (p : Packet) : NextTidy (execEngine p s) := by
  unfold execEngine
  split
  · next b bank ch ask vi load answer lines _ =>
    refine nextTidy_ite (nextTidy_ite (nextTidy_next (State.tidy_later h _ _)) ?_) (nextTidy_ite (nextTidy_next ?_) (nextTidy_next ?_))
    · dsimp only
      split
      · refine nextTidy_next (State.tidy_sendMem ?_ _ _ _ _ _ _)
        exact State.tidy_readLines h vi _
      · refine nextTidy_next (State.tidy_of_braids (State.tidy_foldl (fun _ x h => State.tidy_askHost h x false) _ h) rfl)
    · exact State.tidy_modBank h _ _ fun _ hk => hk
    · exact State.tidy_modBank h _ _ fun _ hk => Bank.tidy_setChan hk _ (Bank.chan_length hk _)
  · exact nextTidy_next h

theorem State.tidy_engineFault {s : State} (h : s.tidy) (b bank vi : Nat) (owner : Option Nat) (f : FaultInfo) :
    (s.engineFault b bank vi owner f).tidy := by
  unfold State.engineFault
  split
  · exact State.tidy_defer h _ _ _
  · exact State.tidy_postDevice h _

theorem State.tidy_modChan {s : State} (h : s.tidy) {f : Chan → Chan} (hf : ∀ c, (f c).queue.length ≤ c.queue.length) :
    (s.modChan f).tidy :=
  State.tidy_modBank h _ _ fun _ hk => Bank.tidy_setChan hk _ ((hf _).trans (Bank.chan_length hk _))

theorem State.tidy_walkPages (v b : Nat) (a : Acc) (l : List Nat) : ∀ {s : State} (_ : s.tidy) (t : List TlbEntry),
    (s.walkPages v b a l t).1.tidy := by
  induction l with
  | nil => exact fun h _ => h
  | cons va l ih =>
    intro s h t
    unfold State.walkPages
    split
    · exact h
    dsimp only
    have h0 : State.tidy (match s.lookup v b 4 a va t with
        | (.light entry w, _, _) => s.serveLight v entry w
        | _ => s) := by
      split
      · exact State.tidy_serveLight h _ _ _
      · exact h
    split
    · have h1 := fun c : Bool => State.tidy_ite (c := c = true) h0 (State.tidy_walked h0 v va)
      refine ih ?_ _
      split
      · exact State.tidy_ite (h1 _) (State.tidy_walked (h1 _) _ _)
      · exact h1 _
    · exact h0
    · exact h0
    · exact State.tidy_askHost h0 _ _

theorem execCopyStart_tidy {s : State} (h : s.tidy) : NextTidy (execCopyStart s) := by
  unfold execCopyStart
  dsimp only
  split
  · exact nextTidy_next h
  next c _ _ =>
  refine nextTidy_ite (nextTidy_next h) (nextTidy_ite (nextTidy_next (State.tidy_modChan h fun _ => le_refl _)) ?_)
  have hw := State.tidy_walkPages c.vi s.agent.1 c.access (firstPages [] (((upto 0 c.count).filter c.inside).map c.elemBytes).flatten) h
      s.agentChan.tlb
  split <;> next e => rw [e] at hw; exact nextTidy_next (State.tidy_modChan hw fun _ => le_refl _)

theorem State.tidy_pinOne {s : State} (h : s.tidy) (b bank tag : Nat) : (s.pinOne b bank tag).tidy := by
  unfold State.pinOne
  dsimp only
  split
  · exact State.tidy_countHint (State.tidy_l2Bring h _ _ _) _
  · refine State.tidy_modBank (State.tidy_setL2 (State.tidy_l2Bring h _ _ _) _ _) _ _ ?_
    exact fun _ hx => hx

theorem State.tidy_askPiece {s : State} (h : s.tidy) (b bank : Nat) (c : CopyCmd) (q : Nat) : (s.askPiece b bank c q).tidy := by
  unfold State.askPiece
  refine State.tidy_foldl (fun _ _ h => State.tidy_sendMem h _ _ _ _ _ _) _ (State.tidy_modChan ?_ fun _ => le_refl _)
  exact State.tidy_foldl (fun _ t h => State.tidy_pinOne h b bank t) _ h

theorem State.tidy_pieceDone {s : State} (h : s.tidy) (c : CopyCmd) (q : Nat) : (s.pieceDone c q).tidy := by
  refine State.tidy_modChan h fun x => ?_
  dsimp only
  split
  · exact le_refl _
  · rw [List.length_drop]
    exact Nat.sub_le _ _

theorem State.tidy_chanFault {s : State} (h : s.tidy) (b bank : Nat) (c : CopyCmd) (f : FaultInfo) : (s.chanFault b bank c f).tidy := by
  refine State.tidy_engineFault (State.tidy_modChan h ?_) _ _ _ _ _
  exact fun _ => le_refl _

theorem State.tidy_unlockPiece {s : State} (h : s.tidy) (b bank ch ask : Nat) (lines : Tab Fill) : (s.unlockPiece b bank ch ask lines).tidy
    :=
  State.tidy_foldl (fun _ _ h => State.tidy_sendMem h _ _ _ _ _ _) _ h

theorem State.tidy_loadPiece {s : State} (hs : s.tidy) (b bank : Nat) (h : Chan) (c : CopyCmd) (q : Nat) :
    (s.loadPiece b bank h c q).1.tidy := by
  unfold State.loadPiece
  dsimp only
  have hc := State.tidy_consume c.vi ((c.pieceBytes h q).map fun e =>
    (e.1, e.2.1, e.2.2, (tget ⟨[], false⟩ h.lines (e.2.1 / 64)).poison && (leafKind e.2.2 == 3 || (s.draw.2.ownOf b bank c e.2.1).isNone)))
        (State.tidy_draw hs)
  split
  · next e => rw [e] at hc; exact hc
  next e =>
  rw [e] at hc
  refine State.tidy_ite (State.tidy_modBank (State.tidy_modBraid hc b ?_) b bank fun _ hk =>
      Bank.tidy_foldl (fun _ w hk => Bank.tidy_noteWrite hk w.addr) _ hk)
    (State.tidy_modBraid hc b ?_)
  all_goals exact fun _ hx => Braid.tidy_foldl (fun _ w hx => Braid.tidy_rawPut hx w) _ hx

theorem State.tidy_pieceIn {s : State} (h : s.tidy) (b bank : Nat) (c : CopyCmd) (q : Nat) : (s.pieceIn b bank c q).tidy := by
  unfold State.pieceIn
  dsimp only
  split
  · next e => exact State.tidy_chanFault (State.tidy_fst (State.tidy_loadPiece
        (State.tidy_ite h (State.tidy_unlockPiece h _ _ _ _ _)) _ _ _ _ _) e) _ _ _ _
  · next e => exact State.tidy_pieceDone (State.tidy_fst (State.tidy_loadPiece
        (State.tidy_ite h (State.tidy_unlockPiece h _ _ _ _ _)) _ _ _ _ _) e) _ _

theorem State.tidy_lastPieces {s : State} (h : s.tidy) (b bank : Nat) : (s.lastPieces b bank).tidy := by
  unfold State.lastPieces
  dsimp only
  split
  · exact h
  refine State.tidy_foldl (fun t p ht => ?_) _ (State.tidy_modChan h fun _ => le_refl _)
  have hl := State.tidy_loadPiece (State.tidy_unlockPiece ht b bank t.agent.2.2 p.ask p.lines) b bank
      { s.agentChan with lines := p.lines, pages := p.pages } p.cmd p.piece
  split
  · next e => rw [e] at hl; exact State.tidy_engineFault hl _ _ _ _ _
  · next e => rw [e] at hl; exact hl

theorem State.tidy_areaPuts (b bank group k sid : Nat) (l : List (MLine × Nat)) : ∀ {s : State} (_ : s.tidy),
    (s.areaPuts b bank group k sid l).1.tidy := by
  induction l with
  | nil => exact fun h => h
  | cons e l ih =>
    intro s h
    exact andThen_tidy (State.tidy_areaPut h _ _ _ _) fun _ h => ih h

theorem State.tidy_pieceOut {s : State} (h : s.tidy) (b bank : Nat) (c : CopyCmd) (q : Nat) : (s.pieceOut b bank c q).tidy := by
  have hp := fun group l => State.tidy_areaPuts b bank group c.k c.sid l h
  unfold State.pieceOut
  dsimp only
  split
  · next e => exact State.tidy_chanFault (State.tidy_fst (hp _ _) e) _ _ _ _
  · next e => exact State.tidy_fst (hp _ _) e
  next s1 e =>
  refine State.tidy_pieceDone (State.tidy_modBank (State.tidy_fst (hp _ _) e) _ _ ?_) _ _
  exact fun _ hk => hk

theorem State.tidy_pieceAdd {s : State} (h : s.tidy) (b bank : Nat) (c : CopyCmd) (q : Nat) : (s.pieceAdd b bank c q).tidy := by
  refine State.tidy_pieceDone (State.tidy_modBank h _ _ ?_) _ _
  exact fun _ hx => hx

theorem execCopyPiece_tidy {s0 : State} (h : s0.tidy) : NextTidy (execCopyPiece s0) := by
  unfold execCopyPiece
  dsimp only
  split
  · exact nextTidy_next (State.tidy_lastPieces h _ _)
  · split
    · exact nextTidy_next (State.tidy_chanFault (State.tidy_lastPieces h _ _) _ _ _ _)
    · split
      · exact nextTidy_next (State.tidy_lastPieces h _ _)
      · split
        · exact nextTidy_next (State.tidy_ite (State.tidy_askPiece (State.tidy_lastPieces h _ _) _ _ _ _) (State.tidy_lastPieces h _ _))
        · split
          · exact nextTidy_next (State.tidy_lastPieces h _ _)
          · split
            · exact nextTidy_next (State.tidy_pieceIn (State.tidy_lastPieces h _ _) _ _ _ _)
            · split
              · exact nextTidy_next (State.tidy_pieceOut (State.tidy_lastPieces h _ _) _ _ _ _)
              · exact nextTidy_next (State.tidy_pieceAdd (State.tidy_lastPieces h _ _) _ _ _ _)

theorem State.tidy_modRv {s : State} (h : s.tidy) (f : Rv → Rv) : (s.modRv f).tidy := State.tidy_modBank h _ _ fun _ hk => hk

theorem State.tidy_reeveFault {s : State} (h : s.tidy) (c : ReeveCmd) (code : Nat) (line : Nat) : (s.reeveFault c code line).tidy := by
  refine State.tidy_engineFault ?_ _ _ _ _ _
  split
  · refine State.tidy_modBraid (State.tidy_modLaunch (State.tidy_modRv h _) _ _) _ ?_
    exact fun _ hx => hx
  · exact State.tidy_modRv h _

theorem State.tidy_reeveSend {s : State} (h : s.tidy) (b bank vi : Nat) (lines : List Nat) (bytes : Nat → List Byte) :
    (s.reeveSend b bank vi lines bytes).tidy :=
  State.tidy_foldl (fun _ _ h => State.tidy_sendMem h _ _ _ _ _ _) _ (State.tidy_modRv h _)

theorem execReeveStart_tidy {s : State} (h : s.tidy) : NextTidy (execReeveStart s) := by
  unfold execReeveStart
  dsimp only
  split
  · exact nextTidy_next h
  · split
    · exact nextTidy_next h
    · split
      · exact nextTidy_next (State.tidy_modRv h _)
      · exact nextTidy_next (State.tidy_reeveSend (State.tidy_modRv (State.tidy_modIface h _ _) _) _ _ _ _ _)

theorem execRvinRetire_tidy {s : State} (h : s.tidy) : NextTidy (execRvinRetire s) := by
  unfold execRvinRetire
  dsimp only
  split
  · next c _ _ _ =>
    refine nextTidy_ite (nextTidy_next h) (nextTidy_ite (nextTidy_next (State.tidy_reeveFault h _ _ _)) ?_)
    have h1 : ∀ f, (s.modIface c.vi f).tidy := State.tidy_modIface h c.vi
    split
    · exact nextTidy_next (State.tidy_reeveFault (h1 _) _ _ _)
    refine nextTidy_next (State.tidy_modRv ?_ _)
    have h2 : ∀ (x : Braid) (l : List Nat) (f : Braid → Nat → Nat) (g : Nat → List Byte), x.tidy →
        (l.foldl (fun x k => x.sramPuts (f x k) (g k)) x).tidy :=
      fun x l f g hx => Braid.tidy_foldl (fun _ _ hx => Braid.tidy_sramPuts _ hx _) l hx
    split
    · refine State.tidy_modLaunch (State.tidy_modBraid (h1 _) _ ?_) _ _
      exact fun x hx => h2 x _ _ _ hx
    · refine State.tidy_modBraid (h1 _) _ ?_
      exact fun x hx => h2 x _ _ _ hx
  · exact nextTidy_next h

theorem State.tidy_reeveMakes {s : State} (h : s.tidy) (b bank : Nat) (c : ReeveCmd) : (s.reeveMakes b bank c).tidy := by
  unfold State.reeveMakes
  dsimp only
  split
  · exact State.tidy_reeveFault (State.tidy_modIface h _ _) _ _ _
  · exact State.tidy_reeveSend (State.tidy_modRv (State.tidy_modIface h _ _) _) _ _ _ _ _

theorem execRvoutRetire_tidy {s : State} (h : s.tidy) : NextTidy (execRvoutRetire s) := by
  unfold execRvoutRetire
  dsimp only
  split
  · split
    · exact nextTidy_next h
    · split
      · exact nextTidy_next (State.tidy_reeveFault h _ _ _)
      · split
        · exact nextTidy_next (State.tidy_reeveMakes h _ _ _)
        · exact nextTidy_next (State.tidy_modRv (State.tidy_modIface h _ _) _)
  · exact nextTidy_next h

theorem State.tidy_openEvent {s : State} (h : s.tidy) (level vi : Nat) (round : Option (Nat × Nat)) (ps : List Part) :
    (s.openEvent level vi round ps).tidy := by
  unfold State.openEvent
  refine State.tidy_foldl (fun _ _ h => State.tidy_sendMem h _ _ _ _ _ _) _ ?_
  exact State.tidy_of_braids h rfl

theorem execCommitEvent_tidy {s : State} (h : s.tidy) : NextTidy (execCommitEvent s) := by
  unfold execCommitEvent
  dsimp only
  split
  · refine nextTidy_ite (nextTidy_next h) ?_
    split
    · exact nextTidy_next (State.tidy_raise h _ _ _)
    · refine nextTidy_next (State.tidy_openEvent (State.tidy_modBraid (State.tidy_foldl (fun _ e h => State.tidy_modBank h e.1 e.2 ?_) _
          h) _ ?_) _ _ _ _)
      · exact fun _ hk => hk
      · exact fun _ hx => hx
  · exact nextTidy_next h

theorem State.tidy_l1Clean {s : State} (h : s.tidy) (p : Part) : (s.l1Clean p).tidy := State.tidy_modBraid h _ fun _ hx =>
    Braid.tidy_mapL1 hx _

theorem Bank.tidy_emptied {k : Bank} (h : k.tidy) (t : Option Task) : ({ k with
    spilled := [], parked := [], staged := [], reds := [], conflicts := [], l := k.l.renewed, x := k.x.renewed, s := k.s.renewed,
        t := k.t.renewed,
    task := t } : Bank).tidy := h

theorem State.tidy_emptied {s : State} (h : s.tidy) (p : Part) : (s.emptied p).tidy := by
  refine State.tidy_modBraid h _ fun x hx => ?_
  have hy : ∀ l f, ({ x.mapL1 f with merge := l } : Braid).tidy := fun l f => hx
  exact Braid.tidy_setBank (hy _ _) _ (Bank.tidy_emptied (Braid.tidy_bank (hy _ _) _) _)

theorem Apply.tidy_foldl {α : Type} {f : Apply → α → Apply}
    (hf : ∀ (a : Apply) (e : α), a.s.tidy → (f a e).s.tidy) (l : List α) {a : Apply} (h : a.s.tidy) :
    (l.foldl f a).s.tidy := by
  induction l generalizing a with
  | nil => exact h
  | cons e l ih => exact ih (hf a e h)

theorem Apply.tidy_flag {a : Apply} (h : a.s.tidy) (tasks : Bool) (b bank : Nat) (f : FlagSet) : (a.flag tasks b bank f).s.tidy := by
  unfold Apply.flag
  split
  · exact State.tidy_modBank h b bank fun _ hk => Bank.tidy_raise hk f
  · exact h

theorem Apply.tidy_add {a : Apply} (h : a.s.tidy) (vi : Nat) (tasks : Bool) (p : Part) (l : List Nat) (x : Word32) (comp : Bool) :
    (a.add vi tasks p l x comp).s.tidy :=
  Apply.tidy_flag h _ _ _ _

theorem Apply.tidy_red {a : Apply} (h : a.s.tidy) (vi : Nat) (tasks : Bool) (p : Part) (e : RedEntry) : (a.red vi tasks p e).s.tidy := by
  unfold Apply.red
  dsimp only
  split
  · exact Apply.tidy_add h _ _ _ _ _ _
  · exact Apply.tidy_add (Apply.tidy_add h _ _ _ _ _ _) _ _ _ _ _ _
  · exact State.tidy_homePuts h _ _

theorem Apply.tidy_round {a : Apply} (h : a.s.tidy) (vi : Nat) (tasks : Bool) (e : Nat × Pair × Nat × Nat × List Nat) :
    (a.round vi tasks e).s.tidy :=
  State.tidy_homePuts (Apply.tidy_flag h _ _ _ _) _ _

theorem Apply.tidy_rounds {a : Apply} (h : a.s.tidy) (vi : Nat) (tasks : Bool) (p : Nat × Pair × Nat × Nat × List Nat → Bool) :
    (a.rounds vi tasks p).s.tidy :=
  Apply.tidy_foldl (fun _ e h => Apply.tidy_round h vi tasks e) _ h

theorem Apply.tidy_group {a : Apply} (h : a.s.tidy) (vi : Nat) (tasks : Bool) (g : Group) : (a.group vi tasks g).s.tidy :=
  State.tidy_homeWrite (Apply.tidy_rounds h _ _ _) _ _ _

theorem Apply.tidy_part {a : Apply} (h : a.s.tidy) (vi : Nat) (tasks : Bool) (p : Part) : (a.part vi tasks p).s.tidy :=
  Apply.tidy_foldl (fun _ e h => Apply.tidy_red h vi tasks p e) _ (Apply.tidy_foldl (fun _ g h => Apply.tidy_group h vi tasks g) _ h)

theorem Apply.tidy_finish {a : Apply} (h : a.s.tidy) (vi : Nat) (tasks : Bool) : (a.finish vi tasks).tidy := Apply.tidy_rounds h _ _ _

theorem execEventPrepared_tidy {s : State} (h : s.tidy) : NextTidy (execEventPrepared s) := by
  unfold execEventPrepared
  dsimp only
  split
  · exact nextTidy_next h
  · next e _ =>
    refine nextTidy_ite (nextTidy_next h) (nextTidy_next ?_)
    have h1 : ((e.parts.foldl (fun (a : Apply) p => a.part e.vi e.round.isNone p) ⟨s, []⟩).finish e.vi e.round.isNone).tidy :=
      Apply.tidy_finish (Apply.tidy_foldl (fun _ p h => Apply.tidy_part h _ _ p) _ h) _ _
    exact State.tidy_of_braids (State.tidy_modIface (State.tidy_ite (State.tidy_foldl (fun _ p h => State.tidy_emptied h p) _ h1) h1)
        e.vi _) rfl

theorem State.tidy_barr {s : State} (h : s.tidy) (b m level gen : Nat) : (s.barr b m level gen).tidy :=
  State.tidy_sendCtl h _ _

theorem State.tidy_sendBarrs (b bank level gen : Nat) (l : List Nat) : ∀ {s : State} (_ : s.tidy),
    (s.sendBarrs b bank level gen l).tidy := by
  induction l with
  | nil => exact fun h => State.tidy_modBank h _ _ fun _ hk => hk
  | cons m l ih =>
    intro s h
    unfold State.sendBarrs
    split
    · exact ih (State.tidy_barr h _ _ _ _)
    · exact State.tidy_modBank h _ _ fun _ hk => hk

theorem State.tidy_release {s : State} (h : s.tidy) (b bank : Nat) : (s.release b bank).tidy := by
  unfold State.release
  split
  · exact State.tidy_ite (State.tidy_sendBarrs _ _ _ _ _ h) h
  · exact h

theorem Bank.tidy_clearTlbs {k : Bank} (h : k.tidy) (rv : Rv) :
    ({ k with chans := k.chans.map fun e => (e.1, { e.2 with tlb := [] }), rv } : Bank).tidy :=
  Bank.tidy_mapChans (k := { k with rv }) h fun _ => le_refl _

theorem State.tidy_emptyTlbs {s : State} (h : s.tidy) (v : Nat) (stable : Bool) : (s.emptyTlbs v stable).tidy := by
  refine State.tidy_foldl (fun t b ht => State.tidy_ite (State.tidy_modBraid ht b fun x hx => ?_) ht) _ h
  obtain ⟨h0, h1, rest⟩ := hx
  exact ⟨Bank.tidy_clearTlbs h0 _, Bank.tidy_clearTlbs h1 _, rest⟩

theorem State.tidy_level3Done {s : State} (h : s.tidy) (v : Nat) : (s.level3Done v).tidy :=
  State.tidy_modIface (State.tidy_emptyTlbs h _ _) _ _

theorem State.tidy_phaseUp {s : State} (h : s.tidy) (b uid : Nat) : (s.phaseUp b uid).tidy := State.tidy_modBraid h _ fun _ hx => hx

theorem execEventComplete_tidy {s : State} (h : s.tidy) : NextTidy (execEventComplete s) := by
  unfold execEventComplete
  dsimp only
  refine nextTidy_ite (nextTidy_next (State.tidy_release h _ _)) ?_
  split
  · exact nextTidy_next h
  next e _ =>
  refine nextTidy_ite (nextTidy_next h) (nextTidy_ite (nextTidy_next (State.tidy_foldl (fun _ ln h => State.tidy_askHost h ln false) _ h))
      ?_)
  have h2 : ∀ f : Iface → Iface, ({ s.modIface e.vi f with events := tdel (s.modIface e.vi f).events s.agent.1 } : State).tidy :=
    fun f => State.tidy_of_braids (State.tidy_modIface h e.vi f) rfl
  have h3 : ∀ f : Iface → Iface, (e.parts.foldl State.l1Clean (if e.level = 3 then
      ({ s.modIface e.vi f with events := tdel (s.modIface e.vi f).events s.agent.1 } : State).level3Done e.vi
      else { s.modIface e.vi f with events := tdel (s.modIface e.vi f).events s.agent.1 })).tidy := fun f =>
    State.tidy_foldl (fun _ p h => State.tidy_l1Clean h p) _ (State.tidy_ite (State.tidy_level3Done (h2 f) _) (h2 f))
  split
  · exact nextTidy_next (State.tidy_of_braids (State.tidy_foldl (fun _ b h => State.tidy_phaseUp h b _) _ (h3 _)) rfl)
  · refine nextTidy_next (State.tidy_foldl (fun _ p h => State.tidy_ite (State.tidy_release h _ _) h) _
        (State.tidy_foldl (fun _ p h => State.tidy_ite
      (State.tidy_modBank h _ _ ?_) h) _ (h3 _)))
    exact fun _ hk => hk

end Sys2Proof.Machine
end

section
/-! SUPPORT. What keeps the order: launches, tasks, heaps and prefixes (R281 to R292). -/

namespace Sys2Proof.Machine

theorem execFcvt_tidy {s : State} (h : s.tidy) (g df sf : BitVec 4) (z : Bool) (rnd : BitVec 2) (d a : BitVec 5) :
    NextTidy (execFcvt g df sf z rnd d a s) := by
  refine guarded_tidy h _ _ ?_
  split
  · exact State.tidy_result (State.tidy_raiseFlags (State.tidy_warnIf h _ _) _) _ _ _
  · exact State.tidy_illegal h

theorem State.tidy_readAux {s : State} (h : s.tidy) (l : Launch) : (s.readAux l).1.tidy := by
  have read : ∀ (c : Prop) [Decidable c] (t : State) (x : List Byte) va n, t.tidy →
      (if c then (t, .ok x) else t.seqRead l.vi va n : State × Except Stop (List Byte)).1.tidy := by
    intro c _ t x va n ht
    split
    · exact ht
    · exact State.tidy_seqRead ht _ _ _
  unfold State.readAux
  dsimp only
  have h1 := read (l.argp = 0) s (List.replicate 128 0) l.argp 128 h
  split
  · exact h1
  split
  · exact read _ _ _ _ _ h1
  have h2 := fun va => read (va = 0) _ [] va 8192 h1
  split
  · exact h2 _
  split
  · exact h2 _
  have h3 := fun va => State.tidy_seqRead (h2 va) l.vi l.auxp 64
  split
  · next e => exact State.tidy_fst (h3 _) e
  next e =>
  split
  · exact State.tidy_fst (h3 _) e
  · exact State.tidy_fst (h3 _) e

theorem State.tidy_askWalk {s : State} (h : s.tidy) (v va : Nat) : (s.askWalk v va).tidy := by
  unfold State.askWalk
  split
  · exact State.tidy_askHost h _ _
  · exact h

theorem State.tidy_readHashes {s : State} (h : s.tidy) (l : Launch) : (s.readHashes l).1.tidy := by
  unfold State.readHashes
  split
  · exact State.tidy_askWalk h _ _
  · exact h
  · split
    · exact h
    · split
      · next e => exact State.tidy_fst (State.tidy_seqRead h _ _ _) e
      · next e => exact State.tidy_fst (State.tidy_seqRead h _ _ _) e

theorem State.tidy_checked {s : State} (h : s.tidy) (r : List Byte) (l : Launch) : (s.checked r l).1.tidy := by
  unfold State.checked
  dsimp only
  split
  · split
    · exact h
    · split
      · next e => exact State.tidy_fst (State.tidy_readHashes h _) e
      · next e => exact State.tidy_fst (State.tidy_readHashes h _) e
      · next e => exact State.tidy_fst (State.tidy_readHashes h _) e
  · split
    · exact h
    · split
      · next e => exact State.tidy_fst (State.tidy_readAux h _) e
      · next e => exact State.tidy_fst (State.tidy_readAux h _) e
      · next e => exact State.tidy_fst (State.tidy_readAux h _) e

theorem State.tidy_readPi {s : State} (h : s.tidy) (v pia : Nat) : (s.readPi v pia).1.tidy := by
  unfold State.readPi
  split
  · split
    · split
      · next e => exact State.tidy_fst (State.tidy_seqRead h _ _ _) e
      · next e => exact State.tidy_fst (State.tidy_seqRead h _ _ _) e
      · next e => exact State.tidy_fst (State.tidy_seqRead h _ _ _) e
    · exact h
  · exact h
  · exact State.tidy_askHost h _ _

theorem State.tidy_takeRecord {s : State} (h : s.tidy) (v q : Nat) (l : Launch) : (s.takeRecord v q l).tidy := by
  refine State.tidy_modIface ?_ _ _
  exact State.tidy_of_braids h rfl

theorem execRecordTake_tidy {s : State} (h : s.tidy) : NextTidy (execRecordTake s) := by
  unfold execRecordTake
  dsimp only
  split
  · exact nextTidy_next h
  next i _ =>
  refine nextTidy_ite (nextTidy_next h) ?_
  have h1 := State.tidy_readPi h s.agent.1 (i.queue s.agent.2.1).pia
  split
  · next e => exact nextTidy_next (State.tidy_fst h1 e)
  · next e => exact nextTidy_next (State.tidy_modIface (State.tidy_fst h1 e) _ _)
  next s1 p e =>
  have h1 := State.tidy_fst h1 e
  refine nextTidy_ite (nextTidy_next (State.tidy_modIface h1 _ _)) (nextTidy_ite (nextTidy_next h1) ?_)
  have h2 := State.tidy_seqRead h1 s.agent.1 ((i.queue s.agent.2.1).ring + 64 * ((i.queue s.agent.2.1).ci % 2 ^ (i.queue s.agent.2.1).logn))
      64
  split
  · next e => exact nextTidy_next (State.tidy_fst h2 e)
  · next e => exact nextTidy_next (State.tidy_takeRecord (State.tidy_fst h2 e) _ _ _)
  next s2 r e =>
  have h3 := fun l => State.tidy_checked (State.tidy_fst h2 e) r l
  split
  · next e => exact nextTidy_next (State.tidy_fst (h3 _) e)
  · next e => exact nextTidy_next (State.tidy_takeRecord (State.tidy_fst (h3 _) e) _ _ _)

theorem State.tidy_endLaunch {s : State} (h : s.tidy) (uid status : Nat) : (s.endLaunch uid status).tidy := h

theorem State.tidy_makeResident {s : State} (h : s.tidy) (l : Launch) : (s.makeResident l).tidy := by
  unfold State.makeResident
  dsimp only
  split
  · refine State.tidy_modLaunch (State.tidy_modBraid h _ ?_) _ _
    exact fun _ hx => hx
  · refine State.tidy_modBank h _ _ fun k hk => ?_
    split
    · exact hk
    · exact hk

theorem State.tidy_sendOut {s : State} (h : s.tidy) (l : Launch) : (s.sendOut l).tidy := by
  have draw : ∀ c : Bool, (if c then (0, s) else s.draw).2.tidy := fun c => by
    split
    · exact h
    · exact State.tidy_draw h
  unfold State.sendOut
  refine State.tidy_modLaunch (State.tidy_foldl (fun _ b h => State.tidy_modBraid h b ?_) _ (draw _)) _ _
  exact fun _ hx => hx

theorem State.tidy_issuedNow {s : State} (h : s.tidy) (east : Bool) : (s.issuedNow east).tidy := h

theorem State.tidy_endFenced {s : State} (h : s.tidy) (east : Bool) : (s.endFenced east).tidy := by
  refine State.tidy_foldl (fun t l ht => ?_) _ h
  split
  · exact ht
  · exact State.tidy_endLaunch (State.tidy_post ht _ _) _ _

theorem State.tidy_installHeap {s t : State} (h : s.tidy) {l : Launch} (e : s.installHeap l = some t) : t.tidy := by
  unfold State.installHeap at e
  dsimp only at e
  obtain ⟨-, e⟩ | ⟨-, e⟩ := ite_eq_iff.mp e
  · exact nomatch e
  · cases e
    exact State.tidy_of_braids h rfl

theorem execLaunchIssue_tidy {s : State} (h : s.tidy) : NextTidy (execLaunchIssue s) := by
  have h0 := State.tidy_endFenced h (s.agent.1 == 1)
  unfold execLaunchIssue
  dsimp only
  split
  · exact nextTidy_next h0
  next l _ =>
  have hs := State.tidy_issuedNow h0 (s.agent.1 == 1)
  refine nextTidy_ite (nextTidy_next h0) (nextTidy_ite ?_ (nextTidy_ite ?_
      (nextTidy_ite (nextTidy_next (State.tidy_makeResident (State.tidy_sendOut hs l) l))
    (nextTidy_next (State.tidy_sendOut hs l)))))
  · split
    · exact nextTidy_next (State.tidy_askWalk hs _ _)
    · exact nextTidy_next (State.tidy_setTodo (State.tidy_modLaunch hs _ _) _)
  · split
    · exact nextTidy_next (State.tidy_endLaunch hs _ _)
    · next e => exact nextTidy_next (State.tidy_sendOut (State.tidy_installHeap hs e) l)

theorem execLaunchComplete_tidy {s : State} (h : s.tidy) : NextTidy (execLaunchComplete s) := by
  unfold execLaunchComplete
  split
  · exact nextTidy_next h
  next l _ =>
  have hw := fun va d => State.tidy_seqWrite (s := { s with launches := s.launches.filter fun m => m.uid != l.uid }) h l.vi va d
  refine nextTidy_ite (nextTidy_next h) ?_
  dsimp only
  split
  · next e => exact nextTidy_next (State.tidy_modIface (State.tidy_fst (hw _ _) e) _ _)
  · exact nextTidy_next (State.tidy_askHost h _ _)
  · next e => exact nextTidy_next (State.tidy_modIface (State.tidy_postDevice (State.tidy_fst (hw _ _) e) _) _ _)

theorem State.tidy_withMap {s : State} (h : s.tidy) (v va : Nat) {f : State → Tab Byte → State} (hf : ∀ t m, t.tidy → (f t m).tidy) :
    (s.withMap v va f).tidy := by
  have hr := State.tidy_seqRead h v va 8192
  unfold State.withMap
  split
  · exact hf _ _ h
  split
  · next e => exact hf _ _ (State.tidy_fst hr e)
  · next e => exact hf _ _ (State.tidy_fst hr e)
  · next e => exact State.tidy_fst hr e

theorem Braid.tidy_cleared {x : Braid} (h : x.tidy) (runBank sqNext started : Nat) : ({ x.dropLeases with
    runBank, regs := {}, chain := [], accReady := [], strands := [], merge := [], sqNext, started } : Braid).tidy := h

theorem State.tidy_startTask {s : State} (h : s.tidy) (b bank : Nat) (w : Start) (map : Tab Byte) : (s.startTask b bank w map).tidy :=
  State.tidy_modBraid (State.tidy_emptyTlbs h _ _) b fun _ hx => Braid.tidy_setBank (Braid.tidy_cleared hx _ _ _) bank
      (Bank.tidy_fresh _ _ _ _)

theorem State.tidy_weightPins {s : State} (h : s.tidy) (b bank v : Nat) : (s.weightPins b bank v).tidy := by
  unfold State.weightPins
  split
  · exact h
  · refine State.tidy_foldl (fun _ t h => State.tidy_pinOne h b bank t) _ ?_
    exact State.tidy_of_braids h rfl

theorem State.tidy_deliverTask {s : State} (h : s.tidy) (uid b : Nat) : (s.deliverTask uid b).tidy := by
  unfold State.deliverTask
  split
  · exact h
  refine State.tidy_ite h (State.tidy_withMap h _ _ fun t m ht => ?_)
  refine State.tidy_modLaunch (State.tidy_modBraid (State.tidy_weightPins (State.tidy_startTask ht _ _ _ _) _ _ _) _ ?_) _ _
  exact fun _ hx => hx

theorem Braid.tidy_nextSpawn {x : Braid} (h : x.tidy) {r : Spawn} {rest : List Spawn} (e : x.taskQ = r :: rest) {y : Braid} (hy : y.tidy) :
    ({ y with taskQ := rest } : Braid).tidy := by
  have hl := Braid.taskQ_length h
  rw [e, List.length_cons] at hl
  exact Braid.tidy_setTaskQ hy (Nat.le_of_succ_le hl)

theorem State.tidy_startSpawn {s : State} (h : s.tidy) (b : Nat) : (s.startSpawn b).tidy := by
  have hx := State.tidy_braid h b
  unfold State.startSpawn
  dsimp only
  split
  · exact h
  next r rest e =>
  split
  · exact State.tidy_setBraid h b (Braid.tidy_nextSpawn hx e hx)
  refine State.tidy_ite h (State.tidy_withMap h _ _ fun t m ht => ?_)
  exact State.tidy_modLaunch (State.tidy_startTask (State.tidy_modBraid ht b fun _ hy => Braid.tidy_nextSpawn hx e hy) _ _ _ _) _ _

theorem State.tidy_goOn {s : State} (h : s.tidy) (b bank : Nat) : (s.goOn b bank).tidy := by
  have hr := State.tidy_ctxRead (State.tidy_setCur h (.ctx b bank .X)) (((s.bank b bank).x.pc.toNat + 2 ^ 48 - 16) % 2 ^ 48) 16 0 false
  unfold State.goOn
  dsimp only
  refine State.tidy_ite h ?_
  generalize hs1 : (if (s.bank b bank).x.began = true then s else _ : State) = s1
  have h1 : s1.tidy := by
    rw [← hs1]
    refine State.tidy_ite h ?_
    split
    · next e => exact State.tidy_fst hr e
    · next e => exact State.tidy_modBank (State.tidy_fst hr e) _ _ fun _ hk => Bank.tidy_vector hk _
  refine State.tidy_ite (State.tidy_modBank h1 _ _ fun _ hk => Bank.tidy_checkpoint ?_) h1
  exact hk

theorem execTaskStart_tidy {s : State} (h : s.tidy) : NextTidy (execTaskStart s) := by
  unfold execTaskStart
  dsimp only
  split
  · exact nextTidy_next (State.tidy_deliverTask h _ _)
  · exact nextTidy_next (State.tidy_startSpawn h _)
  · exact nextTidy_next (State.tidy_goOn h _ _)

theorem State.tidy_spawnerFault {s : State} (h : s.tidy) (l : Launch) (r : Spawn) (code va : Nat) : (s.spawnerFault l r code va).tidy := by
  unfold State.spawnerFault
  dsimp only
  split
  · exact State.tidy_fault h _ _ _
  · exact State.tidy_doomLaunch (State.tidy_post h _ _) _ _ _ _ _

theorem State.tidy_queueTask {s : State} (h : s.tidy) (p : Packet) (r : Spawn) : (s.queueTask p r).tidy := by
  unfold State.queueTask
  dsimp only
  split
  · exact h
  next l _ =>
  have hs := State.tidy_seqTouch h l.vi .seqWrite (l.tspb + 128 * l.spill.length) 128
  refine State.tidy_ite (State.tidy_modLaunch h _ _) ?_
  split
  · next hroom =>
    rw [Bool.and_eq_true, decide_eq_true_eq] at hroom
    refine State.tidy_modBraid_of h _ (Braid.tidy_setTaskQ (State.tidy_braid h _) ?_)
    rw [List.length_append]
    exact hroom.1
  refine State.tidy_ite (State.tidy_spawnerFault h _ _ _ _) ?_
  split
  · next e => exact State.tidy_later (State.tidy_fst hs e) _ _
  · next e => exact State.tidy_later (State.tidy_spawnerFault (State.tidy_fst hs e) _ _ _ _) _ _
  · next e => exact State.tidy_spawnerFault (State.tidy_fst hs e) _ _ _ _
  · next e => exact State.tidy_modLaunch (State.tidy_homePuts (State.tidy_fst hs e) _ _) _ _

theorem execCtrl_tidy {s : State} (h : s.tidy) (p : Packet) : NextTidy (execCtrl p s) := by
  unfold execCtrl
  split
  · refine nextTidy_next ?_
    exact State.tidy_of_braids h rfl
  · refine nextTidy_next ?_
    exact State.tidy_of_braids h rfl
  · exact nextTidy_next (State.tidy_queueTask h _ _)
  · exact nextTidy_next h

theorem execTaskSpillReturn_tidy {s : State} (h : s.tidy) : NextTidy (execTaskSpillReturn s) := by
  unfold execTaskSpillReturn
  split
  · exact nextTidy_next h
  split
  · exact nextTidy_next h
  next r e =>
  have hl := List.find?_some e
  refine nextTidy_next (State.tidy_modLaunch (State.tidy_modBraid_of h _ (Braid.tidy_setTaskQ (State.tidy_braid h _) ?_)) _ _)
  rw [List.length_append]
  exact of_decide_eq_true hl

theorem State.tidy_modHeap {s : State} (h : s.tidy) (key : Nat) (f : Heap → Heap) : (s.modHeap key f).tidy := h

theorem execHeap_tidy {s : State} (h : s.tidy) (p : Packet) : NextTidy (execHeap p s) := by
  unfold execHeap
  dsimp only
  split
  · split
    · exact nextTidy_next (State.tidy_later (State.tidy_draw (State.tidy_ite h (State.tidy_sendCtl h _ _))) _ _)
    · split
      · exact nextTidy_next (State.tidy_ite (State.tidy_modHeap (State.tidy_ite h (State.tidy_sendCtl h _ _)) _ _)
            (State.tidy_ite h (State.tidy_sendCtl h _ _)))
      · exact nextTidy_next (State.tidy_ite (State.tidy_later (State.tidy_draw (State.tidy_ite h (State.tidy_sendCtl h _ _))) _ _)
            (State.tidy_modHeap (State.tidy_ite h (State.tidy_sendCtl h _ _)) _ _))
  · exact nextTidy_next h

theorem execGainRefusal_tidy {s : State} (h : s.tidy) (o : HeapOp) : NextTidy (execGainRefusal o s) := by
  unfold execGainRefusal
  split
  · split
    · exact nextTidy_next (State.tidy_fault h _ _ _)
    · exact nextTidy_next h
  · exact nextTidy_next h

theorem State.tidy_batchFails {s : State} (h : s.tidy) (key status : Nat) (o : HeapOp) : (s.batchFails key status o).tidy := by
  unfold State.batchFails
  split
  · exact h
  · exact State.tidy_completeHeap (State.tidy_modLaunch (State.tidy_post h _ _) _ _) _ _ _ _

theorem State.tidy_commitRound {s : State} (hs : s.tidy) (key : Nat) (h : Heap) : (s.commitRound key h).tidy := by
  unfold State.commitRound
  dsimp only
  split
  · exact State.tidy_modHeap (State.tidy_openEvent hs _ _ _ _) _ _
  · exact State.tidy_doomLaunch (State.tidy_post hs _ _) _ _ _ _ _

theorem State.tidy_updateRound {s : State} (hs : s.tidy) (key : Nat) (h : Heap) : (s.updateRound key h).tidy := by
  unfold State.updateRound
  dsimp only
  split
  · exact State.tidy_batchFails hs _ _ _
  · split
    · split
      · exact State.tidy_completeHeap (State.tidy_modHeap hs _ _) _ _ _ _
      · split
        · exact State.tidy_completeHeap (State.tidy_modHeap hs _ _) _ _ _ _
        · exact State.tidy_modHeap hs _ _
    · split
      · exact State.tidy_completeHeap (State.tidy_modHeap hs _ _) _ _ _ _
      · split
        · exact State.tidy_completeHeap (State.tidy_modHeap hs _ _) _ _ _ _
        · exact State.tidy_modHeap hs _ _

theorem execHeapRun_tidy {s : State} (h : s.tidy) : NextTidy (execHeapRun s) := by
  unfold execHeapRun
  dsimp only
  split
  · exact nextTidy_next h
  · split
    · exact nextTidy_next h
    · split
      · exact nextTidy_next h
      · split
        · exact nextTidy_next (State.tidy_batchFails h _ _ _)
        · exact nextTidy_next (State.tidy_modHeap h _ _)
    · split
      · exact nextTidy_next (State.tidy_updateRound h _ _)
      · split
        · exact nextTidy_next h
        · split
          · split
            · exact nextTidy_next (State.tidy_completeHeap h _ _ _ _)
            · exact nextTidy_next (State.tidy_modHeap h _ _)
          · split
            · exact nextTidy_next (State.tidy_commitRound h _ _)
            · exact nextTidy_next h

theorem execRoundTaskStart_tidy {s : State} (h : s.tidy) : NextTidy (execRoundTaskStart s) := by
  unfold execRoundTaskStart
  dsimp only
  split
  · exact nextTidy_next h
  split
  · exact nextTidy_ite (nextTidy_next h) (nextTidy_next (State.tidy_withMap h _ _ fun _ _ ht =>
      State.tidy_modLaunch (State.tidy_modHeap (State.tidy_startTask ht _ _ _ _) _ _) _ _))
  · exact nextTidy_next h

theorem State.tidy_prefixPut {s : State} (h : s.tidy) (n : Nat) (e : PEntry) : (s.prefixPut n e).tidy := h

theorem State.tidy_prefixDone {s : State} (h : s.tidy) (l : Launch) (rstat : Nat) (e : Option PEntry) : (s.prefixDone l rstat e).tidy := by
  unfold State.prefixDone
  split
  · next e1 => exact State.tidy_endLaunch (State.tidy_fst (State.tidy_seqWrite h _ _ _) e1) _ _
  · next e1 => exact State.tidy_endLaunch (State.tidy_fst (State.tidy_seqWrite h _ _ _) e1) _ _

theorem execPrefixLookup_tidy {s : State} (h : s.tidy) : NextTidy (execPrefixLookup s) := by
  unfold execPrefixLookup
  split
  · exact nextTidy_next h
  · split
    · exact nextTidy_next (State.tidy_endLaunch h _ _)
    · split
      · exact nextTidy_next (State.tidy_prefixDone h _ _ _)
      · split
        · exact nextTidy_next (State.tidy_prefixDone h _ _ _)
        · exact nextTidy_next (State.tidy_prefixDone (State.tidy_prefixPut h _ _) _ _ _)

theorem execPrefixInsert_tidy {s : State} (h : s.tidy) : NextTidy (execPrefixInsert s) := by
  unfold execPrefixInsert
  split
  · exact nextTidy_next h
  · split
    · exact nextTidy_next (State.tidy_endLaunch h _ _)
    · split
      · exact nextTidy_next (State.tidy_prefixDone h _ _ _)
      · split
        · exact nextTidy_next (State.tidy_prefixDone (State.tidy_modIface h _ _) _ _ _)
        · split
          · exact nextTidy_next (State.tidy_prefixDone h _ _ _)
          · exact nextTidy_next (State.tidy_prefixDone (State.tidy_prefixPut (State.tidy_ite (State.tidy_modIface h _ _) h) _ _) _ _ _)

theorem execPrefixUnpin_tidy {s : State} (h : s.tidy) : NextTidy (execPrefixUnpin s) := by
  unfold execPrefixUnpin
  split
  · exact nextTidy_next h
  · split
    · exact nextTidy_next (State.tidy_endLaunch h _ _)
    · split
      · exact nextTidy_next (State.tidy_prefixDone h _ _ _)
      · split
        · exact nextTidy_next (State.tidy_prefixDone h _ _ _)
        · exact nextTidy_next (State.tidy_prefixDone (State.tidy_prefixPut h _ _) _ _ _)

end Sys2Proof.Machine
end

section
/-! SUPPORT. What keeps the order: suspension, pre-emption, cancellation and slots (R299 to R316, R341). -/

namespace Sys2Proof.Machine

theorem State.tidy_saveRegs {s : State} (h : s.tidy) (b bank : Nat) : (s.saveRegs b bank).tidy :=
  State.tidy_homePuts (State.tidy_homePuts h _ _) _ _

theorem State.tidy_restoreRegs {s : State} (h : s.tidy) (b bank : Nat) : (s.restoreRegs b bank).tidy := State.tidy_modBraid h _ fun _ hx =>
    hx

theorem State.tidy_serveAt {s : State} (h : s.tidy) (v b : Nat) (a : Acc) (va : Nat) : (s.serveAt v b a va).1.tidy := by
  unfold State.serveAt
  split
  · exact State.tidy_serveLight h _ _ _
  · exact State.tidy_askHost h _ _
  · exact h

theorem State.tidy_spillAll (b bank : Nat) (l : List MLine) : ∀ {s : State} (_ : s.tidy), (s.spillAll b bank l).1.tidy := by
  induction l with
  | nil => exact fun h => h
  | cons e l ih => exact fun h => andThen_tidy (State.tidy_spill (State.tidy_serveAt h _ _ _ _) _ _ _) fun _ h => ih h

/-- A bank put aside, its merge lines with it where it ran. -/
theorem State.tidy_putAside {s : State} (h : s.tidy) (b bank : Nat) {f : Braid → Bank} (hf : ∀ x : Braid, (x.bank bank).tidy → (f x).tidy) :
    (((s.closeUse b bank).modBraid b fun x => x.setBank bank (f x)).modBraid b fun x => if x.runBank = bank then { x with merge := [] } else
        x).tidy := by
  refine State.tidy_modBraid (State.tidy_modBraid (State.tidy_closeUse h _ _) b fun x hx => ?_) b fun x hx => ?_
  · exact Braid.tidy_setBank hx _ (hf x (Braid.tidy_bank hx _))
  · split
    · exact hx
    · exact hx

theorem execSuspend_tidy {s : State} (h : s.tidy) : NextTidy (execSuspend s) := by
  have hs := State.tidy_spillAll s.agent.1 s.agent.2.1
    (if (s.braid s.agent.1).runBank = s.agent.2.1 then (s.braid s.agent.1).merge.reverse else [])
        (State.tidy_saveRegs h s.agent.1 s.agent.2.1)
  unfold execSuspend
  dsimp only
  refine nextTidy_ite (nextTidy_next h) ?_
  split
  · next e => 
    refine nextTidy_next (State.tidy_putAside (State.tidy_fst hs e) s.agent.1 s.agent.2.1 ?_)
    intro x hk
    generalize x.bank s.agent.2.1 = k at hk ⊢
    exact hk
  · next e => exact nextTidy_next (State.tidy_fst hs e)
  · next e =>
    refine nextTidy_ite (nextTidy_next (State.tidy_putAside (State.tidy_contend (State.tidy_fst hs e) _ _) s.agent.1 s.agent.2.1 ?_))
      (nextTidy_next (State.tidy_raise (State.tidy_fst hs e) _ _ _))
    intro x hk
    generalize x.bank s.agent.2.1 = k at hk ⊢
    exact hk

theorem State.tidy_refuse {s : State} (h : s.tidy) (b bank : Nat) (u : Susp) : (s.refuse b bank u).tidy :=
  State.tidy_raise h _ _ _

theorem State.tidy_modSusp {s : State} (h : s.tidy) (b bank : Nat) (f : Susp → Susp) :
    (s.modSusp b bank f).tidy := State.tidy_modBank h _ _ fun _ hk => hk

theorem execTokenRecordPost_tidy {s : State} (h : s.tidy) : NextTidy (execTokenRecordPost s) := by
  unfold execTokenRecordPost
  dsimp only
  split
  · exact nextTidy_next h
  next u _ =>
  refine nextTidy_ite (nextTidy_next h) ?_
  generalize hs1 : (if u.token.isSome = true then s else _ : State) = s1
  have h1 : s1.tidy := hs1 ▸ State.tidy_ite h (State.tidy_modSusp (State.tidy_modIface h _ _) _ _ _)
  have h2 : ∀ v r, (s1.postTry v r).1.tidy := fun v r => State.tidy_of_braids h1 (s1.braids_postTry v r)
  split
  · next e => exact nextTidy_next (State.tidy_modSusp (State.tidy_fst (h2 _ _) e) _ _ _)
  · next e => exact nextTidy_next (State.tidy_refuse (State.tidy_fst (h2 _ _) e) _ _ _)
  · next e => exact nextTidy_next (State.tidy_fst (h2 _ _) e)

theorem execTokenRetry_tidy {s : State} (h : s.tidy) (v tok : Nat) : NextTidy (execTokenRetry v tok s) := by
  unfold execTokenRetry
  split
  · exact nextTidy_next h
  · exact nextTidy_next (State.tidy_modSusp h _ _ _)

theorem execTokenRefuse_tidy {s : State} (h : s.tidy) (v tok : Nat) : NextTidy (execTokenRefuse v tok s) := by
  unfold execTokenRefuse
  split
  · exact nextTidy_next h
  · exact nextTidy_next (State.tidy_refuse h _ _ _)

theorem execLightFault_tidy {s : State} (h : s.tidy) : NextTidy (execLightFault s) := by
  unfold execLightFault
  dsimp only
  split
  · exact nextTidy_next h
  · split
    · exact nextTidy_next h
    · split
      · next e => exact nextTidy_next (State.tidy_modSusp (State.tidy_fst (State.tidy_serveAt h _ _ _ _) e) _ _ _)
      · next e => exact nextTidy_next (State.tidy_fst (State.tidy_serveAt h _ _ _ _) e)

theorem Bank.tidy_resumed {k : Bank} (h : k.tidy) (m : Mode) (now : Nat) (t : Option Task) : ({ k with
    mode := m, susp := none, yielded := false, startAt := now, parked := [], chans := k.chans.map fun e =>
        (e.1, { e.2 with stalled := false }), task := t } : Bank).tidy :=
  Bank.tidy_mapChans (k := { k with mode := m, susp := none, yielded := false, startAt := now, parked := [], task := t }) h fun _ =>
      le_refl _

theorem State.tidy_resumeBank {s : State} (h : s.tidy) (b bank : Nat) : (s.resumeBank b bank).tidy := by
  unfold State.resumeBank
  refine State.tidy_modBraid (State.tidy_restoreRegs h b bank) b fun x hx => ?_
  have hy : ({ (if x.runBank = bank then x else x.dropLeases) with runBank := bank, merge := (x.bank bank).parked } : Braid).tidy := by
    split
    · exact hx
    · exact hx
  exact Braid.tidy_setBank hy _ (Bank.tidy_resumed (Braid.tidy_bank hy _) _ _ _)

theorem execBankSwitch_tidy {s : State} (h : s.tidy) : NextTidy (execBankSwitch s) := by
  unfold execBankSwitch
  dsimp only
  split
  · exact nextTidy_next h
  · split
    · split
      · exact nextTidy_next (State.tidy_resumeBank h _ _)
      · split
        · exact nextTidy_next (State.tidy_resumeBank h _ _)
        · split
          · exact nextTidy_next (State.tidy_resumeBank h _ _)
          · exact nextTidy_next h
    · split
      · split
        · refine nextTidy_next (State.tidy_modBank h _ _ ?_)
          exact fun _ hx => hx
        · exact nextTidy_next h
      · split
        · refine nextTidy_next (State.tidy_modBank h _ _ ?_)
          exact fun _ hx => hx
        · exact nextTidy_next h

theorem State.tidy_stopTask {s : State} (h : s.tidy) (b bank : Nat) : (s.stopTask b bank).tidy :=
  State.tidy_endTask (State.tidy_dropPhase (State.tidy_modBank h _ _ fun _ hx => Bank.tidy_stopAll hx) _ _) _ _

theorem State.tidy_dropSpawns {s : State} (h : s.tidy) (uid : Nat) (p : Spawn → Bool) : (s.dropSpawns uid p).tidy := by
  refine State.tidy_modLaunch (fun e he => ?_) _ _
  obtain ⟨d, hd, rfl⟩ := List.mem_map.mp he
  exact Braid.tidy_setTaskQ (h d hd) ((List.length_filter_le _ _).trans (Braid.taskQ_length (h d hd)))

theorem State.tidy_pauseRound {s : State} (h : s.tidy) (uid : Nat) : (s.pauseRound uid).tidy := by
  unfold State.pauseRound
  split
  · exact h
  next key hp _ =>
  dsimp only
  refine State.tidy_ite h ?_
  generalize hs1 : List.foldl _ s _ = s1
  have h1 : s1.tidy := hs1 ▸ State.tidy_foldl (fun _ e h => State.tidy_stopTask h e.1 e.2) _ h
  generalize hs2 : (if (s1.events.any fun e => e.2.begun && e.2.round == some (key / 16, key % 16)) = true then s1 else _ : State) = s2
  have h2 : s2.tidy := hs2 ▸ State.tidy_ite h1 (State.tidy_of_braids h1 rfl)
  exact State.tidy_ite (State.tidy_modHeap h2 _ _) (State.tidy_modHeap (State.tidy_dropSpawns h2 _ _) _ _)

theorem execPreemption_tidy {s : State} (h : s.tidy) : NextTidy (execPreemption s) := by
  unfold execPreemption
  dsimp only
  generalize hs : State.modBraid _ s.agent.2.1 _ = t
  have ht : t.tidy := by
    rw [← hs]
    refine State.tidy_modBraid (State.tidy_pauseRound (State.tidy_modLaunch h _ _) _) _ ?_
    exact fun _ hx => hx
  split
  · exact nextTidy_next ht
  · refine nextTidy_next (State.tidy_modBank ht _ _ fun k hk => ?_)
    split
    · exact hk
    · exact hk

theorem execLaunchResume_tidy {s : State} (h : s.tidy) : NextTidy (execLaunchResume s) := by
  unfold execLaunchResume
  dsimp only
  split
  · exact nextTidy_next h
  next l _ =>
  refine nextTidy_ite (nextTidy_next h) ?_
  have h3 : (l.deliver.foldl (fun (st : State) e => st.modBraid e.1 fun x => { x with reserved := some l.uid })
      ((s.banksOf l).foldl (fun (st : State) e => if (st.bank e.1 e.2).mode = .preempted then st.resumeBank e.1 e.2 else st)
        (s.modLaunch l.uid fun m => { m with preempted := false }))).tidy := by
    refine State.tidy_foldl (fun _ e h => State.tidy_modBraid h e.1 ?_) _
      (State.tidy_foldl (fun _ e h => State.tidy_ite (State.tidy_resumeBank h e.1 e.2) h) _ (State.tidy_modLaunch h _ _))
    exact fun _ hx => hx
  split
  · exact nextTidy_next (State.tidy_modHeap h3 _ _)
  · exact nextTidy_next h3

theorem State.tidy_cancelTask {s : State} (h : s.tidy) (b bank : Nat) : (s.cancelTask b bank).tidy := by
  unfold State.cancelTask
  dsimp only
  split
  · exact h
  · exact State.tidy_idleRest (State.tidy_stopTask (State.tidy_modLaunch (State.tidy_post h _ _) _ _) _ _) _ _

theorem execCancellation_tidy {s : State} (h : s.tidy) : NextTidy (execCancellation s) := by
  unfold execCancellation
  dsimp only
  refine nextTidy_ite (nextTidy_next (State.tidy_ite (State.tidy_cancelTask h _ _) h)) ?_
  generalize hs : State.modLaunch _ s.agent.1 _ = t
  have ht : t.tidy := by
    rw [← hs]
    refine State.tidy_modLaunch (State.tidy_modBraid ?_ _ fun x hx => ?_) _ _
    · split
      · exact State.tidy_completeHeap h _ _ _ _
      · exact h
    · exact Braid.tidy_setTaskQ (x := { x with reserved := _ }) hx ((List.length_filter_le _ _).trans (Braid.taskQ_length hx))
  split
  · exact nextTidy_next ht
  · refine nextTidy_ite (nextTidy_next (State.tidy_modBank ht _ _ ?_)) (nextTidy_next (State.tidy_cancelTask ht _ _))
    exact fun _ hk => hk

theorem execDiscard_tidy {s : State} (h : s.tidy) : NextTidy (execDiscard s) := by
  unfold execDiscard
  dsimp only
  split
  · exact nextTidy_next h
  · exact nextTidy_next (State.tidy_idleRest (State.tidy_stopTask (State.tidy_modLaunch h _ _) _ _) _ _)

theorem execBraidStall_tidy {s : State} (h : s.tidy) : NextTidy (execBraidStall s) := by
  unfold execBraidStall
  dsimp only
  split
  · refine nextTidy_next (State.tidy_ite h (State.tidy_modBank h _ _ ?_))
    exact fun _ hx => hx
  · split
    · refine nextTidy_next (State.tidy_modBank h _ _ ?_)
      exact fun _ hx => hx
    · refine nextTidy_next (State.tidy_raise (State.tidy_modBank h _ _ ?_) _ _ _)
      exact fun _ hx => hx

theorem State.tidy_announce {s : State} (h : s.tidy) : s.announce.tidy := by
  unfold State.announce
  split <;> exact h

theorem State.tidy_deadline {s : State} (h : s.tidy) (slot : Nat) (l : Launch) : (s.deadline slot l).tidy :=
  State.tidy_ite h (State.tidy_ite (State.tidy_endLaunch h _ _) (State.tidy_ite h
    (State.tidy_foldl (fun _ _ h => State.tidy_later h _ _) _ (State.tidy_modLaunch h _ _))))

theorem State.tidy_preemptAt {s : State} (h : s.tidy) (east : Bool) (slot : Nat) : (s.preemptAt east slot).tidy := by
  unfold State.preemptAt
  split
  · exact h
  split
  · exact h
  · exact State.tidy_foldl (fun _ m h => State.tidy_foldl (fun _ _ h => State.tidy_later h _ _) _ (State.tidy_modLaunch h _ _)) _ h

theorem State.tidy_atBoundary {s : State} (h : s.tidy) (east : Bool) : (s.atBoundary east).tidy :=
  State.tidy_preemptAt (State.tidy_foldl (fun _ l h => State.tidy_deadline h _ l) _ h) _ _

theorem execSlotBoundary_tidy {s : State} (h : s.tidy) : NextTidy (execSlotBoundary s) := by
  unfold execSlotBoundary
  dsimp only
  split
  · exact nextTidy_next h
  · split
    · split
      · exact nextTidy_next h
      · refine nextTidy_next (State.tidy_atBoundary (State.tidy_announce ?_) _)
        exact State.tidy_of_braids h rfl
    · split
      · exact nextTidy_next h
      · refine nextTidy_next (State.tidy_atBoundary ?_ _)
        exact State.tidy_of_braids h rfl

theorem execSlotref_tidy {s : State} (h : s.tidy) (offset : Int) : NextTidy (execSlotref offset s) := by
  unfold execSlotref
  split
  · exact nextTidy_next h
  · refine nextTidy_next ?_
    exact State.tidy_of_braids h rfl

theorem execSlotrefTimeout_tidy {s : State} (h : s.tidy) : NextTidy (execSlotrefTimeout s) := by
  unfold execSlotrefTimeout
  split
  · refine nextTidy_next ?_
    exact State.tidy_of_braids h rfl
  · exact nextTidy_next h

theorem execSlotAnnouncement_tidy {s : State} (h : s.tidy) (num tick : Nat) : NextTidy (execSlotAnnouncement num tick s) := by
  refine nextTidy_next (State.tidy_ite (State.tidy_later ?_ _ _) ?_)
  · exact State.tidy_of_braids h rfl
  · exact State.tidy_of_braids h rfl

theorem execSlotAck_tidy {s : State} (h : s.tidy) (num : Nat) : NextTidy (execSlotAck num s) := by
  refine nextTidy_next ?_
  exact State.tidy_of_braids h rfl

theorem State.tidy_scrubbed {s : State} (h : s.tidy) (east : Bool) (e : Nat × Bool) : (s.scrubbed east e).tidy := by
  unfold State.scrubbed
  dsimp only
  split
  · exact State.tidy_of_braids (State.tidy_noteErr h _ _ _ _ _ _ _) rfl
  · exact State.tidy_noteErr h _ _ _ _ _ _ _

end Sys2Proof.Machine
end

section
/-! SUPPORT. What keeps the order: scrubs, links, the host, administration and boot. -/

namespace Sys2Proof.Machine

theorem execRowRefresh_tidy {s : State} (h : s.tidy) (die row : Nat) (bad : List (Nat × Bool)) :
    NextTidy (execRowRefresh die row bad s) := by
  refine nextTidy_next (State.tidy_foldl (fun _ e h => State.tidy_scrubbed h _ e) _ ?_)
  exact State.tidy_of_braids h rfl

theorem State.tidy_withMem {s : State} (h : s.tidy) (mem : MemSide) : ({ s with mem } : State).tidy := h

theorem execL2Scrub_tidy {s : State} (h : s.tidy) (die sb : Nat) (err : Option Nat) : NextTidy (execL2Scrub die sb err s) := by
  cases err with
  | none => exact nextTidy_next h
  | some i =>
    have h1 := fun l => State.tidy_setL2 h (die == 1) l
    exact nextTidy_next (State.tidy_noteErr (State.tidy_ite (h1 _) (State.tidy_toHost (State.tidy_withMem (h1 _) _) _)) _ _ _ _ _ _ _)

theorem execInFieldTest_tidy {s : State} (h : s.tidy) : NextTidy (execInFieldTest s) := by
  refine nextTidy_ite (nextTidy_next h) (nextTidy_next (State.tidy_modBraid h _ fun x hx => ?_))
  split
  · exact hx
  · exact hx

theorem execInFieldTestEnd_tidy {s : State} (h : s.tidy) (b : Nat) (pass : Bool) : NextTidy (execInFieldTestEnd b pass s) := by
  unfold execInFieldTestEnd
  split
  · exact nextTidy_next h
  have h1 : (s.modBraid b fun x => { x with testEnd := none, testAt := s.cycle }).tidy := State.tidy_modBraid h b fun _ hx => hx
  refine nextTidy_ite (nextTidy_next h) (nextTidy_ite (nextTidy_next (State.tidy_modBraid ?_ b ?_))
      (nextTidy_next (State.tidy_fence (State.tidy_foldl
    (fun _ _ h => State.tidy_post h _ _) _ h1) b)))
  · exact State.tidy_of_braids h1 rfl
  · exact fun _ hx => hx

theorem execErrbankClear_tidy {s : State} (h : s.tidy) (die bank : Nat) : NextTidy (execErrbankClear die bank s) := by
  refine nextTidy_next (State.tidy_ite h ?_)
  exact State.tidy_of_braids h rfl

theorem State.tidy_offFlit {s : State} (h : s.tidy) (e : Nat × Flit) : (s.offFlit e).tidy := by
  unfold State.offFlit
  dsimp only
  split <;> exact h

theorem State.tidy_offWord {s : State} (h : s.tidy) (e : Nat × RetWord) : (s.offWord e).tidy := by
  unfold State.offWord
  dsimp only
  split <;> exact h

theorem State.tidy_unpack {s : State} (h : s.tidy) (c : Carried) : (s.unpack c).tidy :=
  State.tidy_foldl (fun _ e h => State.tidy_offWord h e) _ (State.tidy_foldl (fun _ e h => State.tidy_offFlit h e) _ h)

theorem execSpliceFlit_tidy {s : State} (h : s.tidy) (cr : Nat) (toEast ok : Bool) : NextTidy (execSpliceFlit cr toEast ok s) := by
  unfold execSpliceFlit
  dsimp only
  split
  · exact nextTidy_next h
  · split
    · exact nextTidy_next (State.tidy_unpack (State.tidy_modCrossing h _ _) _)
    · exact nextTidy_next (State.tidy_noteErr (State.tidy_modCrossing h _ _) _ _ _ _ _ _ _)

theorem execFlitReplay_tidy {s : State} (h : s.tidy) : NextTidy (execFlitReplay s) := by
  unfold execFlitReplay
  dsimp only
  split
  · exact nextTidy_next h
  · split
    · exact nextTidy_next h
    · exact nextTidy_next (State.tidy_modCrossing (State.tidy_draw h) _ _)

theorem State.tidy_retrain {s : State} (h : s.tidy) (c : Nat) (restore : Bool) : (s.retrain c restore).tidy := by
  unfold State.retrain
  dsimp only
  split <;> exact h

theorem execRetrain_tidy {s : State} (h : s.tidy) : NextTidy (execRetrain s) :=
  nextTidy_next (State.tidy_retrain h _ _)

theorem execSpliceRetrainA_tidy {s : State} (h : s.tidy) : NextTidy (execSpliceRetrainA s) :=
  nextTidy_next (State.tidy_retrain h _ _)

theorem execSpliceRetrainB_tidy {s : State} (h : s.tidy) : NextTidy (execSpliceRetrainB s) :=
  nextTidy_next (State.tidy_retrain h _ _)

theorem execHostLinkRetrain_tidy {s : State} (h : s.tidy) : NextTidy (execHostLinkRetrain s) :=
  nextTidy_next (State.tidy_retrain h _ _)

theorem State.tidy_replayAll {s : State} (h : s.tidy) (c : Nat) : (s.replayAll c).tidy := h
theorem State.tidy_replayFrames {s : State} (h : s.tidy) (port : Nat) : (s.replayFrames port).tidy := h

theorem State.tidy_portRetrained {s : State} (h : s.tidy) (port : Nat) : (s.portRetrained port).tidy := by
  unfold State.portRetrained
  split
  · exact State.tidy_modHop (State.tidy_replayFrames (State.tidy_modCrossing h _ _) _) _ _
  · exact State.tidy_hopAudit (State.tidy_modHop (State.tidy_replayFrames (State.tidy_modCrossing h _ _) _) _ _)

theorem State.tidy_laneLoss {s : State} (h : s.tidy) (link : Nat) (fewer : Bool) : (s.laneLoss link fewer).tidy := by
  unfold State.laneLoss
  split <;> exact h

theorem execRetrainComplete_tidy {s : State} (h : s.tidy) (link lanes0 lanes1 : Nat) :
    NextTidy (execRetrainComplete link lanes0 lanes1 s) := by
  unfold execRetrainComplete
  dsimp only
  refine nextTidy_ite (nextTidy_next h) (nextTidy_ite (nextTidy_next (State.tidy_ite (State.tidy_portRetrained h _) h)) ?_)
  split
  · exact nextTidy_next h
  · exact nextTidy_next (State.tidy_laneLoss (State.tidy_foldl (fun _ k h => State.tidy_sendAudit h k) _
      (State.tidy_foldl (fun _ _ h => State.tidy_modLink h _ _) _ (State.tidy_replayAll (State.tidy_modCrossing h _ _) _))) _ _)

theorem State.tidy_linkDownFor {s : State} (h : s.tidy) (p : Nat → Bool) : (s.linkDownFor p).tidy := by
  have one : ∀ (t : State) (b bank : Nat), t.tidy → (match (t.bank b bank).task with
      | some u => if p u.vi then t.endByFault b bank { code := 26, src := 0, ctx := .X, epc := (t.bank b bank).x.pc } else t
      | none => t : State).tidy := by
    intro t b bank ht
    split
    · exact State.tidy_ite (State.tidy_endByFault ht _ _ _) ht
    · exact ht
  exact State.tidy_foldl (fun _ l h => State.tidy_doomLaunch h _ _ _ _ _) _ (State.tidy_foldl (fun t e ht => one _ e.1 1 (one t e.1 0 ht)) _
      h)

theorem State.tidy_withPorts {s : State} (h : s.tidy) (ports : Tab Port) : ({ s with ports } : State).tidy := h
theorem State.tidy_withAdmin {s : State} (h : s.tidy) (admin : Admin) : ({ s with admin } : State).tidy := h

theorem execLinkDown_tidy {s : State} (h : s.tidy) : NextTidy (execLinkDown s) :=
  have h1 := fun f => State.tidy_modCrossing h s.agent.1 f
  nextTidy_ite (nextTidy_next h) (nextTidy_ite (nextTidy_next (State.tidy_linkDownFor (State.tidy_withPorts (h1 _) _) _))
    (nextTidy_next (State.tidy_linkDownFor (State.tidy_withAdmin (h1 _) _) _)))

theorem State.tidy_portArrive {s : State} (h : s.tidy) (p : Packet) (vc : Nat) : (s.portArrive p vc).tidy := by
  unfold State.portArrive
  split
  · exact State.tidy_toPort h _ _ _
  · split
    · exact State.tidy_later h _ _
    · refine State.tidy_modBraid h _ ?_
      exact fun _ hx => hx

theorem State.tidy_portWord {s : State} (h : s.tidy) (w : RetWord) : (s.portWord w).tidy := by
  unfold State.portWord
  split
  · exact State.tidy_modHop h _ _
  · split
    · exact State.tidy_modHop h _ _
    · exact State.tidy_auditApplied (State.tidy_modHop h _ _) _ _

theorem execPortFrame_tidy {s : State} (h : s.tidy) (port : Nat) (fr : PortFrame) : NextTidy (execPortFrame port fr s) := by
  unfold execPortFrame
  dsimp only
  refine nextTidy_ite (nextTidy_next h) (nextTidy_ite (nextTidy_next (State.tidy_noteErr h _ _ _ _ _ _ _))
      (nextTidy_ite (nextTidy_next h) ?_))
  have h1 := fun f => State.tidy_modCrossing h (3 + port) f
  have h2 := fun f => State.tidy_ite (c := port = 1) (State.tidy_foldl (fun _ e h => State.tidy_portWord h e) fr.words (h1 f)) (h1 f)
  split
  · exact nextTidy_ite (nextTidy_next (State.tidy_ite (State.tidy_portArrive (State.tidy_modHop (h2 _) _ _) _ _)
        (State.tidy_modHop (h2 _) _ _))) (nextTidy_next (h2 _))
  · exact nextTidy_next (h2 _)

theorem State.tidy_foreign {s : State} (h : s.tidy) (off : Nat) : (s.foreign off).tidy := h

theorem execCxlMemRead_tidy {s : State} (h : s.tidy) (v off n : Nat) : NextTidy (execCxlMemRead v off n s) :=
  nextTidy_ite (nextTidy_next (State.tidy_toHost (State.tidy_foldl (fun _ ln h => State.tidy_readLine h v ln false) _ h) _))
    (nextTidy_next (State.tidy_toHost (State.tidy_foreign h off) _))

theorem execCxlMemWrite_tidy {s : State} (h : s.tidy) (v off : Nat) (data : List Byte) : NextTidy (execCxlMemWrite v off data s) := by
  unfold execCxlMemWrite
  split
  · refine nextTidy_next ?_
    exact State.tidy_of_braids (State.tidy_homePuts h _ _) rfl
  · exact nextTidy_next (State.tidy_foreign h _)

/-- Something of every braid is changed that the order does not speak of. -/
theorem State.tidy_mapBraids {s t : State} (h : s.tidy) {f : Braid → Braid} (e : t.braids = s.braids.map fun e => (e.1, f e.2))
    (hf : ∀ x, x.tidy → (f x).tidy) :
    t.tidy := by
  intro a ha
  rw [e] at ha
  obtain ⟨d, hd, rfl⟩ := List.mem_map.mp ha
  exact hf _ (h d hd)

theorem execSnoop_tidy {s : State} (h : s.tidy) (pa : Nat) : NextTidy (execSnoop pa s) := by
  unfold execSnoop
  dsimp only
  have h1 := fun m => State.tidy_mapBraids (t := { s.dropHost (pa / 64) with
    braids := (s.dropHost (pa / 64)).braids.map fun e => (e.1, { e.2 with l1 := dropL1 e.2.l1 fun l => l.pa / 64 == pa / 64 }), mem := m })
    (State.tidy_dropHost h (pa / 64)) (f := fun x => { x with l1 := dropL1 x.l1 fun l => l.pa / 64 == pa / 64 }) rfl fun _ hx => hx
  exact nextTidy_next (State.tidy_ite (h1 _) (State.tidy_toHost (h1 _) _))

theorem execCxlCacheResponse_tidy {s : State} (h : s.tidy) (pa : Nat) (data : List Byte) : NextTidy (execCxlCacheResponse pa data s) := by
  unfold execCxlCacheResponse
  dsimp only
  refine nextTidy_ite (nextTidy_next h) (nextTidy_ite (nextTidy_next (State.tidy_next (State.tidy_l2Take (State.tidy_setMem h _) _ _ _) _))
    (nextTidy_next (State.tidy_foldl (fun t w ht => ?_) _ (State.tidy_toHost (State.tidy_setMem h _) _))))
  split
  · exact State.tidy_sendMem ht _ _ _ _ _ _
  · exact ht

theorem State.tidy_command {s : State} (h : s.tidy) (status : Nat) : (s.command status).tidy := h
theorem State.tidy_finishCommand {s : State} (h : s.tidy) (status : Nat) : (s.finishCommand status).tidy := h

theorem execCreate_tidy {s : State} (h : s.tidy) (v : Nat) (c : CreateArgs) : NextTidy (execCreate v c s) := by
  unfold execCreate
  split
  · exact nextTidy_next h
  · split
    · exact nextTidy_next (State.tidy_command h _)
    · split
      · exact nextTidy_next (State.tidy_command h _)
      · refine nextTidy_next (State.tidy_command (State.tidy_setMem ?_ _) _)
        exact State.tidy_of_braids h rfl

theorem execDestroy_tidy {s : State} (h : s.tidy) (v : Nat) : NextTidy (execDestroy v s) := by
  unfold execDestroy
  refine nextTidy_ite (nextTidy_next h) (nextTidy_ite (nextTidy_next (State.tidy_command h _))
      (nextTidy_ite (nextTidy_next (State.tidy_command h _))
    (nextTidy_next (State.tidy_command ?_ _))))
  refine State.tidy_mapBraids (State.tidy_emptyTlbs h v true) (f := fun x => { x with tags := x.tags.filter fun t => t.vi != v }) rfl ?_
  exact fun _ hx => hx

theorem execAssign_tidy {s : State} (h : s.tidy) (v first count : Nat) : NextTidy (execAssign v first count s) := by
  unfold execAssign
  dsimp only
  split
  · exact nextTidy_next h
  · split
    · split
      · exact nextTidy_next (State.tidy_command h _)
      · exact nextTidy_next (State.tidy_command (State.tidy_setMem h _) _)
    · split
      · exact nextTidy_next (State.tidy_command h _)
      · exact nextTidy_next (State.tidy_command (State.tidy_setMem h _) _)

theorem execMigrate_tidy {s : State} (h : s.tidy) (v src dst size : Nat) : NextTidy (execMigrate v src dst size s) := by
  unfold execMigrate
  refine nextTidy_ite (nextTidy_next h) (nextTidy_ite (nextTidy_next (State.tidy_command h _)) ?_)
  have h1 : (if isHost dst && s.awaited v src size then s.nowContended src size else s).tidy := State.tidy_ite
      (State.tidy_nowContended h _ _) h
  exact nextTidy_ite (nextTidy_next (State.tidy_command h1 _)) (nextTidy_next (State.tidy_withAdmin (State.tidy_command h1 _) _))

theorem execAttest_tidy {s : State} (h : s.tidy) (addr : Nat) (nonce : List Byte) : NextTidy (execAttest addr nonce s) := by
  unfold execAttest
  split
  · exact nextTidy_next h
  · split
    · exact nextTidy_next (State.tidy_command h _)
    · exact nextTidy_next (State.tidy_command (State.tidy_homePuts (State.tidy_draw h) _ _) _)

theorem execAdminCommandComplete_tidy {s : State} (h : s.tidy) : NextTidy (execAdminCommandComplete s) := by
  unfold execAdminCommandComplete
  split
  · exact nextTidy_next h
  refine nextTidy_ite (nextTidy_next h) ?_
  split
  · exact nextTidy_next (State.tidy_finishCommand h _)
  · exact nextTidy_ite (nextTidy_next (State.tidy_foldl (fun _ x h => State.tidy_askHost h x false) _ h))
      (nextTidy_next (State.tidy_finishCommand (State.tidy_homePuts h _ _) _))

theorem execHoldrel_tidy {s : State} (h : s.tidy) (b : Nat) : NextTidy (execHoldrel b s) := by
  refine nextTidy_next (State.tidy_ite (State.tidy_modBraid h _ ?_) h)
  exact fun _ hx => hx

theorem execPtroot_tidy {s : State} (h : s.tidy) (v val : Nat) : NextTidy (execPtroot v val s) :=
  nextTidy_next (State.tidy_ite h (State.tidy_modIface h _ _))

theorem execTlbsync_tidy {s : State} (h : s.tidy) (v : Nat) : NextTidy (execTlbsync v s) := by
  unfold execTlbsync
  split
  · exact nextTidy_next (State.tidy_modIface (State.tidy_emptyTlbs h _ _) _ _)
  · exact nextTidy_next (State.tidy_later (State.tidy_modIface (State.tidy_draw h) _ _) _ _)

theorem execCap_tidy {s : State} (h : s.tidy) (watts : Nat) : NextTidy (execCap watts s) := by
  refine nextTidy_next (State.tidy_ite ?_ h)
  exact State.tidy_of_braids h rfl

theorem State.tidy_ifaceWrite {s : State} (h : s.tidy) (v off val : Nat) : (s.ifaceWrite v off val).tidy := by
  unfold State.ifaceWrite
  split
  · exact State.tidy_modIface h _ _
  · split
    · exact State.tidy_modIface h _ _
    · exact State.tidy_modIface h _ _
    · exact h

theorem State.tidy_adminWrite {s : State} (h : s.tidy) (off val : Nat) : (s.adminWrite off val).tidy := by
  unfold State.adminWrite
  dsimp only
  split
  · split
    · exact State.tidy_of_braids h rfl
    · split
      · refine State.tidy_next ?_ _
        exact State.tidy_of_braids h rfl
      · split
        · refine State.tidy_command ?_ _
          exact State.tidy_of_braids h rfl
        · exact State.tidy_of_braids h rfl
  · split
    · exact State.tidy_next h _
    · exact State.tidy_of_braids h rfl
    · exact State.tidy_of_braids h rfl
    · exact State.tidy_next h _
    · exact State.tidy_next h _
    · exact h

theorem execRegisterWrite_tidy {s : State} (h : s.tidy) (v off val : Nat) : NextTidy (execRegisterWrite v off val s) := by
  unfold execRegisterWrite
  split
  · exact nextTidy_next h
  · split
    · refine nextTidy_next (State.tidy_ite h ?_)
      split
      · exact State.tidy_next h _
      · split
        · exact State.tidy_next h _
        · exact h
      · exact State.tidy_next h _
      · exact State.tidy_ifaceWrite h _ _ _
    · split
      · exact nextTidy_next h
      · split
        · exact nextTidy_next (State.tidy_next h _)
        · split
          · exact nextTidy_next (State.tidy_ite (State.tidy_next h _) h)
          · exact nextTidy_next (State.tidy_ite (State.tidy_adminWrite h _ _) h)

theorem State.tidy_reset : State.reset.tidy := fun _ he => nomatch he
theorem State.tidy_deviceReset {s : State} (_ : s.tidy) : s.deviceReset.tidy := State.tidy_of_braids State.tidy_reset rfl

theorem execReset_tidy {s : State} (h : s.tidy) (val : Nat) : NextTidy (execReset val s) :=
  nextTidy_next (State.tidy_ite (State.tidy_deviceReset h) h)

theorem execThermalTrip_tidy {s : State} (h : s.tidy) : NextTidy (execThermalTrip s) :=
  nextTidy_next (State.tidy_deviceReset h)

theorem execResetN_tidy {s : State} (h : s.tidy) (low : Bool) : NextTidy (execResetN low s) := by
  unfold execResetN
  split
  · split
    · exact nextTidy_next (State.tidy_ite (State.tidy_deviceReset h) h)
    · exact nextTidy_next h
  · split
    · split
      · exact nextTidy_next h
      · refine nextTidy_next (State.tidy_later ?_ _ _)
        exact State.tidy_of_braids h rfl
    · refine nextTidy_next ?_
      exact State.tidy_of_braids h rfl

theorem State.tidy_modBoot {s : State} (h : s.tidy) (f : Boot → Boot) : (s.modBoot f).tidy := h
theorem State.tidy_stepOn {s : State} (h : s.tidy) : s.stepOn.tidy := h
theorem State.tidy_stepFails {s : State} (h : s.tidy) (code : Nat) : (s.stepFails code).tidy := h

theorem State.tidy_configure {s : State} (h : s.tidy) (c : ConfigImage) : (s.configure c).tidy := by
  refine State.tidy_mapBraids h (f := fun x =>
    { x with h := [], full := [], fullStart := [], b0 := { x.b0 with curBank := false }, b1 := { x.b1 with curBank := false } }) rfl ?_
  rintro x ⟨h0, h1, h2, h3, -, h5⟩
  exact ⟨h0, h1, h2, h3, rfl, h5⟩

theorem execBootStep_tidy {s : State} (h : s.tidy) (ok : Bool) (img : BootImage) : NextTidy (execBootStep ok img s) := by
  unfold execBootStep
  split
  · exact nextTidy_next h
  · split
    · exact nextTidy_next (State.tidy_stepOn (State.tidy_modBoot h _))
    · split
      · exact nextTidy_next (State.tidy_stepOn (State.tidy_modCrossing (State.tidy_modCrossing h _ _) _ _))
      · exact nextTidy_next (State.tidy_stepFails h _)
    · split
      · exact nextTidy_next (State.tidy_stepOn (State.tidy_modCrossing h _ _))
      · exact nextTidy_next h
    · split
      · exact nextTidy_next (State.tidy_stepOn (State.tidy_modBoot h _))
      · exact nextTidy_next (State.tidy_stepFails h _)
    · exact nextTidy_next (State.tidy_ite (State.tidy_stepOn (State.tidy_modBoot h _)) (State.tidy_stepFails h _))
    · exact nextTidy_next (State.tidy_ite (State.tidy_stepOn (State.tidy_setMem h _)) (State.tidy_stepFails h _))
    · exact nextTidy_next (State.tidy_ite (State.tidy_stepOn (State.tidy_announce (State.tidy_configure h _))) (State.tidy_stepFails h _))
    · exact nextTidy_next (State.tidy_ite h (State.tidy_modBoot h _))
    · exact nextTidy_next h

theorem State.tidy_throttle {s : State} (h : s.tidy) (mw temp low : Nat) : (s.throttle mw temp low).2.2.tidy := by
  have draw : ∀ (c : Prop) [Decidable c] (t : State), t.tidy → (if c then t.draw else (0, t)).2.tidy := by
    intro c _ t ht
    split
    · exact State.tidy_draw ht
    · exact ht
  exact draw _ _ (draw _ _ h)

theorem execPowerEvaluation_tidy {s : State} (h : s.tidy) (mw tempW tempE : Nat) : NextTidy (execPowerEvaluation mw tempW tempE s) := by
  have h2 := fun low => State.tidy_throttle (State.tidy_throttle h mw tempW s.boot.lowW) mw tempE low
  exact nextTidy_next (State.tidy_ite (State.tidy_next (State.tidy_modBoot (h2 _) _) _) (State.tidy_modBoot (h2 _) _))

theorem execPowerGateDecision_tidy {s : State} (h : s.tidy) (b cycles : Nat) : NextTidy (execPowerGateDecision b cycles s) := by
  refine nextTidy_next (State.tidy_ite (State.tidy_modBraid h _ ?_) (State.tidy_modBoot (State.tidy_modBraid h _ ?_) _))
  · exact fun _ hx => hx
  · exact fun _ hx => hx

end Sys2Proof.Machine
end

section
/-! SUPPORT. What keeps the order: the issue of instructions and the beginning of a cycle. -/

namespace Sys2Proof.Machine

theorem State.tidy_occupancy {s : State} (h : s.tidy) (ps : List Parcel) (i : Instr) : (s.occupancy ps i).1.tidy := by
  unfold State.occupancy
  split
  · exact h
  · split
    · exact h
    · exact State.tidy_draw h

theorem State.tidy_ctxNext {s : State} (h : s.tidy) : s.ctxNext.1.tidy := by
  have due : ∀ {t : State} (_ : t.tidy) (i : Instr), (if (t.myCtx.retireAt.getD 0) ≤ t.cycle && !t.barred i then
      (t, some i) else (t, none) : State × Option Instr).1.tidy := by
    intro t ht i
    split
    · exact ht
    · exact ht
  have hf := State.tidy_fetchParcels h
  unfold State.ctxNext
  split
  · exact h
  dsimp only
  split
  · exact due h _
  split
  · next e => exact State.tidy_fst hf e
  next e =>
  have h1 := State.tidy_fst hf e
  split
  · exact h1
  · refine due (State.tidy_modMyCtx (State.tidy_occupancy h1 _ _) ?_) _
    exact fun _ hc => hc

theorem State.tidy_strandParcel {s : State} (h : s.tidy) (b k a : Nat) : (s.strandParcel b k a).1.tidy := by
  unfold State.strandParcel
  dsimp only
  split
  · exact h
  · split
    · exact h
    · refine State.tidy_modStrand ?_ _ _ _
      split
      · split
        · exact h
        · exact State.tidy_flip h
      · split
        · exact h
        · exact State.tidy_flip h

theorem State.tidy_strandParcels (b k : Nat) (n : Nat) : ∀ {s : State} (_ : s.tidy) (a : Nat), (s.strandParcels b k a n).1.tidy := by
  induction n with
  | zero => exact fun h _ => h
  | succ n ih =>
    intro s h a
    have hp := State.tidy_strandParcel h b k a
    unfold State.strandParcels
    split
    · next e => exact State.tidy_fst hp e
    next e =>
    have hr := ih (State.tidy_fst hp e) (a + 2)
    split
    · next e => exact State.tidy_fst hr e
    · next e => exact State.tidy_fst hr e

theorem State.tidy_strandOp {s : State} (h : s.tidy) (b k a : Nat) : (s.strandOp b k a).1.tidy := by
  have hp := State.tidy_strandParcel h b k a
  unfold State.strandOp
  split
  · next e => exact State.tidy_fst hp e
  next p e =>
  have hr := State.tidy_strandParcels b k (opParcels k p) (State.tidy_fst hp e) a
  dsimp only
  split
  · next e => exact State.tidy_fst hr e
  next e =>
  have h2 := State.tidy_fst hr e
  split
  · exact h2
  split
  · exact h2
  · exact h2

theorem State.tidy_fst_ite {α : Type} {c : Prop} [Decidable c] {x y : State × α} (hx : x.1.tidy) (hy : y.1.tidy) :
    (if c then x else y).1.tidy := by
  split
  · exact hx
  · exact hy

theorem State.tidy_strandNext {s : State} (h : s.tidy) : s.strandNext.1.tidy := by
  have ho := State.tidy_strandOp h (s.here 0).1 (s.here 0).2 (s.strand (s.here 0).1 (s.here 0).2).pc
  unfold State.strandNext
  refine State.tidy_fst_ite h ?_
  dsimp only
  split
  · exact h
  refine State.tidy_fst_ite h ?_
  split
  · next e => exact State.tidy_modStrand (State.tidy_fst ho e) _ _ _
  · next e =>
    have h1 := fun f => State.tidy_modStrand (State.tidy_fst ho e) (s.here 0).1 (s.here 0).2 f
    exact State.tidy_fst_ite (h1 _) (State.tidy_strandFault (h1 _) _ _ _ _ _ _)

theorem State.tidy_testActs {s : State} (h : s.tidy) : s.testActs.1.tidy := by
  unfold State.testActs
  dsimp only
  split <;> exact h

theorem State.tidy_retryPuts {s : State} (h : s.tidy) : s.retryPuts.tidy := State.tidy_foldl (fun _ e h => State.tidy_putWaiting h e.1) _ h

theorem State.tidy_seqErrors {s : State} (h : s.tidy) : s.seqErrors.tidy := by
  refine State.tidy_foldl (fun _ e h => State.tidy_noteErr h _ _ _ _ _ _ _) _ ?_
  exact State.tidy_of_braids h rfl

theorem State.tidy_beginCycle {s : State} (h : s.tidy) : s.beginCycle.tidy := by
  unfold State.beginCycle
  refine State.tidy_setTodo (State.tidy_testActs (State.tidy_seqErrors
      (State.tidy_retryPuts (State.tidy_sendUnsent (State.tidy_sendWords (State.tidy_boardLanes ?_)))))) _
  exact State.tidy_mapBraids h rfl fun _ hx => Braid.tidy_tick hx

end Sys2Proof.Machine
end

section
/-! SETTLES. Every step keeps registers, queues and braid tables in order (O56). -/

namespace Sys2Proof.Machine

theorem execFenceS_tidy {s : State} (h : s.tidy) (g sid : BitVec 4) : NextTidy (execFenceS g sid s) :=
  guarded_tidy h g 4 (State.tidy_advance (State.tidy_mapOwn h _ _ _) _)

theorem execBr_tidy {s : State} (h : s.tidy) (g : BitVec 4) (off : BitVec 21) : NextTidy (execBr g off s) :=
  guarded_tidy h g 4 (State.tidy_modMyCtx h fun _ hc => Ctx.tidy_goto hc _)

theorem execJal_tidy {s : State} (h : s.tidy) (g : BitVec 4) (off : BitVec 21) : NextTidy (execJal g off s) :=
  guarded_tidy h g 4 (State.tidy_modMyCtx h fun _ hc => Ctx.tidy_goto (Ctx.tidy_setS hc _ _) _)

theorem execJalr_tidy {s : State} (h : s.tidy) (g : BitVec 4) (d a : BitVec 5) (imm : BitVec 11) : NextTidy (execJalr g d a imm s) :=
  guarded_tidy h g 4 (State.tidy_modMyCtx h fun _ hc => Ctx.tidy_goto (Ctx.tidy_setS hc _ _) _)

theorem execJwait_tidy {s : State} (h : s.tidy) (g : BitVec 4) (a : BitVec 5) : NextTidy (execJwait g a s) :=
  guarded_tidy h g 4 (State.tidy_ite (State.tidy_advance h _) (State.tidy_waitIn h _))

theorem execWaitx_tidy {s : State} (h : s.tidy) (g : BitVec 4) (ch : BitVec 3) (a : BitVec 5) : NextTidy (execWaitx g ch a s) :=
  guarded_tidy h g 4 (State.tidy_ite (State.tidy_advance (State.tidy_acquire h _ _ _ _) _) (State.tidy_waitIn h _))

theorem execCBr_tidy {s : State} (h : s.tidy) (off : BitVec 11) : NextTidy (execCBr off s) :=
  guarded_tidy h 0 2 (State.tidy_modMyCtx h fun _ hc => Ctx.tidy_goto hc _)

theorem execCNop_tidy {s : State} (h : s.tidy) : NextTidy (execCNop s) := guarded_tidy h 0 2 (State.tidy_advance h _)
theorem execIdle_tidy {s : State} (h : s.tidy) (n : BitVec 10) : NextTidy (execIdle n s) := strandForm_tidy h 0 1 fun _ => issKeeps_fst h
theorem execJoin_tidy {s : State} (h : s.tidy) : NextTidy (execJoin s) := strandForm_tidy h 0 1 fun a =>
    issKeeps_fst (At.tidy_modOpen h a _)

theorem execMstop_tidy {s : State} (h : s.tidy) (seed : BitVec 16) : NextTidy (execMstop seed s) :=
  strandForm_tidy h 1 2 fun a => issKeeps_fst (At.tidy_noteSets (At.tidy_emit h a _ _ _) a _)

theorem execVchk_tidy {s : State} (h : s.tidy) (pr : Bool) (rnd : BitVec 3) (k : BitVec 32) : NextTidy (execVchk pr rnd k s) :=
  strandForm_tidy h 3 4 fun a => issKeeps_fst (At.tidy_emit (At.tidy_warnIf (At.tidy_warnIf (At.tidy_noteRegs h a _) a _ _) a _ _) a _ _ _)

theorem exec_tidy {s : State} (h : s.tidy) (i : Instr) : NextTidy (exec i s) := by
  cases i <;> dsimp only [exec]
  case add | sub | mul | mulh | mulhz | div | divz | rem | remz | and | or | xor | andn | shl | shr | sra | min | max | minz | maxz | clz |
    popc | bfx | cMov | cAdd =>
    exact aluRR_tidy h _ _ _ _ _ _
  case bfi | sel => exact aluRRD_tidy h _ _ _ _ _ _
  case addi | andi | ori | xori | shli | shri | srai | movi | movhi | cAddi => exact aluD_tidy h _ _ _ _
  case cmpEq | cmpNe | cmpLt | cmpLe | cmpLo | cmpLs => exact cmpRR_tidy h _ _ _ _ _
  case cmpiEq | cmpiNe | cmpiLt | cmpiLe | cmpiLo | cmpiLs => exact cmpRI_tidy h _ _ _ _ _
  case pand | por | pxor | pnot | pmov => exact predForm_tidy h _ _ _
  case fadd | fsub | fmul | ffma | fmin | fmax | fabs | fneg => exact fpu_tidy h _ _ _ _ _
  case fcmpEq | fcmpLt | fcmpLe | fcmpUn => exact fcmp_tidy h _ _ _ _ _
  case fcvt => exact execFcvt_tidy h _ _ _ _ _ _ _
  case ldB | ldH | ldW | ldD | cLdD => exact load_tidy h _ _ _ _ _ _ _ _
  case stB | stH | stW | stD | cStD => exact store_tidy h _ _ _ _ _ _ _
  case ldf => exact execLdf_tidy h _ _ _
  case ste => exact execSte_tidy h _ _ _
  case mbclr => exact execMbclr_tidy h _ _
  case mbstat => exact execMbstat_tidy h _ _ _
  case amoAdd | amoSwap | amoCas | amoMin | amoMax | amoAnd | amoOr => exact amo_tidy h _ _ _ _ _ _ _
  case redAdd | redMin | redMax | redFadd | redCfadd => exact red_tidy h _ _ _ _ _ _ _
  case fenceS => exact execFenceS_tidy h _ _
  case fenceJ => exact execFenceJ_tidy h _ _
  case br => exact execBr_tidy h _ _
  case jal => exact execJal_tidy h _ _
  case jalr => exact execJalr_tidy h _ _ _ _
  case qput | cQput => exact qputForm_tidy h _ _ _ _
  case qget | cQget => exact qgetForm_tidy h _ _ _ _
  case lpw | cLpw => exact lpwForm_tidy h _ _ _ _
  case fmt => exact execFmt_tidy h _ _
  case job => exact execJob_tidy h _ _ _
  case jwait => exact execJwait_tidy h _ _
  case cpin | cpout => exact copyForm_tidy h _ _ _ _ _
  case waitx => exact execWaitx_tidy h _ _ _
  case rvin | rvout => exact reeveForm_tidy h _ _ _ _
  case commit | commitSwap | bar => exact commitForm_tidy h _ _ _
  case snap | fork | rollb | freeh => exact stateForm_tidy h _ _ _ _
  case task => exact execTask_tidy h _ _
  case gadd | gset | gmax => exact gainForm_tidy h _ _ _ _
  case resid => exact execResid_tidy h _ _
  case hmix => exact execHmix_tidy h _ _ _ _
  case trap => exact execTrap_tidy h _ _
  case rte => exact execRte_tidy h _
  case crr => exact execCrr_tidy h _ _ _
  case crw => exact execCrw_tidy h _ _ _
  case tsave => exact execTsave_tidy h _ _
  case trstr => exact execTrstr_tidy h _ _
  case yield => exact execYield_tidy h _
  case halt => exact execHalt_tidy h _
  case cBr => exact execCBr_tidy h _
  case cNop => exact execCNop_tidy h
  case idle => exact execIdle_tidy h _
  case join => exact execJoin_tidy h
  case blk => exact execBlk_tidy h _ _ _ _
  case mmaBf16 | mmaFp16 | mmaFp8e4 | mmaFp8e5 | mmaCb4 | cmmaCbf16 | cmmaCfp16 => exact tileForm_tidy h _
  case mzero => exact execMzero_tidy h _ _
  case mdrainTrk | mdrainSpd | mdrainCp => exact drainForm_tidy h _ _ _
  case mwl => exact execMwl_tidy h _ _ _
  case mcb => exact execMcb_tidy h _ _
  case mstop => exact execMstop_tidy h _
  case scanD | scanC => exact scanForm_tidy h _ _ _ _ _ _ _
  case schunk => exact execSchunk_tidy h _ _ _ _ _ _
  case scarry => exact execScarry_tidy h _ _ _ _
  case sout => exact execSout_tidy h _ _ _ _
  case slin => exact execSlin_tidy h _ _ _ _ _
  case vadd | vsub | vmul | vfma | vmin | vmax | vneg | vabs | vcmul | vredMax | vmov | vbit | viadd | vimul | vunpk =>
    exact vxForm_tidy h _ _ _
  case vcmp => exact execVcmp_tidy h _
  case vsel => exact execVsel_tidy h _
  case vcvt => exact execVcvt_tidy h _
  case vexp | vlog | vrcp | vrsq | vact => exact vxFun_tidy h _ _
  case vredSum => exact execVredSum_tidy h _
  case vrot => exact execVrot_tidy h _
  case vkey => exact execVkey_tidy h _
  case vhist => exact execVhist_tidy h _
  case vchk => exact execVchk_tidy h _ _ _
  case vpack => exact execVpack_tidy h _
  case ldt | ldb => exact loadForm_tidy h _ _ _
  case ldx => exact execLdx_tidy h _ _ _
  case ldm => exact execLdm_tidy h _ _
  case ldc => exact execLdc_tidy h _ _
  case stt | stb => exact storeForm_tidy h _ _ _
  case stx => exact execStx_tidy h _ _ _
  case stm => exact execStm_tidy h _ _ _
  case jobStart => exact execJobStart_tidy h
  case opResult => exact execOpResult_tidy h _ _
  case rendezvous => exact execRendezvous_tidy h
  case overrun => exact execOverrun_tidy h
  case taskStart => exact execTaskStart_tidy h
  case flit => exact execFlit_tidy h _ _ _
  case returnWord => exact execReturnWord_tidy h _ _ _
  case auditTick => exact execAuditTick_tidy h
  case auditFlit => exact execAuditFlit_tidy h _ _ _
  case packetDelivery => exact execPacketDelivery_tidy h
  case mail => exact execMail_tidy h _
  case done => exact execDone_tidy h _
  case bara => exact execBara_tidy h _
  case barr => exact execBarr_tidy h _
  case heap => exact execHeap_tidy h _
  case gainRefusal => exact execGainRefusal_tidy h _
  case reservedPacket => exact execReservedPacket_tidy h _
  case rdreq => exact execRdreq_tidy h _
  case rdrsp => exact execRdrsp_tidy h _
  case prep => exact execPrep_tidy h _
  case amoreq => exact execAmoreq_tidy h _
  case amorsp => exact execAmorsp_tidy h _
  case redent => exact execRedent_tidy h _
  case engine => exact execEngine_tidy h _
  case ctrl => exact execCtrl_tidy h _
  case taskSpillReturn => exact execTaskSpillReturn_tidy h
  case commitEvent => exact execCommitEvent_tidy h
  case eventPrepared => exact execEventPrepared_tidy h
  case eventComplete => exact execEventComplete_tidy h
  case heapRun => exact execHeapRun_tidy h
  case roundTaskStart => exact execRoundTaskStart_tidy h
  case copyStart => exact execCopyStart_tidy h
  case copyPiece => exact execCopyPiece_tidy h
  case reeveStart => exact execReeveStart_tidy h
  case rvinRetire => exact execRvinRetire_tidy h
  case rvoutRetire => exact execRvoutRetire_tidy h
  case lightFault => exact execLightFault_tidy h
  case recordTake => exact execRecordTake_tidy h
  case launchIssue => exact execLaunchIssue_tidy h
  case prefixLookup => exact execPrefixLookup_tidy h
  case prefixInsert => exact execPrefixInsert_tidy h
  case prefixUnpin => exact execPrefixUnpin_tidy h
  case launchComplete => exact execLaunchComplete_tidy h
  case slotBoundary => exact execSlotBoundary_tidy h
  case slotref => exact execSlotref_tidy h _
  case slotrefTimeout => exact execSlotrefTimeout_tidy h
  case slotAnnouncement => exact execSlotAnnouncement_tidy h _ _
  case slotAck => exact execSlotAck_tidy h _
  case cancellation => exact execCancellation_tidy h
  case discard => exact execDiscard_tidy h
  case suspend => exact execSuspend_tidy h
  case tokenRetry => exact execTokenRetry_tidy h _ _
  case tokenRefuse => exact execTokenRefuse_tidy h _ _
  case tokenRecordPost => exact execTokenRecordPost_tidy h
  case bankSwitch => exact execBankSwitch_tidy h
  case braidStall => exact execBraidStall_tidy h
  case preemption => exact execPreemption_tidy h
  case launchResume => exact execLaunchResume_tidy h
  case rowRefresh => exact execRowRefresh_tidy h _ _ _
  case l2Scrub => exact execL2Scrub_tidy h _ _ _
  case inFieldTest => exact execInFieldTest_tidy h
  case inFieldTestEnd => exact execInFieldTestEnd_tidy h _ _
  case spliceFlit => exact execSpliceFlit_tidy h _ _ _
  case flitReplay => exact execFlitReplay_tidy h
  case retrain => exact execRetrain_tidy h
  case retrainComplete => exact execRetrainComplete_tidy h _ _ _
  case linkDown => exact execLinkDown_tidy h
  case portFrame => exact execPortFrame_tidy h _ _
  case cxlMemRead => exact execCxlMemRead_tidy h _ _ _
  case cxlMemWrite => exact execCxlMemWrite_tidy h _ _ _
  case snoop => exact execSnoop_tidy h _
  case create => exact execCreate_tidy h _ _
  case destroy => exact execDestroy_tidy h _
  case assign => exact execAssign_tidy h _ _ _
  case migrate => exact execMigrate_tidy h _ _ _ _
  case attest => exact execAttest_tidy h _ _
  case spliceRetrainA => exact execSpliceRetrainA_tidy h
  case spliceRetrainB => exact execSpliceRetrainB_tidy h
  case hostLinkRetrain => exact execHostLinkRetrain_tidy h
  case holdrel => exact execHoldrel_tidy h _
  case errbankClear => exact execErrbankClear_tidy h _ _
  case ptroot => exact execPtroot_tidy h _ _
  case tlbsync => exact execTlbsync_tidy h _
  case cap => exact execCap_tidy h _
  case registerWrite => exact execRegisterWrite_tidy h _ _ _
  case powerEvaluation => exact execPowerEvaluation_tidy h _ _ _
  case thermalTrip => exact execThermalTrip_tidy h
  case resetN => exact execResetN_tidy h _
  case reset => exact execReset_tidy h _
  case bootStep => exact execBootStep_tidy h _ _
  case illegalEncoding => exact execIllegalEncoding_tidy h
  case flitSend => exact execFlitSend_tidy h
  case cxlCacheResponse => exact execCxlCacheResponse_tidy h _ _
  case adminCommandComplete => exact execAdminCommandComplete_tidy h
  case powerGateDecision => exact execPowerGateDecision_tidy h _ _

theorem run_tidy {x : State × Option Instr} (h : x.1.tidy) : NextTidy (run x) := by
  obtain ⟨s, _ | i⟩ := x
  · exact nextTidy_next h
  · exact exec_tidy h i

theorem act_tidy {s : State} (h : s.tidy) (a : Act) : NextTidy (act a s) := by
  cases a with
  | event i x y z => exact exec_tidy (State.tidy_setCur h _) i
  | ctx b bank c => exact run_tidy (State.tidy_ctxNext (State.tidy_setCur h _))
  | strand b k => exact run_tidy (State.tidy_strandNext (State.tidy_setCur h _))

theorem step_tidy {s : State} (h : s.tidy) : NextTidy (step s) := by
  unfold step
  split
  · exact nextTidy_next (State.tidy_beginCycle h)
  · exact act_tidy (State.tidy_setTodo h _) _

/-- Settles O56: a step begins a cycle or executes one instruction, and each keeps every context, bank and braid in order. -/
theorem everyStepKeepsRegistersAndQueues : Obligations.EveryStepKeepsRegistersAndQueues := by
  unfold Obligations.EveryStepKeepsRegistersAndQueues
  exact ⟨fun _ t h e => step_tidy h t e, fun c => ⟨c.getS_zero, c.getP_zero⟩⟩

end Sys2Proof.Machine
end

section
/-! IDLE, JOIN and BLK on a strand (03: R71, R72; 05: R113, R114, R132). -/

open Sys2Proof.Claims

namespace Sys2Proof.Machine

/-! Where a pass through a block's body ends (R114). -/

theorem unwind_of_ne_stop {o : Blk} (r : List Blk) {pc : Nat} (h : o.stop ≠ pc) : unwind (o :: r) pc = (o :: r, pc) := if_pos h.symm

theorem unwind_next_pass {o : Blk} (r : List Blk) (h : 0 < o.left) :
    unwind (o :: r) o.stop = ({ o with left := o.left - 1 } :: r, o.start) := by
  simp [unwind, Nat.ne_of_gt h]

theorem unwind_last_pass {o : Blk} (r : List Blk) (h : o.left = 0) : unwind (o :: r) o.stop = unwind r o.stop := by
  simp [unwind, h]

theorem Strand.leave_bank (t : Strand) (pc : Nat) : (t.leave pc).bank = t.bank := rfl

section
variable (s : State) (b k n : Nat)

@[simp] theorem State.strand_modStrand_same (f : Strand → Strand) : (s.modStrand b k f).strand b k = f (s.strand b k) := by
  simp [State.modStrand, Braid.modStrand, State.strand, tmod]

/-- An op that changes its own strand alone leaves alone what every op does. -/
theorem opKept_modStrand (f : Strand → Strand) : opKept s (s.modStrand b k f) b k := by
  refine ⟨?base, ?sram, ?regs, ?arriving, ?driven, fun j hj => ?others, fun m c => ?ctxs⟩
  case others => simp [State.modStrand, Braid.modStrand, State.strand, tmod, tget_tput_ne _ _ _ hj]
  case ctxs => simp [State.modStrand, Braid.modStrand, State.bank, Braid.bank]
  all_goals simp [State.modStrand, Braid.modStrand, State.modBraid]

theorem opEmits_modStrand (f : Strand → Strand) : opEmits s (s.modStrand b k f) b k n [] := by
  simp [opEmits, State.modStrand, Braid.modStrand]

theorem openJob_modStrand {f : Strand → Strand} (h : ∀ t, (f t).bank = t.bank) : openJob (s.modStrand b k f) b k n = openJob s b k n := by
  rw [openJob, State.strand_modStrand_same, h]
  simp [openJob, State.modStrand, Braid.modStrand]

end

section
variable {s : State} {b k n : Nat}

/-- An op's change of its open job is seen there. -/
theorem openJob_modOpen {a : At} (ha : a.is s b k n) {f : OpenJob → OpenJob} (hf : ∀ j, (f j).fixed = j.fixed) :
    openJob (a.modOpen s f) b k n = (openJob s b k n).map f := by
  have hb : a.b = b := congrArg At.b ha
  have hbank : a.bank = (s.strand b k).bank := congrArg At.bank ha
  have hjob : a.job = n := congrArg At.job ha
  have hkey (j : OpenJob) : (f j).bank = j.bank ∧ (f j).job = j.job := by
    have h := hf j
    simp only [OpenJob.fixed, Prod.mk.injEq] at h
    exact ⟨h.2.1, h.1⟩
  have hstrand : (a.modOpen s f).strand b k = s.strand b k := by simp [At.modOpen, State.strand, hb]
  have hopen : ((a.modOpen s f).braid b).jobsOpen
      = (s.braid b).jobsOpen.map fun j => if j.bank = (s.strand b k).bank ∧ j.job.num = n then f j else j := by
    simp [At.modOpen, hb, hbank, hjob]
  rw [openJob, openJob, hstrand, hopen, List.find?_map,
    List.find?_congr (p₂ := fun j => j.bank == (s.strand b k).bank && j.job.num == n)]
  · apply Option.map_congr
    intro j hj
    exact if_pos (by simpa using List.find?_some hj)
  · intro j _
    rw [Function.comp_apply]
    split
    · rw [(hkey j).1, (hkey j).2]
    · rfl

/-! IDLE and JOIN. -/

theorem strandForm_ends (h : opAt s b k n) {k' len : Nat} {f : State → At → Iss (State × Bool)} {s1 : State}
    (hf : f s ⟨b, k, (s.strand b k).bank, (s.strand b k).q, s.cycle, n, (s.strand b k).opPc⟩ = .ok (s1, true)) :
    strandForm k' len f s = .next (s1.modStrand b k fun t => t.leave (t.opPc + 2 * len)) := by
  rw [strandForm_spec h, hf]

theorem strandForm_stays (h : opAt s b k n) {k' len : Nat} {f : State → At → Iss (State × Bool)} {s1 : State}
    (hf : f s ⟨b, k, (s.strand b k).bank, (s.strand b k).q, s.cycle, n, (s.strand b k).opPc⟩ = .ok (s1, false)) :
    strandForm k' len f s = .next (s1.modStrand b k fun t => { t with q := t.q + 1 }) := by
  rw [strandForm_spec h, hf]

/-- IDLE n ends with its cycle `n` counted from 0, and stays until then (R71, R113). -/
theorem exec_idle_stays_or_ends (h : opAt s b k n) (cnt : BitVec 10) :
    ∃ t, exec (.idle cnt) s = .next t ∧ (if (s.strand b k).q = cnt.toNat then opEnds s t b k 1 else opStays s t b k)
      ∧ opEmits s t b k n [] := by
  by_cases hq : (s.strand b k).q = cnt.toNat
  · simp only [if_pos hq]
    exact op_ends (exec_idle cnt s) h (by simp [hq]) (.refl s b k n)
  · simp only [if_neg hq]
    exact ⟨_, (exec_idle cnt s).trans (strandForm_stays h (by simp [hq])), opStays_of (.refl s b k n)⟩

/-- Strand `k` has joined the job (R132). -/
def OpenJob.join (k : Nat) (j : OpenJob) : OpenJob := { j with joined := k :: j.joined }

/-- JOIN ends at once, and its strand stands among those that have joined the job (R71, R132). -/
theorem exec_join_joins (h : opAt s b k n) :
    ∃ t, exec .join s = .next t ∧ opEnds s t b k 1 ∧ opEmits s t b k n [] ∧ openJob t b k n = (openJob s b k n).map (.join k) := by
  have touch := OpTouch.modOpen ⟨b, k, (s.strand b k).bank, (s.strand b k).q, s.cycle, n, (s.strand b k).opPc⟩ s k n (.join k) fun _ => rfl
  obtain ⟨ends, emits⟩ := opEnds_of touch 1
  refine ⟨_, (exec_join s).trans (strandForm_ends h rfl), ends, emits, ?_⟩
  exact (openJob_modStrand _ b k n (Strand.leave_bank · _)).trans (openJob_modOpen (f := .join k) rfl fun _ => rfl)

end

/-! BLK. -/

/-- A block header of this depth and length nests at the strand's op: one level deeper, its body within the enclosing one (R72). -/
def Strand.nestsBlk (t : Strand) (depth : BitVec 3) (len : BitVec 10) : Prop :=
  depth.toNat = t.nest.length + 1 ∧ ∀ o r, t.nest = o :: r → t.opPc + 4 + 2 * len.toNat ≤ o.stop

/-- The passes a block header asks for (R71, R116). -/
def blkPasses (s : State) (b k n : Nat) (rsrc : Bool) (rep : BitVec 12) : Nat :=
  if rsrc then (match openJob s b k n with
    | some j => (tget 0 j.lpImage (rep.toNat % 16)).toNat
    | none => 0) else rep.toNat + 1

/-- A register count is read from the job's image, which is empty where no job is open. -/
theorem blkPasses_eq (s : State) (b k n : Nat) (rsrc : Bool) (rep : BitVec 12) :
    blkPasses s b k n rsrc rep =
      if rsrc then (tget 0 (match openJob s b k n with
        | some j => j.lpImage
        | none => []) (rep.toNat % 16)).toNat else rep.toNat + 1 := by
  unfold blkPasses
  cases openJob s b k n <;> rfl

/-- The strand behind a block header: in its body, or past it where it asks for no pass (R114). -/
def Strand.enterBlk (t : Strand) (len : BitVec 10) (passes : Nat) : Strand :=
  if passes = 0 then t.leave (t.opPc + 4 + 2 * len.toNat)
  else ({ t with nest := ⟨t.opPc + 4, t.opPc + 4 + 2 * len.toNat, passes - 1⟩ :: t.nest } : Strand).leave (t.opPc + 4)

theorem Strand.enterBlk_no_pass (t : Strand) (len : BitVec 10) : t.enterBlk len 0 = t.leave (t.opPc + 4 + 2 * len.toNat) := rfl

theorem Strand.enterBlk_passes (t : Strand) {len : BitVec 10} {passes : Nat} (hp : 0 < passes) (hl : 0 < len.toNat) :
    (t.enterBlk len passes).nest = ⟨t.opPc + 4, t.opPc + 4 + 2 * len.toNat, passes - 1⟩ :: t.nest
      ∧ (t.enterBlk len passes).pc = t.opPc + 4 ∧ (t.enterBlk len passes).op = none := by
  have body : t.opPc + 4 + 2 * len.toNat ≠ t.opPc + 4 := by omega
  simp [enterBlk, Nat.ne_of_gt hp, leave, unwind_of_ne_stop (o := ⟨_, _, _⟩) _ body]

section
variable {s : State} {b k n : Nat} {depth : BitVec 3} {len : BitVec 10}

theorem execBlk_of_nestsBlk (h : opAt s b k n) (hn : (s.strand b k).nestsBlk depth len) (rsrc : Bool) (rep : BitVec 12) :
    execBlk depth rsrc len rep s = .next (s.modStrand b k fun t => t.enterBlk len (blkPasses s b k n rsrc rep)) := by
  obtain ⟨hcur, hjob⟩ := h
  obtain ⟨hdepth, hstop⟩ := hn
  simp only [execBlk, State.here, hcur, hjob]
  rw [if_neg]
  · rw [blkPasses_eq]; rfl
  · cases hnest : (s.strand b k).nest with
    | nil => simp [hdepth, hnest]
    | cons o r => simp [hdepth, hnest, hstop o r hnest]

theorem execBlk_of_not_nestsBlk (h : opAt s b k n) (hn : ¬ (s.strand b k).nestsBlk depth len) (rsrc : Bool) (rep : BitVec 12) :
    execBlk depth rsrc len rep s = .next (s.strandFault b k 1 (s.strand b k).opPc 0) := by
  obtain ⟨hcur, hjob⟩ := h
  simp only [execBlk, State.here, hcur, hjob]
  rw [if_pos]
  cases hnest : (s.strand b k).nest with
  | nil => simpa [Strand.nestsBlk, hnest] using hn
  | cons o r => simpa [Strand.nestsBlk, hnest, imp_iff_not_or] using hn

end

/-- Settles O21: IDLE and JOIN answer through the strands' shared form, a header that nests changes its strand as `Strand.enterBlk` says and
nothing else, and a body ends by `unwind`. -/
theorem strandControl : Obligations.StrandControl := by
  unfold Obligations.StrandControl
  intro s b k n cnt depth rsrc len rep t0 first stop fits count h
  refine ⟨exec_idle_stays_or_ends h cnt, ?join, fun hn => ?nests, fun hn => execBlk_of_not_nestsBlk h hn rsrc rep,
    fun o r _ => unwind_of_ne_stop r, fun o r => unwind_next_pass r, fun o r => unwind_last_pass r, fun _ => rfl⟩
  case join =>
    obtain ⟨t, next, ends, emits, joins⟩ := exec_join_joins h
    exact ⟨t, next, ends, emits, fun j hj => ⟨_, joins.trans (congrArg _ hj), rfl, rfl⟩⟩
  case nests =>
    refine ⟨_, execBlk_of_nestsBlk h hn rsrc rep, opKept_modStrand .., opEmits_modStrand .., fun (h0 : blkPasses s b k n rsrc rep = 0) => ?_,
      fun hp hl => ?_⟩
    · rw [State.strand_modStrand_same, h0, Strand.enterBlk_no_pass]
    · rw [State.strand_modStrand_same]
      exact Strand.enterBlk_passes _ hp hl

end Sys2Proof.Machine
end

section
/-! Words of the encoding tables (03: R62 to R67, R70 to R74). -/

open Sys2Proof.Claims

namespace Sys2Proof

/-- Settles O59: each word is the encoding of its instruction, which decodes to it; the zero parcel stands in no table. -/
theorem wordsDecodeAsTheTablesSay : Obligations.WordsDecodeAsTheTablesSay :=
  ⟨decodeCtl_encode_word (i := .sub 0 7 8 9) [] rfl rfl, decodeCtl_encode_word (i := .addi 0 3 0x7FF) [] rfl rfl,
    decodeCtl_encode_word (i := .cmpiNe 0 1 3 0) [] rfl rfl, decodeCtl_encode_word (i := .br 1 0x1FFFF6) [] rfl rfl,
    decodeCtl_encode_word (i := .ldW 0 false true 0 5 2) [] rfl rfl, decodeCtl_encode_word (i := .halt 0) [] rfl rfl,
    decodeCtl_encode_half (i := .cNop) [] rfl rfl, decodeCtl_encode_half (i := .cLdD 5 2) [] rfl rfl, rfl,
    decodeStrand_encode_long (i := .mdrainTrk 0 1 false) [] rfl (List.mem_singleton.2 rfl) rfl⟩

end Sys2Proof
end

section
/-! The queue instructions of the control core and the contexts they are assigned to (05: R124, R125, R127; 15: R311). -/

open Sys2Proof.Claims

namespace Sys2Proof.Machine

theorem State.result_zero (s : State) (n : Nat) (v : Word64) : s.result n 0 v = s.advance n := by
  rw [State.result_eq, State.advance_eq]
  exact congrArg s.modMyCtx (funext fun c => congrArg (Ctx.goto · _) (c.setS_zero v))

theorem wroteS_zero {s t : State} {v : Word64} (h : wroteS s t 0 v) : keptS s t := fun r => by simpa using h r

/-- A change of the bank's own fields, then retiring with a scalar result: the bank is the changed one but for the context. -/
theorem bank_result_spec (s : State) {k : Bank} (hk : ∀ c, k.ctx c = s.myBank.ctx c) (n : Nat) (d : BitVec 5) (v : Word64) :
    let t := (s.modMyBank fun _ => k).result n d v
    onlyCtxOf s t k ∧ wroteS s t d v ∧ keptP s t ∧ retired s t n := by
  have hctx : k.ctx s.me.2.2 = s.myCtx := hk _
  have ht : (s.modMyBank fun _ => k).result n d v
      = s.modMyBank fun _ => k.setCtx s.me.2.2 ((s.myCtx.setS d v).goto (s.myCtx.pc + BitVec.ofNat 48 n)) := by
    rw [State.result_eq, State.modMyCtx, State.modMyBank_modMyBank, State.me_modMyBank, hctx]
  simp only [ht]
  refine ⟨⟨onlyBank_modMyBank s _, ?_⟩, fun r => ?_, fun r => ?_, ?_⟩
  · simp [State.myCtx]
  · simp [State.rS_eq, State.myCtx, Ctx.getS_setS]
  · simp [State.myCtx]
  · simp [retired, retiredAt, State.myCtx]

/-- The same without a result. -/
theorem bank_advance_spec (s : State) {k : Bank} (hk : ∀ c, k.ctx c = s.myBank.ctx c) (n : Nat) :
    let t := (s.modMyBank fun _ => k).advance n
    onlyCtxOf s t k ∧ keptS s t ∧ keptP s t ∧ retired s t n := by
  have h := bank_result_spec s hk n 0 0
  rw [State.result_zero] at h
  obtain ⟨only, wrote, preds, ret⟩ := h
  exact ⟨only, wroteS_zero wrote, preds, ret⟩

theorem waits_of {i : Instr} {g : BitVec 4} {n : Nat} {s : State} {f : State → State} {w : Wait}
    (h : exec i s = guarded g n s f) (hf : f s = s.waitIn w) (hw : w ≠ .none) : waits i g s := by
  intro hg
  refine ⟨s.waitIn w, by rw [h, guarded, if_pos hg, hf], onlyCtx_modMyCtx s _, ?_, ?_⟩
  · simpa [State.waitIn] using hw
  · simp [State.waitIn]

/-! Who may put and take (R124, R311). -/

theorem queueRole_eq_asX (c : CtxId) : queueRole c = asX c := by cases c <;> rfl

theorem mayPut_iff {c : CtxId} {q : Nat} : mayPut c q = true ↔ (asX c, q) ∈ putters := by
  cases c <;> simp [mayPut, queueRole, asX, putters, or_assoc]

theorem mayGet_iff {c : CtxId} {q : Nat} : mayGet c q = true ↔ (asX c, q) ∈ takers := by
  cases c <;> simp [mayGet, queueRole, asX, takers, or_assoc]

theorem isX_iff {c : CtxId} : isX c = true ↔ asX c = .X := by simp [isX, queueRole_eq_asX]

theorem isX_eq_false {c : CtxId} (h : asX c ≠ .X) : isX c = false := Bool.eq_false_iff.mpr (mt isX_iff.mp h)

theorem asX_ne_X {c : CtxId} (h : c = .L ∨ c = .S) : asX c ≠ .X := by rcases h with rfl | rfl <;> decide

/-! Putting to a queue (R125). -/

theorem qDepth_eq_depthOf (q : Nat) : qDepth q = depthOf q := by
  unfold qDepth depthOf
  split <;> simp_all

theorem putQueue_of_hasRoom {s : State} {q : Nat} (h : hasRoom s q) (n : Nat) (v : Word64) :
    putQueue q n v s = (s.modMyBank fun _ => { s.myBank with q := tput s.myBank.q q (s.myBank.queue q ++ [v]) }).advance n := by
  obtain ⟨hstart, hnow⟩ := h
  rw [← qDepth_eq_depthOf] at hstart hnow
  simp only [putQueue]
  rw [if_neg (by simp; omega)]
  rfl

theorem putQueue_of_not_hasRoom {s : State} {q : Nat} (h : ¬ hasRoom s q) (n : Nat) (v : Word64) : putQueue q n v s = s.waitIn .queue := by
  simp only [hasRoom, ← qDepth_eq_depthOf] at h
  simp only [putQueue]
  rw [if_pos (by simp; omega)]

/-- An instruction whose meaning is to put `v`. -/
theorem puts_of {i : Instr} {g : BitVec 4} {n q : Nat} {s : State} {f : State → State} {v : Word64}
    (h : exec i s = guarded g n s f) (hf : f s = putQueue q n v s) : puts i g n q v s := by
  refine ⟨fun room => completes_of h fun hg => ?_, fun full => waits_of h (hf.trans (putQueue_of_not_hasRoom full n v)) (by decide)⟩
  rw [hf, putQueue_of_hasRoom (room hg)]
  exact bank_advance_spec s (k := { s.myBank with q := _ }) (by intro c; cases c <;> rfl) n

/-! QPUT, QGET and LPW answer through the form that they share with their 16-bit forms. -/

section
variable {s : State}

theorem qputForm_assigned {q : BitVec 3} (h : (asX s.me.2.2, q.toNat) ∈ putters) (g : BitVec 4) (n : Nat) (a : BitVec 5) :
    qputForm g n q a s = guarded g n s fun s => putQueue q.toNat n (s.rS a) s := if_pos (mayPut_iff.mpr h)

theorem qputForm_unassigned {q : BitVec 3} (h : (asX s.me.2.2, q.toNat) ∉ putters) (g : BitVec 4) (n : Nat) (a : BitVec 5) :
    qputForm g n q a s = .next s.illegal := if_neg (mt mayPut_iff.mp h)

theorem qgetForm_unassigned {q : BitVec 3} (h : (asX s.me.2.2, q.toNat) ∉ takers) (g : BitVec 4) (n : Nat) (d : BitVec 5) :
    qgetForm g n d q s = .next s.illegal := if_neg (mt mayGet_iff.mp h)

theorem lpwForm_assigned (h : asX s.me.2.2 = .X) (g : BitVec 4) (n : Nat) (lp : BitVec 4) (a : BitVec 5) :
    lpwForm g n lp a s =
      guarded g n s fun s => (s.modMyBank fun k => { k with lp := tset 0 k.lp lp.toNat ((s.rS a).setWidth 32) }).advance n :=
  if_pos (isX_iff.mpr h)

theorem lpwForm_unassigned (h : asX s.me.2.2 ≠ .X) (g : BitVec 4) (n : Nat) (lp : BitVec 4) (a : BitVec 5) :
    lpwForm g n lp a s = .next s.illegal := if_neg (mt isX_iff.mp h)

/-- QGET takes the oldest entry where the queue held one at the start of the cycle. -/
theorem completes_of_qgetForm {i : Instr} {g : BitVec 4} {n : Nat} {d : BitVec 5} {q : BitVec 3} {e : Word64} {r : List Word64}
    (h : exec i s = qgetForm g n d q s) (ht : (asX s.me.2.2, q.toNat) ∈ takers) (hs : s.myBank.queueStart q.toNat ≠ [])
    (hq : s.myBank.queue q.toNat = e :: r) :
    completes i g n s fun t =>
      onlyCtxOf s t { s.myBank with q := tput s.myBank.q q.toNat r } ∧ wroteS s t d e ∧ keptP s t ∧ retired s t n := by
  refine completes_of (h.trans (if_pos (mayGet_iff.mpr ht))) fun _ => ?_
  obtain ⟨e0, r0, hs⟩ := List.exists_cons_of_ne_nil hs
  rw [hs, hq]
  exact bank_result_spec s (k := { s.myBank with q := _ }) (by intro c; cases c <;> rfl) n d e

/-- QGET waits where the queue was empty at the start of the cycle. -/
theorem waits_of_qgetForm {i : Instr} {g : BitVec 4} {n : Nat} {d : BitVec 5} {q : BitVec 3} (h : exec i s = qgetForm g n d q s)
    (ht : (asX s.me.2.2, q.toNat) ∈ takers) (hs : s.myBank.queueStart q.toNat = []) : waits i g s :=
  waits_of (w := .queue) (h.trans (if_pos (mayGet_iff.mpr ht))) (by rw [hs]) (by decide)

/-- LPW writes one loop register (R127). -/
theorem completes_of_lpwForm {i : Instr} {g : BitVec 4} {n : Nat} {lp : BitVec 4} {a : BitVec 5} (h : exec i s = lpwForm g n lp a s)
    (hx : asX s.me.2.2 = .X) :
    completes i g n s fun t => onlyCtxOf s t { s.myBank with lp := tset 0 s.myBank.lp lp.toNat ((s.rS a).setWidth 32) }
      ∧ keptS s t ∧ keptP s t ∧ retired s t n :=
  completes_of (h.trans (lpwForm_assigned hx ..)) fun _ =>
    bank_advance_spec s (k := { s.myBank with lp := _ }) (by intro c; cases c <;> rfl) n

end

/-- Settles O12: each instruction and its 16-bit form answer through one form, which the tables of R124 guard. -/
theorem queueInstructions : Obligations.QueueInstructions := by
  unfold Obligations.QueueInstructions
  intro s g q d a lp c v
  exact ⟨fun put => ⟨puts_of (qputForm_assigned put ..) rfl, puts_of (qputForm_assigned put ..) rfl⟩,
    fun put => ⟨qputForm_unassigned put .., qputForm_unassigned put ..⟩,
    fun take e r hs hq => ⟨completes_of_qgetForm rfl take hs hq, completes_of_qgetForm rfl take hs hq⟩,
    fun take hs => ⟨waits_of_qgetForm rfl take hs, waits_of_qgetForm rfl take hs⟩,
    fun take => ⟨qgetForm_unassigned take .., qgetForm_unassigned take ..⟩,
    fun hx => puts_of (if_pos (isX_iff.mpr hx)) rfl,
    fun hx => ⟨completes_of_lpwForm rfl hx, completes_of_lpwForm rfl hx⟩,
    fun hx => ⟨if_neg (mt isX_iff.mp hx), lpwForm_unassigned hx .., lpwForm_unassigned hx ..⟩⟩

end Sys2Proof.Machine
end

section
/-! Instructions of other contexts and encodings of no instruction (05: R124; 03: R78; 15: R310, R311, R313). -/

open Sys2Proof.Claims

namespace Sys2Proof.Machine

theorem crAllowed_eq_false {c : CtxId} {n : Nat} (h : c ≠ .T) (lo : 17 ≤ n) (hi : n ≤ 20) : crAllowed c n = false := by
  simp [crAllowed, h, lo, hi]

/-! What is assigned to X asks for X before all else (R124, R196). -/

section
variable {s : State} {i : Instr} (h : asX s.me.2.2 ≠ .X)
include h

theorem unassigned_of_onlyX {r : Res} (hi : exec i s = if !isX s.me.2.2 then .next s.illegal else r) : unassigned i s := by
  rw [unassigned, hi, isX_eq_false h]
  rfl

theorem unassigned_of_commitForm {g : BitVec 4} {k : Nat} {swap : Bool} (hi : exec i s = commitForm g k swap s) : unassigned i s := by
  rw [unassigned, hi]
  simp only [commitForm, isX_eq_false h]
  rfl

end

/-- Each of these forms asks for its context before its guard (R124, R196, R310, R311, R313). -/
theorem instructionsOfOtherContexts : InstructionsOfOtherContexts := by
  unfold InstructionsOfOtherContexts
  intro s g d a b n
  refine ⟨fun ht => ⟨if_pos ht, if_pos ht, if_pos ht, fun lo hi => ?t_regs⟩, fun hc => ?only_x, rfl⟩
  case t_regs =>
    have hcr := crAllowed_eq_false ht lo hi
    exact ⟨if_neg (by rw [hcr]; decide), if_neg (by rw [hcr]; decide)⟩
  case only_x =>
    have hx := asX_ne_X hc
    exact ⟨unassigned_of_onlyX hx rfl, unassigned_of_onlyX hx rfl, unassigned_of_onlyX hx rfl, unassigned_of_onlyX hx rfl,
      unassigned_of_onlyX hx rfl, unassigned_of_onlyX hx rfl, unassigned_of_onlyX hx rfl, unassigned_of_onlyX hx rfl,
      if_neg (mt isX_iff.mp hx), lpwForm_unassigned hx .., unassigned_of_commitForm hx rfl, unassigned_of_commitForm hx rfl⟩

/-- What is fetched as no instruction faults its context or its strand (R19, R78, R122). -/
theorem illegalEncodingsFault : IllegalEncodingsFault := by
  unfold IllegalEncodingsFault
  intro s b i k c
  refine ⟨fun hc => ?_, fun hc hj => ?_, fun hc hj => ?_⟩
  · simp [execIllegalEncoding, hc, State.illegal]
  · simp [execIllegalEncoding, hc, hj]
  · simp [execIllegalEncoding, hc, hj]

/-- Settles O20: the assignment to a context is asked before the guard. -/
theorem unassignedInstructions : Obligations.UnassignedInstructions := ⟨instructionsOfOtherContexts, illegalEncodingsFault⟩

end Sys2Proof.Machine
end

section
/-! WAITX observes the completion of a copy, and what that changes stands in the merge buffer too (12: R248, R256). -/

open Sys2Proof.Claims

namespace Sys2Proof.Machine

theorem onlyBank_merge {s t : State} (h : onlyBank s t) : t.myBraid.merge = s.myBraid.merge := by
  have hme : t.me = s.me := by rw [h]; rfl
  have hbraid : t.braid s.me.1 = s.myBraid.setBank s.me.2.1 t.myBank := by
    conv_lhs => rw [h]
    simp [State.modMyBank, State.modBank, State.setBank, State.myBraid]
  rw [State.myBraid, hme, hbraid, Braid.setBank_merge]

/-- A WAITX whose reference holds acquires what that copy wrote. -/
theorem exec_waitx_holds {s : State} {g : BitVec 4} {ref : BitVec 3} {a : BitVec 5} (hg : s.myCtx.getP g = true)
    (h : s.refHolds s.me.1 s.me.2.1 ref.toNat ((s.rS a).toNat % 2 ^ 28) = true) :
    exec (.waitx g ref a) s = .next ((s.acquire s.me.1 s.me.2.1 ref.toNat ((s.rS a).toNat % 2 ^ 28)).advance 4) :=
  congrArg Host.Outcome.next ((if_pos hg).trans (if_pos h))

/-- A byte stored over one that copy 1 of channel 2 had staged: the copy's write stands under the store's (R241). -/
def storedOverCopy : MByte :=
  { val := 7, tag := 0, j := false, writer := .L, covered := false, older := [⟨5, 0, false, .L, false, some (2, 1)⟩] }

/-- L of a running task, whose merge buffer holds that byte, issues with s2 = 1; copy 1 of channel 2 has finished. -/
def waitsForCopy : State :=
  let y : Task :=
    { tid := 0, vi := 0, launch := 0, entry := 0x600000, m1 := false, m2 := false, m3 := false, phase := 0, bars := [], rank := 0,
      spawned := false, round := none, gain := 0, tvec := 0, wmap := 0, copies := 1, groups := 0, place := 1, gops := 0, areaBase := 0,
      pins := [], started := 0, from_ := 0, sq := 1 }
  let k : Bank := { task := some y, mode := .running, l := { s := [(2, 1)] }, chans := [(2, { newest := 1, done := 1 })] }
  { State.reset with
    cur := .ctx 1 0 .L
    braids := [(1, { b0 := k, merge := [⟨0, [(0, storedOverCopy)], 0, false, ⟨0, 0, 0⟩, none⟩] })] }

/-- Refutes O13: WAITX is said to change nothing outside its bank, but its acquire (R248) marks the copy's writes in the merge buffer, which
is the braid's, as `waitsForCopy` shows. -/
theorem not_jobsAndCopiesAreQueued : ¬ Obligations.JobsAndCopiesAreQueued := by
  unfold Obligations.JobsAndCopiesAreQueued CopiesAreQueuedAndAwaited
  rintro ⟨-, h⟩
  obtain ⟨-, -, -, waitx, -⟩ := h waitsForCopy 0 0 2 0 2
  have guard : waitsForCopy.myCtx.getP 0 = true := Ctx.getP_zero _
  have holds : waitsForCopy.refHolds 1 0 (2 : BitVec 3).toNat ((waitsForCopy.rS 2).toNat % 2 ^ 28) = true := by decide
  obtain ⟨t, ht, effect⟩ := waitx holds
  rw [if_pos guard] at effect
  obtain ⟨only, -⟩ := effect
  rw [exec_waitx_holds guard holds] at ht
  have kept := onlyBank_merge only
  rw [← Host.Outcome.next.inj ht] at kept
  exact absurd kept (by decide)

end Sys2Proof.Machine
end

section
/-! The start of the head job of the running bank (05: R116, R117, R126, R130, R131; 12: R248). -/

open Sys2Proof.Claims

namespace Sys2Proof.Machine

/-! Observing copies marks own bytes of the bank and changes nothing else (R248). -/

/-- The braid with these lines in its merge buffer and these in the bank's overflow area and staged tiles. -/
def Braid.withOwn (x : Braid) (bank : Nat) (merge spilled : List MLine) (staged : List Tile) : Braid :=
  ({ x with merge } : Braid).setBank bank { x.bank bank with spilled, staged }

section
variable (x : Braid) (bank : Nat) (m p : List MLine) (g : List Tile)

@[simp] theorem Braid.withOwn_sram : (x.withOwn bank m p g).sram = x.sram := Braid.setBank_sram ..
@[simp] theorem Braid.withOwn_sramStart : (x.withOwn bank m p g).sramStart = x.sramStart := Braid.setBank_sramStart ..
@[simp] theorem Braid.withOwn_regs : (x.withOwn bank m p g).regs = x.regs := Braid.setBank_regs ..
@[simp] theorem Braid.withOwn_strands : (x.withOwn bank m p g).strands = x.strands := Braid.setBank_strands ..
@[simp] theorem Braid.withOwn_jobsOpen : (x.withOwn bank m p g).jobsOpen = x.jobsOpen := Braid.setBank_jobsOpen ..
@[simp] theorem Braid.withOwn_bank_same :
    (x.withOwn bank m p g).bank bank = { x.bank bank with spilled := p, staged := g } := Braid.bank_setBank_same ..
theorem Braid.withOwn_bank_other {i : Nat} (h : (bank = 0) ≠ (i = 0)) : (x.withOwn bank m p g).bank i = x.bank i :=
  Braid.bank_setBank_other _ _ h
theorem Braid.withOwn_withOwn (m' p' : List MLine) (g' : List Tile) :
    (x.withOwn bank m p g).withOwn bank m' p' g' = x.withOwn bank m' p' g' := by
  rw [withOwn, withOwn_bank_same]
  by_cases h : bank = 0 <;> simp [withOwn, setBank, h]

end

theorem State.braid_acquire (s : State) (b bank ch n : Nat) :
    ∃ m p g, (s.acquire b bank ch n).braid b = (s.braid b).withOwn bank m p g := ⟨_, _, _, State.braid_modBraid_same ..⟩

/-- From one state to the other only own bytes of a bank of braid `b` have changed. -/
structure State.OnlyOwn (b bank : Nat) (s t : State) : Prop where
  frame : ∀ y, t.setBraid b y = s.setBraid b y
  braid : ∃ m p g, t.braid b = (s.braid b).withOwn bank m p g

theorem State.OnlyOwn.refl (b bank : Nat) (s : State) : s.OnlyOwn b bank s :=
  ⟨fun _ => rfl, (s.braid b).merge, ((s.braid b).bank bank).spilled, ((s.braid b).bank bank).staged, ((s.braid b).setBank_bank bank).symm⟩

theorem State.OnlyOwn.acquire {s t : State} {b bank : Nat} (h : s.OnlyOwn b bank t) (ch n : Nat) :
    s.OnlyOwn b bank (t.acquire b bank ch n) := by
  obtain ⟨m, p, g, hx⟩ := h.braid
  obtain ⟨m', p', g', hy⟩ := t.braid_acquire b bank ch n
  refine ⟨fun y => (State.setBraid_setBraid ..).trans (h.frame y), m', p', g', ?_⟩
  rw [hy, hx, Braid.withOwn_withOwn]

theorem State.acquires_onlyOwn (s : State) (b bank : Nat) (l : List (Nat × Nat)) :
    s.OnlyOwn b bank (l.foldl (fun t e => t.acquire b bank e.1 e.2) s) :=
  List.foldlRecOn l _ (.refl b bank s) fun _ h e _ => h.acquire e.1 e.2

/-! Strands of a job (R117, R130). -/

@[simp] theorem tget_tmod {α : Type} (d : α) (m : Tab α) (i j : Nat) (f : α → α) :
    tget d (tmod d m i f) j = if j = i then f (tget d m j) else tget d m j := by
  rw [tmod, tget_tput]
  split
  · next h => rw [h]
  · rfl

/-- Strand `p` of a braid. -/
def Braid.strand (x : Braid) (p : Nat) : Strand := tget {} x.strands p

theorem State.strand_eq (s : State) (b p : Nat) : s.strand b p = (s.braid b).strand p := rfl

theorem Braid.strand_modStrand (x : Braid) (k p : Nat) (f : Strand → Strand) :
    (x.modStrand k f).strand p = if p = k then f (x.strand p) else x.strand p := tget_tmod ..

/-- A job's strand as it starts: at its entry, with nothing in progress. -/
def Strand.beginJob (t : Strand) (j : Job) (bank p : Nat) : Strand :=
  { ({ t with nest := [] } : Strand).leave (j.entry.getD p 0) with job := some j.num, bank, buf := [] }

/-- The strands that the job uses begin. -/
def Job.beginStrands (j : Job) (bank : Nat) (x : Braid) : Braid :=
  (upto 0 5).foldl (fun y p => if bitAt j.smask p then y.modStrand p fun t => t.beginJob j bank p else y) x

/-- A strand with this image as its parameter block `i`. -/
def Strand.putSpb (t : Strand) (i image : Nat) : Strand := { t with spb := tput t.spb i image }

/-- The parameter blocks that the job names are put at their entries, as `image` gives them by address. -/
def Job.loadSpbs (j : Job) (image : Nat → Nat) (x : Braid) : Braid :=
  j.loads.foldl (fun y e => y.modStrand e.1 (·.putSpb e.2.1 (image e.2.2))) x

/-- The job as it opens in cycle `now`: its reservations and the image of the loop registers (R116, R126). -/
def Job.opened (j : Job) (x : Braid) (bank now : Nat) : OpenJob :=
  { job := j, bank, start := now, joined := [], resv := [4, 5, 6, 8].map fun q => (q, condSum j.conds 1 q),
    resv7 := condSum j.conds 2 7, lpImage := (x.bank bank).lp, sram := x.sramStart, stm := 0 }

/-- The braid when the job's strands stand at their entries with their parameter blocks loaded. -/
def Braid.startStrands (x : Braid) (bank : Nat) (j : Job) : Braid := j.loadSpbs (fun a => leNat (x.sramRead a 32)) (j.beginStrands bank x)

/-- The braid when its bank's job has started. -/
def Braid.startJob (x : Braid) (bank now : Nat) (j : Job) : Braid :=
  let z := x.startStrands bank j
  ({ z with jobsOpen := z.jobsOpen ++ [j.opened x bank now] } : Braid).setBank bank
    (j.loads.foldl (fun k e => k.noteSet (regSpb e.1 e.2.1)) { x.bank bank with jobs := (x.bank bank).jobs.drop 1 })

theorem State.startJob_eq (s : State) (b bank : Nat) (j : Job) :
    s.startJob b bank j =
      (((j.preds.filter fun e => decide (e.1 ≤ 3)).foldl (fun t e => t.acquire b bank e.1 e.2) s).modBraid b
        fun x => x.startJob bank s.cycle j) := rfl

/-- Changes of strands one after another change the strands alone. -/
theorem Braid.foldl_strands {ε : Type} {f : Braid → ε → Braid} (hf : ∀ y e, f y e = { y with strands := (f y e).strands }) (l : List ε)
    (x : Braid) : l.foldl f x = { x with strands := (l.foldl f x).strands } :=
  List.foldlRecOn (motive := fun y => y = { x with strands := y.strands }) l f rfl fun y hy e _ =>
    (hf y e).trans (congrArg (fun z : Braid => { z with strands := (f y e).strands }) hy)

theorem Job.beginStrands_eq (j : Job) (bank : Nat) (x : Braid) :
    j.beginStrands bank x = { x with strands := (j.beginStrands bank x).strands } :=
  Braid.foldl_strands (fun y p => by split <;> rfl) _ x

theorem Job.loadSpbs_eq (j : Job) (image : Nat → Nat) (x : Braid) :
    j.loadSpbs image x = { x with strands := (j.loadSpbs image x).strands } := Braid.foldl_strands (fun _ _ => rfl) _ x

/-- Beginning strands one after another, each once. -/
theorem Braid.strand_foldl_beginJob (j : Job) (bank p : Nat) (l : List Nat) (hl : l.Nodup) : ∀ x : Braid,
    (l.foldl (fun y p => if bitAt j.smask p then y.modStrand p fun t => t.beginJob j bank p else y) x).strand p =
      if p ∈ l ∧ bitAt j.smask p = true then (x.strand p).beginJob j bank p else x.strand p := by
  induction l with
  | nil => simp
  | cons a r ih =>
    obtain ⟨ha, hr⟩ := List.nodup_cons.mp hl
    intro x
    rw [List.foldl_cons, ih hr]
    by_cases hp : p = a
    · subst hp
      cases hb : bitAt j.smask p <;> simp [ha, strand_modStrand]
    · cases hb : bitAt j.smask a <;> simp [hp, strand_modStrand]

theorem Job.strand_beginStrands (j : Job) (bank p : Nat) (x : Braid) : (j.beginStrands bank x).strand p =
    if p < 5 ∧ bitAt j.smask p = true then (x.strand p).beginJob j bank p else x.strand p := by
  rw [Job.beginStrands, Braid.strand_foldl_beginJob j bank p (upto 0 5) (by decide)]
  simp [mem_upto]

theorem Job.mem_loads {j : Job} {p i a : Nat} : (p, i, a) ∈ j.loads ↔
    (p < 5 ∧ bitAt j.smask p = true) ∧ (i < 8 ∧ bitAt (j.spbld.getD p 0) i = true) ∧ j.entry.getD p 0 - 256 + 32 * i = a := by
  simp only [Job.loads, List.mem_flatten, List.mem_map, exists_exists_and_eq_and, mem_upto, Nat.zero_le, true_and, Nat.zero_add]
  constructor
  · rintro ⟨k, hk, h⟩
    split at h
    · next hb =>
      obtain ⟨i', hi, e⟩ := List.mem_map.mp h
      obtain ⟨rfl, rfl, rfl⟩ := e
      obtain ⟨hi, hs⟩ := List.mem_filter.mp hi
      exact ⟨⟨hk, hb⟩, ⟨by simpa [mem_upto] using hi, hs⟩, rfl⟩
    · exact absurd h List.not_mem_nil
  · rintro ⟨⟨hk, hb⟩, ⟨hi, hs⟩, rfl⟩
    refine ⟨p, hk, ?_⟩
    rw [if_pos hb]
    exact List.mem_map.mpr ⟨i, List.mem_filter.mpr ⟨by simpa [mem_upto] using hi, hs⟩, rfl⟩

/-- Putting parameter blocks one after another, those of one entry from one address. -/
theorem Braid.strand_foldl_putSpb (image : Nat → Nat) (at_ : Nat → Nat → Nat) (p : Nat) (l : List (Nat × Nat × Nat))
    (hl : ∀ e ∈ l, e.2.2 = at_ e.1 e.2.1) : ∀ x : Braid, ∃ spb,
      (l.foldl (fun (y : Braid) e => y.modStrand e.1 (·.putSpb e.2.1 (image e.2.2))) x).strand p = { x.strand p with spb }
      ∧ ∀ i, tget 0 spb i = if (p, i) ∈ l.map (fun e => (e.1, e.2.1)) then image (at_ p i) else tget 0 (x.strand p).spb i := by
  induction l with
  | nil => exact fun x => ⟨_, rfl, fun i => rfl⟩
  | cons e r ih =>
    intro x
    obtain ⟨he, hr⟩ := List.forall_mem_cons.mp hl
    obtain ⟨spb, hx, hspb⟩ := ih hr (x.modStrand e.1 (·.putSpb e.2.1 (image e.2.2)))
    rw [strand_modStrand] at hx hspb
    refine ⟨spb, ?_, fun i => ?_⟩
    · rw [List.foldl_cons, hx]
      split <;> rfl
    · rw [hspb, he, List.map_cons]
      by_cases hp : p = e.1
      · by_cases hi : i = e.2.1 <;> simp [-List.mem_map, hp, hi, Strand.putSpb, tget_tput]
      · simp [-List.mem_map, hp]

section
variable (j : Job) (image : Nat → Nat) (x : Braid) {p : Nat}

/-- A strand of the job holds the blocks that its header names, each from its place before the strand's entry (R75, R117). -/
theorem Job.strand_loadSpbs_of_mask (hp : p < 5 ∧ bitAt j.smask p = true) : ∃ spb, (j.loadSpbs image x).strand p = { x.strand p with spb }
    ∧ ∀ i < 8, tget 0 spb i =
      if bitAt (j.spbld.getD p 0) i then image (j.entry.getD p 0 - 256 + 32 * i) else tget 0 (x.strand p).spb i := by
  obtain ⟨spb, hx, hspb⟩ := Braid.strand_foldl_putSpb image (fun p i => j.entry.getD p 0 - 256 + 32 * i) p j.loads
    (fun e he => (Job.mem_loads.mp he).2.2.symm) x
  refine ⟨spb, hx, fun i hi => (hspb i).trans (if_congr ⟨fun h => ?_, fun h => ?_⟩ rfl rfl)⟩
  · obtain ⟨e, he, hpi⟩ := List.mem_map.mp h
    obtain ⟨rfl, rfl⟩ := hpi
    obtain ⟨-, ⟨-, named⟩, -⟩ := Job.mem_loads.mp he
    exact named
  · exact List.mem_map.mpr ⟨(p, i, _), Job.mem_loads.mpr ⟨hp, ⟨hi, h⟩, rfl⟩, rfl⟩

/-- A strand that the job does not use keeps its blocks. -/
theorem Job.strand_loadSpbs_of_not_mask (hp : ¬(p < 5 ∧ bitAt j.smask p = true)) : (j.loadSpbs image x).strand p = x.strand p :=
  List.foldlRecOn (motive := fun y : Braid => y.strand p = x.strand p) j.loads _ rfl fun y hy e he => by
    have hne : p ≠ e.1 := fun h => hp (h ▸ (Job.mem_loads.mp he).1)
    rw [Braid.strand_modStrand, if_neg hne, hy]

end

/-! What a start leaves (R116, R117, R126, R130). -/

theorem Bank.foldl_noteSet {ε : Type} (f : ε → Nat) (l : List ε) (k : Bank) :
    ∃ u, l.foldl (fun k e => k.noteSet (f e)) k = { k with regsWritten := u } :=
  List.foldlRecOn (motive := fun m => ∃ u, m = { k with regsWritten := u }) l _ ⟨_, rfl⟩ fun m ⟨u, hm⟩ e _ => by
    subst hm
    unfold noteSet
    split
    · exact ⟨u, rfl⟩
    · exact ⟨_, rfl⟩

section
variable (x : Braid) (bank now : Nat) (j : Job)

theorem Braid.startStrands_eq : x.startStrands bank j = { x with strands := (x.startStrands bank j).strands } :=
  (j.loadSpbs_eq _ _).trans
    (congrArg (fun y : Braid => { y with strands := (x.startStrands bank j).strands }) (j.beginStrands_eq bank x))

theorem Braid.startJob_eq : ∃ u, x.startJob bank now j =
    ({ x with strands := (x.startStrands bank j).strands, jobsOpen := x.jobsOpen ++ [j.opened x bank now] } : Braid).setBank bank
      { x.bank bank with jobs := (x.bank bank).jobs.drop 1, regsWritten := u } := by
  obtain ⟨u, hu⟩ := Bank.foldl_noteSet (fun e => regSpb e.1 e.2.1) j.loads { x.bank bank with jobs := (x.bank bank).jobs.drop 1 }
  refine ⟨u, ?_⟩
  rw [startJob, hu]
  dsimp only
  rw [startStrands_eq]

theorem Braid.strand_startStrands_of_mask {p : Nat} (hp : p < 5 ∧ bitAt j.smask p = true) : ∃ spb,
    (x.startStrands bank j).strand p = { (x.strand p).beginJob j bank p with spb }
    ∧ ∀ i < 8, tget 0 spb i = if bitAt (j.spbld.getD p 0) i then leNat (x.sramRead (j.entry.getD p 0 - 256 + 32 * i) 32)
        else tget 0 (x.strand p).spb i := by
  have h := j.strand_loadSpbs_of_mask (fun a => leNat (x.sramRead a 32)) (j.beginStrands bank x) hp
  rw [j.strand_beginStrands, if_pos hp] at h
  exact h

theorem Braid.strand_startStrands_of_not_mask {p : Nat} (hp : ¬(p < 5 ∧ bitAt j.smask p = true)) :
    (x.startStrands bank j).strand p = x.strand p := by
  rw [startStrands, j.strand_loadSpbs_of_not_mask _ _ hp, j.strand_beginStrands, if_neg hp]

end

theorem Braid.sramRead_withOwn (x : Braid) (bank : Nat) (m p : List MLine) (g : List Tile) (a n : Nat) :
    (x.withOwn bank m p g).sramRead a n = x.sramRead a n := by
  simp [sramRead, sramAt]

/-- The job's entry among the open ones reserves its conditions' counts (R126). -/
theorem Job.opened_resv (j : Job) (x : Braid) (bank now q : Nat) :
    tget 0 (j.opened x bank now).resv q = if q = 4 ∨ q = 5 ∨ q = 6 ∨ q = 8 then condSum j.conds 1 q else 0 := by
  simp only [opened, List.map, tget]
  split_ifs <;> simp_all

/-! Whether the head job may start (R130, R131). -/

section
variable {s : State} {b y z : Nat} {j : Job} {rest : List Job}

theorem execJobStart_waits (hc : s.cur = .agent b y z) (hj : (s.bank b (s.braid b).runBank).jobs = j :: rest)
    (h : s.jobReady b (s.braid b).runBank j = false) : exec .jobStart s = .next s := by
  simp [execJobStart, State.agent, hc, hj, h]

theorem execJobStart_starts (hc : s.cur = .agent b y z) (hj : (s.bank b (s.braid b).runBank).jobs = j :: rest)
    (h : s.jobReady b (s.braid b).runBank j = true) (he : s.jobErrs b (s.braid b).runBank j = []) :
    exec .jobStart s = .next (s.startJob b (s.braid b).runBank j) := by
  simp [execJobStart, State.agent, hc, hj, h, he, Errs.least]

theorem execJobStart_fails {e : Bad} (hc : s.cur = .agent b y z) (hj : (s.bank b (s.braid b).runBank).jobs = j :: rest)
    (h : s.jobReady b (s.braid b).runBank j = true) (he : (s.jobErrs b (s.braid b).runBank j).least = some e) :
    exec .jobStart s = .next (s.defer b (s.braid b).runBank { code := e.code, src := 0, ctx := .X, epc := j.pc, va := e.va }) := by
  simp [execJobStart, State.agent, hc, hj, h, he]

variable {bank : Nat}

theorem Braid.jobClashes_iff {x : Braid} : x.jobClashes bank j = true ↔
    ∃ o ∈ x.jobsOpen, o.bank = bank ∧ ∃ r ∈ o.job.regions, ∃ u ∈ j.regions, regionsClash r u = true := by
  simp [jobClashes]

/-- The overlap is the fault, whatever else the start meets (R131, R300). -/
theorem State.jobErrs_least_of_clash (h : (s.braid b).jobClashes bank j = true) : (s.jobErrs b bank j).least = some ⟨6, 0, false⟩ := by
  rw [jobErrs, if_pos h]
  split <;> rfl

/-- What holds of a job that may start (R130). -/
theorem State.of_jobReady (h : s.jobReady b bank j = true) :
    (∀ p < 5, bitAt j.smask p = true → (s.strand b p).job = none) ∧ (∀ c ∈ j.conds, (s.braid b).condHolds bank j.conds c = true)
      ∧ j.at_ + 4 ≤ s.cycle := by
  simp only [jobReady, Bool.and_eq_true, decide_eq_true_eq, List.all_eq_true, mem_upto, Bool.or_eq_true, Bool.not_eq_true'] at h
  obtain ⟨⟨⟨⟨⟨⟨-, strands⟩, -⟩, conds⟩, age⟩, -⟩, -⟩ := h
  refine ⟨fun p hp hb => ?_, conds, age⟩
  rcases strands p ⟨p.zero_le, by omega⟩ with h | h
  · rw [hb] at h; cases h
  · simpa using h

theorem Braid.le_length_of_condHolds {x : Braid} {c : Nat} {cs : List Nat} (h : x.condHolds bank cs c = true) (hk : condKind c = 1)
    (hf : feeds (condQueue c) = false) : condSum cs 1 (condQueue c) ≤ ((x.bank bank).queue (condQueue c)).length := by
  simpa [condHolds, hk, hf] using h

end

/-- A start changes its braid alone: own bytes as the copies it names are observed, then what the start itself does. -/
theorem State.startJob_eq_setBraid (s : State) (b bank : Nat) (j : Job) :
    ∃ m p g, s.startJob b bank j = s.setBraid b (((s.braid b).withOwn bank m p g).startJob bank s.cycle j) := by
  obtain ⟨frame, m, p, g, hx⟩ := s.acquires_onlyOwn b bank (j.preds.filter fun e => decide (e.1 ≤ 3))
  exact ⟨m, p, g, by rw [State.startJob_eq, State.modBraid, frame, hx]⟩

section
variable (x : Braid) (bank now : Nat) (j : Job)

theorem Braid.startJob_strand (p : Nat) : (x.startJob bank now j).strand p = (x.startStrands bank j).strand p := by
  obtain ⟨u, hu⟩ := x.startJob_eq bank now j
  simp [hu, strand]
theorem Braid.startJob_jobsOpen : (x.startJob bank now j).jobsOpen = x.jobsOpen ++ [j.opened x bank now] := by
  obtain ⟨u, hu⟩ := x.startJob_eq bank now j
  simp [hu]
theorem Braid.startJob_sram : (x.startJob bank now j).sram = x.sram := by
  obtain ⟨u, hu⟩ := x.startJob_eq bank now j
  simp [hu]
theorem Braid.startJob_regs : (x.startJob bank now j).regs = x.regs := by
  obtain ⟨u, hu⟩ := x.startJob_eq bank now j
  simp [hu]
theorem Braid.startJob_bank_same : ∃ u, (x.startJob bank now j).bank bank =
    { x.bank bank with jobs := (x.bank bank).jobs.drop 1, regsWritten := u } := by
  obtain ⟨u, hu⟩ := x.startJob_eq bank now j
  exact ⟨u, by rw [hu, bank_setBank_same]⟩
theorem Braid.startJob_bank_other {i : Nat} (h : (bank = 0) ≠ (i = 0)) : (x.startJob bank now j).bank i = x.bank i := by
  obtain ⟨u, hu⟩ := x.startJob_eq bank now j
  rw [hu, bank_setBank_other _ _ h]
  rfl

end

/-- The head job starts as `Braid.startJob` says, waits where it is not ready, and faults where its start fails (R130, R131, R209). -/
theorem jobsStart : JobsStart := by
  unfold JobsStart
  intro s b y z j rest x bank k clean hc hbank hj
  refine ⟨fun ready hclean => ?starts, execJobStart_waits hc hj, fun e => execJobStart_fails hc hj,
    fun h => State.jobErrs_least_of_clash (Braid.jobClashes_iff.mpr h), fun p hp hb busy => Bool.eq_false_iff.mpr fun ready => ?busy,
    fun c hcond hk hf short => Bool.eq_false_iff.mpr fun ready => ?short, fun early => Bool.eq_false_iff.mpr fun ready => ?early⟩
  case busy =>
    obtain ⟨free, -, -⟩ := State.of_jobReady ready
    rw [free p hp hb] at busy
    cases busy
  case short =>
    obtain ⟨-, conds, -⟩ := State.of_jobReady ready
    exact absurd (Braid.le_length_of_condHolds (conds c hcond) hk hf) (Nat.not_le.mpr short)
  case early =>
    obtain ⟨-, -, age⟩ := State.of_jobReady ready
    exact absurd age (Nat.not_le.mpr early)
  case starts =>
    obtain ⟨m, p, g, ht⟩ := s.startJob_eq_setBraid b bank j
    generalize hw : x.withOwn bank m p g = w at ht
    obtain ⟨u, hk⟩ := w.startJob_bank_same bank s.cycle j
    have hwk : w.bank bank = { k with spilled := p, staged := g } := by rw [← hw, Braid.withOwn_bank_same]; rfl
    rw [hwk] at hk
    have other : (bank = 0) ≠ (1 - bank = 0) := by simp only [ne_eq, eq_iff_iff]; omega
    have strand (q : Nat) : w.strand q = s.strand b q := by rw [← hw, Braid.strand, Braid.withOwn_strands]; rfl
    refine ⟨s.setBraid b (w.startJob bank s.cycle j), j.opened w bank s.cycle,
      (execJobStart_starts hc hj ready hclean).trans (congrArg Host.Outcome.next ht), ?_⟩
    simp only [State.bank_eq, State.strand_eq, State.braid_setBraid_same, hk, Braid.startJob_bank_other w bank s.cycle j other,
      Braid.startJob_jobsOpen, Braid.startJob_sram, Braid.startJob_regs, Braid.startJob_strand]
    refine ⟨?frame, ?jobs, fun c => ?ctx, trivial, ?otherBank, ?jobsOpen, rfl, rfl, rfl, rfl, ?lpImage, rfl, j.opened_resv w bank s.cycle,
      rfl, ?sram, ?regs, fun q hq => ?unused, fun q h5 hq => ?used⟩
    case frame => rw [onlyBraidOf, State.modBraid, State.braid_setBraid_same]
    case jobs => exact congrArg (List.drop 1) hj
    case ctx => cases c <;> rfl
    case otherBank => rw [← hw, Braid.withOwn_bank_other _ _ _ _ _ other]
    case jobsOpen => rw [← hw, Braid.withOwn_jobsOpen]
    case lpImage => rw [Job.opened, hwk]
    case sram => rw [← hw, Braid.withOwn_sram]
    case regs => rw [← hw, Braid.withOwn_regs]
    case unused => exact (w.strand_startStrands_of_not_mask bank j hq).trans (strand q)
    case used =>
      obtain ⟨spb, hs, hspb⟩ := w.strand_startStrands_of_mask bank j ⟨h5, hq⟩
      rw [hs]
      refine ⟨rfl, rfl, rfl, rfl, rfl, rfl, rfl, fun i hi => (hspb i hi).trans ?_⟩
      rw [strand q, ← hw, Braid.sramRead_withOwn]
      rfl

end Sys2Proof.Machine
end

section
/-! The rendezvous and the overrun of an open job (05: R126, R132, R133). -/

open Sys2Proof.Claims

namespace Sys2Proof.Machine

/-- The open job is the one of a bank and number. -/
def OpenJob.is (o : OpenJob) (bank n : Nat) : Prop := o.bank = bank ∧ o.job.num = n

section
variable {s : State} {b bank n : Nat} {l1 l2 : List OpenJob} {j : OpenJob}

/-- The only open job of its bank and number is the one an event names. -/
theorem State.namedJob_eq (hc : s.cur = .agent b bank n) (hl : (s.braid b).jobsOpen = l1 ++ j :: l2) (hj : j.is bank n)
    (h1 : ∀ o ∈ l1, ¬ o.is bank n) : s.namedJob = some j := by
  obtain ⟨hb, hn⟩ := hj
  simp only [namedJob, agent, hc, hl]
  rw [List.find?_append, List.find?_eq_none.mpr fun o ho => by simpa [OpenJob.is] using h1 o ho]
  simp [hb, hn]

theorem filter_other_jobs (hj : j.is bank n) (h1 : ∀ o ∈ l1, ¬ o.is bank n) (h2 : ∀ o ∈ l2, ¬ o.is bank n) :
    (l1 ++ j :: l2).filter (fun o => !(o.bank == bank && o.job.num == n)) = l1 ++ l2 := by
  obtain ⟨hb, hn⟩ := hj
  have keep (l : List OpenJob) (h : ∀ o ∈ l, ¬ o.is bank n) : l.filter (fun o => !(o.bank == bank && o.job.num == n)) = l :=
    List.filter_eq_self.mpr fun o ho => by simpa [OpenJob.is, imp_iff_not_or] using h o ho
  rw [List.filter_append, List.filter_cons, keep l1 h1, keep l2 h2]
  simp [hb, hn]

/-- All strands have joined, no packet is to be seen off and no result is to come (R132, R179). -/
theorem Braid.joinedAll_iff {x : Braid} (hj : j.is bank n) : x.joinedAll j = true ↔
    (∀ p < 5, bitAt j.job.smask p = true → p ∈ j.joined) ∧ j.stm = 0 ∧ ∀ p ∈ x.pend, ¬(p.bank = bank ∧ p.job = n) := by
  obtain ⟨rfl, rfl⟩ := hj
  simp [joinedAll, mem_upto, and_assoc, imp_iff_not_or]

/-- The next number is settled with nothing finished beyond it (R129). -/
theorem settleDone_next {done : Nat} (h : n = (done + 1) % 2 ^ 28) : settleDone done [n] 1 = (n, []) := by
  subst h
  simp [settleDone]

/-- A strand as the end of a job leaves it (R132). -/
def Strand.freed (t : Strand) (j : OpenJob) : Strand :=
  if t.job = some j.job.num ∧ t.bank = j.bank then { t with job := none, nest := [], buf := [] } else t

theorem Strand.freed_job (t : Strand) (hj : j.is bank n) : (t.freed j).job = if t.job = some n ∧ t.bank = bank then none else t.job := by
  obtain ⟨rfl, rfl⟩ := hj
  unfold freed
  split <;> rfl

/-- The word that tells q7 of a job's end: its number and the cycles it took (R126). -/
def OpenJob.word (j : OpenJob) (n now : Nat) : Word64 := BitVec.ofNat 64 (n + 2 ^ 32 * (now - j.start + 1))

/-- The bank when its job of number `n` has reached its rendezvous. -/
def Bank.endJob (k : Bank) (n now : Nat) (j : OpenJob) : Bank :=
  let settled := settleDone k.jobDone (n :: k.jobFin) (k.jobFin.length + 1)
  { k with q := if j.resv7 = 0 then k.q else tput k.q 7 (k.queue 7 ++ [j.word n now]), jobDone := settled.1, jobFin := settled.2 }

theorem Bank.endJob_ctx (k : Bank) (n now : Nat) (j : OpenJob) (c : CtxId) : (k.endJob n now j).ctx c = k.ctx c := by cases c <;> rfl

theorem Bank.endJob_queue (k : Bank) (n now : Nat) (j : OpenJob) (q : Nat) :
    (k.endJob n now j).queue q = if q = 7 ∧ j.resv7 ≠ 0 then k.queue 7 ++ [j.word n now] else k.queue q := by
  by_cases h : j.resv7 = 0
  · simp [endJob, queue, h]
  · simp [endJob, queue, h, tget_tput]

theorem Bank.endJob_next {k : Bank} (now : Nat) (j : OpenJob) (h : n = (k.jobDone + 1) % 2 ^ 28) (hf : k.jobFin = []) :
    (k.endJob n now j).jobDone = n ∧ (k.endJob n now j).jobFin = [] := by
  simp only [endJob, hf, List.length_nil, Nat.zero_add, settleDone_next h, and_self]

/-- The braid when a job of its bank has reached its rendezvous. -/
def Braid.endJob (x : Braid) (bank n now : Nat) (j : OpenJob) : Braid :=
  ({ x with jobsOpen := x.jobsOpen.filter fun o => !(o.bank == bank && o.job.num == n), strands := freeStrands j x.strands } : Braid).setBank
    bank ((x.bank bank).endJob n now j)

theorem Braid.endJob_bank_same (x : Braid) (bank n now : Nat) (j : OpenJob) :
    (x.endJob bank n now j).bank bank = (x.bank bank).endJob n now j := bank_setBank_same ..

theorem Braid.endJob_strand (x : Braid) (bank n now : Nat) (j : OpenJob) (p : Nat) :
    (x.endJob bank n now j).strand p = (x.strand p).freed j := by
  rw [strand, endJob, setBank_strands]
  exact tget_map_val {} (Strand.freed · j) rfl x.strands p

section
variable (hc : s.cur = .agent b bank n) (hs : s.namedJob = some j)
include hc hs

theorem execRendezvous_waits (h : (s.braid b).joinedAll j = false) : exec .rendezvous s = .next s := by
  simp [execRendezvous, State.agent, hc, hs, h]

theorem execRendezvous_left (h : (s.braid b).joinedAll j = true) (hl : ∃ e ∈ j.resv, 0 < e.2) :
    exec .rendezvous s = .next (s.jobFault b bank 2 j.job 0) := by
  have hl : (j.resv.any fun e => decide (0 < e.2)) = true := by simpa using hl
  simp only [exec_rendezvous, execRendezvous, State.agent, hc, hs, h]
  exact if_pos hl

theorem execRendezvous_ends (h : (s.braid b).joinedAll j = true) (hl : ¬ ∃ e ∈ j.resv, 0 < e.2) :
    exec .rendezvous s = .next (s.modBraid b fun x => x.endJob bank n s.cycle j) := by
  have hl : (j.resv.any fun e => decide (0 < e.2)) ≠ true := by simpa using hl
  simp only [exec_rendezvous, execRendezvous, State.agent, hc, hs, h]
  exact if_neg hl

theorem execOverrun_within (hn : n < 2 ^ 28) (h : s.cycle - j.start + 1 < j.job.maxc) : exec .overrun s = .next s := by
  have hn : n ≠ lastFault := hn.ne
  simp [execOverrun, State.agent, hc, hs, h, hn]

theorem execOverrun_over (hn : n < 2 ^ 28) (h : j.job.maxc ≤ s.cycle - j.start + 1) :
    exec .overrun s = .next (s.jobFault b bank 3 j.job 0) := by
  have hn : n ≠ lastFault := hn.ne
  simp [execOverrun, State.agent, hc, hs, Nat.not_lt.mpr h, hn]

end

end

/-- An open job ends as `Braid.endJob` says once it is joined, or faults (R126, R132, R133). -/
theorem jobsEndAtTheirRendezvous : JobsEndAtTheirRendezvous := by
  unfold JobsEndAtTheirRendezvous
  intro s b bank n l1 l2 j x k mine ready left hc hbank hl hj h1 h2
  have hs := State.namedJob_eq hc hl hj h1
  have joined : x.joinedAll j = true ↔ ready := Braid.joinedAll_iff hj
  refine ⟨fun hr hn => ⟨_, execRendezvous_ends hc hs (joined.mpr hr) hn, ?_⟩,
    fun hr => execRendezvous_waits hc hs (Bool.eq_false_iff.mpr (mt joined.mp hr)),
    fun hr hl => execRendezvous_left hc hs (joined.mpr hr) hl, execOverrun_over hc hs, execOverrun_within hc hs⟩
  simp only [State.bank_eq, State.strand_eq, State.braid_modBraid_same, Braid.endJob_bank_same, Braid.endJob_strand]
  refine ⟨?frame, ?jobsOpen, Bank.endJob_next s.cycle j, k.endJob_queue n s.cycle j, fun p => Strand.freed_job _ hj, ?sram, ?regs,
    k.endJob_ctx n s.cycle j⟩
  case frame => rw [onlyBraidOf, State.modBraid, State.modBraid, State.braid_setBraid_same]
  case jobsOpen => rw [Braid.endJob, Braid.setBank_jobsOpen, hl, filter_other_jobs hj h1 h2]
  case sram => rw [Braid.endJob, Braid.setBank_sram]
  case regs => rw [Braid.endJob, Braid.setBank_regs]

/-- Settles O31: a start is `Braid.startJob` on a braid of which only own bytes have been marked, an end is `Braid.endJob`. -/
theorem jobsStartAndEnd : Obligations.JobsStartAndEnd := ⟨jobsStart, jobsEndAtTheirRendezvous⟩

end Sys2Proof.Machine
end

section
/-! What an issue cycle of an op reads and writes of its braid, said once for the operations that the strands share (05: R112, R116, R118,
R126; 10: R209; 15: R320, R321). -/

open Sys2Proof.Claims

namespace Sys2Proof.Machine

/-- What an issue cycle of an op reads and writes of its braid but for operands, results in flight, open jobs and notes: SRAM at the start of
the cycle and its bytes in error, the accumulators in issue order with their ready cycles, the strand registers, the strand but for the streams
the op has opened, and of the bank the queues and the warnings of the cycle. -/
structure OpView where
  sramStart : Tab Byte
  bad : List Nat
  chain : Tab (List Word32)
  accReady : Tab Nat
  regs : StrandRegs
  own : Strand
  q : Tab (List Word64)
  warnSets : BitVec 12

def At.view (a : At) (s : State) : OpView :=
  let x := s.braid a.b
  let k := s.bank a.b a.bank
  ⟨x.sramStart, x.bad, x.chain, x.accReady, x.regs, { a.strand s with opened := [] }, k.q, k.warnSets⟩

/-- From `s` to `t` the op has given no result, and has left the view `v`. -/
structure At.Leaves (a : At) (s t : State) (v : OpView) : Prop where
  touch : OpTouch s t a.b a.k a.job []
  view : a.view t = v

/-- From `s` to `t` the op has only opened and read streams, and noted what it read and wrote. -/
abbrev At.Reads (a : At) (s t : State) : Prop := a.Leaves s t (a.view s)

theorem At.Reads.refl (a : At) (s : State) : a.Reads s s := ⟨.refl .., rfl⟩

theorem At.Leaves.reads {a : At} {s t u : State} {v : OpView} (h : a.Leaves s t v) (g : a.Reads t u) : a.Leaves s u v :=
  ⟨h.touch.trans g.touch, g.view.trans h.view⟩

theorem At.Leaves.congr {a : At} {s t : State} {v v' : OpView} (h : a.Leaves s t v) (e : v = v') : a.Leaves s t v' := e ▸ h

theorem At.Reads.trans {a : At} {s t u : State} (h : a.Reads s t) (g : a.Reads t u) : a.Reads s u := h.reads g

/-! The view after each operation. -/

/-- A change of the bank keeps its queues and the warnings of the cycle. -/
def Bank.Quiet (f : Bank → Bank) : Prop := ∀ k, (f k).q = k.q ∧ (f k).warnSets = k.warnSets

theorem Bank.quiet_foldl {g : Bank → Nat → Bank} (hg : ∀ x, Quiet fun k => g k x) (l : List Nat) : Quiet fun k => l.foldl g k := fun k =>
  List.foldlRecOn (motive := fun m => m.q = k.q ∧ m.warnSets = k.warnSets) l g ⟨rfl, rfl⟩ fun m hm x _ =>
    ⟨(hg x m).1.trans hm.1, (hg x m).2.trans hm.2⟩

theorem Bank.quiet_noteReg (r : Nat) : Quiet (·.noteReg r) := fun k => by
  dsimp only [noteReg]
  split <;> exact ⟨rfl, rfl⟩

theorem Bank.quiet_noteSet (r : Nat) : Quiet (·.noteSet r) := fun k => by
  dsimp only [noteSet]
  split <;> exact ⟨rfl, rfl⟩

theorem Bank.quiet_noteRead (x : Nat) : Quiet (·.noteRead x) := fun k => by
  dsimp only [noteRead]
  split <;> exact ⟨rfl, rfl⟩

section
variable (a : At) (s : State)

theorem At.view_modBank (f : Bank → Bank) :
    a.view (a.modBank s f) = { a.view s with q := (f (s.bank a.b a.bank)).q, warnSets := (f (s.bank a.b a.bank)).warnSets } := by
  simp [At.view, At.modBank, At.strand, State.strand, State.modBank, State.setBank, State.bank]

theorem At.view_modBank_quiet {f : Bank → Bank} (hf : Bank.Quiet f) : a.view (a.modBank s f) = a.view s := by
  rw [view_modBank, (hf _).1, (hf _).2]
  rfl

theorem At.view_warnIf (c : Bool) (i : Nat) :
    a.view (a.warnIf s c i) = { a.view s with warnSets := (a.view s).warnSets ||| if c then 1#12 <<< i else 0 } := by
  cases c with
  | false => simp [At.warnIf]
  | true => exact a.view_modBank s (·.warnBit i)

theorem At.view_modStrand {f : Strand → Strand} (hf : ∀ t, { f t with opened := [] } = f { t with opened := [] }) :
    a.view (s.modStrand a.b a.k f) = { a.view s with own := f (a.view s).own } := by
  have hown : a.strand (s.modStrand a.b a.k f) = f (a.strand s) := s.strand_modStrand_same a.b a.k f
  simp only [At.view, hown, hf]
  simp [State.modStrand, Braid.modStrand, State.bank, Braid.bank]

theorem At.view_modOpen (f : OpenJob → OpenJob) : a.view (a.modOpen s f) = a.view s := by
  simp [At.view, At.modOpen, At.strand, State.strand, State.bank, Braid.bank]

theorem At.view_emit (due : Nat) (fl : FlagSet) (e : Eff) : a.view (a.emit s due fl e) = a.view s := by
  simp [At.view, At.emit, At.strand, State.strand, State.bank, Braid.bank]

theorem At.reads_noteRegs (l : List Nat) : a.Reads s (a.noteRegs s l) :=
  ⟨.noteRegs .., a.view_modBank_quiet s (Bank.quiet_foldl Bank.quiet_noteReg l)⟩

theorem At.reads_noteSets (l : List Nat) : a.Reads s (a.noteSets s l) :=
  ⟨.noteSets .., a.view_modBank_quiet s (Bank.quiet_foldl Bank.quiet_noteSet l)⟩

theorem At.reads_noteReads (l : List Nat) : a.Reads s (a.noteReads s l) :=
  ⟨.noteReads .., a.view_modBank_quiet s (Bank.quiet_foldl Bank.quiet_noteRead l)⟩

end

/-- Writing accumulators, their ready cycles and drain records touches nothing that another op could not. -/
theorem OpTouch.setAccumulators (s : State) (b k n : Nat) (chain : Tab (List Word32)) (accReady : Tab Nat) (drain : Tab DrainRec) :
    OpTouch s (s.setBraid b { s.braid b with chain, accReady, regs := { (s.braid b).regs with drain } }) b k n [] := by
  refine ⟨.inr (by simp), ?_, ?_, ?_, ?_, ?_, ?_, ?_, ?_, ?_⟩ <;> simp [State.strand, State.bank, Braid.bank, opEmits]

section
variable {a : At} {s t : State} {v : OpView} (h : a.Leaves s t v)
include h

theorem At.Leaves.warnIf (c : Bool) (i : Nat) :
    a.Leaves s (a.warnIf t c i) { v with warnSets := v.warnSets ||| if c then 1#12 <<< i else 0 } :=
  ⟨h.touch.trans (.warnIf ..), h.view ▸ a.view_warnIf t c i⟩

theorem At.Leaves.modStrand {f : Strand → Strand} (hplain : ∀ k, (f k).plain = k.plain) (hf : ∀ k, { f k with opened := [] } = f { k with opened := [] }) :
    a.Leaves s (t.modStrand a.b a.k f) { v with own := f v.own } :=
  ⟨h.touch.trans (.modStrand _ _ _ _ _ hplain), h.view ▸ a.view_modStrand t hf⟩

theorem At.Leaves.setDrain (drain : Tab DrainRec) :
    a.Leaves s (t.setBraid a.b { t.braid a.b with regs := { (t.braid a.b).regs with drain } }) { v with regs := { v.regs with drain } } :=
  ⟨h.touch.trans (.setAccumulators t a.b a.k a.job (t.braid a.b).chain (t.braid a.b).accReady drain), by
    rw [← h.view]
    simp [At.view, At.strand, State.strand, State.bank, Braid.bank]⟩

end

/-- The op that stands at strand `k` in job `n`. -/
def opOf (s : State) (b k n : Nat) : At := ⟨b, k, (s.strand b k).bank, (s.strand b k).q, s.cycle, n, (s.strand b k).opPc⟩

theorem opOf_is (s : State) (b k n : Nat) : (opOf s b k n).is s b k n := rfl

/-! The three answers of an issue cycle (R113, R122). -/

section
variable {s s1 : State} {b k n len k' : Nat} {i : Instr} {f : State → At → Iss (State × Bool)}
  (hi : exec i s = strandForm k' len f s) (h : opAt s b k n)
include hi h

theorem exec_ends (hf : f s (opOf s b k n) = .ok (s1, true)) :
    exec i s = .next (s1.modStrand b k fun t => t.leave (t.opPc + 2 * len)) := hi.trans (strandForm_ends h hf)

theorem exec_stays (hf : f s (opOf s b k n) = .ok (s1, false)) :
    exec i s = .next (s1.modStrand b k fun t => { t with q := t.q + 1 }) := hi.trans (strandForm_stays h hf)

theorem exec_faults {e : Bad} (hf : f s (opOf s b k n) = .error e) :
    opFaults i s b k e.code e.va e.write := by
  rw [opOf] at hf
  rw [opFaults, hi, strandForm_spec h, hf]

end

/-- What an op does in its first cycle alone, and then what it does in each. -/
theorem iss_first {α : Type} {c : Prop} [Decidable c] {x : Iss State} {f : State → Iss α} {s s1 : State} {y : Iss α}
    (hx : if c then x = .ok s1 else s1 = s) (hf : f s1 = y) : (if c then x >>= f else (.ok s : Iss State) >>= f) = y := by
  split at hx
  · next hc =>
    rw [if_pos hc, hx]
    exact hf
  · next hc =>
    rw [if_neg hc, ← hx]
    exact hf

theorem iss_bind {α β : Type} {x : Iss α} {f : α → Iss β} {v : α} {y : Iss β} (hx : x = .ok v) (hf : f v = y) : (x >>= f) = y := by
  rw [hx]
  exact hf

theorem iss_error {α β : Type} {x : Iss α} {f : α → Iss β} {e : Bad} (hx : x = .error e) : (x >>= f) = .error e := by
  rw [hx]
  rfl

/-! What an op reads stands through its own openings and readings. -/

section
variable {s t : State} {b k n : Nat} {l : List (Nat × FlagSet × Eff)}

theorem mayTouch_iff_fixed {wr : Bool} {p : Spb} {first cnt : Nat} :
    mayTouch s b k n wr p first cnt ↔ ∀ f, (openJob s b k n).map OpenJob.fixed = some f → ∀ i < cnt,
      ∀ x ∈ [p.addr (first + i), p.addr (first + i) + p.bytes - 1], inScratch x = true →
        ∃ r ∈ f.1.regions, regionHit r (x - Config.scratchBase) wr = true := by
  unfold mayTouch
  cases openJob s b k n with
  | none => simp
  | some j => simp [OpenJob.fixed]

theorem OpTouch.mayTouch (h : OpTouch s t b k n l) {wr : Bool} {p : Spb} {first cnt : Nat} (hm : mayTouch s b k n wr p first cnt) :
    mayTouch t b k n wr p first cnt := by
  rw [mayTouch_iff_fixed] at hm ⊢
  rw [openJob_touch h]
  exact hm

theorem OpTouch.mayRead (h : OpTouch s t b k n l) (hbad : (t.braid b).bad = (s.braid b).bad) {reach : Nat → Nat} {p : Spb} {first cnt : Nat}
    (hm : mayRead s b k n (s.braid b) reach p first cnt) : mayRead t b k n (t.braid b) reach p first cnt := by
  obtain ⟨regions, sound⟩ := hm
  rw [← hbad] at sound
  exact ⟨h.mayTouch regions, sound⟩

theorem OpTouch.spb (h : OpTouch s t b k n l) : (t.strand b k).spb = (s.strand b k).spb  :=
  (congrArg Strand.spb h.own :)

theorem Braid.sramAt_congr {x y : Braid} (h : y.sramStart = x.sramStart) : y.sramAt = x.sramAt := by
  unfold sramAt
  rw [h]

/-- The stream of a parameter block that no queue feeds. -/
theorem opensStream_unfed {i skip : Nat} {p : Spb} (hi : (if i = 7 then feedQueue k else none) = none) :
    opensStream s b k n i skip p ↔ parseSpb (tget 0 (s.strand b k).spb i) = some p ∧ p.inRange = true ∧ p.mailByte = none := by
  unfold opensStream
  rw [hi]
  simp

end

section
variable {a : At} {s : State}

theorem At.open_eq (h : a.is s a.b a.k a.job) : a.open_ s = openJob s a.b a.k a.job := by
  have hbank : a.bank = (s.strand a.b a.k).bank := congrArg At.bank h
  rw [At.open_, openJob, hbank]

theorem At.regionErrs_eq_nil (h : a.is s a.b a.k a.job) {wr : Bool} {p : Spb} {first cnt : Nat}
    (hm : mayTouch s a.b a.k a.job wr p first cnt) : a.regionErrs s wr (p.ends (upto first cnt)) = [] := by
  unfold At.regionErrs
  rw [At.open_eq h]
  cases hj : openJob s a.b a.k a.job with
  | none => rfl
  | some j =>
    have hnone : ((p.ends (upto first cnt)).find? fun x => inScratch x && !(j.job.regions.any fun r => regionHit r (x - Config.scratchBase) wr)) = none := by
      refine List.find?_eq_none.mpr fun x hx => ?_
      obtain ⟨_, hl, hx⟩ := List.mem_flatten.mp hx
      obtain ⟨i, hi, rfl⟩ := List.mem_map.mp hl
      obtain ⟨lo, hi⟩ := mem_upto.mp hi
      have hit := hm j hj (i - first) (by omega) x (by rwa [Nat.add_sub_cancel' lo])
      simpa using hit
    simp only [hnone]

theorem Braid.badErrs_eq_nil {x : Braid} {reach : Nat → Nat} {p : Spb} {first cnt : Nat}
    (h : ∀ i < cnt, ∀ y ∈ upto (p.addr (first + i)) p.bytes, reach y ∉ x.bad) : x.badErrs reach (p.bytesOf (upto first cnt)) = [] := by
  have hnone : ((p.bytesOf (upto first cnt)).find? fun y => x.bad.contains (reach y)) = none := by
    refine List.find?_eq_none.mpr fun y hy => ?_
    obtain ⟨_, hl, hy⟩ := List.mem_flatten.mp hy
    obtain ⟨i, hi, rfl⟩ := List.mem_map.mp hl
    obtain ⟨lo, hi⟩ := mem_upto.mp hi
    have sound := h (i - first) (by omega) y (by rwa [Nat.add_sub_cancel' lo])
    simpa using sound
  unfold Braid.badErrs
  rw [hnone]
  split <;> rfl

/-- An op reads the elements that it may read. -/
theorem At.readElems_ok (h : a.is s a.b a.k a.job) {p : Spb} {first cnt : Nat}
    (hm : mayRead s a.b a.k a.job (s.braid a.b) id p first cnt) :
    ∃ t, a.readElems s p (upto first cnt) = .ok (t, (List.range cnt).map fun i => p.read (s.braid a.b).sramAt (first + i)) ∧ a.Reads s t := by
  obtain ⟨regions, sound⟩ := hm
  refine ⟨_, ?_, a.reads_noteReads s (p.ends (upto first cnt))⟩
  unfold At.readElems
  dsimp only
  rw [At.regionErrs_eq_nil h regions, Braid.badErrs_eq_nil sound, upto_eq_map, List.map_map]
  rfl

/-- An op opens its stream, where no queue feeds it. -/
theorem At.openFor_ok (wr : Bool) {i skip : Nat} {p : Spb} (hi : (if i = 7 then feedQueue a.k else none) = none)
    (ho : opensStream s a.b a.k a.job i skip p) : ∃ t, a.openFor wr s i = ⟨t, p, []⟩ ∧ a.Reads s t := by
  obtain ⟨parse, range, mail⟩ := (opensStream_unfed hi).mp ho
  have opened (w : Nat) : a.Reads s (s.modStrand a.b a.k fun t => { t with opened := t.opened ++ [w] }) :=
    ⟨.modStrand _ _ _ _ _ fun _ => rfl, by
      simp [At.view, At.strand, State.strand, State.modStrand, Braid.modStrand, State.bank, Braid.bank, tmod]⟩
  unfold At.openFor
  simp only [At.strand, parse, hi, range, mail]
  exact ⟨_, rfl, (opened _).trans (a.reads_noteRegs _ _)⟩

/-- The check of the format and the count of a stream holds, and its opening is only that. -/
theorem At.openSpb_ok {i skip fmt count : Nat} {p : Spb} (hi : (if i = 7 then feedQueue a.k else none) = none)
    (ho : opensStream s a.b a.k a.job i skip p) (hfmt : p.fmt = fmt) (hcount : p.count = count) :
    let x := a.openSpb s i
    x.errs ++ need (x.p.fmt == fmt && x.p.count == count) 2 = [] ∧ a.Reads s x.s := by
  obtain ⟨t, opened, keeps⟩ := At.openFor_ok (a.k == 4) hi ho
  simp only [At.openSpb, opened]
  exact ⟨by simp [hfmt, hcount, need], keeps⟩

/-- A beat of a counted stream is taken where its marker stands as the count says (R111). -/
theorem At.takeCounted_of_beatOn {t : Nat} {l : List Word32} {m : Bool} (hb : beatOn s a.b a.k t l m) (last : Bool) :
    a.takeCounted s t last = if m = last then .ok l else .error (bare 2) := by
  obtain ⟨has, get⟩ := hb
  simp [At.takeCounted, At.take, At.beat, has, get, bind, Except.bind]

end

end Sys2Proof.Machine
end

section
/-! MZERO, MSTOP and the loads of weight buffers and codebooks (06: R142 to R145, R147, R155). -/

open Sys2Proof.Claims

namespace Sys2Proof.Machine

section
variable {a : At} {s : State}

/-! Writing accumulators (R142). -/

theorem At.writeAcc_touch (h : a.is s a.b a.k a.job) (acc due : Nat) (fl : FlagSet) (data : List Word32) :
    OpTouch s (a.writeAcc s acc due fl data) a.b a.k a.job [(max due (tget 0 (s.braid a.b).accReady acc), fl, .acc acc data)] := by
  have touch := OpTouch.setAccumulators s a.b a.k a.job (tput (s.braid a.b).chain acc data)
    (tput (s.braid a.b).accReady acc (max due (tget 0 (s.braid a.b).accReady acc))) (s.braid a.b).regs.drain
  exact (touch.trans (.emit a _ a.b a.k a.job _ _ _ (a.is_of h touch))).trans (.noteSets ..)

theorem At.writeAcc_view (acc due : Nat) (fl : FlagSet) (data : List Word32) :
    a.view (a.writeAcc s acc due fl data) = { a.view s with
      chain := tput (a.view s).chain acc data
      accReady := tput (a.view s).accReady acc (max due (tget 0 (a.view s).accReady acc)) } := by
  refine ((a.reads_noteSets _ _).view.trans (a.view_emit _ _ _ _)).trans ?_
  simp [At.view, At.strand, State.strand, State.bank, Braid.bank]

/-- Two accumulators written in one cycle. -/
theorem At.writeAcc_writeAcc_touch (h : a.is s a.b a.k a.job) {hi lo : Nat} (hne : lo ≠ hi) (due : Nat) (f g : FlagSet) (d e : List Word32) :
    OpTouch s (a.writeAcc (a.writeAcc s hi due f d) lo due g e) a.b a.k a.job
      [(max due (tget 0 (s.braid a.b).accReady hi), f, .acc hi d), (max due (tget 0 (s.braid a.b).accReady lo), g, .acc lo e)] := by
  have first := At.writeAcc_touch h hi due f d
  have ready : tget 0 ((a.writeAcc s hi due f d).braid a.b).accReady lo = tget 0 (s.braid a.b).accReady lo := by
    rw [show ((a.writeAcc s hi due f d).braid a.b).accReady = _ from congrArg OpView.accReady (At.writeAcc_view hi due f d)]
    exact tget_tput_ne _ _ _ hne
  have second := At.writeAcc_touch (a.is_of h first) lo due g e
  rw [ready] at second
  exact first.trans second

/-! The sources of MWL and MCB (R143, R144). -/

/-- The `cnt` lanes that the source of a load gives: those of a track's beat, or elements of the even parameter block's stream. -/
def loadGives (s : State) (b k n src first cnt : Nat) (last : Bool) (l : List Word32) : Prop :=
  if 6 ≤ src then ∃ p, parseSpb (tget 0 (s.strand b k).spb (pairSpb src)) = some p ∧ mayRead s b k n (s.braid b) id p first cnt
    ∧ l = (List.range cnt).map fun i => BitVec.ofNat 32 (p.read (s.braid b).sramAt (first + i))
  else beatOn s b k src l last

/-- The stream that a load reads, if it reads one, opens with that format and that many elements. -/
def loadOpens (s : State) (b k n src fmt count : Nat) : Prop :=
  6 ≤ src → ∃ p, opensStream s b k n (pairSpb src) 0 p ∧ p.fmt = fmt ∧ p.count = count

theorem pairSpb_unfed (src k : Nat) : (if pairSpb src = 7 then feedQueue k else none) = none := by
  unfold pairSpb
  split <;> rfl

theorem loadOpens_of_track {s : State} {b k n src : Nat} (h : src < 6) (fmt count : Nat) : loadOpens s b k n src fmt count :=
  fun h6 => absurd h6 (Nat.not_le.mpr h)

theorem At.Reads.beatOn {t : State} (h : a.Reads s t) {c : Nat} {l : List Word32} {m : Bool} (hb : beatOn s a.b a.k c l m) :
    beatOn t a.b a.k c l m := by
  rwa [Claims.beatOn, h.touch.arriving]

theorem At.Reads.loadGives {t : State} (h : a.Reads s t) {src first cnt : Nat} {last : Bool} {l : List Word32}
    (hg : loadGives s a.b a.k a.job src first cnt last l) : loadGives t a.b a.k a.job src first cnt last l := by
  have hsram : (t.braid a.b).sramStart = (s.braid a.b).sramStart := congrArg OpView.sramStart h.view
  unfold Machine.loadGives at hg ⊢
  split
  · next h6 =>
    rw [if_pos h6] at hg
    obtain ⟨p, parse, reads, lanes⟩ := hg
    refine ⟨p, by rwa [h.touch.spb], h.touch.mayRead (congrArg OpView.bad h.view) reads, ?_⟩
    rw [lanes, Braid.sramAt_congr hsram]
  · next h6 =>
    rw [if_neg h6] at hg
    exact h.beatOn hg

theorem At.loadBeat_ok (h : a.is s a.b a.k a.job) {src cnt : Nat} {last : Bool} {l : List Word32}
    (hg : loadGives s a.b a.k a.job src (a.q * cnt) cnt last l) : ∃ t, a.loadBeat s src cnt last = .ok (t, l) ∧ a.Reads s t := by
  unfold loadGives at hg
  unfold At.loadBeat
  split
  · next h6 =>
    rw [if_pos h6] at hg
    obtain ⟨p, parse, reads, rfl⟩ := hg
    obtain ⟨t, read, keeps⟩ := At.readElems_ok h reads
    refine ⟨t, ?_, keeps⟩
    rw [At.block, At.strand, parse, Option.getD_some, read]
    simp [bind, Except.bind, Function.comp_def]
  · next h6 =>
    rw [if_neg h6] at hg
    refine ⟨s, ?_, .refl a s⟩
    rw [At.takeCounted_of_beatOn hg, if_pos rfl]
    rfl

/-- The beginning of a load, once its count is in order: it opens its stream, if it reads one. -/
theorem At.openLoad_ok {src fmt count : Nat} (ho : loadOpens s a.b a.k a.job src fmt count) :
    let o := if 6 ≤ src then a.openSpb s (pairSpb src) else ⟨s, ⟨0, 0, []⟩, []⟩
    o.errs ++ (if 6 ≤ src then need (o.p.fmt == fmt && o.p.count == count) 2 else []) = [] ∧ a.Reads s o.s := by
  by_cases h6 : 6 ≤ src
  · obtain ⟨p, opens, hfmt, hcount⟩ := ho h6
    simp only [if_pos h6]
    exact At.openSpb_ok (pairSpb_unfed src a.k) opens hfmt hcount
  · simp only [if_neg h6]
    exact ⟨rfl, .refl a s⟩

/-- What MWL's first cycle asks, and its others not: at most 128 beats, and the stream (R143, R155). -/
theorem At.openMwl_ok {src beats : Nat} (hle : beats ≤ 128) (ho : a.q = 0 → loadOpens s a.b a.k a.job src 0 (beats * 192)) :
    ∃ t, (if a.q = 0 then
      let o := if 6 ≤ src then a.openSpb s (pairSpb src) else ⟨s, ⟨0, 0, []⟩, []⟩
      orFault (need (decide (beats ≤ 128)) 2 ++ o.errs ++ (if 6 ≤ src then need (o.p.fmt == 0 && o.p.count == beats * 192) 2 else []))
        (.ok o.s) = .ok t
      else t = s) ∧ a.Reads s t := by
  by_cases hq : a.q = 0
  · obtain ⟨errs, keeps⟩ := At.openLoad_ok (ho hq)
    refine ⟨_, ?_, keeps⟩
    dsimp only
    rw [if_pos hq, List.append_assoc, errs, need, if_pos (decide_eq_true hle)]
    rfl
  · exact ⟨s, by rw [if_neg hq], .refl a s⟩

theorem At.loadBeat_marker {src cnt : Nat} {l : List Word32} {m last : Bool} (hsrc : src < 6) (hb : beatOn s a.b a.k src l m) (hm : m ≠ last) :
    a.loadBeat s src cnt last = .error (bare 2) := by
  rw [At.loadBeat, if_neg (Nat.not_le.mpr hsrc), At.takeCounted_of_beatOn hb, if_neg hm]
  rfl

end

/-- MZERO and MSTOP: an accumulator is chained at once, and its result lands no earlier than the one before. -/
theorem matrixZeroAndStopper : MatrixZeroAndStopper := by
  unfold MatrixZeroAndStopper
  intro s b n acc seed z i e h
  let a := opOf s b 1 n
  have ha : a.is s a.b a.k a.job := opOf_is s b 1 n
  have chain (s1 : State) : ((s1.modStrand b 1 fun t => t.leave (t.opPc + 2 * 1)).braid b).chain = (s1.braid b).chain := by
    simp [State.modStrand, Braid.modStrand]
  have written (s1 : State) (c : Nat) : ((a.writeAcc s1 c (s.cycle + 1) 0 z).braid b).chain = tput (s1.braid b).chain c z :=
    congrArg OpView.chain (At.writeAcc_view (a := a) c (s.cycle + 1) 0 z)
  refine ⟨?single, ?pair, ?stopper⟩
  case single =>
    obtain ⟨ends, emits⟩ := opEnds_of (At.writeAcc_touch ha i (s.cycle + 1) 0 z) 1
    refine ⟨_, exec_ends (exec_mzero acc false s) h rfl, ends, emits, fun j => ?_⟩
    rw [chain]
    exact (congrArg (tget [] · j) (written s i)).trans (tget_tput ..)
  case pair =>
    obtain ⟨ends, emits⟩ := opEnds_of (At.writeAcc_writeAcc_touch ha (Nat.succ_ne_self e) (s.cycle + 1) 0 0 z z) 1
    refine ⟨_, exec_ends (exec_mzero acc true s) h rfl, ends, emits, fun j => ?_⟩
    rw [chain]
    refine (congrArg (tget [] · j) ((written _ (e + 1)).trans (congrArg (tput · _ z) (written s e)))).trans ?_
    rw [tget_tput, tget_tput]
    simp only [or_comm (a := j = e), ite_or]
  case stopper =>
    have touch := (OpTouch.emit a s b 1 n (s.cycle + 10) 0 (.stopper (stopperSig seed.toNat)) ha).trans (.noteSets a _ [regStopper] 1 n)
    exact op_ends (exec_mstop seed s) h rfl touch

section
variable {s : State} {b n : Nat} (h : opAt s b 1 n)
include h

/-- A cycle of MWL adds the lanes of its source to those it holds; its last cycle emits the weight buffer they fill (R143). -/
theorem exec_mwl_loads (wb : BitVec 1) {src : BitVec 3} {k : BitVec 14} {l : List Word32} {beats q : Nat} {last : Bool}
    (hbeats : (k.toNat + 2) / 2 = beats) (hq : (s.strand b 1).q = q) (hlast : (q + 1 == beats) = last) (hle : beats ≤ 128)
    (ho : q = 0 → loadOpens s b 1 n src.toNat 0 (beats * 192)) (hg : loadGives s b 1 n src.toNat (q * 192) 192 last l) :
    ∃ t, exec (.mwl wb src k) s = .next t
      ∧ (last = false → opStays s t b 1 ∧ opEmits s t b 1 n [] ∧ (t.strand b 1).held = (s.strand b 1).held ++ l)
      ∧ (last = true → opEnds s t b 1 2 ∧ ∃ d : List (List Word32), d.length = beats
          ∧ (∀ i < beats, d.getD i [] = (((s.strand b 1).held ++ l).drop (192 * i)).take 192)
          ∧ opEmits s t b 1 n [(s.cycle + 4, 0, .wbuf wb.toNat ⟨beats, d⟩)]) := by
  subst hbeats hq
  let a := opOf s b 1 n
  have ha : a.is s a.b a.k a.job := opOf_is s b 1 n
  have hexec := exec_mwl wb src k s
  unfold execMwl at hexec
  obtain ⟨s1, first, keeps1⟩ := At.openMwl_ok (a := a) hle ho
  obtain ⟨s2, beat, keeps2⟩ := At.loadBeat_ok (a.is_of ha keeps1.touch) (keeps1.loadGives hg)
  have keeps := keeps1.trans keeps2
  have held : (a.strand s2).held = (s.strand b 1).held := congrArg (·.own.held) keeps.view
  rw [← hlast] at beat
  cases last with
  | false =>
    have touch := keeps.touch.trans (.modStrand s2 b 1 n (fun t => { t with held := (a.strand s2).held ++ l }) fun _ => rfl)
    obtain ⟨stays, emits⟩ := opStays_of touch
    refine ⟨_, exec_stays hexec h (iss_first first (iss_bind beat (if_neg (ne_true_of_eq_false hlast)))), fun _ => ⟨stays, emits, ?_⟩, nofun⟩
    have own (f g : Strand → Strand) : ((s2.modStrand b 1 f).modStrand b 1 g).strand b 1 = g (f (s2.strand b 1)) := by simp
    exact (congrArg Strand.held (own _ _)).trans (congrArg (· ++ l) held)
  | true =>
    have touch := (keeps.touch.trans (.emit a s2 b 1 n (s.cycle + 4) 0 (.wbuf wb.toNat ⟨(k.toNat + 2) / 2,
      (upto 0 ((k.toNat + 2) / 2)).map fun i => (((a.strand s2).held ++ l).drop (192 * i)).take 192⟩) (a.is_of ha keeps.touch))).trans
        (.noteSets a _ [regWb wb.toNat] 1 n)
    obtain ⟨ends, emits⟩ := opEnds_of touch 2
    refine ⟨_, exec_ends hexec h (iss_first first (iss_bind beat (if_pos hlast))), nofun, fun _ => ⟨ends, _, ?_, fun i hi => ?_, emits⟩⟩
    · rw [List.length_map, upto_length]
    · have hi' : i < ((upto 0 ((k.toNat + 2) / 2)).map fun i => (((a.strand s2).held ++ l).drop (192 * i)).take 192).length := by
        rwa [List.length_map, upto_length]
      rw [List.getD_eq_getElem _ _ hi']
      simp [upto_eq_map, held]

/-- MCB writes the codebook of the low halves of the first 16 lanes that its source gives (R144). -/
theorem exec_mcb_loads (cb : BitVec 2) {src : BitVec 3} {l : List Word32} (ho : loadOpens s b 1 n src.toNat 1 16)
    (hg : loadGives s b 1 n src.toNat ((s.strand b 1).q * 16) 16 true l) :
    ∃ t, exec (.mcb cb src) s = .next t ∧ opEnds s t b 1 2
      ∧ opEmits s t b 1 n [(s.cycle + 4, 0, .cbook cb.toNat ((l.take 16).map (·.setWidth 16)))] := by
  let a := opOf s b 1 n
  have ha : a.is s a.b a.k a.job := opOf_is s b 1 n
  obtain ⟨errs, keeps1⟩ := At.openLoad_ok (a := a) ho
  obtain ⟨s2, beat, keeps2⟩ := At.loadBeat_ok (a.is_of ha keeps1.touch) (keeps1.loadGives hg)
  have keeps := keeps1.trans keeps2
  have touch := (keeps.touch.trans (.emit a s2 b 1 n (s.cycle + 4) 0 (.cbook cb.toNat ((l.take 16).map (·.setWidth 16)))
    (a.is_of ha keeps.touch))).trans (.noteSets a _ [regCb cb.toNat] 1 n)
  exact op_ends (exec_mcb cb src s) h (iss_bind (congrArg (orFault · _) errs) (iss_bind beat rfl)) touch

/-- A beat whose marker does not stand on the last beat alone is the stream-shape fault (R111). -/
theorem exec_mwl_marker (wb : BitVec 1) {src : BitVec 3} {k : BitVec 14} {l : List Word32} {m : Bool} (hsrc : src.toNat < 6)
    (hle : (k.toNat + 2) / 2 ≤ 128) (hb : beatOn s b 1 src.toNat l m) (hm : m ≠ ((s.strand b 1).q + 1 == (k.toNat + 2) / 2)) :
    opFaults (.mwl wb src k) s b 1 2 0 false := by
  have hexec := exec_mwl wb src k s
  unfold execMwl at hexec
  obtain ⟨s1, first, keeps⟩ := At.openMwl_ok (a := opOf s b 1 n) hle fun _ => loadOpens_of_track hsrc 0 _
  exact exec_faults (e := bare 2) hexec h (iss_first first (iss_error (At.loadBeat_marker hsrc (keeps.beatOn hb) hm)))

theorem exec_mcb_marker (cb : BitVec 2) {src : BitVec 3} {l : List Word32} (hsrc : src.toNat < 6) (hb : beatOn s b 1 src.toNat l false) :
    opFaults (.mcb cb src) s b 1 2 0 false := by
  obtain ⟨errs, keeps⟩ := At.openLoad_ok (a := opOf s b 1 n) (loadOpens_of_track hsrc 1 16)
  exact exec_faults (e := bare 2) (exec_mcb cb src s) h
    (iss_bind (congrArg (orFault · _) errs) (iss_error (At.loadBeat_marker hsrc (keeps.beatOn hb) (by decide))))

/-- A weight buffer holds at most 128 beats (R143). -/
theorem exec_mwl_too_long (wb : BitVec 1) {src : BitVec 3} {k : BitVec 14} (hq : (s.strand b 1).q = 0) (hlt : 128 < (k.toNat + 2) / 2)
    (hsrc : src.toNat < 6) : opFaults (.mwl wb src k) s b 1 2 0 false := by
  have hexec := exec_mwl wb src k s
  unfold execMwl at hexec
  refine exec_faults (e := bare 2) hexec h ((if_pos hq).trans (iss_error ?_))
  simp only [if_neg (Nat.not_le.mpr hsrc), need, if_neg (mt of_decide_eq_true (Nat.not_le.mpr hlt))]
  rfl

end

/-- The loads of weight buffers and codebooks: a beat of a track, or as many elements of the even block's stream. -/
theorem matrixBufferLoads : MatrixBufferLoads := by
  unfold MatrixBufferLoads
  intro s b n wb cb src k l m p beats q last x held mwl mcb even h
  refine ⟨fun h6 hle hb => ?track, fun h6 hle ho hp hr => ?block, fun h6 hq ho hf hc hr => ?book,
    fun hq hlt h6 => exec_mwl_too_long h wb hq hlt h6⟩
  case track =>
    have gives (first cnt : Nat) : loadGives s b 1 n src.toNat first cnt m l := by rwa [loadGives, if_neg (Nat.not_le.mpr h6)]
    refine ⟨fun hm => ?_, fun hm => exec_mwl_marker h wb h6 hle hb hm, fun hm => ?_, fun hm => exec_mcb_marker h cb h6 (hm ▸ hb)⟩
    · exact exec_mwl_loads h wb rfl rfl rfl hle (fun _ => loadOpens_of_track h6 0 _) (hm ▸ gives _ _)
    · exact exec_mcb_loads h cb (loadOpens_of_track h6 1 16) (hm ▸ gives _ _)
  case block =>
    have parse : parseSpb (tget 0 (s.strand b 1).spb (pairSpb src.toNat)) = some p := by
      by_cases hq : q = 0
      · exact ((opensStream_unfed (pairSpb_unfed src.toNat 1)).mp (ho hq).1).1
      · exact hp hq
    refine exec_mwl_loads h wb rfl rfl rfl hle (fun hq _ => ⟨p, ho hq⟩) ?_
    rw [loadGives, if_pos h6]
    exact ⟨p, parse, hr, rfl⟩
  case book =>
    have parse := ((opensStream_unfed (pairSpb_unfed src.toNat 1)).mp ho).1
    refine exec_mcb_loads h cb (fun _ => ⟨p, ho, hf, hc⟩) ?_
    rw [loadGives, if_pos h6, show (s.strand b 1).q = 0 from hq, Nat.zero_mul]
    exact ⟨p, parse, hr, by simp only [Nat.zero_add]; rfl⟩

/-- Settles O25: MZERO is one write of an accumulator, MSTOP one result, and a load of either source counts its beats in by the same rule. -/
theorem matrixZeroStopperAndBuffers : Obligations.MatrixZeroStopperAndBuffers := ⟨matrixZeroAndStopper, matrixBufferLoads⟩

end Sys2Proof.Machine
end

section
/-! The words of a tile after one step (02: R36, R50, R52, R53; 06: R136, R138, R140). -/

open Sys2Proof.Claims

namespace Sys2Proof.Machine

/-! A step of a tile goes through blocks of words: the rows, and in a row the columns. -/

/-- Steps through blocks of `w` words each, one for each element of a list, and joins the new words and the flags. -/
def stepBlocks {α : Type} (f : α → List Word32 → List Word32 → List Word32 × List Word32 × FlagSet) (w : Nat) :
    List α → List Word32 → List Word32 → List Word32 × List Word32 × FlagSet
  | [], _, _ => ([], [], 0)
  | x :: xs, hi, lo =>
    let y := f x hi lo
    let z := stepBlocks f w xs (hi.drop w) (lo.drop w)
    (y.1 ++ z.1, y.2.1 ++ z.2.1, y.2.2 ||| z.2.2)

theorem stepCols_eq_blocks (comp fz : Bool) (terms : List Fp → List (List Fp)) (w : Nat) (ys : List (List Fp)) (hi lo : List Word32) :
    stepCols comp fz terms w ys hi lo = stepBlocks (fun y => stepParts comp fz (terms y)) w ys hi lo := by
  induction ys generalizing hi lo with
  | nil => rfl
  | cons y ys ih => rw [stepCols, stepBlocks, ih]

theorem stepRows_eq_blocks (comp fz : Bool) (terms : List Fp → List Fp → List (List Fp)) (w : Nat) (cols xs : List (List Fp)) (hi lo : List Word32) :
    stepRows comp fz terms w cols xs hi lo = stepBlocks (fun x => stepCols comp fz (terms x) w cols) 192 xs hi lo := by
  induction xs generalizing hi lo with
  | nil => rfl
  | cons x xs ih => rw [stepRows, stepBlocks, ih]

section
variable {α : Type} {f : α → List Word32 → List Word32 → List Word32 × List Word32 × FlagSet} {w : Nat}

/-- Each block gives as many new words as it has. -/
def GivesBlocks (f : α → List Word32 → List Word32 → List Word32 × List Word32 × FlagSet) (w : Nat) (xs : List α) : Prop :=
  ∀ x ∈ xs, ∀ hi lo, (f x hi lo).1.length = w ∧ (f x hi lo).2.1.length = w

theorem stepBlocks_length {xs : List α} (hf : GivesBlocks f w xs) (hi lo : List Word32) :
    (stepBlocks f w xs hi lo).1.length = w * xs.length ∧ (stepBlocks f w xs hi lo).2.1.length = w * xs.length := by
  induction xs generalizing hi lo with
  | nil => exact ⟨rfl, rfl⟩
  | cons x xs ih =>
    obtain ⟨hhi, hlo⟩ := hf x (List.mem_cons_self ..) hi lo
    obtain ⟨ihhi, ihlo⟩ := ih (fun y hy => hf y (List.mem_cons_of_mem x hy)) (hi.drop w) (lo.drop w)
    constructor <;> simp only [stepBlocks, List.length_append, List.length_cons, Nat.mul_succ] <;> omega

theorem wordAt_append_left {l m : List Word32} {i : Nat} (h : i < l.length) : wordAt (l ++ m) i = wordAt l i := List.getD_append _ _ _ _ h

theorem wordAt_append_right {l m : List Word32} {i : Nat} (h : l.length ≤ i) : wordAt (l ++ m) i = wordAt m (i - l.length) :=
  List.getD_append_right _ _ _ _ h

theorem stepBlocks_word {xs : List α} (hf : GivesBlocks f w xs) (hi lo : List Word32) {i j : Nat} (h : i < xs.length) (hj : j < w) :
    wordAt (stepBlocks f w xs hi lo).1 (w * i + j) = wordAt (f xs[i] (hi.drop (w * i)) (lo.drop (w * i))).1 j
      ∧ wordAt (stepBlocks f w xs hi lo).2.1 (w * i + j) = wordAt (f xs[i] (hi.drop (w * i)) (lo.drop (w * i))).2.1 j := by
  induction xs generalizing hi lo i with
  | nil => exact absurd h (Nat.not_lt_zero i)
  | cons x xs ih =>
    obtain ⟨hhi, hlo⟩ := hf x (List.mem_cons_self ..) hi lo
    cases i with
    | zero =>
      simp only [stepBlocks, Nat.mul_zero, Nat.zero_add, List.drop_zero, List.getElem_cons_zero]
      exact ⟨wordAt_append_left (hhi ▸ hj), wordAt_append_left (hlo ▸ hj)⟩
    | succ i =>
      have next := ih (fun y hy => hf y (List.mem_cons_of_mem x hy)) (hi.drop w) (lo.drop w) (Nat.lt_of_succ_lt_succ h)
      have hle : w ≤ w * (i + 1) + j := by rw [Nat.mul_succ]; omega
      have hsub : w * (i + 1) + j - w = w * i + j := by rw [Nat.mul_succ]; omega
      simp only [List.drop_drop, ← Nat.mul_succ, Nat.add_comm w] at next
      simp only [stepBlocks, List.getElem_cons_succ]
      rw [wordAt_append_right (hhi ▸ hle), wordAt_append_right (hlo ▸ hle), hhi, hlo, hsub]
      exact next

theorem stepBlocks_flags (xs : List α) (hi lo : List Word32) (z : Nat) :
    (stepBlocks f w xs hi lo).2.2.getLsbD z = true
      ↔ ∃ i, ∃ h : i < xs.length, (f xs[i] (hi.drop (w * i)) (lo.drop (w * i))).2.2.getLsbD z = true := by
  induction xs generalizing hi lo with
  | nil => simp [stepBlocks]
  | cons x xs ih =>
    simp only [stepBlocks, BitVec.getLsbD_or, Bool.or_eq_true, ih, List.drop_drop]
    constructor
    · rintro (h | ⟨i, hi, h⟩)
      · exact ⟨0, Nat.succ_pos _, by simpa using h⟩
      · exact ⟨i + 1, Nat.succ_lt_succ hi, by simpa [Nat.mul_succ, Nat.add_comm w] using h⟩
    · rintro ⟨i, hi, h⟩
      cases i with
      | zero => exact .inl (by simpa using h)
      | succ i => exact .inr ⟨i, Nat.lt_of_succ_lt_succ hi, by simpa [Nat.mul_succ, Nat.add_comm w] using h⟩

end

/-! The parts of one element. -/

theorem stepParts_length (comp fz : Bool) (ts : List (List Fp)) (hi lo : List Word32) :
    (stepParts comp fz ts hi lo).1.length = ts.length ∧ (stepParts comp fz ts hi lo).2.1.length = ts.length := by
  induction ts generalizing hi lo with
  | nil => exact ⟨rfl, rfl⟩
  | cons t ts ih =>
    obtain ⟨ihhi, ihlo⟩ := ih hi.tail lo.tail
    constructor <;> simp only [stepParts, List.length_cons, *]

/-- A step of an element looks at no words but its own. -/
theorem stepParts_congr (comp fz : Bool) {ts : List (List Fp)} {hi lo hi' lo' : List Word32}
    (hhi : ∀ j < ts.length, wordAt hi j = wordAt hi' j) (hlo : ∀ j < ts.length, wordAt lo j = wordAt lo' j) :
    stepParts comp fz ts hi lo = stepParts comp fz ts hi' lo' := by
  induction ts generalizing hi lo hi' lo' with
  | nil => rfl
  | cons t ts ih =>
    have tails : stepParts comp fz ts hi.tail lo.tail = stepParts comp fz ts hi'.tail lo'.tail :=
      ih (fun j hj => by simpa [wordAt_tail] using hhi (j + 1) (Nat.succ_lt_succ hj))
        fun j hj => by simpa [wordAt_tail] using hlo (j + 1) (Nat.succ_lt_succ hj)
    have heads : hi.headD 0 = hi'.headD 0 ∧ lo.headD 0 = lo'.headD 0 := by
      simp only [wordAt_headD]
      exact ⟨hhi 0 (Nat.succ_pos _), hlo 0 (Nat.succ_pos _)⟩
    rw [stepParts, stepParts, tails, heads.1, heads.2]

/-! A step of the whole tile. -/

section
variable (comp fz : Bool) {terms : List Fp → List Fp → List (List Fp)} {w m : Nat} {row col : Nat → List Fp} (held : List Word32)

/-- The step of the element in column `c` of row `r`, from the accumulator words as they stand. -/
def elementStep (comp fz : Bool) (terms : List Fp → List Fp → List (List Fp)) (w : Nat) (row col : Nat → List Fp) (held : List Word32) (r c : Nat) :
    List Word32 × List Word32 × FlagSet :=
  stepParts comp fz (terms (row r) (col c)) ((List.range w).map fun j => held.getD (192 * r + w * c + j) 0)
    ((List.range w).map fun j => held.getD (6144 + 192 * r + w * c + j) 0)

/-- The step of the tile of those rows and columns. -/
def tileStep (comp fz : Bool) (terms : List Fp → List Fp → List (List Fp)) (w m : Nat) (row col : Nat → List Fp) (held : List Word32) :
    List Word32 × List Word32 × FlagSet :=
  stepRows comp fz terms w ((List.range m).map col) ((List.range 32).map row) (held.take 6144) (held.drop 6144)

variable (hw : w * m = 192) (ht : ∀ r c, (terms (row r) (col c)).length = w)
include hw ht

theorem stepParts_eq_elementStep {r c : Nat} (hr : r < 32) (hc : c < m) :
    stepParts comp fz (terms (row r) (col c)) (((held.take 6144).drop (192 * r)).drop (w * c)) (((held.drop 6144).drop (192 * r)).drop (w * c))
      = elementStep comp fz terms w row col held r c := by
  have hcw : w * c + w ≤ 192 := by rw [← hw, ← Nat.mul_succ]; exact Nat.mul_le_mul_left w hc
  refine stepParts_congr comp fz (fun j hj => ?_) fun j hj => ?_
  · rw [ht] at hj
    simp [wordAt, List.getD_eq_getElem?_getD, hj, Nat.add_assoc, show 192 * r + (w * c + j) < 6144 by omega]
  · rw [ht] at hj
    simp [wordAt, List.getD_eq_getElem?_getD, hj, Nat.add_assoc]

omit hw in
theorem givesBlocks_cols (r : Nat) : GivesBlocks (fun y => stepParts comp fz (terms (row r) y)) w ((List.range m).map col) := by
  intro y hy hi lo
  obtain ⟨c, -, rfl⟩ := List.mem_map.mp hy
  rw [← ht r c]
  exact stepParts_length ..

theorem givesBlocks_rows : GivesBlocks (fun x => stepCols comp fz (terms x) w ((List.range m).map col)) 192 ((List.range 32).map row) := by
  intro x hx hi lo
  obtain ⟨r, -, rfl⟩ := List.mem_map.mp hx
  have len := stepBlocks_length (givesBlocks_cols comp fz (m := m) ht r) hi lo
  rw [List.length_map, List.length_range, hw] at len
  simpa only [stepCols_eq_blocks] using len

theorem tileStep_word {r c j : Nat} (hr : r < 32) (hc : c < m) (hj : j < w) :
    wordAt (tileStep comp fz terms w m row col held).1 (192 * r + w * c + j) = (elementStep comp fz terms w row col held r c).1.getD j 0
      ∧ wordAt (tileStep comp fz terms w m row col held).2.1 (192 * r + w * c + j)
        = (elementStep comp fz terms w row col held r c).2.1.getD j 0 := by
  have hcw : w * c + w ≤ 192 := by rw [← hw, ← Nat.mul_succ]; exact Nat.mul_le_mul_left w hc
  have inRow := stepBlocks_word (givesBlocks_rows comp fz hw ht) (held.take 6144) (held.drop 6144) (i := r) (j := w * c + j) (by simpa) (by omega)
  have inCol := stepBlocks_word (givesBlocks_cols comp fz ht r) ((held.take 6144).drop (192 * r)) ((held.drop 6144).drop (192 * r))
    (i := c) (by simpa) hj
  simp only [List.getElem_map, List.getElem_range, stepCols_eq_blocks] at inRow inCol
  rw [stepParts_eq_elementStep comp fz held hw ht hr hc] at inCol
  rw [tileStep, stepRows_eq_blocks, Nat.add_assoc]
  exact ⟨inRow.1.trans inCol.1, inRow.2.trans inCol.2⟩

theorem tileStep_flags (z : Nat) : (tileStep comp fz terms w m row col held).2.2.getLsbD z = true
    ↔ ∃ r < 32, ∃ c < m, (elementStep comp fz terms w row col held r c).2.2.getLsbD z = true := by
  rw [tileStep, stepRows_eq_blocks, stepBlocks_flags]
  simp only [stepCols_eq_blocks, stepBlocks_flags, List.getElem_map, List.getElem_range, List.length_map, List.length_range, exists_prop]
  refine exists_congr fun r => and_congr_right fun hr => exists_congr fun c => and_congr_right fun hc => ?_
  rw [stepParts_eq_elementStep comp fz held hw ht hr hc]

end

/-! The values of an operand's lanes (R36, R37, R39, R138). -/

/-- A lane's values under its block scale. -/
def scaledLane (on : Bool) (c : Nat) (l : List Fp) : List Fp := if on then l.map fun v => v.mul (scaleValue c) else l

theorem length_scaledLane (on : Bool) (c : Nat) (l : List Fp) : (scaledLane on c l).length = l.length := by
  unfold scaledLane
  split
  · exact List.length_map _
  · rfl

/-- Scales apply to elements of one part alone. -/
theorem laneValues_scaled {cplx on : Bool} (h : cplx = true → on = false) (fmt : Nat) (fz : Bool) (cb : List (BitVec 16)) (c : Nat) (l : List Nat) :
    laneValues fmt cplx fz cb (if on then some c else none) l = scaledLane on c (laneValues fmt cplx fz cb none l) := by
  cases on with
  | false => rfl
  | true =>
    have hc : cplx = false := Bool.eq_false_iff.mpr fun hc => Bool.noConfusion (h hc)
    subst hc
    simp only [laneValues, scaledLane, if_true, Bool.false_eq_true, if_false, List.map_map]
    rfl

theorem lanesValues_eq_mapIdx (fmt : Nat) (cplx fz : Bool) (cb : List (BitVec 16)) (on : Bool) (ls : List (List Nat)) (sc : List Nat) :
    lanesValues fmt cplx fz cb on ls sc = ls.mapIdx fun i l => laneValues fmt cplx fz cb (if on then some (sc.getD i 0) else none) l := by
  induction ls generalizing sc with
  | nil => rfl
  | cons l ls ih =>
    rw [lanesValues, List.mapIdx_cons, ih]
    cases sc <;> rfl

/-- The values of the lanes that an operand's bits `g` and the scales `x` give. -/
theorem lanesValues_range {cplx on : Bool} (h : cplx = true → on = false) (fmt : Nat) (fz : Bool) (cb : List (BitVec 16)) {n : Nat} (g : Nat → List Nat)
    {sc : List Nat} {x : Nat → Nat} (hx : on = true → ∀ i < n, sc.getD i 0 = x i) :
    lanesValues fmt cplx fz cb on ((List.range n).map g) sc
      = (List.range n).map fun i => scaledLane on (x i) (laneValues fmt cplx fz cb none (g i)) := by
  rw [lanesValues_eq_mapIdx]
  refine List.ext_getElem (by simp) fun i hi hi' => ?_
  have hin : i < n := by simpa using hi'
  simp only [List.getElem_mapIdx, List.getElem_map, List.getElem_range]
  rw [laneValues_scaled h]
  cases on with
  | false => rfl
  | true => rw [hx rfl i hin]

end Sys2Proof.Machine
end

section
/-! What the cycles of a tile command read, begin and write (03: R76, R79; 06: R136 to R142, R155). -/

open Sys2Proof.Claims

namespace Sys2Proof.Machine

/-! What the command and its format word fix together (R36, R79, R136, R139, R140). -/

theorem bitAt_eq_testBit (w i : Nat) : bitAt w i = w.testBit i := by
  rw [bitAt, Nat.testBit_eq_decide_div_mod_eq]
  rfl

/-- Every format of a complex command is one of parts. -/
def TileOp.PartsFit (o : TileOp) : Prop :=
  o.cplx = true → ∀ w, ((o.fmts w).1 = 11 ∨ (o.fmts w).1 = 12) ∧ ((o.fmts w).2 = 11 ∨ (o.fmts w).2 = 12)

theorem TileOp.partsFit_of_real {o : TileOp} (h : o.cplx = false) : o.PartsFit := fun hc => absurd hc (by simp [h])

theorem TileOp.partsFit_of_admits {o : TileOp} {f : Nat} (hf : f = 11 ∨ f = 12) (ha : o.fa = f) (hb : o.fb = f) (hl : o.admits = [f]) :
    o.PartsFit := by
  intro _ w
  unfold fmts
  split
  · next h =>
    obtain ⟨wa, wb⟩ : w.afmt = f ∧ w.bfmt = f := by simpa [hl] using h
    exact ⟨wa ▸ hf, wb ▸ hf⟩
  · exact ⟨ha ▸ hf, hb ▸ hf⟩

theorem scalable_eq_false {f : Nat} (h : f = 11 ∨ f = 12) : scalable f = false := by
  rcases h with rfl | rfl <;> rfl

theorem laneValues_length_of_parts {fmt : Nat} (h : fmt = 11 ∨ fmt = 12) (fz : Bool) (cb : List (BitVec 16)) (sc : Option Nat) (l : List Nat) :
    (laneValues fmt true fz cb sc l).length = 2 := by
  rcases h with rfl | rfl <;> rfl

/-- One sum of terms for each part. -/
theorem stepTerms_length {cplx ca cb : Bool} {x y : List Fp} (h : cplx = true → x.length = 2 ∧ y.length = 2) :
    (stepTerms cplx ca cb x y).length = if cplx then 2 else 1 := by
  cases cplx with
  | false => rfl
  | true =>
    obtain ⟨hx, hy⟩ := h rfl
    obtain ⟨x0, x1, rfl⟩ := List.length_eq_two.mp hx
    obtain ⟨y0, y1, rfl⟩ := List.length_eq_two.mp hy
    rfl

namespace TileOp

variable (o : TileOp) (w : FmtWord)

def kpc : Nat := kpcOf (o.fmts w).1 (o.fmts w).2 o.cplx
def cols : Nat := if o.cplx then 96 else 192
def parts : Nat := if o.cplx then 2 else 1
def scalesA : Bool := bitAt w.scale 0 && scalable (o.fmts w).1
def scalesB : Bool := bitAt w.scale 1 && scalable (o.fmts w).2

/-- The values of lane `i` of an operand: its bits `v` at the cycle's positions, under the scale `x`. -/
def lane (fmt : Nat) (on : Bool) (book : List (BitVec 16)) (np : Nat) (v : Nat → Nat → Nat) (x : Nat → Nat) (i : Nat) : List Fp :=
  scaledLane on (x i) (laneValues fmt o.cplx o.fz book none ((List.range np).map (v i)))

theorem parts_mul_cols : o.parts * o.cols = 192 := by
  unfold parts cols
  cases o.cplx <;> rfl

theorem cols_le : o.cols ≤ 192 := by
  unfold cols
  cases o.cplx <;> decide

variable {o}

theorem PartsFit.not_scaled (h : o.PartsFit) : o.cplx = true → o.scalesA w = false ∧ o.scalesB w = false := fun hc => by
  rw [scalesA, scalesB, scalable_eq_false (h hc w).1, scalable_eq_false (h hc w).2]
  exact ⟨Bool.and_false _, Bool.and_false _⟩

theorem PartsFit.stepTerms_length (h : o.PartsFit) (book : List (BitVec 16)) (np : Nat) (va vb : Nat → Nat → Nat) (xa xb : Nat → Nat) (r c : Nat) :
    (stepTerms o.cplx o.conja o.conjb (o.lane (o.fmts w).1 (o.scalesA w) book np va xa r) (o.lane (o.fmts w).2 (o.scalesB w) book np vb xb c)).length
      = o.parts :=
  Machine.stepTerms_length fun hc => by
    rw [lane, lane, length_scaledLane, length_scaledLane, hc]
    exact ⟨laneValues_length_of_parts (h hc w).1 .., laneValues_length_of_parts (h hc w).2 ..⟩

end TileOp

/-! Queue entries (R126). -/

section
variable {a : At} {s : State}

/-- An op takes its job's next reserved entry of a queue. -/
theorem At.pop_ok (h : a.is s a.b a.k a.job) {q : Nat} {e : Word64} (he : reservedEntry s a.b a.k a.job q 0 = some e) :
    ∃ t, a.pop s q = some (t, e) ∧ a.Leaves s t { a.view s with
      q := tput (a.view s).q q ((tget [] (a.view s).q q).eraseIdx (heldBefore q a.bank a.job (s.braid a.b).jobsOpen)) } := by
  have hbank : a.bank = (s.strand a.b a.k).bank := congrArg At.bank h
  unfold reservedEntry at he
  rw [← hbank, ← At.open_eq h] at he
  unfold At.pop
  cases hj : a.open_ s with
  | none => simp [hj] at he
  | some j =>
    obtain ⟨hpos, he⟩ : 0 < tget 0 j.resv q ∧ ((s.bank a.b a.bank).queue q).getD (heldBefore q a.bank a.job (s.braid a.b).jobsOpen) 0 = e := by
      simpa [hj] using he
    simp only [if_neg (Nat.ne_of_gt hpos), he]
    refine ⟨_, rfl, (OpTouch.modBank s _ _ _ a.bank _ fun x c => ?_).trans (.modOpen a _ a.k a.job _ fun _ => rfl),
      (a.view_modOpen _ _).trans (a.view_modBank s _)⟩
    cases c <;> rfl

theorem At.pop_none (h : a.is s a.b a.k a.job) {q : Nat} (he : reservedEntry s a.b a.k a.job q 0 = none) : a.pop s q = none := by
  unfold reservedEntry at he
  rw [← At.open_eq h] at he
  unfold At.pop
  cases hj : a.open_ s with
  | none => rfl
  | some j =>
    have hzero : tget 0 j.resv q = 0 := by simpa [hj] using he
    simp only [hzero, if_true]

end

/-! Operands (R136 to R138, R143, R155). -/

section
variable {s0 s t : State} {b n : Nat} {l : List (Nat × FlagSet × Eff)}

theorem OpTouch.operandOpens (h : OpTouch s t b 1 n l) {code fmt lanes K cycles : Nat} {isA scaled : Bool}
    (ho : operandOpens s b n code fmt lanes K cycles isA scaled) : operandOpens t b n code fmt lanes K cycles isA scaled := by
  have hwb : (t.braid b).regs.wb = (s.braid b).regs.wb := by rw [h.regs]
  have unfed (i : Nat) : (if i = 7 then feedQueue 1 else none) = none := ite_self _
  simp only [Claims.operandOpens, opensStream_unfed (unfed _), h.spb, hwb] at ho ⊢
  exact ho

/-- The streams and the weight buffer of an operand are in order at the command's issue. -/
theorem openOperand_ok {o : TileOp} {code fmt lanes cycles : Nat} {isA scaled : Bool} (ho : operandOpens s b n code fmt lanes o.k cycles isA scaled) :
    ∃ t, (opOf s0 b 1 n).openOperand s o isA code fmt lanes scaled cycles = (t, []) ∧ (opOf s0 b 1 n).Reads s t := by
  let a := opOf s0 b 1 n
  have unfed (i : Nat) : (if i = 7 then feedQueue 1 else none) = none := ite_self _
  have ⟨block, buffer, _⟩ := ho
  unfold At.openOperand
  generalize hx : (if 6 ≤ code then _ else _ : State × Errs) = x
  obtain ⟨s1, rfl, keeps⟩ : ∃ t, x = (t, []) ∧ a.Reads s t := by
    by_cases h6 : 6 ≤ code
    · obtain ⟨p, opens, hfmt, hcount⟩ := block h6
      obtain ⟨errs, keeps⟩ := At.openSpb_ok (a := a) (unfed _) opens hfmt hcount
      exact ⟨_, by rw [← hx, if_pos h6]; exact congrArg (Prod.mk _) errs, keeps⟩
    · by_cases h4 : 4 ≤ code
      · refine ⟨_, ?_, a.reads_noteRegs s [regWb (code - 4)]⟩
        rw [← hx, if_neg h6, if_pos h4]
        exact congrArg (fun c => (_, need c 2)) (decide_eq_true (buffer h4 (Nat.lt_of_not_le h6)))
      · exact ⟨s, by rw [← hx, if_neg h6, if_neg h4], .refl a s⟩
  cases scaled with
  | false => exact ⟨s1, rfl, keeps⟩
  | true =>
    obtain ⟨p, opens, hfmt, hcount⟩ := (keeps.touch.operandOpens ho).2.2 rfl
    obtain ⟨errs, keeps'⟩ := At.openSpb_ok (a := a) (unfed _) opens hfmt hcount
    exact ⟨_, congrArg (Prod.mk _) errs, keeps.trans keeps'⟩

/-- What an operand gives in a cycle stands while no SRAM, parameter block or arriving beat changes. -/
theorem At.Leaves.tileBits {v' : OpView} (h : (opOf s0 b 1 n).Leaves s t v') (hbad : v'.bad = (s.braid b).bad)
    (hsram : v'.sramStart = (s.braid b).sramStart) {q code fmt lanes kpc np : Nat} {last : Bool} {wbs : Tab WBuf} {v : Nat → Nat → Nat}
    (hb : tileBits s b n q code fmt lanes kpc np last wbs v) : tileBits t b n q code fmt lanes kpc np last wbs v := by
  have bad : (t.braid b).bad = (s.braid b).bad := (congrArg OpView.bad h.view).trans hbad
  have hat : (t.braid b).sramAt = (s.braid b).sramAt := Braid.sramAt_congr ((congrArg OpView.sramStart h.view).trans hsram)
  have touch : OpTouch s t b 1 n [] := h.touch
  simp only [Claims.tileBits, beatOn, touch.arriving, touch.spb, hat] at hb ⊢
  by_cases h4 : code < 4
  · rwa [if_pos h4] at hb ⊢
  by_cases h6 : code < 6
  · rwa [if_neg h4, if_pos h6] at hb ⊢
  · rw [if_neg h4, if_neg h6] at hb ⊢
    obtain ⟨p, parse, reads, gives⟩ := hb
    exact ⟨p, parse, touch.mayRead bad reads, gives⟩

theorem At.Leaves.tileScales {v' : OpView} (h : (opOf s0 b 1 n).Leaves s t v') (hbad : v'.bad = (s.braid b).bad)
    (hsram : v'.sramStart = (s.braid b).sramStart) {q code : Nat} {isA : Bool} {lanes kpc : Nat} {old : List Nat} {c : Nat → Nat} (hs : tileScales s b n q code isA lanes kpc old c) :
    tileScales t b n q code isA lanes kpc old c := by
  have bad : (t.braid b).bad = (s.braid b).bad := (congrArg OpView.bad h.view).trans hbad
  have hat : (t.braid b).sramAt = (s.braid b).sramAt := Braid.sramAt_congr ((congrArg OpView.sramStart h.view).trans hsram)
  have touch : OpTouch s t b 1 n [] := h.touch
  simp only [Claims.tileScales, touch.spb, hat] at hs ⊢
  by_cases h8 : q * kpc % 8 = 0
  · rw [if_pos h8] at hs ⊢
    obtain ⟨p, parse, reads, gives⟩ := hs
    exact ⟨p, parse, touch.mayRead bad reads, gives⟩
  · rwa [if_neg h8] at hs ⊢

/-- Lanes taken apart into the bits of their elements. -/
theorem splitLanes {ws : List Word32} {lanes np width : Nat} {v : Nat → Nat → Nat} (hl : lanes ≤ ws.length)
    (hv : ∀ i < lanes, ∀ j < np, v i j = (wordAt ws i).toNat / 2 ^ (width * j) % 2 ^ width) :
    ((ws.take lanes).map fun x => (upto 0 np).map fun j => bits x.toNat (width * j) width) = (List.range lanes).map fun i => (List.range np).map (v i) := by
  refine List.ext_getElem (by simpa using hl) fun i hi hi' => ?_
  have hin : i < lanes := by simpa using hi'
  simp only [List.getElem_map, List.getElem_take, List.getElem_range, upto_eq_map, List.map_map]
  refine List.map_congr_left fun j hj => ?_
  rw [hv i hin j (List.mem_range.mp hj), wordAt, List.getD_eq_getElem _ _ (Nat.lt_of_lt_of_le hin hl)]
  simp [bits]

/-- An operand gives its bits. -/
theorem operand_ok (h : (opOf s0 b 1 n).is s b 1 n) {code fmt lanes kpc np : Nat} {last : Bool} {v : Nat → Nat → Nat} (hl : lanes ≤ 192)
    (hb : tileBits s b n (s0.strand b 1).q code fmt lanes kpc np last (s.strand b 1).wbAt v) :
    ∃ t, (opOf s0 b 1 n).operand s code fmt lanes kpc np last = .ok (t, (List.range lanes).map fun i => (List.range np).map (v i))
      ∧ (opOf s0 b 1 n).Reads s t := by
  let a := opOf s0 b 1 n
  unfold tileBits at hb
  unfold At.operand
  by_cases h6 : 6 ≤ code
  · rw [if_neg (by omega), if_neg (by omega)] at hb
    obtain ⟨p, parse, reads, gives⟩ := hb
    obtain ⟨t, read, keeps⟩ := At.readElems_ok (a := a) h reads
    have block : a.block s (pairSpb code) = p := by
      rw [At.block, show tget 0 (a.strand s).spb (pairSpb code) = tget 0 (s.strand b 1).spb (if code = 6 then 0 else 2) from rfl, parse]
      rfl
    refine ⟨t, ?_, keeps⟩
    simp only [if_pos h6]
    refine iss_bind (by rw [block]; exact read) (congrArg (fun x => Except.ok (t, x)) ?_)
    simp only [upto_eq_map, List.map_map]
    refine List.map_congr_left fun i hi => List.map_congr_left fun j hj => ?_
    have hi := List.mem_range.mp hi
    have hj := List.mem_range.mp hj
    have hlt : j * lanes + i < np * lanes := by
      calc j * lanes + i < j * lanes + lanes := Nat.add_lt_add_left hi _
        _ = (j + 1) * lanes := (Nat.succ_mul ..).symm
        _ ≤ np * lanes := Nat.mul_le_mul_right _ hj
    simp [gives i hi j hj, hlt, Nat.add_assoc, a, opOf]
  · by_cases h4 : 4 ≤ code
    · rw [if_neg (by omega), if_pos (by omega)] at hb
      refine ⟨s, ?_, .refl a s⟩
      simp only [if_neg h6, if_pos h4]
      exact congrArg (fun x => Except.ok (s, x)) (splitLanes (hl.trans (by rw [List.length_append, List.length_replicate]; exact Nat.le_add_left ..)) hb)
    · rw [if_pos (by omega)] at hb
      obtain ⟨ws, beat, hlen, part⟩ := hb
      refine ⟨s, ?_, .refl a s⟩
      simp only [if_neg h6, if_neg h4]
      exact iss_bind ((At.takeCounted_of_beatOn (a := a) beat last).trans (if_pos rfl))
        (congrArg (fun x => Except.ok (s, x)) (splitLanes hlen part))

/-- The scales of an operand's lanes: read, or those of the block kept. -/
theorem scales_ok (h : (opOf s0 b 1 n).is s b 1 n) {code : Nat} {isA on : Bool} {lanes kpc : Nat} {old : List Nat} {c : Nat → Nat}
    (hs : on = true → tileScales s b n (s0.strand b 1).q code isA lanes kpc old c) :
    ∃ t x, (opOf s0 b 1 n).scales s code isA lanes kpc on old = .ok (t, x) ∧ (on = true → ∀ i < lanes, x.getD i 0 = c i)
      ∧ (opOf s0 b 1 n).Reads s t := by
  let a := opOf s0 b 1 n
  unfold At.scales
  cases on with
  | false => exact ⟨s, old, rfl, nofun, .refl a s⟩
  | true =>
    have hs := hs rfl
    unfold tileScales at hs
    by_cases h8 : (s0.strand b 1).q * kpc % 8 = 0
    · rw [if_pos h8] at hs
      obtain ⟨p, parse, reads, gives⟩ := hs
      obtain ⟨t, read, keeps⟩ := At.readElems_ok (a := a) h reads
      have block : a.block s (scaleSpb code isA) = p := by
        rw [At.block, show tget 0 (a.strand s).spb (scaleSpb code isA) = tget 0 (s.strand b 1).spb (scalesBlock code isA) from rfl, parse]
        rfl
      have begins : ((opOf s0 b 1 n).q * kpc % 8 == 0) = true := beq_iff_eq.mpr h8
      refine ⟨t, _, (if_pos begins).trans ((congrArg (a.readElems s · _) block).trans read), fun _ i hi => ?_, keeps⟩
      simp [hi, gives i hi, a, opOf]
    · rw [if_neg h8] at hs
      have within : ((opOf s0 b 1 n).q * kpc % 8 == 0) ≠ true := mt beq_iff_eq.mp h8
      exact ⟨s, old, if_neg within, fun _ i hi => (hs i hi).symm, .refl a s⟩

end

end Sys2Proof.Machine
end

section
/-! Tile commands add their products into the accumulator (02: R36 to R39; 03: R76, R79; 06: R136 to R142, R155). -/

open Sys2Proof.Claims

namespace Sys2Proof.Machine

/-! The first cycle (R138 to R142, R155). -/

/-- The accumulator words a command begins from: +0, or those chained (R79, R140). -/
def TileOp.begins (o : TileOp) (w : FmtWord) (chain : Tab (List Word32)) : List Word32 :=
  if w.accm then List.replicate 6144 0 ++ (if o.comp then List.replicate 6144 0 else [])
  else tileWords (tget [] chain o.pair.1) ++ if o.comp then tileWords (tget [] chain o.pair.2) else []

/-- The drain record a command writes (R139). -/
def TileOp.record (o : TileOp) (w : FmtWord) : DrainRec := { w.rec_ with cplx := o.cplx }

/-- The warnings of a command: formats it does not admit, scales that do not apply, a pair named by its odd half (R79, R80). -/
def TileOp.warns (o : TileOp) (w : FmtWord) (old : BitVec 12) : BitVec 12 :=
  old ||| (if !(o.admits.contains w.afmt && o.admits.contains w.bfmt) then 1#12 <<< 5 else 0)
    ||| (if (bitAt w.scale 0 && !o.scalesA w) || (bitAt w.scale 1 && !o.scalesB w) then 1#12 <<< 6 else 0)
    ||| (if o.comp && o.acc % 2 == 1 then 1#12 <<< 7 else 0)

/-- The view of a command that its first cycle has begun with format word `fw`. -/
def tileBegun (s : State) (b n : Nat) (o : TileOp) (w : FmtWord) (fw : Nat) : OpView :=
  let v := (opOf s b 1 n).view s
  { v with
    regs := { v.regs with drain := tput (tput v.regs.drain o.pair.1 (o.record w)) o.pair.2 (o.record w) }
    own := { v.own with fw, held := o.begins w v.chain, heldFlags := 0, wbAt := v.regs.wb, cbAt := v.regs.cb }
    q := tput v.q 8 ((tget [] v.q 8).eraseIdx (heldBefore 8 (s.strand b 1).bank n (s.braid b).jobsOpen))
    warnSets := o.warns w v.warnSets }

section
variable {s : State} {b n : Nat} {o : TileOp} {e : Word64} {w : FmtWord}

theorem beginTile_ok (he : reservedEntry s b 1 n 8 0 = some e) (hw : parseFmtWord e.toNat = some w)
    (hA : operandOpens s b n o.aop (o.fmts w).1 32 o.k (o.cycles (o.kpc w)) true (o.scalesA w))
    (hB : operandOpens s b n o.bop (o.fmts w).2 o.cols o.k (o.cycles (o.kpc w)) false (o.scalesB w)) :
    ∃ t, (opOf s b 1 n).beginTile s o = .ok t ∧ (opOf s b 1 n).Leaves s t (tileBegun s b n o w e.toNat) := by
  obtain ⟨s1, popped, leaves1⟩ := At.pop_ok (a := opOf s b 1 n) (opOf_is s b 1 n) he
  obtain ⟨s2, openedA, keepsA⟩ := openOperand_ok (s0 := s) (b := b) (n := n) (OpTouch.operandOpens leaves1.touch hA)
  have leaves2 := leaves1.reads keepsA
  obtain ⟨s3, openedB, keepsB⟩ := openOperand_ok (s0 := s) (b := b) (n := n) (OpTouch.operandOpens leaves2.touch hB)
  have leaves3 := leaves2.reads keepsB
  have chain : (s3.braid b).chain = (s.braid b).chain := congrArg OpView.chain leaves3.view
  have regs : (s3.braid b).regs = (s.braid b).regs := congrArg OpView.regs leaves3.view
  unfold TileOp.kpc TileOp.scalesA at openedA
  unfold TileOp.kpc TileOp.scalesB TileOp.cols at openedB
  unfold At.beginTile
  simp only [popped, hw, openedA, openedB]
  refine ⟨_, rfl, ?_⟩
  have drained := leaves3.setDrain (tput (tput (s3.braid b).regs.drain o.pair.1 (o.record w)) o.pair.2 (o.record w))
  have begun := drained.modStrand (f := fun t => { t with
    fw := e.toNat, held := o.begins w (s3.braid b).chain, heldFlags := 0, wbAt := (s3.braid b).regs.wb, cbAt := (s3.braid b).regs.cb })
    (fun _ => rfl) fun _ => rfl
  refine ((((begun.warnIf _ 5).warnIf _ 6).warnIf _ 7).reads (At.reads_noteRegs ..) |>.reads (At.reads_noteSets ..)).congr ?_
  rw [chain, regs]
  rfl

/-- The view of a command at the step of its cycle: begun in its first cycle, and in the others as the cycle before left it. -/
def tileReady (s : State) (b n : Nat) (o : TileOp) (w : FmtWord) (fw : Nat) : OpView :=
  if (s.strand b 1).q = 0 then tileBegun s b n o w fw else (opOf s b 1 n).view s

/-- What comes before the step of a command's cycle. -/
theorem tile_first (hq : if (s.strand b 1).q = 0 then (∃ e, reservedEntry s b 1 n 8 0 = some e ∧ parseFmtWord e.toNat = some w)
        ∧ operandOpens s b n o.aop (o.fmts w).1 32 o.k (o.cycles (o.kpc w)) true (o.scalesA w)
        ∧ operandOpens s b n o.bop (o.fmts w).2 o.cols o.k (o.cycles (o.kpc w)) false (o.scalesB w)
      else parseFmtWord (s.strand b 1).fw = some w) :
    ∃ s1 fw, (if (opOf s b 1 n).q = 0 then (opOf s b 1 n).beginTile s o = .ok s1 else s1 = s)
      ∧ (opOf s b 1 n).Leaves s s1 (tileReady s b n o w fw) ∧ (tileReady s b n o w fw).own.fw = fw ∧ parseFmtWord fw = some w := by
  unfold tileReady
  by_cases h0 : (s.strand b 1).q = 0
  · simp only [if_pos h0] at hq ⊢
    obtain ⟨⟨e, he, hw⟩, hA, hB⟩ := hq
    obtain ⟨t, begun, leaves⟩ := beginTile_ok he hw hA hB
    exact ⟨t, e.toNat, (if_pos h0).mpr begun, leaves, rfl, hw⟩
  · simp only [if_neg h0] at hq ⊢
    exact ⟨s, (s.strand b 1).fw, (if_neg h0).mpr rfl, At.Reads.refl _ s, rfl, hq⟩

end

/-! The step (R36, R136, R140 to R142). -/

/-- The new words of the accumulator, or of the pair, and the flags: one step for each element. -/
def tileAnswer (o : TileOp) (w : FmtWord) (book : List (BitVec 16)) (np : Nat) (va vb : Nat → Nat → Nat) (xa xb : Nat → Nat) (held : List Word32) :
    List Word32 × List Word32 × FlagSet :=
  tileStep o.comp o.fz (stepTerms o.cplx o.conja o.conjb) o.parts o.cols (o.lane (o.fmts w).1 (o.scalesA w) book np va xa)
    (o.lane (o.fmts w).2 (o.scalesB w) book np vb xb) held

/-- The working values a cycle of a command leaves. -/
def Strand.stepped (o : TileOp) (z : List Word32 × List Word32 × FlagSet) (fl : FlagSet) (ca cb : List Nat) (t : Strand) : Strand :=
  { t with held := z.1 ++ (if o.comp then z.2.1 else []), heldFlags := fl ||| z.2.2, scaleA := ca, scaleB := cb }

/-- The last cycle's writes. -/
def At.writeTile (a : At) (s : State) (o : TileOp) (z : List Word32 × List Word32 × FlagSet) (fl : FlagSet) : State :=
  let s1 := a.writeAcc s o.pair.1 (a.now + 10) (fl ||| z.2.2) z.1
  if o.comp then a.writeAcc s1 o.pair.2 (a.now + 10) 0 z.2.1 else s1

section
variable {s0 s : State} {b n : Nat} {o : TileOp} {w : FmtWord} {va vb : Nat → Nat → Nat} {xa xb : Nat → Nat} {np : Nat} {last : Bool}

theorem stepRows_eq_tileAnswer (fit : o.PartsFit) (book : List (BitVec 16)) (np : Nat) (va vb : Nat → Nat → Nat) (held : List Word32)
    {ca cb : List Nat} (hca : o.scalesA w = true → ∀ r < 32, ca.getD r 0 = xa r) (hcb : o.scalesB w = true → ∀ c < o.cols, cb.getD c 0 = xb c) :
    stepRows o.comp o.fz (stepTerms o.cplx o.conja o.conjb) o.parts
        (lanesValues (o.fmts w).2 o.cplx o.fz book (o.scalesB w) ((List.range o.cols).map fun c => (List.range np).map (vb c)) cb)
        (lanesValues (o.fmts w).1 o.cplx o.fz book (o.scalesA w) ((List.range 32).map fun r => (List.range np).map (va r)) ca)
        (held.take 6144) (held.drop 6144)
      = tileAnswer o w book np va vb xa xb held := by
  rw [lanesValues_range (fun hc => (fit.not_scaled w hc).1) _ _ _ _ hca, lanesValues_range (fun hc => (fit.not_scaled w hc).2) _ _ _ _ hcb]
  rfl

theorem tileCycle_ok (h : (opOf s0 b 1 n).is s b 1 n) (fit : o.PartsFit) (hnp : min (o.kpc w) (o.k - (s0.strand b 1).q * o.kpc w) = np)
    (hlast : ((s0.strand b 1).q + 1 == o.cycles (o.kpc w)) = last)
    (hA : tileBits s b n (s0.strand b 1).q o.aop (o.fmts w).1 32 (o.kpc w) np last (s.strand b 1).wbAt va)
    (hB : tileBits s b n (s0.strand b 1).q o.bop (o.fmts w).2 o.cols (o.kpc w) np last (s.strand b 1).wbAt vb)
    (hsA : o.scalesA w = true → tileScales s b n (s0.strand b 1).q o.aop true 32 (o.kpc w) (s.strand b 1).scaleA xa)
    (hsB : o.scalesB w = true → tileScales s b n (s0.strand b 1).q o.bop false o.cols (o.kpc w) (s.strand b 1).scaleB xb) :
    let a := opOf s0 b 1 n
    let z := tileAnswer o w (tget [] (s.strand b 1).cbAt w.cbslot) np va vb xa xb (s.strand b 1).held
    let fl := (s.strand b 1).heldFlags
    ∃ s1 ca cb, a.Reads s s1 ∧ (o.scalesA w = true → ∀ r < 32, ca.getD r 0 = xa r) ∧ (o.scalesB w = true → ∀ c < o.cols, cb.getD c 0 = xb c)
      ∧ a.tileCycle s o w = .ok (if last then (a.writeTile (s1.modStrand b 1 (·.stepped o z fl ca cb)) o z fl, true)
          else (s1.modStrand b 1 (·.stepped o z fl ca cb), false)) := by
  intro a z fl
  subst hnp hlast
  obtain ⟨s1, bitsA, readsA⟩ := operand_ok h (by decide) hA
  have wbAt : (s1.strand b 1).wbAt = (s.strand b 1).wbAt := congrArg (fun v : OpView => v.own.wbAt) readsA.view
  obtain ⟨s2, bitsB, readsB⟩ := operand_ok (a.is_of h readsA.touch) o.cols_le (wbAt ▸ At.Leaves.tileBits readsA rfl rfl hB)
  have reads2 := readsA.trans readsB
  obtain ⟨s3, ca, codesA, hca, readsSA⟩ := scales_ok (a.is_of h reads2.touch) fun on => At.Leaves.tileScales reads2 rfl rfl (hsA on)
  have reads3 := reads2.trans readsSA
  obtain ⟨s4, cb, codesB, hcb, readsSB⟩ := scales_ok (a.is_of h reads3.touch) fun on => At.Leaves.tileScales reads3 rfl rfl (hsB on)
  refine ⟨s4, ca, cb, reads3.trans readsSB, hca, hcb, ?_⟩
  have step := stepRows_eq_tileAnswer fit (tget [] (s.strand b 1).cbAt w.cbslot) (min (o.kpc w) (o.k - (s0.strand b 1).q * o.kpc w)) va vb
    (s.strand b 1).held hca hcb
  refine iss_bind bitsA (iss_bind bitsB (iss_bind codesA (iss_bind codesB ?_)))
  refine (congrArg (fun z => if ((s0.strand b 1).q + 1 == o.cycles (o.kpc w)) = true then
    Except.ok (a.writeTile (s4.modStrand b 1 (·.stepped o z fl ca cb)) o z fl, true)
    else Except.ok (s4.modStrand b 1 (·.stepped o z fl ca cb), false)) step).trans ?_
  exact (apply_ite Except.ok ..).symm

end

end Sys2Proof.Machine
end

section
/-! What a tile command leaves (03: R76, R79, R80; 06: R139 to R142). -/

open Sys2Proof.Claims

namespace Sys2Proof.Machine

theorem TileOp.fmts_eq (o : TileOp) (w : FmtWord) : o.fmts w =
    (if o.admits.contains w.afmt && o.admits.contains w.bfmt then w.afmt else o.fa, if o.admits.contains w.afmt && o.admits.contains w.bfmt then w.bfmt else o.fb) := by
  unfold fmts
  split <;> rfl

theorem TileOp.pair_eq (o : TileOp) : o.pair = (if o.comp then o.acc / 2 * 2 else o.acc, if o.comp then o.acc / 2 * 2 + 1 else o.acc) := by
  unfold pair
  split <;> rfl

theorem kpcOf_eq (fa fb : Nat) (cplx : Bool) :
    kpcOf fa fb cplx = if cplx then 1 else if (fa = 3 ∨ fa = 4) ∧ (fb = 3 ∨ fb = 4) then 4 else 2 := by
  simp [kpcOf]

/-! What the first cycle leaves. -/

theorem getLsbD_warning (c : Bool) {i : Nat} (hi : i < 12) (z : Nat) :
    (if c then 1#12 <<< i else 0).getLsbD z = true ↔ z = i ∧ c = true := by
  cases c with
  | false => simp
  | true =>
    simp only [if_true, BitVec.getLsbD_shiftLeft, BitVec.getLsbD_one]
    simp
    omega

theorem TileOp.getLsbD_warns (o : TileOp) (w : FmtWord) (old : BitVec 12) (z : Nat) : (o.warns w old).getLsbD z = true ↔ old.getLsbD z = true
    ∨ z = 5 ∧ (o.admits.contains w.afmt && o.admits.contains w.bfmt) = false
    ∨ z = 6 ∧ (w.scale.testBit 0 = true ∧ o.scalesA w = false ∨ w.scale.testBit 1 = true ∧ o.scalesB w = false)
    ∨ z = 7 ∧ o.comp = true ∧ o.acc % 2 = 1 := by
  rw [warns, BitVec.getLsbD_or, BitVec.getLsbD_or, BitVec.getLsbD_or, Bool.or_eq_true, Bool.or_eq_true, Bool.or_eq_true, or_assoc, or_assoc,
    getLsbD_warning _ (by decide), getLsbD_warning _ (by decide), getLsbD_warning _ (by decide)]
  simp only [Bool.not_eq_true', Bool.and_eq_true, Bool.or_eq_true, bitAt_eq_testBit, beq_iff_eq]

section
variable {s t : State} {b n : Nat} {o : TileOp} {w : FmtWord} {fw : Nat}

theorem tileReady_drain (i : Nat) : tget {} (tileReady s b n o w fw).regs.drain i =
    if (s.strand b 1).q = 0 ∧ (i = o.pair.1 ∨ i = o.pair.2) then o.record w else tget {} (s.braid b).regs.drain i := by
  unfold tileReady
  by_cases hq : (s.strand b 1).q = 0
  · rw [if_pos hq, tileBegun, tget_tput, tget_tput]
    simp only [hq, true_and, or_comm (a := i = o.pair.1), ite_or]
    rfl
  · rw [if_neg hq, if_neg fun h => hq h.1]
    rfl

theorem tileReady_queue : tget [] (tileReady s b n o w fw).q 8 = if (s.strand b 1).q = 0 then
      ((s.bank b (s.strand b 1).bank).queue 8).eraseIdx (heldBefore 8 (s.strand b 1).bank n (s.braid b).jobsOpen)
    else (s.bank b (s.strand b 1).bank).queue 8 := by
  unfold tileReady
  split
  · exact tget_tput_same ..
  · rfl

theorem tileReady_warnSets : (tileReady s b n o w fw).warnSets =
    if (s.strand b 1).q = 0 then o.warns w (s.bank b (s.strand b 1).bank).warnSets else (s.bank b (s.strand b 1).bank).warnSets := by
  unfold tileReady
  split <;> rfl

theorem tileReady_working : (tileReady s b n o w fw).own.held = (if (s.strand b 1).q = 0 then o.begins w (s.braid b).chain else (s.strand b 1).held)
    ∧ (tileReady s b n o w fw).own.heldFlags = (if (s.strand b 1).q = 0 then 0 else (s.strand b 1).heldFlags)
    ∧ (tileReady s b n o w fw).own.wbAt = (if (s.strand b 1).q = 0 then (s.braid b).regs.wb else (s.strand b 1).wbAt)
    ∧ (tileReady s b n o w fw).own.cbAt = (if (s.strand b 1).q = 0 then (s.braid b).regs.cb else (s.strand b 1).cbAt) := by
  unfold tileReady
  split <;> exact ⟨rfl, rfl, rfl, rfl⟩

theorem tileReady_kept : (tileReady s b n o w fw).bad = (s.braid b).bad ∧ (tileReady s b n o w fw).sramStart = (s.braid b).sramStart
    ∧ (tileReady s b n o w fw).chain = (s.braid b).chain ∧ (tileReady s b n o w fw).accReady = (s.braid b).accReady
    ∧ (tileReady s b n o w fw).own.scaleA = (s.strand b 1).scaleA ∧ (tileReady s b n o w fw).own.scaleB = (s.strand b 1).scaleB := by
  unfold tileReady
  split <;> exact ⟨rfl, rfl, rfl, rfl, rfl, rfl⟩

/-- The drain records, the queue of format words and the warnings behind a command's cycle. -/
theorem tile_effects {v : OpView} (view : (opOf s b 1 n).view t = v) (regs : v.regs = (tileReady s b n o w fw).regs)
    (queue : v.q = (tileReady s b n o w fw).q) (warns : v.warnSets = (tileReady s b n o w fw).warnSets) :
    (∀ i, tget {} (t.braid b).regs.drain i = if (s.strand b 1).q = 0 ∧ (i = o.pair.1 ∨ i = o.pair.2) then o.record w else tget {} (s.braid b).regs.drain i)
    ∧ (t.bank b (s.strand b 1).bank).queue 8 = (if (s.strand b 1).q = 0 then
        ((s.bank b (s.strand b 1).bank).queue 8).eraseIdx (heldBefore 8 (s.strand b 1).bank n (s.braid b).jobsOpen)
      else (s.bank b (s.strand b 1).bank).queue 8)
    ∧ ∀ z, (t.bank b (s.strand b 1).bank).warnSets.getLsbD z = true ↔ (s.bank b (s.strand b 1).bank).warnSets.getLsbD z = true
      ∨ (s.strand b 1).q = 0 ∧ (z = 5 ∧ (o.admits.contains w.afmt && o.admits.contains w.bfmt) = false
        ∨ z = 6 ∧ (w.scale.testBit 0 = true ∧ o.scalesA w = false ∨ w.scale.testBit 1 = true ∧ o.scalesB w = false)
        ∨ z = 7 ∧ o.comp = true ∧ o.acc % 2 = 1) := by
  have hregs : (t.braid b).regs = (tileReady s b n o w fw).regs := (congrArg OpView.regs view).trans regs
  have hqueue : (t.bank b (s.strand b 1).bank).q = (tileReady s b n o w fw).q := (congrArg OpView.q view).trans queue
  have hwarns : (t.bank b (s.strand b 1).bank).warnSets = (tileReady s b n o w fw).warnSets := (congrArg OpView.warnSets view).trans warns
  refine ⟨fun i => ?_, ?_, fun z => ?_⟩
  · rw [hregs]
    exact tileReady_drain i
  · rw [Bank.queue, hqueue]
    exact tileReady_queue
  · rw [hwarns, tileReady_warnSets]
    by_cases hq : (s.strand b 1).q = 0
    · rw [if_pos hq]
      simp only [hq, true_and]
      exact o.getLsbD_warns w _ z
    · rw [if_neg hq]
      simp only [hq, false_and, or_false]

end

/-! What the last cycle writes (R142). -/

section
variable {a : At} {s : State} (o : TileOp) (z : List Word32 × List Word32 × FlagSet) (fl : FlagSet)

theorem TileOp.pair_ne {o : TileOp} (h : o.comp = true) : o.pair.2 ≠ o.pair.1 := by
  rw [pair_eq]
  simp only [h, if_true]
  omega

theorem At.writeTile_touch (h : a.is s a.b a.k a.job) : OpTouch s (a.writeTile s o z fl) a.b a.k a.job
    ((max (a.now + 10) (tget 0 (s.braid a.b).accReady o.pair.1), fl ||| z.2.2, .acc o.pair.1 z.1) ::
      if o.comp then [(max (a.now + 10) (tget 0 (s.braid a.b).accReady o.pair.2), 0, .acc o.pair.2 z.2.1)] else []) := by
  unfold At.writeTile
  by_cases hc : o.comp = true
  · simp only [if_pos hc]
    exact At.writeAcc_writeAcc_touch h (o.pair_ne hc) ..
  · simp only [if_neg hc]
    exact At.writeAcc_touch h ..

theorem At.writeTile_view : a.view (a.writeTile s o z fl) = { a.view s with
    chain := if o.comp then tput (tput (a.view s).chain o.pair.1 z.1) o.pair.2 z.2.1 else tput (a.view s).chain o.pair.1 z.1
    accReady := (a.view (a.writeTile s o z fl)).accReady } := by
  unfold At.writeTile
  by_cases hc : o.comp = true
  · simp only [if_pos hc]
    rw [At.writeAcc_view, At.writeAcc_view]
  · simp only [if_neg hc]
    rw [At.writeAcc_view]

end

end Sys2Proof.Machine
end

section
/-! The cycles of a tile command and its faults (05: R113, R126; 06: R136 to R142). -/

open Sys2Proof.Claims

namespace Sys2Proof.Machine

section
variable {s s1 : State} {b n : Nat} {o : TileOp} {w : FmtWord} {fw : Nat}

/-! Faults of the first cycle. -/

/-- What the first cycle of a command finds wrong is the fault it raises. -/
theorem tile_faults {i : Instr} {code : Nat} (h : opAt s b 1 n) (hi : exec i s = tileForm o s) (hq : (s.strand b 1).q = 0)
    (hf : (opOf s b 1 n).beginTile s o = .error (bare code)) : opFaults i s b 1 code 0 false :=
  exec_faults hi h ((if_pos hq).trans (iss_error hf))

theorem beginTile_unreserved (he : reservedEntry s b 1 n 8 0 = none) : (opOf s b 1 n).beginTile s o = .error (bare 4) := by
  rw [At.beginTile, At.pop_none (a := opOf s b 1 n) (opOf_is s b 1 n) he]

theorem beginTile_excluded {e : Word64} (he : reservedEntry s b 1 n 8 0 = some e) (hw : parseFmtWord e.toNat = none) :
    (opOf s b 1 n).beginTile s o = .error (bare 1) := by
  obtain ⟨s1, popped, -⟩ := At.pop_ok (a := opOf s b 1 n) (opOf_is s b 1 n) he
  rw [At.beginTile, popped]
  simp only [hw]

/-! The step. -/

/-- The state behind a command's cycle: the last one writes and leaves the op, the others count on. -/
def At.tileAfter (a : At) (s : State) (o : TileOp) (z : List Word32 × List Word32 × FlagSet) (fl : FlagSet) (last : Bool) : State :=
  if last then (a.writeTile s o z fl).modStrand a.b a.k fun t => t.leave (t.opPc + 2 * 2)
  else s.modStrand a.b a.k fun t => { t with q := t.q + 1 }

section
variable {i : Instr} {va vb : Nat → Nat → Nat} {xa xb : Nat → Nat} {np : Nat} {last : Bool} {wbs : Tab WBuf} {cbs : Tab (List (BitVec 16))}
  {held : List Word32}

/-- What a command's cycle does: it begins in its first, steps, and writes in its last. -/
theorem tile_steps (h : opAt s b 1 n) (hi : exec i s = tileForm o s) (fit : o.PartsFit)
    (begins : if (s.strand b 1).q = 0 then (∃ e, reservedEntry s b 1 n 8 0 = some e ∧ parseFmtWord e.toNat = some w)
        ∧ operandOpens s b n o.aop (o.fmts w).1 32 o.k (o.cycles (o.kpc w)) true (o.scalesA w)
        ∧ operandOpens s b n o.bop (o.fmts w).2 o.cols o.k (o.cycles (o.kpc w)) false (o.scalesB w)
      else parseFmtWord (s.strand b 1).fw = some w)
    (hnp : min (o.kpc w) (o.k - (s.strand b 1).q * o.kpc w) = np) (hlast : ((s.strand b 1).q + 1 == o.cycles (o.kpc w)) = last)
    (hwbs : (if (s.strand b 1).q = 0 then (s.braid b).regs.wb else (s.strand b 1).wbAt) = wbs)
    (hcbs : (if (s.strand b 1).q = 0 then (s.braid b).regs.cb else (s.strand b 1).cbAt) = cbs)
    (hheld : (if (s.strand b 1).q = 0 then o.begins w (s.braid b).chain else (s.strand b 1).held) = held)
    (hA : tileBits s b n (s.strand b 1).q o.aop (o.fmts w).1 32 (o.kpc w) np last wbs va)
    (hB : tileBits s b n (s.strand b 1).q o.bop (o.fmts w).2 o.cols (o.kpc w) np last wbs vb)
    (hsA : o.scalesA w = true → tileScales s b n (s.strand b 1).q o.aop true 32 (o.kpc w) (s.strand b 1).scaleA xa)
    (hsB : o.scalesB w = true → tileScales s b n (s.strand b 1).q o.bop false o.cols (o.kpc w) (s.strand b 1).scaleB xb) :
    let a := opOf s b 1 n
    let z := tileAnswer o w (tget [] cbs w.cbslot) np va vb xa xb held
    let fl : FlagSet := if (s.strand b 1).q = 0 then 0 else (s.strand b 1).heldFlags
    ∃ s1 fw ca cb, a.Leaves s s1 { tileReady s b n o w fw with own := (tileReady s b n o w fw).own.stepped o z fl ca cb }
      ∧ (tileReady s b n o w fw).own.fw = fw ∧ parseFmtWord fw = some w
      ∧ (o.scalesA w = true → ∀ r < 32, ca.getD r 0 = xa r) ∧ (o.scalesB w = true → ∀ c < o.cols, cb.getD c 0 = xb c)
      ∧ exec i s = .next (a.tileAfter s1 o z fl last) := by
  intro a z fl
  obtain ⟨s1, fw, first, leaves, hfw, parse⟩ := tile_first begins
  obtain ⟨held1, flags1, wb1, cb1⟩ := tileReady_working (s := s) (b := b) (n := n) (o := o) (w := w) (fw := fw)
  obtain ⟨bad1, sram1, -, -, scaleA1, scaleB1⟩ := tileReady_kept (s := s) (b := b) (n := n) (o := o) (w := w) (fw := fw)
  have own {α : Type} (f : Strand → α) (hf : ∀ t, f { t with opened := [] } = f t) : f (s1.strand b 1) = f (tileReady s b n o w fw).own :=
    (hf _).symm.trans (congrArg (fun v : OpView => f v.own) leaves.view)
  have hheld : (s1.strand b 1).held = held := (own Strand.held fun _ => rfl).trans (held1.trans hheld)
  have hwbs : (s1.strand b 1).wbAt = wbs := (own Strand.wbAt fun _ => rfl).trans (wb1.trans hwbs)
  have hcbs : (s1.strand b 1).cbAt = cbs := (own Strand.cbAt fun _ => rfl).trans (cb1.trans hcbs)
  have hflags : (s1.strand b 1).heldFlags = fl := (own Strand.heldFlags fun _ => rfl).trans flags1
  have hscaleA : (s1.strand b 1).scaleA = (s.strand b 1).scaleA := (own Strand.scaleA fun _ => rfl).trans scaleA1
  have hscaleB : (s1.strand b 1).scaleB = (s.strand b 1).scaleB := (own Strand.scaleB fun _ => rfl).trans scaleB1
  have parse1 : parseFmtWord ((opOf s b 1 n).strand s1).fw = some w := by
    rw [show ((opOf s b 1 n).strand s1).fw = fw from (own Strand.fw fun _ => rfl).trans hfw, parse]
  obtain ⟨s2, ca, cb, reads, hca, hcb, cycle⟩ := tileCycle_ok (a.is_of (opOf_is s b 1 n) leaves.touch) fit hnp hlast
    (hwbs ▸ leaves.tileBits bad1 sram1 hA) (hwbs ▸ leaves.tileBits bad1 sram1 hB) (fun on => hscaleA ▸ leaves.tileScales bad1 sram1 (hsA on))
    fun on => hscaleB ▸ leaves.tileScales bad1 sram1 (hsB on)
  rw [hheld, hcbs, hflags] at cycle
  have stepped := (leaves.reads reads).modStrand (f := (·.stepped o z fl ca cb)) (fun _ => rfl) fun _ => rfl
  refine ⟨_, fw, ca, cb, stepped, hfw, parse, hca, hcb, ?_⟩
  cases last with
  | true =>
    refine exec_ends (b := b) (k := 1) hi h (iss_first first ?_)
    simp only [parse1]
    exact cycle
  | false =>
    refine exec_stays (b := b) (k := 1) hi h (iss_first first ?_)
    simp only [parse1]
    exact cycle

end

/-! Behind the step: the op stays, or ends with its writes. -/

section
variable {z : List Word32 × List Word32 × FlagSet} {fl : FlagSet} {ca cb : List Nat}
  (leaves : (opOf s b 1 n).Leaves s s1 { tileReady s b n o w fw with own := (tileReady s b n o w fw).own.stepped o z fl ca cb })
include leaves

theorem tile_stays : let t := (opOf s b 1 n).tileAfter s1 o z fl false
    opStays s t b 1 ∧ opEmits s t b 1 n [] ∧ (t.strand b 1).held = z.1 ++ (if o.comp then z.2.1 else []) ∧ (t.strand b 1).heldFlags = fl ||| z.2.2
      ∧ (t.strand b 1).fw = (tileReady s b n o w fw).own.fw ∧ (t.strand b 1).wbAt = (tileReady s b n o w fw).own.wbAt
      ∧ (t.strand b 1).cbAt = (tileReady s b n o w fw).own.cbAt ∧ (t.strand b 1).scaleA = ca ∧ (t.strand b 1).scaleB = cb
      ∧ (t.braid b).chain = (s.braid b).chain := by
  intro t
  obtain ⟨stays, emits⟩ := opStays_of leaves.touch
  have own {α : Type} (f : Strand → α) (hf : ∀ t c, f { t with opened := [], q := c } = f t) :
      f (t.strand b 1) = f ((tileReady s b n o w fw).own.stepped o z fl ca cb) := by
    rw [show t.strand b 1 = { s1.strand b 1 with q := (s1.strand b 1).q + 1 } from State.strand_modStrand_same ..]
    exact (hf _ 0).symm.trans ((congrArg (fun v : OpView => f { v.own with opened := [], q := 0 }) leaves.view).trans (hf _ 0))
  have chain : (t.braid b).chain = (s1.braid b).chain := by simp [t, At.tileAfter, opOf, State.modStrand, Braid.modStrand]
  refine ⟨stays, emits, own Strand.held fun _ _ => rfl, own Strand.heldFlags fun _ _ => rfl, own Strand.fw fun _ _ => rfl,
    own Strand.wbAt fun _ _ => rfl, own Strand.cbAt fun _ _ => rfl, own Strand.scaleA fun _ _ => rfl, own Strand.scaleB fun _ _ => rfl, ?_⟩
  exact chain.trans ((congrArg OpView.chain leaves.view).trans tileReady_kept.2.2.1)

theorem tile_ends : let t := (opOf s b 1 n).tileAfter s1 o z fl true
    opEnds s t b 1 2 ∧ opEmits s t b 1 n ((accAt s b o.pair.1 10, fl ||| z.2.2, .acc o.pair.1 z.1) ::
        if o.comp then [(accAt s b o.pair.2 10, 0, .acc o.pair.2 z.2.1)] else [])
      ∧ ∀ i, tget [] (t.braid b).chain i =
        if o.comp = true ∧ i = o.pair.2 then z.2.1 else if i = o.pair.1 then z.1 else tget [] (s.braid b).chain i := by
  intro t
  have touch := At.writeTile_touch o z fl ((opOf s b 1 n).is_of (opOf_is s b 1 n) leaves.touch)
  obtain ⟨-, -, chain1, ready1, -⟩ := tileReady_kept (s := s) (b := b) (n := n) (o := o) (w := w) (fw := fw)
  have ready : (s1.braid (opOf s b 1 n).b).accReady = (s.braid b).accReady := (congrArg OpView.accReady leaves.view).trans ready1
  have chain : ((opOf s b 1 n).view s1).chain = (s.braid b).chain := (congrArg OpView.chain leaves.view).trans chain1
  rw [ready] at touch
  obtain ⟨ends, emits⟩ := opEnds_of (leaves.touch.trans touch) 2
  refine ⟨ends, emits, fun i => ?_⟩
  have written : (t.braid b).chain = if o.comp then tput (tput (s.braid b).chain o.pair.1 z.1) o.pair.2 z.2.1 else tput (s.braid b).chain o.pair.1 z.1 := by
    rw [← chain]
    refine Eq.trans ?_ (congrArg OpView.chain (At.writeTile_view (a := opOf s b 1 n) o z fl))
    simp [t, At.tileAfter, opOf, State.modStrand, Braid.modStrand, At.view]
  rw [written]
  by_cases hc : o.comp = true
  · rw [if_pos hc, tget_tput, tget_tput]
    simp only [hc, true_and]
  · rw [if_neg hc, tget_tput]
    exact (if_neg fun h => hc h.1).symm

/-- Both ways a cycle ends, the registers, the queues and the warnings are those its first cycle has left. -/
theorem tile_keeps (last : Bool) : let t := (opOf s b 1 n).tileAfter s1 o z fl last
    ((opOf s b 1 n).view t).regs = (tileReady s b n o w fw).regs ∧ ((opOf s b 1 n).view t).q = (tileReady s b n o w fw).q
      ∧ ((opOf s b 1 n).view t).warnSets = (tileReady s b n o w fw).warnSets := by
  cases last with
  | true =>
    have view := At.view_modStrand (a := opOf s b 1 n) ((opOf s b 1 n).writeTile s1 o z fl) (f := fun t => t.leave (t.opPc + 2 * 2)) fun _ => rfl
    rw [At.writeTile_view, leaves.view] at view
    exact ⟨(congrArg OpView.regs view :), (congrArg OpView.q view :), (congrArg OpView.warnSets view :)⟩
  | false =>
    have view := At.view_modStrand (a := opOf s b 1 n) s1 (f := fun t => { t with q := t.q + 1 }) fun _ => rfl
    rw [leaves.view] at view
    exact ⟨(congrArg OpView.regs view :), (congrArg OpView.q view :), (congrArg OpView.warnSets view :)⟩

end

end

end Sys2Proof.Machine
end

section
/-! The statement of the tile commands (02: R36 to R39; 03: R76, R79; 06: R136 to R142, R155). -/

open Sys2Proof.Claims

namespace Sys2Proof.Machine

theorem TileOp.begins_eq (o : TileOp) (w : FmtWord) (chain : Tab (List Word32)) : o.begins w chain =
    if w.accm then List.replicate (if o.comp then 12288 else 6144) 0
    else tileWords (tget [] chain o.pair.1) ++ if o.comp then tileWords (tget [] chain o.pair.2) else [] := by
  unfold begins
  congr 1
  cases o.comp with
  | false => exact List.append_nil _
  | true => exact List.replicate_append_replicate

/-- Settles O27: all seven commands are one `TileOp`, whose cycle is `tileStep` on the words its first cycle left and its operands hold.
The statement's formats, scales and steps are those of the `TileOp`, so one argument serves each command, in any cycle. -/
theorem tileCommandsAccumulate : Obligations.TileCommandsAccumulate := by
  unfold Obligations.TileCommandsAccumulate
  intro s b n acc aop bop k comp fz ca cb x st kb q does mma cmma h
  have tile (i : Instr) (o : TileOp) (hi : exec i s = tileForm o s) (fit : o.PartsFit) : does i o := by
    intro w va vb xa xb fits fa fb scales sa sb kpc cycles last np wd cols hiAcc loAcc wbs cbs held book scaled row col step rec_ begins len
      bitsA bitsB codesA codesB
    have hfa : (o.fmts w).1 = fa := by rw [o.fmts_eq w]
    have hfb : (o.fmts w).2 = fb := by rw [o.fmts_eq w]
    have hsa : o.scalesA w = sa := by rw [TileOp.scalesA, bitAt_eq_testBit, hfa]; rfl
    have hsb : o.scalesB w = sb := by rw [TileOp.scalesB, bitAt_eq_testBit, hfb]; rfl
    have hkpc : o.kpc w = kpc := by rw [TileOp.kpc, kpcOf_eq, hfa, hfb]
    have hhi : o.pair.1 = hiAcc := by rw [o.pair_eq]
    have hlo : o.pair.2 = loAcc := by rw [o.pair_eq]
    have hheld : (if q = 0 then o.begins w x.chain else st.held) = held := by
      rw [o.begins_eq, hhi, hlo]
      exact (ite_not ..).symm
    have hlast : (q + 1 == o.cycles (o.kpc w)) = last := by rw [hkpc]; rfl
    clear_value last sa sb kpc hiAcc loAcc
    clear_value fa fb
    subst hsa hsb hkpc hhi hlo
    subst hfa hfb
    obtain ⟨s1, fw, ca, cb, leaves, hfw, parse, hca, hcb, next⟩ :=
      tile_steps h hi fit begins rfl hlast rfl rfl hheld bitsA bitsB codesA codesB
    have ht (r c : Nat) := fit.stepTerms_length w book np va vb xa xb r c
    obtain ⟨-, -, hwb, hcb'⟩ := tileReady_working (s := s) (b := b) (n := n) (o := o) (w := w) (fw := fw)
    obtain ⟨regs, queue, warns⟩ := tile_keeps leaves last
    refine ⟨_, (tileAnswer o w book np va vb xa xb held).1, (tileAnswer o w book np va vb xa xb held).2.1,
      (if q = 0 then 0 else st.heldFlags : FlagSet) ||| (tileAnswer o w book np va vb xa xb held).2.2, next,
      fun r hr c hc j hj => ?words, fun z => ?flags, fun hl => ?stays, fun hl => ?ends, tile_effects rfl regs queue warns⟩
    case words =>
      obtain ⟨hi, lo⟩ := tileStep_word o.comp o.fz held o.parts_mul_cols ht hr hc hj
      exact ⟨hi, fun _ => lo⟩
    case flags =>
      rw [BitVec.getLsbD_or, Bool.or_eq_true]
      refine or_congr ?_ (tileStep_flags o.comp o.fz held o.parts_mul_cols ht z)
      by_cases hq : q = 0 <;> simp [hq]
    case stays =>
      subst hl
      obtain ⟨stays, emits, held, flags, word, wb, cb, scaleA, scaleB, chain⟩ := tile_stays leaves
      exact ⟨stays, emits, held, flags, (congrArg parseFmtWord (word.trans hfw)).trans parse, wb.trans hwb, cb.trans hcb', fun on => scaleA ▸ hca on,
        fun on => scaleB ▸ hcb on, chain⟩
    case ends =>
      subst hl
      exact tile_ends leaves
  have real (f g : Nat) (l : List Nat) : (mma f g l).PartsFit := TileOp.partsFit_of_real rfl
  exact ⟨tile _ _ (exec_mmaBf16 ..) (real 1 1 [1]), tile _ _ (exec_mmaFp16 ..) (real 2 2 [2]), tile _ _ (exec_mmaFp8e4 ..) (real 3 3 [3, 4]),
    tile _ _ (exec_mmaFp8e5 ..) (real 4 4 [3, 4]), tile _ _ (exec_mmaCb4 ..) (real 1 5 [1, 5]),
    tile _ _ (exec_cmmaCbf16 ..) (TileOp.partsFit_of_admits (.inl rfl) rfl rfl rfl),
    tile _ _ (exec_cmmaCfp16 ..) (TileOp.partsFit_of_admits (.inr rfl) rfl rfl rfl),
    fun hq he => ⟨tile_faults h (exec_mmaBf16 ..) hq (beginTile_unreserved he), tile_faults h (exec_cmmaCfp16 ..) hq (beginTile_unreserved he)⟩,
    fun e hq he hw => tile_faults h (exec_mmaCb4 ..) hq (beginTile_excluded he hw)⟩

end Sys2Proof.Machine
end
